-- ==== Sys2Proof/Word.lean ====
section
/-! DEFINITION. The widths the manual treats as bits: bytes, words, masks and Z rows. -/

namespace Sys2Proof

/-- One byte of device memory, of a buffer or of a record (R7). -/
abbrev Byte := BitVec 8

/-- A 64-bit scalar, special or control register (Tables 3.3 and 3.5). -/
abbrev Word := BitVec 64

/-- A lane mask m0 to m15 (Table 3.3). -/
abbrev Mask := BitVec 512

/-- One Z row of 576 bytes (R54). -/
abbrev Row := BitVec 4608

/-- The bits of a Z row that are neither invalid nor written lane by lane: all 4,608 of them. -/
abbrev allRow : Row := BitVec.allOnes 4608

end Sys2Proof
end

