-- ==== Sys2Proof/Syntax.lean ====
section
/-! DEFINITION. The instructions as syntax: one constructor for each row of the opcode table, and the
operand forms that their slots and attached I slots give (R98 to R116). A 6-bit scalar source field keeps its reader-policy
bit 5 (R104); a scalar destination field has bit 5 zero by R102, so it is 5 bits here. -/

namespace Sys2Proof

/-- Operand b of the three-register forms: a scalar source field, or the immediate of one or two I slots (Table 7.4). -/
inductive BOp where
  | reg (r : BitVec 6)
  | imm1 (i : BitVec 24)
  | imm2 (hi lo : BitVec 24)
  deriving DecidableEq, Repr

/-- The immediate of movi: imm12 and the payloads of zero, one or two I slots (Table 7.4). -/
inductive MovImm where
  | i0 (imm : BitVec 12)
  | i1 (imm : BitVec 12) (lo : BitVec 24)
  | i2 (imm : BitVec 12) (hi lo : BitVec 24)
  deriving DecidableEq, Repr

/-- A BO offset: off13 and the payload of the optional I slot (Table 7.4). -/
structure Off where
  lo : BitVec 13
  ext : Option (BitVec 24)
  deriving DecidableEq, Repr

/-- The fields of the first I slot of an M-class access (Table 7.8). -/
structure MExt where
  cp : BitVec 4
  u : Bool
  ord : BitVec 3
  fmt : BitVec 4
  disp : BitVec 12
  deriving DecidableEq, Repr

/-- The address operand of ld, st, vld, vst and pref: an index register, or a displacement of one or two I slots (R191). -/
inductive MIdx where
  | idx (r : BitVec 6)
  | disp1 (lo : BitVec 6) (x : MExt)
  | disp2 (lo : BitVec 6) (x : MExt) (hi : BitVec 24)
  deriving DecidableEq, Repr

/-- The displacement operand of vlds, vgath and vscat (R191). -/
structure VIdx where
  x : MExt
  hi : Option (BitVec 24)
  deriving DecidableEq, Repr

/-- The I slot of amo and cas (Table 7.9). -/
structure AmoX where
  aop : BitVec 4
  size : BitVec 2
  sord : BitVec 3
  ford : BitVec 3
  scope : BitVec 3
  ps : BitVec 4
  deriving DecidableEq, Repr

/-- The cluster-remote I slot of mma, mmaz and mma64 (Table 7.10). -/
structure RemX where
  ra : Bool
  rb : Bool
  mc : Bool
  off : BitVec 4
  deriving DecidableEq, Repr

/-- The wake register of a queue as a function's BAR2 shows it (R378): the function, 0 for the PF, and the queue. -/
structure WakeReg where
  fn : Nat
  q : Nat
  deriving DecidableEq, Repr

/-- A flit on the wire: its 64 bytes and the 8-byte link trailer that follows them (R389). -/
structure Flit where
  body : BitVec 512
  trailer : BitVec 64
  deriving DecidableEq, Repr

/-- A peer's copy as its request names it (R330): LAUNCH and TASK of the issuer, H and mask of its task, and the pieces of this package's
memory, each an address and a length. -/
structure PeerCopy where
  arr : Nat
  task : Nat
  h : BitVec 128
  mask : BitVec 128
  segs : List (Nat × Nat)
  deriving DecidableEq, Repr

/-- Where an uncorrectable error strikes (R348): a 64-byte line at a device physical address, an 8-byte unit of buffer
W (0), A (1) or S (3) of a core, a physical Z row of a core, a scalar register of a context, a cluster cache line (which is
fetched again), or a unit of Table 27.2 that holds no granule of its own, at its place: the core of classes 1 to 7, the cluster of
class 11, the compute die of classes 12 and 15. -/
inductive ErrSite where
  | line (pa : Nat) (fab : Bool) (bg : Nat)
  | buf (core buf off : Nat)
  | row (core r : Nat)
  | sreg (core cid n : Nat)
  | cache (cl inst : Nat)
  | unit (uclass inst place : Nat) (synd : BitVec 64)
  deriving DecidableEq, Repr


/-- The instructions: one constructor for each row of the opcode table. The first rows are the slots of a bundle; the rows
after the hint kinds are the device events, whose operands are what the device's surroundings supply. -/
inductive Instr where
  /-- NOP (R131). -/
  | nop (k : BitVec 8)
  /-- ADD (R127). -/
  | add (d : BitVec 5) (a : BitVec 6) (b : BOp)
  /-- SUB (R127). -/
  | sub (d : BitVec 5) (a : BitVec 6) (b : BOp)
  /-- MUL (R127). -/
  | mul (d : BitVec 5) (a : BitVec 6) (b : BOp)
  /-- MULH (R127). -/
  | mulh (d : BitVec 5) (a : BitVec 6) (b : BOp)
  /-- MULHU (R127). -/
  | mulhu (d : BitVec 5) (a : BitVec 6) (b : BOp)
  /-- DIV (R128). -/
  | div (d : BitVec 5) (a : BitVec 6) (b : BOp)
  /-- DIVU (R128). -/
  | divu (d : BitVec 5) (a : BitVec 6) (b : BOp)
  /-- REM (R128). -/
  | rem (d : BitVec 5) (a : BitVec 6) (b : BOp)
  /-- REMU (R128). -/
  | remu (d : BitVec 5) (a : BitVec 6) (b : BOp)
  /-- AND (R127). -/
  | and (d : BitVec 5) (a : BitVec 6) (b : BOp)
  /-- OR (R127). -/
  | or (d : BitVec 5) (a : BitVec 6) (b : BOp)
  /-- XOR (R127). -/
  | xor (d : BitVec 5) (a : BitVec 6) (b : BOp)
  /-- ANDN (R127). -/
  | andn (d : BitVec 5) (a : BitVec 6) (b : BOp)
  /-- SHL (R127). -/
  | shl (d : BitVec 5) (a : BitVec 6) (b : BOp)
  /-- SHR (R127). -/
  | shr (d : BitVec 5) (a : BitVec 6) (b : BOp)
  /-- SAR (R127). -/
  | sar (d : BitVec 5) (a : BitVec 6) (b : BOp)
  /-- MIN (R127). -/
  | min (d : BitVec 5) (a : BitVec 6) (b : BOp)
  /-- MAX (R127). -/
  | max (d : BitVec 5) (a : BitVec 6) (b : BOp)
  /-- MINU (R127). -/
  | minu (d : BitVec 5) (a : BitVec 6) (b : BOp)
  /-- MAXU (R127). -/
  | maxu (d : BitVec 5) (a : BitVec 6) (b : BOp)
  /-- CLZ (R127). -/
  | clz (d : BitVec 5) (a : BitVec 6)
  /-- POPC (R127). -/
  | popc (d : BitVec 5) (a : BitVec 6)
  /-- ADDX2 (R127). -/
  | addx2 (d : BitVec 5) (a : BitVec 6) (b : BOp)
  /-- ADDX3 (R127). -/
  | addx3 (d : BitVec 5) (a : BitVec 6) (b : BOp)
  /-- ADDX4 (R127). -/
  | addx4 (d : BitVec 5) (a : BitVec 6) (b : BOp)
  /-- MOVI (R130). -/
  | movi (d : BitVec 5) (i : MovImm)
  /-- CMPEQ (R132). -/
  | cmpeq (p : BitVec 4) (c : Bool) (a : BitVec 6) (b : BOp)
  /-- CMPNE (R132). -/
  | cmpne (p : BitVec 4) (c : Bool) (a : BitVec 6) (b : BOp)
  /-- CMPLT (R132). -/
  | cmplt (p : BitVec 4) (c : Bool) (a : BitVec 6) (b : BOp)
  /-- CMPLE (R132). -/
  | cmple (p : BitVec 4) (c : Bool) (a : BitVec 6) (b : BOp)
  /-- CMPLTU (R132). -/
  | cmpltu (p : BitVec 4) (c : Bool) (a : BitVec 6) (b : BOp)
  /-- CMPLEU (R132). -/
  | cmpleu (p : BitVec 4) (c : Bool) (a : BitVec 6) (b : BOp)
  /-- MOVT (R133). -/
  | movt (d : BitVec 5) (a : BitVec 6) (n : Bool) (p : BitVec 4)
  /-- PLOG (R134). -/
  | plog (d f x y : BitVec 4)
  /-- PMOV (R135). -/
  | pmov (p : BitVec 4) (a : BitVec 6)
  /-- PGET (R136). -/
  | pget (d : BitVec 5)
  /-- MFS (R137). -/
  | mfs (d : BitVec 5) (n : BitVec 12)
  /-- MTS (R138). -/
  | mts (n : BitVec 12) (a : BitVec 6)
  /-- CMPT (R139). -/
  | cmpt (a : BitVec 6) (b : BOp)
  /-- BFX (R129). -/
  | bfx (d : BitVec 5) (a : BitVec 6) (b : BOp)
  /-- BFI (R129). -/
  | bfi (d : BitVec 5) (a : BitVec 6) (b : BOp)
  /-- VADDF (R230). -/
  | vaddf (d a b : BitVec 6)
  /-- VSUBF (R230). -/
  | vsubf (d a b : BitVec 6)
  /-- VMULF (R230). -/
  | vmulf (d a b : BitVec 6)
  /-- VFMAF (R230). -/
  | vfmaf (d a b : BitVec 6)
  /-- VFMSF (R230). -/
  | vfmsf (d a b : BitVec 6)
  /-- VMINF (R231). -/
  | vminf (d a b : BitVec 6)
  /-- VMAXF (R231). -/
  | vmaxf (d a b : BitVec 6)
  /-- VABSF (R231). -/
  | vabsf (d a : BitVec 6)
  /-- VNEGF (R231). -/
  | vnegf (d a : BitVec 6)
  /-- VCEQF (R232). -/
  | vceqf (m : BitVec 4) (a b : BitVec 6)
  /-- VCLTF (R232). -/
  | vcltf (m : BitVec 4) (a b : BitVec 6)
  /-- VCLEF (R232). -/
  | vclef (m : BitVec 4) (a b : BitVec 6)
  /-- VCUNF (R232). -/
  | vcunf (m : BitVec 4) (a b : BitVec 6)
  /-- VADDI (R233). -/
  | vaddi (d a b : BitVec 6)
  /-- VSUBI (R233). -/
  | vsubi (d a b : BitVec 6)
  /-- VMULI (R233). -/
  | vmuli (d a b : BitVec 6)
  /-- VMULHI (R233). -/
  | vmulhi (d a b : BitVec 6)
  /-- VMINI (R233). -/
  | vmini (d a b : BitVec 6)
  /-- VMAXI (R233). -/
  | vmaxi (d a b : BitVec 6)
  /-- VAND (R233). -/
  | vand (d a b : BitVec 6)
  /-- VOR (R233). -/
  | vor (d a b : BitVec 6)
  /-- VXOR (R233). -/
  | vxor (d a b : BitVec 6)
  /-- VSHL (R233). -/
  | vshl (d a b : BitVec 6)
  /-- VSHR (R233). -/
  | vshr (d a b : BitVec 6)
  /-- VSAR (R233). -/
  | vsar (d a b : BitVec 6)
  /-- VCEQI (R232). -/
  | vceqi (m : BitVec 4) (a b : BitVec 6)
  /-- VCLTI (R232). -/
  | vclti (m : BitVec 4) (a b : BitVec 6)
  /-- VCLTU (R232). -/
  | vcltu (m : BitVec 4) (a b : BitVec 6)
  /-- VADDSI (R233). -/
  | vaddsi (d a b : BitVec 6)
  /-- VSEL (R234). -/
  | vsel (d a b : BitVec 6)
  /-- VBC (R234). -/
  | vbc (d a : BitVec 6)
  /-- VMOV (R234). -/
  | vmov (d a : BitVec 6)
  /-- NADD_B (R236). -/
  | naddB (d a b : BitVec 6)
  /-- NSUB_B (R236). -/
  | nsubB (d a b : BitVec 6)
  /-- NMUL_B (R236). -/
  | nmulB (d a b : BitVec 6)
  /-- NFMA_B (R236). -/
  | nfmaB (d a b : BitVec 6)
  /-- NMIN_B (R236). -/
  | nminB (d a b : BitVec 6)
  /-- NMAX_B (R236). -/
  | nmaxB (d a b : BitVec 6)
  /-- NCEQ_B (R236). -/
  | nceqB (m : BitVec 4) (a b : BitVec 6)
  /-- NCLT_B (R236). -/
  | ncltB (m : BitVec 4) (a b : BitVec 6)
  /-- NADD_H (R236). -/
  | naddH (d a b : BitVec 6)
  /-- NSUB_H (R236). -/
  | nsubH (d a b : BitVec 6)
  /-- NMUL_H (R236). -/
  | nmulH (d a b : BitVec 6)
  /-- NMIN_H (R236). -/
  | nminH (d a b : BitVec 6)
  /-- NMAX_H (R236). -/
  | nmaxH (d a b : BitVec 6)
  /-- NADD_Q (R236). -/
  | naddQ (d a b : BitVec 6)
  /-- NSUB_Q (R236). -/
  | nsubQ (d a b : BitVec 6)
  /-- NMIN_Q (R236). -/
  | nminQ (d a b : BitVec 6)
  /-- NMAX_Q (R236). -/
  | nmaxQ (d a b : BitVec 6)
  /-- NADDS_Q (R236). -/
  | naddsQ (d a b : BitVec 6)
  /-- VCVT (R238). -/
  | vcvt (d a c : BitVec 6)
  /-- VRED (R239). -/
  | vred (d a o : BitVec 6)
  /-- VSCAN (R239). -/
  | vscan (d a o : BitVec 6)
  /-- VSHUF (R240). -/
  | vshuf (d a b : BitVec 6)
  /-- VROT (R240). -/
  | vrot (d a b : BitVec 6)
  /-- VCX (R241). -/
  | vcx (d a : BitVec 6) (dir ty : Bool) (k : BitVec 3)
  /-- VHIST (R242). -/
  | vhist (d a n : BitVec 6)
  /-- VMERGE (R243). -/
  | vmerge (d a n : BitVec 6)
  /-- VFIND (R244). -/
  | vfind (d : BitVec 5) (m : BitVec 4) (w : BitVec 2)
  /-- VLANE (R244). -/
  | vlane (d : BitVec 5) (a b : BitVec 6)
  /-- VINS (R244). -/
  | vins (d a b : BitVec 6)
  /-- MSEL (R245). -/
  | msel (n : BitVec 4)
  /-- MLOG (R246). -/
  | mlog (d f x y : BitVec 4)
  /-- MSETN (R246). -/
  | msetn (m : BitVec 4) (a : BitVec 6) (w : BitVec 2)
  /-- MPOP (R246). -/
  | mpop (d : BitVec 5) (w : BitVec 2) (m : BitVec 4)
  /-- VCMPT (R247). -/
  | vcmpt (a b : BitVec 6)
  /-- FRCP (R248). -/
  | frcp (d a : BitVec 6)
  /-- FRSQ (R248). -/
  | frsq (d a : BitVec 6)
  /-- FSQRT (R248). -/
  | fsqrt (d a : BitVec 6)
  /-- FEXP2 (R248). -/
  | fexp2 (d a : BitVec 6)
  /-- FLOG2 (R248). -/
  | flog2 (d a : BitVec 6)
  /-- FSIG (R248). -/
  | fsig (d a : BitVec 6)
  /-- FTANH (R248). -/
  | ftanh (d a : BitVec 6)
  /-- FERF (R248). -/
  | ferf (d a : BitVec 6)
  /-- FSINP (R248). -/
  | fsinp (d a : BitVec 6)
  /-- FCOSP (R248). -/
  | fcosp (d a : BitVec 6)
  /-- FRCP_B (R248). -/
  | frcpB (d a : BitVec 6)
  /-- FRSQ_B (R248). -/
  | frsqB (d a : BitVec 6)
  /-- FSQRT_B (R248). -/
  | fsqrtB (d a : BitVec 6)
  /-- FEXP2_B (R248). -/
  | fexp2B (d a : BitVec 6)
  /-- FLOG2_B (R248). -/
  | flog2B (d a : BitVec 6)
  /-- FSIG_B (R248). -/
  | fsigB (d a : BitVec 6)
  /-- FTANH_B (R248). -/
  | ftanhB (d a : BitVec 6)
  /-- FERF_B (R248). -/
  | ferfB (d a : BitVec 6)
  /-- FSINP_B (R248). -/
  | fsinpB (d a : BitVec 6)
  /-- FCOSP_B (R248). -/
  | fcospB (d a : BitVec 6)
  /-- LD_B (R196). -/
  | ldB (d : BitVec 5) (b : BitVec 6) (x : MIdx)
  /-- LD_BU (R196). -/
  | ldBu (d : BitVec 5) (b : BitVec 6) (x : MIdx)
  /-- LD_H (R196). -/
  | ldH (d : BitVec 5) (b : BitVec 6) (x : MIdx)
  /-- LD_HU (R196). -/
  | ldHu (d : BitVec 5) (b : BitVec 6) (x : MIdx)
  /-- LD_W (R196). -/
  | ldW (d : BitVec 5) (b : BitVec 6) (x : MIdx)
  /-- LD_WU (R196). -/
  | ldWu (d : BitVec 5) (b : BitVec 6) (x : MIdx)
  /-- LD_D (R196). -/
  | ldD (d : BitVec 5) (b : BitVec 6) (x : MIdx)
  /-- ST_B (R197). -/
  | stB (v : BitVec 6) (b : BitVec 6) (x : MIdx)
  /-- ST_H (R197). -/
  | stH (v : BitVec 6) (b : BitVec 6) (x : MIdx)
  /-- ST_W (R197). -/
  | stW (v : BitVec 6) (b : BitVec 6) (x : MIdx)
  /-- ST_D (R197). -/
  | stD (v : BitVec 6) (b : BitVec 6) (x : MIdx)
  /-- VLD_F32 (R199). -/
  | vldF32 (d : BitVec 6) (b : BitVec 6) (x : MIdx)
  /-- VLD_F16 (R199). -/
  | vldF16 (d : BitVec 6) (b : BitVec 6) (x : MIdx)
  /-- VLD_BF16 (R199). -/
  | vldBf16 (d : BitVec 6) (b : BitVec 6) (x : MIdx)
  /-- VLD_I8 (R199). -/
  | vldI8 (d : BitVec 6) (b : BitVec 6) (x : MIdx)
  /-- VLD_I8N (R199). -/
  | vldI8n (d : BitVec 6) (b : BitVec 6) (x : MIdx)
  /-- VLD_B18 (R199). -/
  | vldB18 (d : BitVec 6) (b : BitVec 6) (x : MIdx)
  /-- VLD (R199). -/
  | vld (d : BitVec 6) (b : BitVec 6) (x : MIdx)
  /-- VST_F32 (R199). -/
  | vstF32 (v : BitVec 6) (b : BitVec 6) (x : MIdx)
  /-- VST_F16 (R199). -/
  | vstF16 (v : BitVec 6) (b : BitVec 6) (x : MIdx)
  /-- VST_BF16 (R199). -/
  | vstBf16 (v : BitVec 6) (b : BitVec 6) (x : MIdx)
  /-- VST_I8 (R199). -/
  | vstI8 (v : BitVec 6) (b : BitVec 6) (x : MIdx)
  /-- VST_I8N (R199). -/
  | vstI8n (v : BitVec 6) (b : BitVec 6) (x : MIdx)
  /-- VST_B18 (R199). -/
  | vstB18 (v : BitVec 6) (b : BitVec 6) (x : MIdx)
  /-- VST (R199). -/
  | vst (v : BitVec 6) (b : BitVec 6) (x : MIdx)
  /-- VLDS (R201). -/
  | vlds (d : BitVec 6) (b : BitVec 6) (o : BitVec 6) (x : VIdx)
  /-- VGATH (R202). -/
  | vgath (d : BitVec 6) (b : BitVec 6) (o : BitVec 6) (x : VIdx)
  /-- VSCAT (R202). -/
  | vscat (d : BitVec 6) (b : BitVec 6) (o : BitVec 6) (x : VIdx)
  /-- AMO (R204). -/
  | amo (d : BitVec 5) (b o : BitVec 6) (x : AmoX)
  /-- CAS (R205). -/
  | cas (d : BitVec 5) (b o : BitVec 6) (x : AmoX)
  /-- FENCE (R207). -/
  | fence (sc : BitVec 3)
  /-- FENCE_RO (R176). -/
  | fenceRo (sc : BitVec 3)
  /-- DRAIN (R208). -/
  | drain
  /-- PREF (R209). -/
  | pref (b : BitVec 6) (x : MIdx)
  /-- MMA_I8 (R262). -/
  | mmaI8 (t : BitVec 4) (a b : BitVec 6) (k : BitVec 2) (r : Option RemX)
  /-- MMA_I8P (R262). -/
  | mmaI8p (t : BitVec 4) (a b : BitVec 6) (k : BitVec 2) (r : Option RemX)
  /-- MMA_BF16 (R262). -/
  | mmaBf16 (t : BitVec 4) (a b : BitVec 6) (k : BitVec 2) (r : Option RemX)
  /-- MMA_F16 (R262). -/
  | mmaF16 (t : BitVec 4) (a b : BitVec 6) (k : BitVec 2) (r : Option RemX)
  /-- MMA_BF16P (R262). -/
  | mmaBf16p (t : BitVec 4) (a b : BitVec 6) (k : BitVec 2) (r : Option RemX)
  /-- MMAZ_I8 (R262). -/
  | mmazI8 (t : BitVec 4) (a b : BitVec 6) (k : BitVec 2) (r : Option RemX)
  /-- MMAZ_I8P (R262). -/
  | mmazI8p (t : BitVec 4) (a b : BitVec 6) (k : BitVec 2) (r : Option RemX)
  /-- MMAZ_BF16 (R262). -/
  | mmazBf16 (t : BitVec 4) (a b : BitVec 6) (k : BitVec 2) (r : Option RemX)
  /-- MMAZ_F16 (R262). -/
  | mmazF16 (t : BitVec 4) (a b : BitVec 6) (k : BitVec 2) (r : Option RemX)
  /-- MMAZ_BF16P (R262). -/
  | mmazBf16p (t : BitVec 4) (a b : BitVec 6) (k : BitVec 2) (r : Option RemX)
  /-- SACC (R266). -/
  | sacc (t ts : BitVec 4) (i : Bool) (a : BitVec 6) (k : BitVec 2)
  /-- TCLR (R267). -/
  | tclr (t : BitVec 4) (k : BitVec 2)
  /-- TCVT (R270). -/
  | tcvt (t : BitVec 4) (f : BitVec 2) (a : BitVec 6) (i : Bool) (k : BitVec 2)
  /-- TLD (R269). -/
  | tld (t : BitVec 4) (f : BitVec 2) (a : BitVec 6) (k : BitVec 2)
  /-- TRED (R272). -/
  | tred (t : BitVec 4) (o : BitVec 2) (v : BitVec 6) (k : BitVec 2)
  /-- SSCAN (R274). -/
  | sscan (t : BitVec 4) (v : BitVec 6) (k : BitVec 2)
  /-- TDIG (R273). -/
  | tdig (t : BitVec 4) (w : BitVec 2) (v : BitVec 6) (k : BitVec 2)
  /-- TCOPY (R268). -/
  | tcopy (t ts : BitVec 4) (k : BitVec 2)
  /-- MMA64 (R265). -/
  | mma64 (t : BitVec 4) (a b : BitVec 6) (k : BitVec 2) (r : Option RemX)
  /-- XPUSH_36 (R250). -/
  | xpush36 (l : Bool) (a : BitVec 6)
  /-- XPUSH_18 (R250). -/
  | xpush18 (l : Bool) (a : BitVec 6)
  /-- XPUSH_9 (R250). -/
  | xpush9 (l : Bool) (a : BitVec 6)
  /-- XPOP (R251). -/
  | xpop (d : BitVec 6)
  /-- XPLANE (R252). -/
  | xplane (d : BitVec 5) (a : BitVec 6) (tr : Bool)
  /-- XRST (R253). -/
  | xrst
  /-- BR (R141). -/
  | br (p : BitVec 4) (n : Bool) (o : Off)
  /-- BRI (R141). -/
  | bri (p : BitVec 4) (n : Bool) (a : BitVec 6)
  /-- CALL (R141). -/
  | call (p : BitVec 4) (n : Bool) (o : Off)
  /-- CALLI (R141). -/
  | calli (p : BitVec 4) (n : Bool) (a : BitVec 6)
  /-- RET (R141). -/
  | ret (p : BitVec 4) (n : Bool)
  /-- LOOP (R142). -/
  | loop (p : BitVec 4) (n : Bool) (o : Off)
  /-- LOOPW (R143). -/
  | loopw (p : BitVec 4) (n : Bool) (o : Off)
  /-- EXIT (R144). -/
  | exit (p : BitVec 4) (n : Bool)
  /-- YIELD (R145). -/
  | yield (p : BitVec 4) (n : Bool)
  /-- COPY (R213). -/
  | copy (d : BitVec 5) (a : BitVec 6) (ch : BitVec 2)
  /-- COLL (R215). -/
  | coll (d : BitVec 5) (a : BitVec 6)
  /-- WAITTL (R184). -/
  | waittl (tl : BitVec 4) (a : BitVec 6)
  /-- TLRD (R219). -/
  | tlrd (d : BitVec 5) (tl : BitVec 4)
  /-- WAITWP (R186). -/
  | waitwp (ch : BitVec 2) (a : BitVec 6)
  /-- LAUNCH (R221). -/
  | launch (d : BitVec 5) (a : BitVec 6)
  /-- LAUNCHT (R222). -/
  | launcht (a : BitVec 6)
  /-- JOIN (R223). -/
  | join (a : BitVec 6)
  /-- BAR (R224). -/
  | bar (cl : Bool)
  /-- SIGNAL (R225). -/
  | signal (a b : BitVec 6)
  /-- TRAP (R146). -/
  | trap (c : BitVec 8)
  /-- RFT (R303). -/
  | rft
  /-- CROPEN (R149). -/
  | cropen (o : Off)
  /-- CRCLOSE (R151). -/
  | crclose
  /-- MODEW (R152). -/
  | modew (a : BitVec 6)
  /-- VWIN (R153). -/
  | vwin (a : BitVec 6)
  /-- ILOCK (R154). -/
  | ilock (d : BitVec 5) (a b : BitVec 6)
  /-- IUNLK (R155). -/
  | iunlk (a b : BitVec 6)
  /-- WPSET (R156). -/
  | wpset (w : BitVec 2) (a : BitVec 6)
  /-- BRK (R147). -/
  | brk (c : BitVec 8)
  /-- HINT_NONE (R100). -/
  | hintNone (kind : BitVec 4) (p : BitVec 20)
  /-- SUCCESSOR_PREFETCH (R100). -/
  | succPrefetch (p : BitVec 20)
  /-- BRANCH_LIKELY (R100). -/
  | branchLikely (p : BitVec 20)
  /-- LOCALITY (R100). -/
  | locality (p : BitVec 20)
  /-- RESULT_ARRIVAL (R48). -/
  | resultArrival (c i : Nat)
  /-- PAGE_WALK_COMPLETE (R310). -/
  | pageWalk (c i : Nat)
  /-- LOAD_REPLY (R51). -/
  | loadReply (c i : Nat) (err : Bool)
  /-- TRAP_DELIVERY (R301). -/
  | trapDelivery (c : Nat)
  /-- RANK_END (R144). -/
  | rankEnd (c : Nat)
  /-- X_OPERATION_COMPLETE (R259). -/
  | xComplete (core : Nat)
  /-- ENGINE_OPERATION_FINISH (R183). -/
  | engineFinish (c tl : Nat)
  /-- LEAF_HASH (R19). -/
  | leafHash (c : Nat)
  /-- MILLINER_SLOT (R283). -/
  | millinerSlot (m q : Nat)
  /-- LAUNCH_COMPLETE (R296). -/
  | launchComplete (arr : Nat)
  /-- SHADOW_REPLAY (R353). -/
  | shadowReplay (arr : Nat)
  /-- SPLICE_PAIR (R335). -/
  | splicePair (parr q : Nat)
  /-- POOL_SPILL (R295). -/
  | poolSpill (rcb : Nat)
  /-- GANG_POP_TASK (R294). -/
  | gangPop (g : Nat)
  /-- PREEMPT (R308). -/
  | preempt (g : Nat) (drain : Bool)
  /-- GANG_RESUME (R308). -/
  | gangResume (g : Nat)
  /-- INTERVAL_SIGNING (R331). -/
  | intervalSigning (n : Nat)
  /-- EVAC_DRAIN_DONE (R395). -/
  | evacDrainDone (n : Nat)
  /-- SELF_TEST_ABANDON (R358). -/
  | selfTestAbandon (n : Nat)
  /-- AGE_PROMOTION (R43). -/
  | ageProm (c : Nat)
  /-- CONTAINMENT_UNWIND (R150). -/
  | unwind (c : Nat)
  /-- GANG_STOP (R305). -/
  | gangStop (c : Nat)
  /-- MILLINER_HEARTBEAT (R285). -/
  | millinerHeartbeat (m : Nat)
  /-- MILLINER_TAKEOVER (R285). -/
  | millinerTakeover (m : Nat)
  /-- STANDBY_BEGIN_SERVICE (R285). -/
  | standbyBegin
  /-- DISPATCH (R291). -/
  | dispatch
  /-- BUDGET_PERIOD_RESET (R293). -/
  | budgetReset (rcb : Nat)
  /-- UNCONTAINED_ERROR (R352). -/
  | uncontained (arr : Nat)
  /-- BISECT (R327). -/
  | bisect (logx logy res : BitVec 64) (rcb : Nat)
  /-- SIGN (R331). -/
  | sign (n : Nat) (res : BitVec 64) (rcb : Nat)
  /-- CAPTURE (R328). -/
  | capture (rcb pkt task rank leaf cap capsz : Nat)
  /-- REFEREE (R329). -/
  | referee (recx recy cap res : BitVec 64) (which rcb : Nat)
  /-- WAKE_WRITE (R177). -/
  | wakeWrite (w : WakeReg) (v : BitVec 64)
  /-- TIME_BASE_TICK (R17). -/
  | tick
  /-- CLOCK_SETTING_CHANGE (R16). -/
  | clockChange (cl set : Nat)
  /-- POWER_THROTTLE (R20). -/
  | powerThrottle (cl : Nat)
  /-- UNCORRECTABLE_ERROR (R348). -/
  | uncorrectable (e : ErrSite)
  /-- CORRECTED_ERROR (R360). -/
  | corrected (stk bg : Nat)
  /-- STACK_FENCE (R26). -/
  | stackFence (stk : Nat)
  /-- TREE_ENGINE_FENCE (R25). -/
  | treeFence (d e : Nat)
  /-- SELF_TEST_START (R358). -/
  | selfTestStart (n : Nat)
  /-- SELF_TEST_COMPLETE (R358). -/
  | selfTestComplete (n : Nat) (ok : Bool) (uclass inst synd : Nat)
  /-- SCAN (R359). -/
  | scan (n : Nat)
  /-- SCAN_COMPLETE (R359). -/
  | scanComplete (n : Nat) (ok : Bool) (uclass inst synd : Nat)
  /-- EYE_MARGIN_MEASURE (R360). -/
  | eyeMargin (p l w h : Nat)
  /-- FLIT_RECEIVE (R330). -/
  | flitReceive (p : Nat) (tx : Bool) (flit : Flit)
  /-- FLIT_REPLAY (R389). -/
  | flitReplay (p l : Nat) (flit : Flit)
  /-- PEER_ENTRY (R330). -/
  | peerEntry (copy : PeerCopy) (data : Option (List (BitVec 8)))
  /-- LINKH (R330). -/
  | linkh (p : Nat) (v : BitVec 64)
  /-- TLB_INVALIDATE (R311). -/
  | tlbInvalidate (v : BitVec 64)
  /-- TLB_INVALIDATE_COMPLETE (R311). -/
  | tlbInvComplete
  /-- CHAIN_BIND (R321). -/
  | chainBind (n : Nat) (v : BitVec 64)
  /-- LOGRD (R321). -/
  | logrd (n : Nat) (v : BitVec 64)
  /-- LOADREQ (R368). -/
  | loadreq (v : BitVec 64)
  /-- LOAD (R368). -/
  | load
  /-- UNLOAD (R371). -/
  | unload
  /-- DEBUG_STOP (R365). -/
  | debugStop (n : Nat) (v : BitVec 64)
  /-- DEBUG_RESUME (R365). -/
  | debugResume (n : Nat) (v : BitVec 64)
  /-- DUMPREQ (R366). -/
  | dumpreq (v : BitVec 64)
  /-- FEATLOCK (R380). -/
  | featlock (v : BitVec 64)
  /-- WARM_START (R384). -/
  | warmStart (changed : List (Nat × BitVec 384 × Bool))
  /-- COLD_START (R382). -/
  | coldStart
  /-- POWER_ON (R382). -/
  | powerOn
  /-- FUNDAMENTAL_RESET (R382). -/
  | fundReset
  /-- STACK_TRAINED (R382). -/
  | stackTrained (stk : Nat) (ok : Bool)
  /-- CLUSTER_READY (R383). -/
  | clusterReady (cl : Nat) (bad : List Nat)
  /-- MILLINER_LOADED (R382). -/
  | millinerLoaded (m : Nat) (ok : Bool)
  /-- BRIM_PORT_TRAINED (R382). -/
  | brimTrained (p : Nat) (ok : Bool)
  /-- VF_FUNCTION_LEVEL_RESET (R379). -/
  | vfFlr (v : Nat)
  /-- ZONE_WORD_WRITE (R393). -/
  | zoneWordWrite (n : Nat) (v : BitVec 64)
  /-- ZONE_TRIP (R394). -/
  | zoneTrip (n kind : Nat)
  /-- ZONE_TRIP_CLEAR (R394). -/
  | zoneTripClear (n : Nat)
  /-- CLOCK_RESTORE (R394). -/
  | clockRestore (cl : Nat)
  /-- EVAC (R395). -/
  | evac (v : BitVec 64)
  /-- EVAC_VALVE_CLOSED (R395). -/
  | evacValveClosed (n : Nat)
  /-- EVAC_DRY_CONFIRMED (R395). -/
  | evacDry (n : Nat)
  /-- EVAC_TIMEOUT (R395). -/
  | evacTimeout (n : Nat)
  /-- REFILL (R396). -/
  | refill (v : BitVec 64)
  /-- REFILL_COMPLETE (R396). -/
  | refillComplete (n : Nat)
  /-- REFILL_TIMEOUT (R396). -/
  | refillTimeout (n : Nat)
  /-- GET_VERSION (R332). -/
  | getVersion
  /-- GET_CAPABILITIES (R332). -/
  | getCapabilities
  /-- NEGOTIATE_ALGORITHMS (R332). -/
  | negotiateAlgorithms
  /-- GET_DIGESTS (R332). -/
  | getDigests
  /-- GET_CERTIFICATE (R332). -/
  | getCertificate (slot off len : Nat)
  /-- CHALLENGE (R332). -/
  | challenge (nonce : List (BitVec 8))
  /-- GET_MEASUREMENTS (R332). -/
  | getMeasurements (index : Nat) (nonce : List (BitVec 8))
  /-- VENDOR_SLH_DSA_SIGNATURE (R332). -/
  | vendorSlhSig
  /-- VENDOR_SLH_DSA_CERTIFICATE (R332). -/
  | vendorSlhCert
  /-- SPDM_UNSUPPORTED_REQUEST (R332). -/
  | spdmUnsupported (code : BitVec 8)
  /-- CONTROL_REGISTER_WRITE (R178). -/
  | ctlWrite (off : Nat) (v : BitVec 64)
  /-- WRITE_POINTER_ADVANCE (R186). -/
  | wpAdvance (c ch n : Nat)
  /-- DUMP_GRANULE_COPY (R366). -/
  | dumpGranule
  /-- APERTURE_ACCESS (R378). -/
  | aperture (vf : Nat) (off : Nat) (w : Option (List (BitVec 8)))
  /-- VF_ENABLE (R379). -/
  | vfEnable (on : Bool)
  /-- QDESC_WRITE (R280). -/
  | qdescWrite (q : Nat) (v : BitVec 64)
  deriving DecidableEq, Repr

/-- One slot of a decoded bundle: its instruction, its path tag P (Table 7.3) and its ordinal. -/
structure Slot where
  instr : Instr
  path : Nat
  ord : Nat
  word : Nat
  deriving DecidableEq, Repr

end Sys2Proof
end

