-- ==== Sys2Proof/WellFormed.lean ====
section
/-! DEFINITION. Which instructions the encoding admits: no undefined sub-operation (R101, check 3) and no reserved value in a
field (R102). -/

namespace Sys2Proof

/-- The reduction and scan codes of Table 15.6. -/
def redCode (o : Nat) : Bool :=
  o ≤ 8 || (0x10 ≤ o && o ≤ 0x15) || (0x18 ≤ o && o ≤ 0x1A)

/-- A reserved ORD (one whose bit of `ords` is clear) or FMT in the I slot of an indexed access (Table 7.8, R198, R199). -/
def MExt.rsv (x : MExt) (ords : Nat) : Bool := !ords.testBit x.ord.toNat || x.fmt != 0

/-- The same for the address operand: the index form carries no I slot (R191). -/
def MIdx.rsv (x : MIdx) (ords : Nat) : Bool :=
  match x with
  | .idx _ => false
  | .disp1 _ e => e.rsv ords
  | .disp2 _ e _ => e.rsv ords

/-- A reserved SIZE, SORD or SCOPE in the I slot of amo and cas (Table 7.9). -/
def amoRsv (x : AmoX) : Bool := 2 ≤ x.size.toNat || 5 ≤ x.sord.toNat || 6 ≤ x.scope.toNat

/-- A cluster-remote I slot with RA and RB both zero, or MC without RB (Table 7.10, R112). -/
def remRsv (r : Option RemX) : Bool :=
  match r with
  | none => false
  | some x => (!x.ra && !x.rb) || (x.mc && !x.rb)

/-- An undefined value in a field that selects a sub-operation: an illegal-slot trap at decode (R101). -/
def Instr.badSub (i : Instr) : Bool :=
  match i with
  | .nop _ => false
  | .add _ _ _ => false
  | .sub _ _ _ => false
  | .mul _ _ _ => false
  | .mulh _ _ _ => false
  | .mulhu _ _ _ => false
  | .div _ _ _ => false
  | .divu _ _ _ => false
  | .rem _ _ _ => false
  | .remu _ _ _ => false
  | .and _ _ _ => false
  | .or _ _ _ => false
  | .xor _ _ _ => false
  | .andn _ _ _ => false
  | .shl _ _ _ => false
  | .shr _ _ _ => false
  | .sar _ _ _ => false
  | .min _ _ _ => false
  | .max _ _ _ => false
  | .minu _ _ _ => false
  | .maxu _ _ _ => false
  | .clz _ _ => false
  | .popc _ _ => false
  | .addx2 _ _ _ => false
  | .addx3 _ _ _ => false
  | .addx4 _ _ _ => false
  | .movi _ _ => false
  | .cmpeq _ _ _ _ => false
  | .cmpne _ _ _ _ => false
  | .cmplt _ _ _ _ => false
  | .cmple _ _ _ _ => false
  | .cmpltu _ _ _ _ => false
  | .cmpleu _ _ _ _ => false
  | .movt _ _ _ _ => false
  | .plog _ _ _ _ => false
  | .pmov _ _ => false
  | .pget _ => false
  | .mfs _ _ => false
  | .mts _ _ => false
  | .cmpt _ _ => false
  | .bfx _ _ _ => false
  | .bfi _ _ _ => false
  | .vaddf _ _ _ => false
  | .vsubf _ _ _ => false
  | .vmulf _ _ _ => false
  | .vfmaf _ _ _ => false
  | .vfmsf _ _ _ => false
  | .vminf _ _ _ => false
  | .vmaxf _ _ _ => false
  | .vabsf _ _ => false
  | .vnegf _ _ => false
  | .vceqf _ _ _ => false
  | .vcltf _ _ _ => false
  | .vclef _ _ _ => false
  | .vcunf _ _ _ => false
  | .vaddi _ _ _ => false
  | .vsubi _ _ _ => false
  | .vmuli _ _ _ => false
  | .vmulhi _ _ _ => false
  | .vmini _ _ _ => false
  | .vmaxi _ _ _ => false
  | .vand _ _ _ => false
  | .vor _ _ _ => false
  | .vxor _ _ _ => false
  | .vshl _ _ _ => false
  | .vshr _ _ _ => false
  | .vsar _ _ _ => false
  | .vceqi _ _ _ => false
  | .vclti _ _ _ => false
  | .vcltu _ _ _ => false
  | .vaddsi _ _ _ => false
  | .vsel _ _ _ => false
  | .vbc _ _ => false
  | .vmov _ _ => false
  | .naddB _ _ _ => false
  | .nsubB _ _ _ => false
  | .nmulB _ _ _ => false
  | .nfmaB _ _ _ => false
  | .nminB _ _ _ => false
  | .nmaxB _ _ _ => false
  | .nceqB _ _ _ => false
  | .ncltB _ _ _ => false
  | .naddH _ _ _ => false
  | .nsubH _ _ _ => false
  | .nmulH _ _ _ => false
  | .nminH _ _ _ => false
  | .nmaxH _ _ _ => false
  | .naddQ _ _ _ => false
  | .nsubQ _ _ _ => false
  | .nminQ _ _ _ => false
  | .nmaxQ _ _ _ => false
  | .naddsQ _ _ _ => false
  | .vcvt _ _ c => 14 ≤ c.toNat
  | .vred _ _ o => !redCode o.toNat
  | .vscan _ _ o => !redCode o.toNat
  | .vshuf _ _ _ => false
  | .vrot _ _ _ => false
  | .vcx _ _ _ _ k => k == 7
  | .vhist _ _ _ => false
  | .vmerge _ _ _ => false
  | .vfind _ _ _ => false
  | .vlane _ _ _ => false
  | .vins _ _ _ => false
  | .msel _ => false
  | .mlog _ _ _ _ => false
  | .msetn _ _ _ => false
  | .mpop _ _ _ => false
  | .vcmpt _ _ => false
  | .frcp _ _ => false
  | .frsq _ _ => false
  | .fsqrt _ _ => false
  | .fexp2 _ _ => false
  | .flog2 _ _ => false
  | .fsig _ _ => false
  | .ftanh _ _ => false
  | .ferf _ _ => false
  | .fsinp _ _ => false
  | .fcosp _ _ => false
  | .frcpB _ _ => false
  | .frsqB _ _ => false
  | .fsqrtB _ _ => false
  | .fexp2B _ _ => false
  | .flog2B _ _ => false
  | .fsigB _ _ => false
  | .ftanhB _ _ => false
  | .ferfB _ _ => false
  | .fsinpB _ _ => false
  | .fcospB _ _ => false
  | .ldB _ _ _ => false
  | .ldBu _ _ _ => false
  | .ldH _ _ _ => false
  | .ldHu _ _ _ => false
  | .ldW _ _ _ => false
  | .ldWu _ _ _ => false
  | .ldD _ _ _ => false
  | .stB _ _ _ => false
  | .stH _ _ _ => false
  | .stW _ _ _ => false
  | .stD _ _ _ => false
  | .vldF32 _ _ _ => false
  | .vldF16 _ _ _ => false
  | .vldBf16 _ _ _ => false
  | .vldI8 _ _ _ => false
  | .vldI8n _ _ _ => false
  | .vldB18 _ _ _ => false
  | .vld _ _ _ => false
  | .vstF32 _ _ _ => false
  | .vstF16 _ _ _ => false
  | .vstBf16 _ _ _ => false
  | .vstI8 _ _ _ => false
  | .vstI8n _ _ _ => false
  | .vstB18 _ _ _ => false
  | .vst _ _ _ => false
  | .vlds _ _ _ _ => false
  | .vgath _ _ _ _ => false
  | .vscat _ _ _ _ => false
  | .amo _ _ _ x => 9 ≤ x.aop.toNat
  | .cas _ _ _ _ => false
  | .fence _ => false
  | .fenceRo _ => false
  | .drain => false
  | .pref _ _ => false
  | .mmaI8 _ _ _ _ _ => false
  | .mmaI8p _ _ _ _ _ => false
  | .mmaBf16 _ _ _ _ _ => false
  | .mmaF16 _ _ _ _ _ => false
  | .mmaBf16p _ _ _ _ _ => false
  | .mmazI8 _ _ _ _ _ => false
  | .mmazI8p _ _ _ _ _ => false
  | .mmazBf16 _ _ _ _ _ => false
  | .mmazF16 _ _ _ _ _ => false
  | .mmazBf16p _ _ _ _ _ => false
  | .sacc _ _ _ _ _ => false
  | .tclr _ _ => false
  | .tcvt _ _ _ _ _ => false
  | .tld _ _ _ _ => false
  | .tred _ _ _ _ => false
  | .sscan _ _ _ => false
  | .tdig _ _ _ _ => false
  | .tcopy _ _ _ => false
  | .mma64 _ _ _ _ _ => false
  | .xpush36 _ _ => false
  | .xpush18 _ _ => false
  | .xpush9 _ _ => false
  | .xpop _ => false
  | .xplane _ _ _ => false
  | .xrst => false
  | .br _ _ _ => false
  | .bri _ _ _ => false
  | .call _ _ _ => false
  | .calli _ _ _ => false
  | .ret _ _ => false
  | .loop _ _ _ => false
  | .loopw _ _ _ => false
  | .exit _ _ => false
  | .yield _ _ => false
  | .copy _ _ _ => false
  | .coll _ _ => false
  | .waittl _ _ => false
  | .tlrd _ _ => false
  | .waitwp _ _ => false
  | .launch _ _ => false
  | .launcht _ => false
  | .join _ => false
  | .bar _ => false
  | .signal _ _ => false
  | .trap _ => false
  | .rft => false
  | .cropen _ => false
  | .crclose => false
  | .modew _ => false
  | .vwin _ => false
  | .ilock _ _ _ => false
  | .iunlk _ _ => false
  | .wpset _ _ => false
  | .brk _ => false
  | .hintNone _ _ => false
  | .succPrefetch _ => false
  | .branchLikely _ => false
  | .locality _ => false
  | .resultArrival _ _ => false
  | .pageWalk _ _ => false
  | .loadReply _ _ _ => false
  | .trapDelivery _ => false
  | .rankEnd _ => false
  | .xComplete _ => false
  | .engineFinish _ _ => false
  | .leafHash _ => false
  | .millinerSlot _ _ => false
  | .launchComplete _ => false
  | .shadowReplay _ => false
  | .splicePair _ _ => false
  | .poolSpill _ => false
  | .gangPop _ => false
  | .preempt _ _ => false
  | .gangResume _ => false
  | .intervalSigning _ => false
  | .evacDrainDone _ => false
  | .selfTestAbandon _ => false
  | .ageProm _ => false
  | .unwind _ => false
  | .gangStop _ => false
  | .millinerHeartbeat _ => false
  | .millinerTakeover _ => false
  | .standbyBegin => false
  | .dispatch => false
  | .budgetReset _ => false
  | .uncontained _ => false
  | .bisect _ _ _ _ => false
  | .sign _ _ _ => false
  | .capture _ _ _ _ _ _ _ => false
  | .referee _ _ _ _ _ _ => false
  | .wakeWrite _ _ => false
  | .tick => false
  | .clockChange _ _ => false
  | .powerThrottle _ => false
  | .uncorrectable _ => false
  | .corrected _ _ => false
  | .stackFence _ => false
  | .treeFence _ _ => false
  | .selfTestStart _ => false
  | .selfTestComplete _ _ _ _ _ => false
  | .scan _ => false
  | .scanComplete _ _ _ _ _ => false
  | .eyeMargin _ _ _ _ => false
  | .flitReceive _ _ _ => false
  | .flitReplay _ _ _ => false
  | .peerEntry _ _ => false
  | .linkh _ _ => false
  | .tlbInvalidate _ => false
  | .tlbInvComplete => false
  | .chainBind _ _ => false
  | .logrd _ _ => false
  | .loadreq _ => false
  | .load => false
  | .unload => false
  | .debugStop _ _ => false
  | .debugResume _ _ => false
  | .dumpreq _ => false
  | .featlock _ => false
  | .warmStart _ => false
  | .coldStart => false
  | .powerOn => false
  | .fundReset => false
  | .stackTrained _ _ => false
  | .clusterReady _ _ => false
  | .millinerLoaded _ _ => false
  | .brimTrained _ _ => false
  | .vfFlr _ => false
  | .zoneWordWrite _ _ => false
  | .zoneTrip _ _ => false
  | .zoneTripClear _ => false
  | .clockRestore _ => false
  | .evac _ => false
  | .evacValveClosed _ => false
  | .evacDry _ => false
  | .evacTimeout _ => false
  | .refill _ => false
  | .refillComplete _ => false
  | .refillTimeout _ => false
  | .getVersion => false
  | .getCapabilities => false
  | .negotiateAlgorithms => false
  | .getDigests => false
  | .getCertificate _ _ _ => false
  | .challenge _ => false
  | .getMeasurements _ _ => false
  | .vendorSlhSig => false
  | .vendorSlhCert => false
  | .spdmUnsupported _ => false
  | .ctlWrite _ _ => false
  | .wpAdvance _ _ _ => false
  | .dumpGranule => false
  | .aperture _ _ _ => false
  | .vfEnable _ => false
  | .qdescWrite _ _ => false

/-- A reserved value of a field: a reserved-field trap at decode (R102). A hint of kind 1 to 3 has a constructor of its own. -/
def Instr.badField (i : Instr) : Bool :=
  match i with
  | .nop _ => false
  | .add _ _ _ => false
  | .sub _ _ _ => false
  | .mul _ _ _ => false
  | .mulh _ _ _ => false
  | .mulhu _ _ _ => false
  | .div _ _ _ => false
  | .divu _ _ _ => false
  | .rem _ _ _ => false
  | .remu _ _ _ => false
  | .and _ _ _ => false
  | .or _ _ _ => false
  | .xor _ _ _ => false
  | .andn _ _ _ => false
  | .shl _ _ _ => false
  | .shr _ _ _ => false
  | .sar _ _ _ => false
  | .min _ _ _ => false
  | .max _ _ _ => false
  | .minu _ _ _ => false
  | .maxu _ _ _ => false
  | .clz _ _ => false
  | .popc _ _ => false
  | .addx2 _ _ _ => false
  | .addx3 _ _ _ => false
  | .addx4 _ _ _ => false
  | .movi _ _ => false
  | .cmpeq _ _ _ _ => false
  | .cmpne _ _ _ _ => false
  | .cmplt _ _ _ _ => false
  | .cmple _ _ _ _ => false
  | .cmpltu _ _ _ _ => false
  | .cmpleu _ _ _ _ => false
  | .movt _ _ _ _ => false
  | .plog _ _ _ _ => false
  | .pmov _ _ => false
  | .pget _ => false
  | .mfs _ _ => false
  | .mts _ _ => false
  | .cmpt _ _ => false
  | .bfx _ _ _ => false
  | .bfi _ _ _ => false
  | .vaddf _ _ _ => false
  | .vsubf _ _ _ => false
  | .vmulf _ _ _ => false
  | .vfmaf _ _ _ => false
  | .vfmsf _ _ _ => false
  | .vminf _ _ _ => false
  | .vmaxf _ _ _ => false
  | .vabsf _ _ => false
  | .vnegf _ _ => false
  | .vceqf _ _ _ => false
  | .vcltf _ _ _ => false
  | .vclef _ _ _ => false
  | .vcunf _ _ _ => false
  | .vaddi _ _ _ => false
  | .vsubi _ _ _ => false
  | .vmuli _ _ _ => false
  | .vmulhi _ _ _ => false
  | .vmini _ _ _ => false
  | .vmaxi _ _ _ => false
  | .vand _ _ _ => false
  | .vor _ _ _ => false
  | .vxor _ _ _ => false
  | .vshl _ _ _ => false
  | .vshr _ _ _ => false
  | .vsar _ _ _ => false
  | .vceqi _ _ _ => false
  | .vclti _ _ _ => false
  | .vcltu _ _ _ => false
  | .vaddsi _ _ _ => false
  | .vsel _ _ _ => false
  | .vbc _ _ => false
  | .vmov _ _ => false
  | .naddB _ _ _ => false
  | .nsubB _ _ _ => false
  | .nmulB _ _ _ => false
  | .nfmaB _ _ _ => false
  | .nminB _ _ _ => false
  | .nmaxB _ _ _ => false
  | .nceqB _ _ _ => false
  | .ncltB _ _ _ => false
  | .naddH _ _ _ => false
  | .nsubH _ _ _ => false
  | .nmulH _ _ _ => false
  | .nminH _ _ _ => false
  | .nmaxH _ _ _ => false
  | .naddQ _ _ _ => false
  | .nsubQ _ _ _ => false
  | .nminQ _ _ _ => false
  | .nmaxQ _ _ _ => false
  | .naddsQ _ _ _ => false
  | .vcvt _ _ _ => false
  | .vred _ _ _ => false
  | .vscan _ _ _ => false
  | .vshuf _ _ _ => false
  | .vrot _ _ _ => false
  | .vcx _ _ _ _ _ => false
  | .vhist _ _ _ => false
  | .vmerge _ _ _ => false
  | .vfind _ _ w => w == 3
  | .vlane _ _ _ => false
  | .vins _ _ _ => false
  | .msel _ => false
  | .mlog _ _ _ _ => false
  | .msetn _ _ w => w == 3
  | .mpop _ w _ => w == 3
  | .vcmpt _ _ => false
  | .frcp _ _ => false
  | .frsq _ _ => false
  | .fsqrt _ _ => false
  | .fexp2 _ _ => false
  | .flog2 _ _ => false
  | .fsig _ _ => false
  | .ftanh _ _ => false
  | .ferf _ _ => false
  | .fsinp _ _ => false
  | .fcosp _ _ => false
  | .frcpB _ _ => false
  | .frsqB _ _ => false
  | .fsqrtB _ _ => false
  | .fexp2B _ _ => false
  | .flog2B _ _ => false
  | .fsigB _ _ => false
  | .ftanhB _ _ => false
  | .ferfB _ _ => false
  | .fsinpB _ _ => false
  | .fcospB _ _ => false
  | .ldB _ _ x => x.rsv 0b10011
  | .ldBu _ _ x => x.rsv 0b10011
  | .ldH _ _ x => x.rsv 0b10011
  | .ldHu _ _ x => x.rsv 0b10011
  | .ldW _ _ x => x.rsv 0b10011
  | .ldWu _ _ x => x.rsv 0b10011
  | .ldD _ _ x => x.rsv 0b10011
  | .stB _ _ x => x.rsv 0b10101
  | .stH _ _ x => x.rsv 0b10101
  | .stW _ _ x => x.rsv 0b10101
  | .stD _ _ x => x.rsv 0b10101
  | .vldF32 _ _ x => x.rsv 1
  | .vldF16 _ _ x => x.rsv 1
  | .vldBf16 _ _ x => x.rsv 1
  | .vldI8 _ _ x => x.rsv 1
  | .vldI8n _ _ x => x.rsv 1
  | .vldB18 _ _ x => x.rsv 1
  | .vld _ _ x => x.rsv 1
  | .vstF32 _ _ x => x.rsv 1
  | .vstF16 _ _ x => x.rsv 1
  | .vstBf16 _ _ x => x.rsv 1
  | .vstI8 _ _ x => x.rsv 1
  | .vstI8n _ _ x => x.rsv 1
  | .vstB18 _ _ x => x.rsv 1
  | .vst _ _ x => x.rsv 1
  | .vlds _ _ _ x => x.x.ord != 0 || 6 ≤ x.x.fmt.toNat
  | .vgath _ _ _ x => x.x.ord != 0 || 4 ≤ x.x.fmt.toNat
  | .vscat _ _ _ x => x.x.ord != 0 || 4 ≤ x.x.fmt.toNat
  | .amo _ _ _ x => amoRsv x || x.ford != 0 || x.ps != 0
  | .cas _ _ _ x => amoRsv x || x.aop != 0 || !(x.ford == 0 || x.ford == 1 || x.ford == 4)
  | .fence sc => 6 ≤ sc.toNat
  | .fenceRo sc => 6 ≤ sc.toNat
  | .drain => false
  | .pref _ x => x.rsv 1
  | .mmaI8 _ _ _ _ r => remRsv r
  | .mmaI8p _ _ _ _ r => remRsv r
  | .mmaBf16 _ _ _ _ r => remRsv r
  | .mmaF16 _ _ _ _ r => remRsv r
  | .mmaBf16p _ _ _ _ r => remRsv r
  | .mmazI8 _ _ _ _ r => remRsv r
  | .mmazI8p _ _ _ _ r => remRsv r
  | .mmazBf16 _ _ _ _ r => remRsv r
  | .mmazF16 _ _ _ _ r => remRsv r
  | .mmazBf16p _ _ _ _ r => remRsv r
  | .sacc _ _ _ _ _ => false
  | .tclr _ _ => false
  | .tcvt _ _ _ _ _ => false
  | .tld _ _ _ _ => false
  | .tred _ _ _ _ => false
  | .sscan _ _ _ => false
  | .tdig _ w _ _ => w == 3
  | .tcopy _ _ _ => false
  | .mma64 _ _ _ _ r => remRsv r
  | .xpush36 _ _ => false
  | .xpush18 _ _ => false
  | .xpush9 _ _ => false
  | .xpop _ => false
  | .xplane _ _ _ => false
  | .xrst => false
  | .br _ _ _ => false
  | .bri _ _ _ => false
  | .call _ _ _ => false
  | .calli _ _ _ => false
  | .ret _ _ => false
  | .loop _ _ _ => false
  | .loopw _ _ _ => false
  | .exit _ _ => false
  | .yield _ _ => false
  | .copy _ _ _ => false
  | .coll _ _ => false
  | .waittl _ _ => false
  | .tlrd _ _ => false
  | .waitwp _ _ => false
  | .launch _ _ => false
  | .launcht _ => false
  | .join _ => false
  | .bar _ => false
  | .signal _ _ => false
  | .trap _ => false
  | .rft => false
  | .cropen _ => false
  | .crclose => false
  | .modew _ => false
  | .vwin _ => false
  | .ilock _ _ _ => false
  | .iunlk _ _ => false
  | .wpset _ _ => false
  | .brk _ => false
  | .hintNone k _ => k == 1 || k == 2 || k == 3
  | .succPrefetch _ => false
  | .branchLikely _ => false
  | .locality _ => false
  | .resultArrival _ _ => false
  | .pageWalk _ _ => false
  | .loadReply _ _ _ => false
  | .trapDelivery _ => false
  | .rankEnd _ => false
  | .xComplete _ => false
  | .engineFinish _ _ => false
  | .leafHash _ => false
  | .millinerSlot _ _ => false
  | .launchComplete _ => false
  | .shadowReplay _ => false
  | .splicePair _ _ => false
  | .poolSpill _ => false
  | .gangPop _ => false
  | .preempt _ _ => false
  | .gangResume _ => false
  | .intervalSigning _ => false
  | .evacDrainDone _ => false
  | .selfTestAbandon _ => false
  | .ageProm _ => false
  | .unwind _ => false
  | .gangStop _ => false
  | .millinerHeartbeat _ => false
  | .millinerTakeover _ => false
  | .standbyBegin => false
  | .dispatch => false
  | .budgetReset _ => false
  | .uncontained _ => false
  | .bisect _ _ _ _ => false
  | .sign _ _ _ => false
  | .capture _ _ _ _ _ _ _ => false
  | .referee _ _ _ _ _ _ => false
  | .wakeWrite _ _ => false
  | .tick => false
  | .clockChange _ _ => false
  | .powerThrottle _ => false
  | .uncorrectable _ => false
  | .corrected _ _ => false
  | .stackFence _ => false
  | .treeFence _ _ => false
  | .selfTestStart _ => false
  | .selfTestComplete _ _ _ _ _ => false
  | .scan _ => false
  | .scanComplete _ _ _ _ _ => false
  | .eyeMargin _ _ _ _ => false
  | .flitReceive _ _ _ => false
  | .flitReplay _ _ _ => false
  | .peerEntry _ _ => false
  | .linkh _ _ => false
  | .tlbInvalidate _ => false
  | .tlbInvComplete => false
  | .chainBind _ _ => false
  | .logrd _ _ => false
  | .loadreq _ => false
  | .load => false
  | .unload => false
  | .debugStop _ _ => false
  | .debugResume _ _ => false
  | .dumpreq _ => false
  | .featlock _ => false
  | .warmStart _ => false
  | .coldStart => false
  | .powerOn => false
  | .fundReset => false
  | .stackTrained _ _ => false
  | .clusterReady _ _ => false
  | .millinerLoaded _ _ => false
  | .brimTrained _ _ => false
  | .vfFlr _ => false
  | .zoneWordWrite _ _ => false
  | .zoneTrip _ _ => false
  | .zoneTripClear _ => false
  | .clockRestore _ => false
  | .evac _ => false
  | .evacValveClosed _ => false
  | .evacDry _ => false
  | .evacTimeout _ => false
  | .refill _ => false
  | .refillComplete _ => false
  | .refillTimeout _ => false
  | .getVersion => false
  | .getCapabilities => false
  | .negotiateAlgorithms => false
  | .getDigests => false
  | .getCertificate _ _ _ => false
  | .challenge _ => false
  | .getMeasurements _ _ => false
  | .vendorSlhSig => false
  | .vendorSlhCert => false
  | .spdmUnsupported _ => false
  | .ctlWrite _ _ => false
  | .wpAdvance _ _ _ => false
  | .dumpGranule => false
  | .aperture _ _ _ => false
  | .vfEnable _ => false
  | .qdescWrite _ _ => false

/-- A well-formed instruction. -/
def Instr.wf (i : Instr) : Bool := !i.badSub && !i.badField

/-- Whether an instruction is a slot of a bundle (the other constructors are device events). -/
def Instr.isSlot (i : Instr) : Bool :=
  match i with
  | .nop _ => true
  | .add _ _ _ => true
  | .sub _ _ _ => true
  | .mul _ _ _ => true
  | .mulh _ _ _ => true
  | .mulhu _ _ _ => true
  | .div _ _ _ => true
  | .divu _ _ _ => true
  | .rem _ _ _ => true
  | .remu _ _ _ => true
  | .and _ _ _ => true
  | .or _ _ _ => true
  | .xor _ _ _ => true
  | .andn _ _ _ => true
  | .shl _ _ _ => true
  | .shr _ _ _ => true
  | .sar _ _ _ => true
  | .min _ _ _ => true
  | .max _ _ _ => true
  | .minu _ _ _ => true
  | .maxu _ _ _ => true
  | .clz _ _ => true
  | .popc _ _ => true
  | .addx2 _ _ _ => true
  | .addx3 _ _ _ => true
  | .addx4 _ _ _ => true
  | .movi _ _ => true
  | .cmpeq _ _ _ _ => true
  | .cmpne _ _ _ _ => true
  | .cmplt _ _ _ _ => true
  | .cmple _ _ _ _ => true
  | .cmpltu _ _ _ _ => true
  | .cmpleu _ _ _ _ => true
  | .movt _ _ _ _ => true
  | .plog _ _ _ _ => true
  | .pmov _ _ => true
  | .pget _ => true
  | .mfs _ _ => true
  | .mts _ _ => true
  | .cmpt _ _ => true
  | .bfx _ _ _ => true
  | .bfi _ _ _ => true
  | .vaddf _ _ _ => true
  | .vsubf _ _ _ => true
  | .vmulf _ _ _ => true
  | .vfmaf _ _ _ => true
  | .vfmsf _ _ _ => true
  | .vminf _ _ _ => true
  | .vmaxf _ _ _ => true
  | .vabsf _ _ => true
  | .vnegf _ _ => true
  | .vceqf _ _ _ => true
  | .vcltf _ _ _ => true
  | .vclef _ _ _ => true
  | .vcunf _ _ _ => true
  | .vaddi _ _ _ => true
  | .vsubi _ _ _ => true
  | .vmuli _ _ _ => true
  | .vmulhi _ _ _ => true
  | .vmini _ _ _ => true
  | .vmaxi _ _ _ => true
  | .vand _ _ _ => true
  | .vor _ _ _ => true
  | .vxor _ _ _ => true
  | .vshl _ _ _ => true
  | .vshr _ _ _ => true
  | .vsar _ _ _ => true
  | .vceqi _ _ _ => true
  | .vclti _ _ _ => true
  | .vcltu _ _ _ => true
  | .vaddsi _ _ _ => true
  | .vsel _ _ _ => true
  | .vbc _ _ => true
  | .vmov _ _ => true
  | .naddB _ _ _ => true
  | .nsubB _ _ _ => true
  | .nmulB _ _ _ => true
  | .nfmaB _ _ _ => true
  | .nminB _ _ _ => true
  | .nmaxB _ _ _ => true
  | .nceqB _ _ _ => true
  | .ncltB _ _ _ => true
  | .naddH _ _ _ => true
  | .nsubH _ _ _ => true
  | .nmulH _ _ _ => true
  | .nminH _ _ _ => true
  | .nmaxH _ _ _ => true
  | .naddQ _ _ _ => true
  | .nsubQ _ _ _ => true
  | .nminQ _ _ _ => true
  | .nmaxQ _ _ _ => true
  | .naddsQ _ _ _ => true
  | .vcvt _ _ _ => true
  | .vred _ _ _ => true
  | .vscan _ _ _ => true
  | .vshuf _ _ _ => true
  | .vrot _ _ _ => true
  | .vcx _ _ _ _ _ => true
  | .vhist _ _ _ => true
  | .vmerge _ _ _ => true
  | .vfind _ _ _ => true
  | .vlane _ _ _ => true
  | .vins _ _ _ => true
  | .msel _ => true
  | .mlog _ _ _ _ => true
  | .msetn _ _ _ => true
  | .mpop _ _ _ => true
  | .vcmpt _ _ => true
  | .frcp _ _ => true
  | .frsq _ _ => true
  | .fsqrt _ _ => true
  | .fexp2 _ _ => true
  | .flog2 _ _ => true
  | .fsig _ _ => true
  | .ftanh _ _ => true
  | .ferf _ _ => true
  | .fsinp _ _ => true
  | .fcosp _ _ => true
  | .frcpB _ _ => true
  | .frsqB _ _ => true
  | .fsqrtB _ _ => true
  | .fexp2B _ _ => true
  | .flog2B _ _ => true
  | .fsigB _ _ => true
  | .ftanhB _ _ => true
  | .ferfB _ _ => true
  | .fsinpB _ _ => true
  | .fcospB _ _ => true
  | .ldB _ _ _ => true
  | .ldBu _ _ _ => true
  | .ldH _ _ _ => true
  | .ldHu _ _ _ => true
  | .ldW _ _ _ => true
  | .ldWu _ _ _ => true
  | .ldD _ _ _ => true
  | .stB _ _ _ => true
  | .stH _ _ _ => true
  | .stW _ _ _ => true
  | .stD _ _ _ => true
  | .vldF32 _ _ _ => true
  | .vldF16 _ _ _ => true
  | .vldBf16 _ _ _ => true
  | .vldI8 _ _ _ => true
  | .vldI8n _ _ _ => true
  | .vldB18 _ _ _ => true
  | .vld _ _ _ => true
  | .vstF32 _ _ _ => true
  | .vstF16 _ _ _ => true
  | .vstBf16 _ _ _ => true
  | .vstI8 _ _ _ => true
  | .vstI8n _ _ _ => true
  | .vstB18 _ _ _ => true
  | .vst _ _ _ => true
  | .vlds _ _ _ _ => true
  | .vgath _ _ _ _ => true
  | .vscat _ _ _ _ => true
  | .amo _ _ _ _ => true
  | .cas _ _ _ _ => true
  | .fence _ => true
  | .fenceRo _ => true
  | .drain => true
  | .pref _ _ => true
  | .mmaI8 _ _ _ _ _ => true
  | .mmaI8p _ _ _ _ _ => true
  | .mmaBf16 _ _ _ _ _ => true
  | .mmaF16 _ _ _ _ _ => true
  | .mmaBf16p _ _ _ _ _ => true
  | .mmazI8 _ _ _ _ _ => true
  | .mmazI8p _ _ _ _ _ => true
  | .mmazBf16 _ _ _ _ _ => true
  | .mmazF16 _ _ _ _ _ => true
  | .mmazBf16p _ _ _ _ _ => true
  | .sacc _ _ _ _ _ => true
  | .tclr _ _ => true
  | .tcvt _ _ _ _ _ => true
  | .tld _ _ _ _ => true
  | .tred _ _ _ _ => true
  | .sscan _ _ _ => true
  | .tdig _ _ _ _ => true
  | .tcopy _ _ _ => true
  | .mma64 _ _ _ _ _ => true
  | .xpush36 _ _ => true
  | .xpush18 _ _ => true
  | .xpush9 _ _ => true
  | .xpop _ => true
  | .xplane _ _ _ => true
  | .xrst => true
  | .br _ _ _ => true
  | .bri _ _ _ => true
  | .call _ _ _ => true
  | .calli _ _ _ => true
  | .ret _ _ => true
  | .loop _ _ _ => true
  | .loopw _ _ _ => true
  | .exit _ _ => true
  | .yield _ _ => true
  | .copy _ _ _ => true
  | .coll _ _ => true
  | .waittl _ _ => true
  | .tlrd _ _ => true
  | .waitwp _ _ => true
  | .launch _ _ => true
  | .launcht _ => true
  | .join _ => true
  | .bar _ => true
  | .signal _ _ => true
  | .trap _ => true
  | .rft => true
  | .cropen _ => true
  | .crclose => true
  | .modew _ => true
  | .vwin _ => true
  | .ilock _ _ _ => true
  | .iunlk _ _ => true
  | .wpset _ _ => true
  | .brk _ => true
  | .hintNone _ _ => true
  | .succPrefetch _ => true
  | .branchLikely _ => true
  | .locality _ => true
  | .resultArrival _ _ => false
  | .pageWalk _ _ => false
  | .loadReply _ _ _ => false
  | .trapDelivery _ => false
  | .rankEnd _ => false
  | .xComplete _ => false
  | .engineFinish _ _ => false
  | .leafHash _ => false
  | .millinerSlot _ _ => false
  | .launchComplete _ => false
  | .shadowReplay _ => false
  | .splicePair _ _ => false
  | .poolSpill _ => false
  | .gangPop _ => false
  | .preempt _ _ => false
  | .gangResume _ => false
  | .intervalSigning _ => false
  | .evacDrainDone _ => false
  | .selfTestAbandon _ => false
  | .ageProm _ => false
  | .unwind _ => false
  | .gangStop _ => false
  | .millinerHeartbeat _ => false
  | .millinerTakeover _ => false
  | .standbyBegin => false
  | .dispatch => false
  | .budgetReset _ => false
  | .uncontained _ => false
  | .bisect _ _ _ _ => false
  | .sign _ _ _ => false
  | .capture _ _ _ _ _ _ _ => false
  | .referee _ _ _ _ _ _ => false
  | .wakeWrite _ _ => false
  | .tick => false
  | .clockChange _ _ => false
  | .powerThrottle _ => false
  | .uncorrectable _ => false
  | .corrected _ _ => false
  | .stackFence _ => false
  | .treeFence _ _ => false
  | .selfTestStart _ => false
  | .selfTestComplete _ _ _ _ _ => false
  | .scan _ => false
  | .scanComplete _ _ _ _ _ => false
  | .eyeMargin _ _ _ _ => false
  | .flitReceive _ _ _ => false
  | .flitReplay _ _ _ => false
  | .peerEntry _ _ => false
  | .linkh _ _ => false
  | .tlbInvalidate _ => false
  | .tlbInvComplete => false
  | .chainBind _ _ => false
  | .logrd _ _ => false
  | .loadreq _ => false
  | .load => false
  | .unload => false
  | .debugStop _ _ => false
  | .debugResume _ _ => false
  | .dumpreq _ => false
  | .featlock _ => false
  | .warmStart _ => false
  | .coldStart => false
  | .powerOn => false
  | .fundReset => false
  | .stackTrained _ _ => false
  | .clusterReady _ _ => false
  | .millinerLoaded _ _ => false
  | .brimTrained _ _ => false
  | .vfFlr _ => false
  | .zoneWordWrite _ _ => false
  | .zoneTrip _ _ => false
  | .zoneTripClear _ => false
  | .clockRestore _ => false
  | .evac _ => false
  | .evacValveClosed _ => false
  | .evacDry _ => false
  | .evacTimeout _ => false
  | .refill _ => false
  | .refillComplete _ => false
  | .refillTimeout _ => false
  | .getVersion => false
  | .getCapabilities => false
  | .negotiateAlgorithms => false
  | .getDigests => false
  | .getCertificate _ _ _ => false
  | .challenge _ => false
  | .getMeasurements _ _ => false
  | .vendorSlhSig => false
  | .vendorSlhCert => false
  | .spdmUnsupported _ => false
  | .ctlWrite _ _ => false
  | .wpAdvance _ _ _ => false
  | .dumpGranule => false
  | .aperture _ _ _ => false
  | .vfEnable _ => false
  | .qdescWrite _ _ => false

end Sys2Proof
end

