-- ==== Sys2Proof/Decode.lean ====
section
/-! DEFINITION. Decoding and encoding of slots and bundles (R90 to R116, Tables 7.1 to 7.13, 9.1, 9.5, 9.6,
13.1, 13.5, 15.1 and 17.1). Words are natural numbers here, so that a field is a division and a remainder. -/

namespace Sys2Proof

/-- Bits [lo + n - 1 : lo] of a word. -/
def fld (w lo n : Nat) : BitVec n := BitVec.ofNat n (w / 2 ^ lo)

/-- Bit `i` of a word. -/
def bitAt (w i : Nat) : Bool := w / 2 ^ i % 2 == 1

/-- Whether bits [lo + n - 1 : lo] of a word hold a nonzero value. -/
def nz (w lo n : Nat) : Bool := w / 2 ^ lo % 2 ^ n != 0

/-- A slot read field by field, before the checks on its values: whether a reserved bit of the slot word (`zs`) or of its
first I slot (`zi`) is set, and whether a required I slot is missing (`missing`). -/
structure Raw where
  instr : Instr
  zs : Bool
  zi : Bool
  missing : Bool
  deriving DecidableEq, Repr

/-- Why a slot does not decode, in the order of the checks of R101: an undefined slot (check 3), a missing I slot (check 4),
a reserved field (check 5); with the word that shows it, for INFO1. -/
inductive DecErr where
  | illegal (w : Nat)
  | islots
  | reserved (w : Nat)
  deriving DecidableEq, Repr

/-- Layout NK of Tables 7.5, 7.11, 9.1, 9.5, 9.6, 13.1, 13.5, 15.1 and 17.1. -/
def rawNK (c : BitVec 8 → Instr) (w : Nat) : Option Raw :=
  some ⟨c (fld w 0 8), nz w 8 10, false, false⟩

/-- Layout TR2 of Tables 7.5, 7.11, 9.1, 9.5, 9.6, 13.1, 13.5, 15.1 and 17.1. -/
def rawTR2 (c : BitVec 5 → BitVec 6 → Instr) (w : Nat) : Option Raw :=
  some ⟨c (fld w 12 5) (fld w 6 6), nz w 17 1 || nz w 0 6, false, false⟩

/-- Layout MV of Tables 7.5, 7.11, 9.1, 9.5, 9.6, 13.1, 13.5, 15.1 and 17.1. -/
def rawMV (c : BitVec 5 → BitVec 6 → Bool → BitVec 4 → Instr) (w : Nat) : Option Raw :=
  some ⟨c (fld w 12 5) (fld w 6 6) (bitAt w 5) (fld w 0 4), nz w 17 1 || nz w 4 1, false, false⟩

/-- Layout PL of Tables 7.5, 7.11, 9.1, 9.5, 9.6, 13.1, 13.5, 15.1 and 17.1. -/
def rawPL (c : BitVec 4 → BitVec 4 → BitVec 4 → BitVec 4 → Instr) (w : Nat) : Option Raw :=
  some ⟨c (fld w 14 4) (fld w 10 4) (fld w 4 4) (fld w 0 4), nz w 8 2, false, false⟩

/-- Layout PM of Tables 7.5, 7.11, 9.1, 9.5, 9.6, 13.1, 13.5, 15.1 and 17.1. -/
def rawPM (c : BitVec 4 → BitVec 6 → Instr) (w : Nat) : Option Raw :=
  some ⟨c (fld w 14 4) (fld w 6 6), nz w 12 2 || nz w 0 6, false, false⟩

/-- Layout D0 of Tables 7.5, 7.11, 9.1, 9.5, 9.6, 13.1, 13.5, 15.1 and 17.1. -/
def rawD0 (c : BitVec 5 → Instr) (w : Nat) : Option Raw :=
  some ⟨c (fld w 12 5), nz w 17 1 || nz w 0 12, false, false⟩

/-- Layout SG of Tables 7.5, 7.11, 9.1, 9.5, 9.6, 13.1, 13.5, 15.1 and 17.1. -/
def rawSG (c : BitVec 5 → BitVec 12 → Instr) (w : Nat) : Option Raw :=
  some ⟨c (fld w 12 5) (fld w 0 12), nz w 17 1, false, false⟩

/-- Layout SP of Tables 7.5, 7.11, 9.1, 9.5, 9.6, 13.1, 13.5, 15.1 and 17.1. -/
def rawSP (c : BitVec 12 → BitVec 6 → Instr) (w : Nat) : Option Raw :=
  some ⟨c (fld w 6 12) (fld w 0 6), false, false, false⟩

/-- Layout V3 of Tables 7.5, 7.11, 9.1, 9.5, 9.6, 13.1, 13.5, 15.1 and 17.1. -/
def rawV3 (c : BitVec 6 → BitVec 6 → BitVec 6 → Instr) (w : Nat) : Option Raw :=
  some ⟨c (fld w 12 6) (fld w 6 6) (fld w 0 6), false, false, false⟩

/-- Layout V2 of Tables 7.5, 7.11, 9.1, 9.5, 9.6, 13.1, 13.5, 15.1 and 17.1. -/
def rawV2 (c : BitVec 6 → BitVec 6 → Instr) (w : Nat) : Option Raw :=
  some ⟨c (fld w 12 6) (fld w 6 6), nz w 0 6, false, false⟩

/-- Layout VC of Tables 7.5, 7.11, 9.1, 9.5, 9.6, 13.1, 13.5, 15.1 and 17.1. -/
def rawVC (c : BitVec 4 → BitVec 6 → BitVec 6 → Instr) (w : Nat) : Option Raw :=
  some ⟨c (fld w 14 4) (fld w 6 6) (fld w 0 6), nz w 12 2, false, false⟩

/-- Layout CX of Tables 7.5, 7.11, 9.1, 9.5, 9.6, 13.1, 13.5, 15.1 and 17.1. -/
def rawCX (c : BitVec 6 → BitVec 6 → Bool → Bool → BitVec 3 → Instr) (w : Nat) : Option Raw :=
  some ⟨c (fld w 12 6) (fld w 6 6) (bitAt w 4) (bitAt w 3) (fld w 0 3), nz w 5 1, false, false⟩

/-- Layout VF of Tables 7.5, 7.11, 9.1, 9.5, 9.6, 13.1, 13.5, 15.1 and 17.1. -/
def rawVF (c : BitVec 5 → BitVec 4 → BitVec 2 → Instr) (w : Nat) : Option Raw :=
  some ⟨c (fld w 12 5) (fld w 6 4) (fld w 4 2), nz w 17 1 || nz w 10 2 || nz w 0 4, false, false⟩

/-- Layout DS3 of Tables 7.5, 7.11, 9.1, 9.5, 9.6, 13.1, 13.5, 15.1 and 17.1. -/
def rawDS3 (c : BitVec 5 → BitVec 6 → BitVec 6 → Instr) (w : Nat) : Option Raw :=
  some ⟨c (fld w 12 5) (fld w 6 6) (fld w 0 6), nz w 17 1, false, false⟩

/-- Layout N4 of Tables 7.5, 7.11, 9.1, 9.5, 9.6, 13.1, 13.5, 15.1 and 17.1. -/
def rawN4 (c : BitVec 4 → Instr) (w : Nat) : Option Raw :=
  some ⟨c (fld w 0 4), nz w 4 14, false, false⟩

/-- Layout MN of Tables 7.5, 7.11, 9.1, 9.5, 9.6, 13.1, 13.5, 15.1 and 17.1. -/
def rawMN (c : BitVec 4 → BitVec 6 → BitVec 2 → Instr) (w : Nat) : Option Raw :=
  some ⟨c (fld w 14 4) (fld w 6 6) (fld w 4 2), nz w 12 2 || nz w 0 4, false, false⟩

/-- Layout MP of Tables 7.5, 7.11, 9.1, 9.5, 9.6, 13.1, 13.5, 15.1 and 17.1. -/
def rawMP (c : BitVec 5 → BitVec 2 → BitVec 4 → Instr) (w : Nat) : Option Raw :=
  some ⟨c (fld w 12 5) (fld w 4 2) (fld w 0 4), nz w 17 1 || nz w 6 6, false, false⟩

/-- Layout VT of Tables 7.5, 7.11, 9.1, 9.5, 9.6, 13.1, 13.5, 15.1 and 17.1. -/
def rawVT (c : BitVec 6 → BitVec 6 → Instr) (w : Nat) : Option Raw :=
  some ⟨c (fld w 6 6) (fld w 0 6), nz w 12 6, false, false⟩

/-- Layout Z0 of Tables 7.5, 7.11, 9.1, 9.5, 9.6, 13.1, 13.5, 15.1 and 17.1. -/
def rawZ0 (c : Instr) (w : Nat) : Option Raw :=
  some ⟨c, nz w 0 18, false, false⟩

/-- Layout SACC of Tables 7.5, 7.11, 9.1, 9.5, 9.6, 13.1, 13.5, 15.1 and 17.1. -/
def rawSACC (c : BitVec 4 → BitVec 4 → Bool → BitVec 6 → BitVec 2 → Instr) (w : Nat) : Option Raw :=
  some ⟨c (fld w 14 4) (fld w 10 4) (bitAt w 9) (fld w 2 6) (fld w 0 2), nz w 8 1, false, false⟩

/-- Layout TK of Tables 7.5, 7.11, 9.1, 9.5, 9.6, 13.1, 13.5, 15.1 and 17.1. -/
def rawTK (c : BitVec 4 → BitVec 2 → Instr) (w : Nat) : Option Raw :=
  some ⟨c (fld w 14 4) (fld w 0 2), nz w 2 12, false, false⟩

/-- Layout TCVT of Tables 7.5, 7.11, 9.1, 9.5, 9.6, 13.1, 13.5, 15.1 and 17.1. -/
def rawTCVT (c : BitVec 4 → BitVec 2 → BitVec 6 → Bool → BitVec 2 → Instr) (w : Nat) : Option Raw :=
  some ⟨c (fld w 14 4) (fld w 12 2) (fld w 6 6) (bitAt w 5) (fld w 0 2), nz w 2 3, false, false⟩

/-- Layout TF of Tables 7.5, 7.11, 9.1, 9.5, 9.6, 13.1, 13.5, 15.1 and 17.1. -/
def rawTF (c : BitVec 4 → BitVec 2 → BitVec 6 → BitVec 2 → Instr) (w : Nat) : Option Raw :=
  some ⟨c (fld w 14 4) (fld w 12 2) (fld w 6 6) (fld w 0 2), nz w 2 4, false, false⟩

/-- Layout SSC of Tables 7.5, 7.11, 9.1, 9.5, 9.6, 13.1, 13.5, 15.1 and 17.1. -/
def rawSSC (c : BitVec 4 → BitVec 6 → BitVec 2 → Instr) (w : Nat) : Option Raw :=
  some ⟨c (fld w 14 4) (fld w 8 6) (fld w 0 2), nz w 2 6, false, false⟩

/-- Layout TCP of Tables 7.5, 7.11, 9.1, 9.5, 9.6, 13.1, 13.5, 15.1 and 17.1. -/
def rawTCP (c : BitVec 4 → BitVec 4 → BitVec 2 → Instr) (w : Nat) : Option Raw :=
  some ⟨c (fld w 14 4) (fld w 10 4) (fld w 0 2), nz w 2 8, false, false⟩

/-- Layout XP of Tables 7.5, 7.11, 9.1, 9.5, 9.6, 13.1, 13.5, 15.1 and 17.1. -/
def rawXP (c : Bool → BitVec 6 → Instr) (w : Nat) : Option Raw :=
  some ⟨c (bitAt w 12) (fld w 6 6), nz w 13 5 || nz w 0 6, false, false⟩

/-- Layout VD0 of Tables 7.5, 7.11, 9.1, 9.5, 9.6, 13.1, 13.5, 15.1 and 17.1. -/
def rawVD0 (c : BitVec 6 → Instr) (w : Nat) : Option Raw :=
  some ⟨c (fld w 12 6), nz w 0 12, false, false⟩

/-- Layout XPL of Tables 7.5, 7.11, 9.1, 9.5, 9.6, 13.1, 13.5, 15.1 and 17.1. -/
def rawXPL (c : BitVec 5 → BitVec 6 → Bool → Instr) (w : Nat) : Option Raw :=
  some ⟨c (fld w 12 5) (fld w 6 6) (bitAt w 0), nz w 17 1 || nz w 1 5, false, false⟩

/-- Layout BX of Tables 7.5, 7.11, 9.1, 9.5, 9.6, 13.1, 13.5, 15.1 and 17.1. -/
def rawBX (c : BitVec 4 → Bool → BitVec 6 → Instr) (w : Nat) : Option Raw :=
  some ⟨c (fld w 14 4) (bitAt w 13) (fld w 6 6), nz w 12 1 || nz w 0 6, false, false⟩

/-- Layout BN of Tables 7.5, 7.11, 9.1, 9.5, 9.6, 13.1, 13.5, 15.1 and 17.1. -/
def rawBN (c : BitVec 4 → Bool → Instr) (w : Nat) : Option Raw :=
  some ⟨c (fld w 14 4) (bitAt w 13), nz w 0 13, false, false⟩

/-- Layout ECP of Tables 7.5, 7.11, 9.1, 9.5, 9.6, 13.1, 13.5, 15.1 and 17.1. -/
def rawECP (c : BitVec 5 → BitVec 6 → BitVec 2 → Instr) (w : Nat) : Option Raw :=
  some ⟨c (fld w 12 5) (fld w 6 6) (fld w 0 2), nz w 17 1 || nz w 2 4, false, false⟩

/-- Layout TLR of Tables 7.5, 7.11, 9.1, 9.5, 9.6, 13.1, 13.5, 15.1 and 17.1. -/
def rawTLR (c : BitVec 5 → BitVec 4 → Instr) (w : Nat) : Option Raw :=
  some ⟨c (fld w 12 5) (fld w 0 4), nz w 17 1 || nz w 4 8, false, false⟩

/-- Layout C2A of Tables 7.5, 7.11, 9.1, 9.5, 9.6, 13.1, 13.5, 15.1 and 17.1. -/
def rawC2A (c : BitVec 2 → BitVec 6 → Instr) (w : Nat) : Option Raw :=
  some ⟨c (fld w 16 2) (fld w 6 6), nz w 12 4 || nz w 0 6, false, false⟩

/-- Layout A0 of Tables 7.5, 7.11, 9.1, 9.5, 9.6, 13.1, 13.5, 15.1 and 17.1. -/
def rawA0 (c : BitVec 6 → Instr) (w : Nat) : Option Raw :=
  some ⟨c (fld w 6 6), nz w 12 6 || nz w 0 6, false, false⟩

/-- Layout B1 of Tables 7.5, 7.11, 9.1, 9.5, 9.6, 13.1, 13.5, 15.1 and 17.1. -/
def rawB1 (c : Bool → Instr) (w : Nat) : Option Raw :=
  some ⟨c (bitAt w 0), nz w 1 17, false, false⟩

/-- Operand b: F[5:0] names a register without I slots, and is reserved with them (Table 7.4). -/
def bopOf (w : Nat) (iws : List Nat) : BOp :=
  match iws with
  | [] => .reg (fld w 0 6)
  | [i] => .imm1 (fld i 0 24)
  | i :: j :: _ => .imm2 (fld j 0 24) (fld i 0 24)

/-- Whether F[5:0] is nonzero although an I slot supplies operand b (R125). -/
def bopRsv (w : Nat) (iws : List Nat) : Bool := !iws.isEmpty && nz w 0 6

/-- The three-register forms of class S. -/
def rawTR3 (c : BitVec 5 → BitVec 6 → BOp → Instr) (w : Nat) (iws : List Nat) : Option Raw :=
  some ⟨c (fld w 12 5) (fld w 6 6) (bopOf w iws), nz w 17 1 || bopRsv w iws, false, false⟩

/-- The compares, layout PC. -/
def rawPC (c : BitVec 4 → Bool → BitVec 6 → BOp → Instr) (w : Nat) (iws : List Nat) : Option Raw :=
  some ⟨c (fld w 14 4) (bitAt w 13) (fld w 6 6) (bopOf w iws), nz w 12 1 || bopRsv w iws, false, false⟩

/-- cmpt: layout TR with d reserved. -/
def rawCT (c : BitVec 6 → BOp → Instr) (w : Nat) (iws : List Nat) : Option Raw :=
  some ⟨c (fld w 6 6) (bopOf w iws), nz w 12 6 || bopRsv w iws, false, false⟩

/-- movi, layout IM. -/
def rawIM (c : BitVec 5 → MovImm → Instr) (w : Nat) (iws : List Nat) : Option Raw :=
  some ⟨c (fld w 12 5) (match iws with
    | [] => .i0 (fld w 0 12)
    | [i] => .i1 (fld w 0 12) (fld i 0 24)
    | i :: j :: _ => .i2 (fld w 0 12) (fld j 0 24) (fld i 0 24)), nz w 17 1, false, false⟩

/-- The fields of Table 7.8 in an I slot. -/
def mextOf (i : Nat) : MExt := ⟨fld i 20 4, bitAt i 19, fld i 16 3, fld i 12 4, fld i 0 12⟩

/-- The address operand of the indexed M-class forms (R191). -/
def midxOf (w : Nat) (iws : List Nat) : MIdx :=
  match iws with
  | [] => .idx (fld w 0 6)
  | [i] => .disp1 (fld w 0 6) (mextOf i)
  | i :: j :: _ => .disp2 (fld w 0 6) (mextOf i) (fld j 0 24)

/-- Scalar loads: data is a scalar destination, so bit 17 is reserved (R104). -/
def rawLD (c : BitVec 5 → BitVec 6 → MIdx → Instr) (w : Nat) (iws : List Nat) : Option Raw :=
  some ⟨c (fld w 12 5) (fld w 6 6) (midxOf w iws), nz w 17 1, false, false⟩

/-- Scalar stores: data is a scalar source. -/
def rawSTS (c : BitVec 6 → BitVec 6 → MIdx → Instr) (w : Nat) (iws : List Nat) : Option Raw :=
  some ⟨c (fld w 12 6) (fld w 6 6) (midxOf w iws), false, false, false⟩

/-- Vector loads and stores: data is a vector register. -/
def rawVM (c : BitVec 6 → BitVec 6 → MIdx → Instr) (w : Nat) (iws : List Nat) : Option Raw := rawSTS c w iws

/-- pref: data is reserved. -/
def rawPF (c : BitVec 6 → MIdx → Instr) (w : Nat) (iws : List Nat) : Option Raw :=
  some ⟨c (fld w 6 6) (midxOf w iws), nz w 12 6, false, false⟩

/-- vlds, vgath and vscat, which require an I slot (Table 7.8). -/
def rawVX (c : BitVec 6 → BitVec 6 → BitVec 6 → VIdx → Instr) (w : Nat) (iws : List Nat) : Option Raw :=
  some ⟨c (fld w 12 6) (fld w 6 6) (fld w 0 6) (match iws with
    | [] => ⟨mextOf 0, none⟩
    | [i] => ⟨mextOf i, none⟩
    | i :: j :: _ => ⟨mextOf i, some (fld j 0 24)⟩), false, false, iws.isEmpty⟩

/-- The fields of Table 7.9 in an I slot. -/
def amoxOf (i : Nat) : AmoX := ⟨fld i 20 4, fld i 18 2, fld i 15 3, fld i 12 3, fld i 9 3, fld i 5 4⟩

/-- amo, which requires an I slot. -/
def rawAMO (c : BitVec 5 → BitVec 6 → BitVec 6 → AmoX → Instr) (w : Nat) (iws : List Nat) : Option Raw :=
  some ⟨c (fld w 12 5) (fld w 6 6) (fld w 0 6) (amoxOf (iws.headD 0)), nz w 17 1, nz (iws.headD 0) 0 5, iws.isEmpty⟩

/-- cas, of the same layout as amo. -/
def rawCAS (c : BitVec 5 → BitVec 6 → BitVec 6 → AmoX → Instr) (w : Nat) (iws : List Nat) : Option Raw := rawAMO c w iws

/-- fence and fence.ro, layout FN: bit 14 tells them apart. -/
def rawFence (w : Nat) : Option Raw :=
  some ⟨if bitAt w 14 then .fenceRo (fld w 15 3) else .fence (fld w 15 3), nz w 0 14, false, false⟩

/-- mma, mmaz and mma64 with the optional cluster-remote I slot (Table 7.10). -/
def rawMMA (c : BitVec 4 → BitVec 6 → BitVec 6 → BitVec 2 → Option RemX → Instr) (w : Nat) (iws : List Nat) : Option Raw :=
  some ⟨c (fld w 14 4) (fld w 8 6) (fld w 2 6) (fld w 0 2) (match iws with
    | [] => none
    | i :: _ => some ⟨bitAt i 23, bitAt i 22, bitAt i 21, fld i 17 4⟩), false, nz (iws.headD 0) 0 17, false⟩

/-- The offset of layout BO and of cropen (Table 7.4). -/
def offOf (w : Nat) (iws : List Nat) : Off :=
  ⟨fld w 0 13, match iws with
    | [] => none
    | i :: _ => some (fld i 0 24)⟩

/-- br, call, loop and loopw, layout BO. -/
def rawBO (c : BitVec 4 → Bool → Off → Instr) (w : Nat) (iws : List Nat) : Option Raw :=
  some ⟨c (fld w 14 4) (bitAt w 13) (offOf w iws), false, false, false⟩

/-- cropen (Table 7.13). -/
def rawCR (c : Off → Instr) (w : Nat) (iws : List Nat) : Option Raw :=
  some ⟨c (offOf w iws), nz w 13 5, false, false⟩

/-- The opcodes of class S; every other one is reserved. -/
def rawSclass (op w : Nat) (iws : List Nat) : Option Raw :=
  match op with
  | 0x00 => rawNK Instr.nop w
  | 0x01 => rawTR3 Instr.add w iws
  | 0x02 => rawTR3 Instr.sub w iws
  | 0x03 => rawTR3 Instr.mul w iws
  | 0x04 => rawTR3 Instr.mulh w iws
  | 0x05 => rawTR3 Instr.mulhu w iws
  | 0x06 => rawTR3 Instr.div w iws
  | 0x07 => rawTR3 Instr.divu w iws
  | 0x08 => rawTR3 Instr.rem w iws
  | 0x09 => rawTR3 Instr.remu w iws
  | 0x0A => rawTR3 Instr.and w iws
  | 0x0B => rawTR3 Instr.or w iws
  | 0x0C => rawTR3 Instr.xor w iws
  | 0x0D => rawTR3 Instr.andn w iws
  | 0x0E => rawTR3 Instr.shl w iws
  | 0x0F => rawTR3 Instr.shr w iws
  | 0x10 => rawTR3 Instr.sar w iws
  | 0x11 => rawTR3 Instr.min w iws
  | 0x12 => rawTR3 Instr.max w iws
  | 0x13 => rawTR3 Instr.minu w iws
  | 0x14 => rawTR3 Instr.maxu w iws
  | 0x15 => rawTR2 Instr.clz w
  | 0x16 => rawTR2 Instr.popc w
  | 0x17 => rawTR3 Instr.addx2 w iws
  | 0x18 => rawTR3 Instr.addx3 w iws
  | 0x19 => rawTR3 Instr.addx4 w iws
  | 0x1A => rawIM Instr.movi w iws
  | 0x1B => rawPC Instr.cmpeq w iws
  | 0x1C => rawPC Instr.cmpne w iws
  | 0x1D => rawPC Instr.cmplt w iws
  | 0x1E => rawPC Instr.cmple w iws
  | 0x1F => rawPC Instr.cmpltu w iws
  | 0x20 => rawPC Instr.cmpleu w iws
  | 0x21 => rawMV Instr.movt w
  | 0x22 => rawPL Instr.plog w
  | 0x23 => rawPM Instr.pmov w
  | 0x24 => rawD0 Instr.pget w
  | 0x25 => rawSG Instr.mfs w
  | 0x26 => rawSP Instr.mts w
  | 0x27 => rawCT Instr.cmpt w iws
  | 0x28 => rawTR3 Instr.bfx w iws
  | 0x29 => rawTR3 Instr.bfi w iws
  | _ => none

/-- The opcodes of class V; every other one is reserved. -/
def rawVclass (op w : Nat) : Option Raw :=
  match op with
  | 0x00 => rawV3 Instr.vaddf w
  | 0x01 => rawV3 Instr.vsubf w
  | 0x02 => rawV3 Instr.vmulf w
  | 0x03 => rawV3 Instr.vfmaf w
  | 0x04 => rawV3 Instr.vfmsf w
  | 0x05 => rawV3 Instr.vminf w
  | 0x06 => rawV3 Instr.vmaxf w
  | 0x07 => rawV2 Instr.vabsf w
  | 0x08 => rawV2 Instr.vnegf w
  | 0x09 => rawVC Instr.vceqf w
  | 0x0A => rawVC Instr.vcltf w
  | 0x0B => rawVC Instr.vclef w
  | 0x0C => rawVC Instr.vcunf w
  | 0x10 => rawV3 Instr.vaddi w
  | 0x11 => rawV3 Instr.vsubi w
  | 0x12 => rawV3 Instr.vmuli w
  | 0x13 => rawV3 Instr.vmulhi w
  | 0x14 => rawV3 Instr.vmini w
  | 0x15 => rawV3 Instr.vmaxi w
  | 0x16 => rawV3 Instr.vand w
  | 0x17 => rawV3 Instr.vor w
  | 0x18 => rawV3 Instr.vxor w
  | 0x19 => rawV3 Instr.vshl w
  | 0x1A => rawV3 Instr.vshr w
  | 0x1B => rawV3 Instr.vsar w
  | 0x1C => rawVC Instr.vceqi w
  | 0x1D => rawVC Instr.vclti w
  | 0x1E => rawVC Instr.vcltu w
  | 0x1F => rawV3 Instr.vaddsi w
  | 0x20 => rawV3 Instr.vsel w
  | 0x21 => rawV2 Instr.vbc w
  | 0x22 => rawV2 Instr.vmov w
  | _ => none

/-- The opcodes of class N; every other one is reserved. -/
def rawNclass (op w : Nat) : Option Raw :=
  match op with
  | 0x00 => rawV3 Instr.naddB w
  | 0x01 => rawV3 Instr.nsubB w
  | 0x02 => rawV3 Instr.nmulB w
  | 0x03 => rawV3 Instr.nfmaB w
  | 0x04 => rawV3 Instr.nminB w
  | 0x05 => rawV3 Instr.nmaxB w
  | 0x06 => rawVC Instr.nceqB w
  | 0x07 => rawVC Instr.ncltB w
  | 0x10 => rawV3 Instr.naddH w
  | 0x11 => rawV3 Instr.nsubH w
  | 0x12 => rawV3 Instr.nmulH w
  | 0x13 => rawV3 Instr.nminH w
  | 0x14 => rawV3 Instr.nmaxH w
  | 0x18 => rawV3 Instr.naddQ w
  | 0x19 => rawV3 Instr.nsubQ w
  | 0x1A => rawV3 Instr.nminQ w
  | 0x1B => rawV3 Instr.nmaxQ w
  | 0x1C => rawV3 Instr.naddsQ w
  | _ => none

/-- The opcodes of class Q; every other one is reserved. -/
def rawQclass (op w : Nat) : Option Raw :=
  match op with
  | 0x00 => rawV3 Instr.vcvt w
  | 0x02 => rawV3 Instr.vred w
  | 0x03 => rawV3 Instr.vscan w
  | 0x04 => rawV3 Instr.vshuf w
  | 0x05 => rawV3 Instr.vrot w
  | 0x06 => rawCX Instr.vcx w
  | 0x07 => rawV3 Instr.vhist w
  | 0x08 => rawV3 Instr.vmerge w
  | 0x09 => rawVF Instr.vfind w
  | 0x0A => rawDS3 Instr.vlane w
  | 0x0B => rawV3 Instr.vins w
  | 0x0C => rawN4 Instr.msel w
  | 0x0D => rawPL Instr.mlog w
  | 0x0E => rawMN Instr.msetn w
  | 0x0F => rawMP Instr.mpop w
  | 0x10 => rawVT Instr.vcmpt w
  | _ => none

/-- The opcodes of class F; every other one is reserved. -/
def rawFclass (op w : Nat) : Option Raw :=
  match op with
  | 0x00 => rawV2 Instr.frcp w
  | 0x01 => rawV2 Instr.frsq w
  | 0x02 => rawV2 Instr.fsqrt w
  | 0x03 => rawV2 Instr.fexp2 w
  | 0x04 => rawV2 Instr.flog2 w
  | 0x05 => rawV2 Instr.fsig w
  | 0x06 => rawV2 Instr.ftanh w
  | 0x07 => rawV2 Instr.ferf w
  | 0x08 => rawV2 Instr.fsinp w
  | 0x09 => rawV2 Instr.fcosp w
  | 0x20 => rawV2 Instr.frcpB w
  | 0x21 => rawV2 Instr.frsqB w
  | 0x22 => rawV2 Instr.fsqrtB w
  | 0x23 => rawV2 Instr.fexp2B w
  | 0x24 => rawV2 Instr.flog2B w
  | 0x25 => rawV2 Instr.fsigB w
  | 0x26 => rawV2 Instr.ftanhB w
  | 0x27 => rawV2 Instr.ferfB w
  | 0x28 => rawV2 Instr.fsinpB w
  | 0x29 => rawV2 Instr.fcospB w
  | _ => none

/-- The opcodes of class M; every other one is reserved. -/
def rawMclass (op w : Nat) (iws : List Nat) : Option Raw :=
  match op with
  | 0x00 => rawLD Instr.ldB w iws
  | 0x01 => rawLD Instr.ldBu w iws
  | 0x02 => rawLD Instr.ldH w iws
  | 0x03 => rawLD Instr.ldHu w iws
  | 0x04 => rawLD Instr.ldW w iws
  | 0x05 => rawLD Instr.ldWu w iws
  | 0x06 => rawLD Instr.ldD w iws
  | 0x08 => rawSTS Instr.stB w iws
  | 0x09 => rawSTS Instr.stH w iws
  | 0x0A => rawSTS Instr.stW w iws
  | 0x0B => rawSTS Instr.stD w iws
  | 0x10 => rawVM Instr.vldF32 w iws
  | 0x11 => rawVM Instr.vldF16 w iws
  | 0x12 => rawVM Instr.vldBf16 w iws
  | 0x13 => rawVM Instr.vldI8 w iws
  | 0x14 => rawVM Instr.vldI8n w iws
  | 0x15 => rawVM Instr.vldB18 w iws
  | 0x16 => rawVM Instr.vld w iws
  | 0x18 => rawVM Instr.vstF32 w iws
  | 0x19 => rawVM Instr.vstF16 w iws
  | 0x1A => rawVM Instr.vstBf16 w iws
  | 0x1B => rawVM Instr.vstI8 w iws
  | 0x1C => rawVM Instr.vstI8n w iws
  | 0x1D => rawVM Instr.vstB18 w iws
  | 0x1E => rawVM Instr.vst w iws
  | 0x20 => rawVX Instr.vlds w iws
  | 0x21 => rawVX Instr.vgath w iws
  | 0x22 => rawVX Instr.vscat w iws
  | 0x28 => rawAMO Instr.amo w iws
  | 0x29 => rawCAS Instr.cas w iws
  | 0x30 => rawFence w
  | 0x31 => rawZ0 Instr.drain w
  | 0x32 => rawPF Instr.pref w iws
  | _ => none

/-- The opcodes of class X; every other one is reserved. -/
def rawXclass (op w : Nat) (iws : List Nat) : Option Raw :=
  match op with
  | 0x00 => rawMMA Instr.mmaI8 w iws
  | 0x01 => rawMMA Instr.mmaI8p w iws
  | 0x02 => rawMMA Instr.mmaBf16 w iws
  | 0x03 => rawMMA Instr.mmaF16 w iws
  | 0x04 => rawMMA Instr.mmaBf16p w iws
  | 0x08 => rawMMA Instr.mmazI8 w iws
  | 0x09 => rawMMA Instr.mmazI8p w iws
  | 0x0A => rawMMA Instr.mmazBf16 w iws
  | 0x0B => rawMMA Instr.mmazF16 w iws
  | 0x0C => rawMMA Instr.mmazBf16p w iws
  | 0x10 => rawSACC Instr.sacc w
  | 0x11 => rawTK Instr.tclr w
  | 0x12 => rawTCVT Instr.tcvt w
  | 0x13 => rawTF Instr.tld w
  | 0x14 => rawTF Instr.tred w
  | 0x15 => rawSSC Instr.sscan w
  | 0x16 => rawTF Instr.tdig w
  | 0x17 => rawTCP Instr.tcopy w
  | 0x20 => rawMMA Instr.mma64 w iws
  | _ => none

/-- The opcodes of class T; every other one is reserved. -/
def rawTclass (op w : Nat) : Option Raw :=
  match op with
  | 0x00 => rawXP Instr.xpush36 w
  | 0x01 => rawXP Instr.xpush18 w
  | 0x02 => rawXP Instr.xpush9 w
  | 0x04 => rawVD0 Instr.xpop w
  | 0x08 => rawXPL Instr.xplane w
  | 0x0C => rawZ0 Instr.xrst w
  | _ => none

/-- The opcodes of class B; every other one is reserved. -/
def rawBclass (op w : Nat) (iws : List Nat) : Option Raw :=
  match op with
  | 0x00 => rawBO Instr.br w iws
  | 0x01 => rawBX Instr.bri w
  | 0x02 => rawBO Instr.call w iws
  | 0x03 => rawBX Instr.calli w
  | 0x04 => rawBN Instr.ret w
  | 0x05 => rawBO Instr.loop w iws
  | 0x06 => rawBO Instr.loopw w iws
  | 0x07 => rawBN Instr.exit w
  | 0x08 => rawBN Instr.yield w
  | _ => none

/-- The opcodes of class E; every other one is reserved. -/
def rawEclass (op w : Nat) : Option Raw :=
  match op with
  | 0x00 => rawECP Instr.copy w
  | 0x01 => rawTR2 Instr.coll w
  | 0x02 => rawPM Instr.waittl w
  | 0x03 => rawTLR Instr.tlrd w
  | 0x04 => rawC2A Instr.waitwp w
  | 0x05 => rawTR2 Instr.launch w
  | 0x06 => rawA0 Instr.launcht w
  | 0x07 => rawA0 Instr.join w
  | 0x08 => rawB1 Instr.bar w
  | 0x09 => rawVT Instr.signal w
  | _ => none

/-- The opcodes of class Y; every other one is reserved. -/
def rawYclass (op w : Nat) (iws : List Nat) : Option Raw :=
  match op with
  | 0x00 => rawNK Instr.trap w
  | 0x01 => rawZ0 Instr.rft w
  | 0x02 => rawCR Instr.cropen w iws
  | 0x03 => rawZ0 Instr.crclose w
  | 0x04 => rawA0 Instr.modew w
  | 0x05 => rawA0 Instr.vwin w
  | 0x06 => rawDS3 Instr.ilock w
  | 0x07 => rawVT Instr.iunlk w
  | 0x08 => rawC2A Instr.wpset w
  | 0x09 => rawNK Instr.brk w
  | _ => none

/-- A hint slot: bits [30:28] and every payload are ignored, and so are the kinds 4 to 15 (R100). -/
def rawHint (w : Nat) : Option Raw :=
  match w / 2 ^ 20 % 16 with
  | 1 => some ⟨.succPrefetch (fld w 0 20), false, false, false⟩
  | 2 => some ⟨.branchLikely (fld w 0 20), false, false, false⟩
  | 3 => some ⟨.locality (fld w 0 20), false, false, false⟩
  | _ => some ⟨.hintNone (fld w 20 4) (fld w 0 20), false, false, false⟩

/-- A slot word with its attached I slots read field by field; none for a reserved class or opcode (Table 7.2, R105 to R116).
The S and P fields are no part of an instruction and are not looked at. -/
def rawSlot (w : Nat) (iws : List Nat) : Option Raw :=
  let op := w / 2 ^ 18 % 64
  match w / 2 ^ 24 % 16 with
  | 0 => rawSclass op w iws
  | 1 => rawVclass op w
  | 2 => rawNclass op w
  | 3 => rawQclass op w
  | 4 => rawFclass op w
  | 5 => rawMclass op w iws
  | 6 => rawXclass op w iws
  | 7 => rawTclass op w
  | 8 => rawBclass op w iws
  | 9 => rawEclass op w
  | 10 => rawYclass op w iws
  | 14 => rawHint w
  | _ => none

/-- The instruction of a slot word with its attached I slots, or the first check of R101 that the slot alone fails. -/
def decodeSlot (w : Nat) (iws : List Nat) : Except DecErr Instr :=
  match rawSlot w iws with
  | none => .error (.illegal w)
  | some r =>
    if r.instr.badSub then .error (.illegal (iws.headD w))
    else if r.missing then .error .islots
    else if r.zs then .error (.reserved w)
    else if r.zi || r.instr.badField then .error (.reserved (iws.headD w))
    else .ok r.instr

/-- How many I slots an instruction accepts, by class and opcode (the I columns of Tables 7.6 to 7.13). -/
def maxI (cl op : Nat) : Nat :=
  match cl with
  | 0 => if (1 ≤ op ∧ op ≤ 0x14) ∨ (0x17 ≤ op ∧ op ≤ 0x20) ∨ (0x27 ≤ op ∧ op ≤ 0x29) then 2 else 0
  | 5 => if op ≤ 6 ∨ (8 ≤ op ∧ op ≤ 0x0B) ∨ (0x10 ≤ op ∧ op ≤ 0x16) ∨ (0x18 ≤ op ∧ op ≤ 0x1E) ∨ (0x20 ≤ op ∧ op ≤ 0x22) ∨ op = 0x32
      then 2 else if op = 0x28 ∨ op = 0x29 then 1 else 0
  | 6 => if op ≤ 4 ∨ (8 ≤ op ∧ op ≤ 0x0C) ∨ op = 0x20 then 1 else 0
  | 8 => if op = 0 ∨ op = 2 ∨ op = 5 ∨ op = 6 then 1 else 0
  | 10 => if op = 2 then 1 else 0
  | _ => 0

/-- A slot of a bundle with the I slots attached to it (R98). -/
structure Item where
  ord : Nat
  word : Nat
  iws : List Nat
  deriving DecidableEq, Repr

def Item.cl (x : Item) : Nat := x.word / 2 ^ 24 % 16
def Item.op (x : Item) : Nat := x.word / 2 ^ 18 % 64
def Item.p (x : Item) : Nat := x.word / 2 ^ 28 % 8

/-- The items read so far (last first), how many more I slots the last one accepts, and the I slots that attach to nothing. -/
structure Grouping where
  items : List Item
  room : Nat
  stray : List (Nat × Nat)
  deriving DecidableEq, Repr

/-- Reads one more word of a bundle: an I slot attaches to the item before it while that accepts one (R98). -/
def Grouping.add (g : Grouping) (k w : Nat) : Grouping :=
  if w / 2 ^ 24 % 16 = 15 then
    match g.items, g.room with
    | x :: xs, n + 1 => ⟨{ x with iws := x.iws ++ [w] } :: xs, n, g.stray⟩
    | _, _ => { g with room := 0, stray := g.stray ++ [(k, w)] }
  else ⟨⟨k, w, []⟩ :: g.items, maxI (w / 2 ^ 24 % 16) (w / 2 ^ 18 % 64), g.stray⟩

/-- The words of a bundle grouped into items, from ordinal `k` on. -/
def groupFrom (g : Grouping) (k : Nat) : List Nat → Grouping
  | [] => g
  | w :: ws => groupFrom (g.add k w) (k + 1) ws

/-- A failed check of R101: the cause, the ordinal that shows it and the word for INFO1 (0 where there is none). -/
structure BundleErr where
  cause : Nat
  ord : Nat
  info : Nat
  deriving DecidableEq, Repr

/-- Check 3 of R101 on one item: an illegal class, opcode or sub-operation, or P = 7 outside an H slot. -/
def Item.illegal (x : Item) : Option BundleErr :=
  match decodeSlot x.word x.iws with
  | .error (.illegal w) => some ⟨0x01, x.ord, w⟩
  | _ =>
    if x.cl ≠ 14 ∧ x.p = 7 then some ⟨0x01, x.ord, x.word⟩
    else match x.iws.find? (fun w => w / 2 ^ 28 % 8 == 7) with
      | some w => some ⟨0x01, x.ord, w⟩
      | none => none

/-- Check 5 of R101 on one item: a reserved field of the slot or of an attached I slot, whose P must be 0 (R98). -/
def Item.reserved (x : Item) : Option BundleErr :=
  match decodeSlot x.word x.iws with
  | .error (.reserved w) => some ⟨0x03, x.ord, w⟩
  | _ => match x.iws.find? (fun w => w / 2 ^ 28 % 8 != 0) with
      | some w => some ⟨0x03, x.ord, w⟩
      | none => none

/-- The unit group a class counts on: V, N and Q are counted together (R93). -/
def unitGroup (cl : Nat) : Nat := if cl = 2 ∨ cl = 3 then 1 else cl

/-- How many slots of a unit group a bundle may hold (Table 7.2). -/
def unitLimit (g : Nat) : Nat :=
  match g with
  | 0 => 2
  | 1 => 3
  | 5 => 2
  | 8 => 4
  | 14 => 8
  | _ => 1

/-- The first item, in bundle order, beyond its unit group's limit. -/
def overLimit (seen : List Nat) : List Item → Option Nat
  | [] => none
  | x :: xs =>
    if unitLimit (unitGroup x.cl) ≤ seen.count (unitGroup x.cl) then some x.ord
    else overLimit (unitGroup x.cl :: seen) xs

/-- TRAP, RFT, CROPEN and CRCLOSE stand alone but for I and H slots (R94). -/
def Item.alone (x : Item) : Bool := x.cl == 10 && x.op ≤ 3

/-- The ordinals that show a broken R93, R94, R96 or R98 (check 4). For R94 the first slot that is no H slot shows it. -/
def bundleFaults (items : List Item) (stray : List (Nat × Nat)) : List Nat :=
  let nb := (items.filter (fun x => x.cl == 8)).length
  let real := items.filter (fun x => x.cl != 14)
  (overLimit [] items).toList
    ++ ((items.filter (fun x => x.cl == 8 && x.p != 0)).map Item.ord)
    ++ ((items.filter (fun x => x.cl != 8 && x.cl != 14 && 1 ≤ x.p && x.p ≤ 4 && nb < x.p)).map Item.ord)
    ++ ((items.filter (fun x => decodeSlot x.word x.iws == .error .islots)).map Item.ord)
    ++ (if real.any Item.alone && 2 ≤ real.length then (real.map Item.ord).take 1 else [])
    ++ stray.map Prod.fst

/-- The least of a list of ordinals. -/
def leastOf : List Nat → Option Nat
  | [] => none
  | x :: xs => match leastOf xs with
    | none => some x
    | some y => some (min x y)

/-- A decoded bundle: its slots in bundle order and how many words it takes. -/
structure Bundle where
  slots : List Slot
  len : Nat
  deriving DecidableEq, Repr

/-- The slot of an item that passed every check. -/
def Item.slot (x : Item) : Option Slot :=
  match decodeSlot x.word x.iws with
  | .ok i => some ⟨i, if x.cl = 14 then 0 else x.p, x.ord, x.word⟩
  | .error _ => none

/-- The checks 3, 4 and 5 of R101 on the words of a bundle up to its stop slot, in that order. -/
def decodeBundle (ws : List Nat) : Except BundleErr Bundle :=
  let g := groupFrom ⟨[], 0, []⟩ 0 ws
  let items := g.items.reverse
  let ill := items.filterMap Item.illegal
    ++ (g.stray.filter (fun x => x.2 / 2 ^ 28 % 8 == 7)).map (fun x => ⟨0x01, x.1, x.2⟩)
  match leastOf (ill.map BundleErr.ord) with
  | some k => .error ((ill.find? (fun e => e.ord == k)).getD ⟨0x01, k, 0⟩)
  | none => match leastOf (bundleFaults items g.stray) with
    | some k => .error ⟨0x02, k, 0⟩
    | none => match items.findSome? Item.reserved with
      | some e => .error e
      | none => .ok ⟨items.filterMap Item.slot, ws.length⟩

/-- The words up to and with the first that has its stop bit set; none where none of the first `n` has (R90). -/
def upToStop : Nat → List Nat → Option (List Nat)
  | 0, _ => none
  | _ + 1, [] => none
  | n + 1, w :: ws =>
    if bitAt w 31 then some [w]
    else match upToStop n ws with
      | some r => some (w :: r)
      | none => none

/-- The decoder on an instruction whose bits are `w`, the first word lowest. Where the opcode requires an I slot and `nbits`
gives it no bits, its operand word is an I slot with a zero payload. -/
def decodeTableWord (nbits w : Nat) : Option Instr :=
  let w0 := w % 2 ^ 32
  let need := match rawSlot w0 [] with
    | some r => r.missing
    | none => false
  let iws := if 32 < nbits then [w / 2 ^ 32 % 2 ^ 32] else if need then [0x0F000000] else []
  match decodeSlot w0 iws with
  | .ok i => some i
  | .error _ => none

/-- The word of layout NK with class and opcode `h`. -/
def encNK (h : Nat) (k : BitVec 8) : List Nat :=
  [h + k.toNat]

/-- The word of layout TR2 with class and opcode `h`. -/
def encTR2 (h : Nat) (d : BitVec 5) (a : BitVec 6) : List Nat :=
  [h + d.toNat * 2 ^ 12 + a.toNat * 2 ^ 6]

/-- The word of layout MV with class and opcode `h`. -/
def encMV (h : Nat) (d : BitVec 5) (a : BitVec 6) (n : Bool) (p : BitVec 4) : List Nat :=
  [h + d.toNat * 2 ^ 12 + a.toNat * 2 ^ 6 + n.toNat * 2 ^ 5 + p.toNat]

/-- The word of layout PL with class and opcode `h`. -/
def encPL (h : Nat) (d : BitVec 4) (f : BitVec 4) (x : BitVec 4) (y : BitVec 4) : List Nat :=
  [h + d.toNat * 2 ^ 14 + f.toNat * 2 ^ 10 + x.toNat * 2 ^ 4 + y.toNat]

/-- The word of layout PM with class and opcode `h`. -/
def encPM (h : Nat) (p : BitVec 4) (a : BitVec 6) : List Nat :=
  [h + p.toNat * 2 ^ 14 + a.toNat * 2 ^ 6]

/-- The word of layout D0 with class and opcode `h`. -/
def encD0 (h : Nat) (d : BitVec 5) : List Nat :=
  [h + d.toNat * 2 ^ 12]

/-- The word of layout SG with class and opcode `h`. -/
def encSG (h : Nat) (d : BitVec 5) (n : BitVec 12) : List Nat :=
  [h + d.toNat * 2 ^ 12 + n.toNat]

/-- The word of layout SP with class and opcode `h`. -/
def encSP (h : Nat) (n : BitVec 12) (a : BitVec 6) : List Nat :=
  [h + n.toNat * 2 ^ 6 + a.toNat]

/-- The word of layout V3 with class and opcode `h`. -/
def encV3 (h : Nat) (d : BitVec 6) (a : BitVec 6) (b : BitVec 6) : List Nat :=
  [h + d.toNat * 2 ^ 12 + a.toNat * 2 ^ 6 + b.toNat]

/-- The word of layout V2 with class and opcode `h`. -/
def encV2 (h : Nat) (d : BitVec 6) (a : BitVec 6) : List Nat :=
  [h + d.toNat * 2 ^ 12 + a.toNat * 2 ^ 6]

/-- The word of layout VC with class and opcode `h`. -/
def encVC (h : Nat) (m : BitVec 4) (a : BitVec 6) (b : BitVec 6) : List Nat :=
  [h + m.toNat * 2 ^ 14 + a.toNat * 2 ^ 6 + b.toNat]

/-- The word of layout CX with class and opcode `h`. -/
def encCX (h : Nat) (d : BitVec 6) (a : BitVec 6) (dir : Bool) (ty : Bool) (k : BitVec 3) : List Nat :=
  [h + d.toNat * 2 ^ 12 + a.toNat * 2 ^ 6 + dir.toNat * 2 ^ 4 + ty.toNat * 2 ^ 3 + k.toNat]

/-- The word of layout VF with class and opcode `h`. -/
def encVF (h : Nat) (d : BitVec 5) (m : BitVec 4) (w : BitVec 2) : List Nat :=
  [h + d.toNat * 2 ^ 12 + m.toNat * 2 ^ 6 + w.toNat * 2 ^ 4]

/-- The word of layout DS3 with class and opcode `h`. -/
def encDS3 (h : Nat) (d : BitVec 5) (a : BitVec 6) (b : BitVec 6) : List Nat :=
  [h + d.toNat * 2 ^ 12 + a.toNat * 2 ^ 6 + b.toNat]

/-- The word of layout N4 with class and opcode `h`. -/
def encN4 (h : Nat) (n : BitVec 4) : List Nat :=
  [h + n.toNat]

/-- The word of layout MN with class and opcode `h`. -/
def encMN (h : Nat) (m : BitVec 4) (a : BitVec 6) (w : BitVec 2) : List Nat :=
  [h + m.toNat * 2 ^ 14 + a.toNat * 2 ^ 6 + w.toNat * 2 ^ 4]

/-- The word of layout MP with class and opcode `h`. -/
def encMP (h : Nat) (d : BitVec 5) (w : BitVec 2) (m : BitVec 4) : List Nat :=
  [h + d.toNat * 2 ^ 12 + w.toNat * 2 ^ 4 + m.toNat]

/-- The word of layout VT with class and opcode `h`. -/
def encVT (h : Nat) (a : BitVec 6) (b : BitVec 6) : List Nat :=
  [h + a.toNat * 2 ^ 6 + b.toNat]

/-- The word of layout Z0 with class and opcode `h`. -/
def encZ0 (h : Nat)  : List Nat :=
  [h]

/-- The word of layout SACC with class and opcode `h`. -/
def encSACC (h : Nat) (t : BitVec 4) (ts : BitVec 4) (i : Bool) (a : BitVec 6) (k : BitVec 2) : List Nat :=
  [h + t.toNat * 2 ^ 14 + ts.toNat * 2 ^ 10 + i.toNat * 2 ^ 9 + a.toNat * 2 ^ 2 + k.toNat]

/-- The word of layout TK with class and opcode `h`. -/
def encTK (h : Nat) (t : BitVec 4) (k : BitVec 2) : List Nat :=
  [h + t.toNat * 2 ^ 14 + k.toNat]

/-- The word of layout TCVT with class and opcode `h`. -/
def encTCVT (h : Nat) (t : BitVec 4) (f : BitVec 2) (a : BitVec 6) (i : Bool) (k : BitVec 2) : List Nat :=
  [h + t.toNat * 2 ^ 14 + f.toNat * 2 ^ 12 + a.toNat * 2 ^ 6 + i.toNat * 2 ^ 5 + k.toNat]

/-- The word of layout TF with class and opcode `h`. -/
def encTF (h : Nat) (t : BitVec 4) (f : BitVec 2) (a : BitVec 6) (k : BitVec 2) : List Nat :=
  [h + t.toNat * 2 ^ 14 + f.toNat * 2 ^ 12 + a.toNat * 2 ^ 6 + k.toNat]

/-- The word of layout SSC with class and opcode `h`. -/
def encSSC (h : Nat) (t : BitVec 4) (v : BitVec 6) (k : BitVec 2) : List Nat :=
  [h + t.toNat * 2 ^ 14 + v.toNat * 2 ^ 8 + k.toNat]

/-- The word of layout TCP with class and opcode `h`. -/
def encTCP (h : Nat) (t : BitVec 4) (ts : BitVec 4) (k : BitVec 2) : List Nat :=
  [h + t.toNat * 2 ^ 14 + ts.toNat * 2 ^ 10 + k.toNat]

/-- The word of layout XP with class and opcode `h`. -/
def encXP (h : Nat) (l : Bool) (a : BitVec 6) : List Nat :=
  [h + l.toNat * 2 ^ 12 + a.toNat * 2 ^ 6]

/-- The word of layout VD0 with class and opcode `h`. -/
def encVD0 (h : Nat) (d : BitVec 6) : List Nat :=
  [h + d.toNat * 2 ^ 12]

/-- The word of layout XPL with class and opcode `h`. -/
def encXPL (h : Nat) (d : BitVec 5) (a : BitVec 6) (tr : Bool) : List Nat :=
  [h + d.toNat * 2 ^ 12 + a.toNat * 2 ^ 6 + tr.toNat]

/-- The word of layout BX with class and opcode `h`. -/
def encBX (h : Nat) (p : BitVec 4) (n : Bool) (a : BitVec 6) : List Nat :=
  [h + p.toNat * 2 ^ 14 + n.toNat * 2 ^ 13 + a.toNat * 2 ^ 6]

/-- The word of layout BN with class and opcode `h`. -/
def encBN (h : Nat) (p : BitVec 4) (n : Bool) : List Nat :=
  [h + p.toNat * 2 ^ 14 + n.toNat * 2 ^ 13]

/-- The word of layout ECP with class and opcode `h`. -/
def encECP (h : Nat) (d : BitVec 5) (a : BitVec 6) (ch : BitVec 2) : List Nat :=
  [h + d.toNat * 2 ^ 12 + a.toNat * 2 ^ 6 + ch.toNat]

/-- The word of layout TLR with class and opcode `h`. -/
def encTLR (h : Nat) (d : BitVec 5) (tl : BitVec 4) : List Nat :=
  [h + d.toNat * 2 ^ 12 + tl.toNat]

/-- The word of layout C2A with class and opcode `h`. -/
def encC2A (h : Nat) (c : BitVec 2) (a : BitVec 6) : List Nat :=
  [h + c.toNat * 2 ^ 16 + a.toNat * 2 ^ 6]

/-- The word of layout A0 with class and opcode `h`. -/
def encA0 (h : Nat) (a : BitVec 6) : List Nat :=
  [h + a.toNat * 2 ^ 6]

/-- The word of layout B1 with class and opcode `h`. -/
def encB1 (h : Nat) (s : Bool) : List Nat :=
  [h + s.toNat]

/-- The I slots and the F[5:0] of operand b. -/
def encBOp : BOp → Nat × List Nat
  | .reg r => (r.toNat, [])
  | .imm1 i => (0, [0x0F000000 + i.toNat])
  | .imm2 j i => (0, [0x0F000000 + i.toNat, 0x0F000000 + j.toNat])

/-- The words of a three-register form. -/
def encTR3 (h : Nat) (d : BitVec 5) (a : BitVec 6) (b : BOp) : List Nat :=
  (h + d.toNat * 2 ^ 12 + a.toNat * 2 ^ 6 + (encBOp b).1) :: (encBOp b).2

/-- The words of a compare. -/
def encPC (h : Nat) (p : BitVec 4) (c : Bool) (a : BitVec 6) (b : BOp) : List Nat :=
  (h + p.toNat * 2 ^ 14 + c.toNat * 2 ^ 13 + a.toNat * 2 ^ 6 + (encBOp b).1) :: (encBOp b).2

/-- The words of cmpt. -/
def encCT (h : Nat) (a : BitVec 6) (b : BOp) : List Nat :=
  (h + a.toNat * 2 ^ 6 + (encBOp b).1) :: (encBOp b).2

/-- The words of movi. -/
def encIM (h : Nat) (d : BitVec 5) (i : MovImm) : List Nat :=
  match i with
  | .i0 m => [h + d.toNat * 2 ^ 12 + m.toNat]
  | .i1 m x => [h + d.toNat * 2 ^ 12 + m.toNat, 0x0F000000 + x.toNat]
  | .i2 m y x => [h + d.toNat * 2 ^ 12 + m.toNat, 0x0F000000 + x.toNat, 0x0F000000 + y.toNat]

/-- The I slot of Table 7.8. -/
def encMExt (x : MExt) : Nat :=
  0x0F000000 + x.cp.toNat * 2 ^ 20 + x.u.toNat * 2 ^ 19 + x.ord.toNat * 2 ^ 16 + x.fmt.toNat * 2 ^ 12 + x.disp.toNat

/-- F[5:0] and the I slots of an indexed M-class address. -/
def encMIdx : MIdx → Nat × List Nat
  | .idx r => (r.toNat, [])
  | .disp1 lo x => (lo.toNat, [encMExt x])
  | .disp2 lo x hi => (lo.toNat, [encMExt x, 0x0F000000 + hi.toNat])

/-- The words of a scalar load. -/
def encLD (h : Nat) (d : BitVec 5) (b : BitVec 6) (x : MIdx) : List Nat :=
  (h + d.toNat * 2 ^ 12 + b.toNat * 2 ^ 6 + (encMIdx x).1) :: (encMIdx x).2

/-- The words of a scalar store. -/
def encSTS (h : Nat) (v b : BitVec 6) (x : MIdx) : List Nat :=
  (h + v.toNat * 2 ^ 12 + b.toNat * 2 ^ 6 + (encMIdx x).1) :: (encMIdx x).2

/-- The words of a vector load or store. -/
def encVM (h : Nat) (v b : BitVec 6) (x : MIdx) : List Nat := encSTS h v b x

/-- The words of pref. -/
def encPF (h : Nat) (b : BitVec 6) (x : MIdx) : List Nat :=
  (h + b.toNat * 2 ^ 6 + (encMIdx x).1) :: (encMIdx x).2

/-- The words of vlds, vgath and vscat. -/
def encVX (h : Nat) (d b o : BitVec 6) (x : VIdx) : List Nat :=
  (h + d.toNat * 2 ^ 12 + b.toNat * 2 ^ 6 + o.toNat) :: encMExt x.x :: (match x.hi with
    | none => []
    | some y => [0x0F000000 + y.toNat])

/-- The words of amo: the I slot is that of Table 7.9. -/
def encAMO (h : Nat) (d : BitVec 5) (b o : BitVec 6) (x : AmoX) : List Nat :=
  [h + d.toNat * 2 ^ 12 + b.toNat * 2 ^ 6 + o.toNat,
   0x0F000000 + x.aop.toNat * 2 ^ 20 + x.size.toNat * 2 ^ 18 + x.sord.toNat * 2 ^ 15 + x.ford.toNat * 2 ^ 12
     + x.scope.toNat * 2 ^ 9 + x.ps.toNat * 2 ^ 5]

/-- The words of cas. -/
def encCAS (h : Nat) (d : BitVec 5) (b o : BitVec 6) (x : AmoX) : List Nat := encAMO h d b o x

/-- The words of mma, mmaz and mma64. -/
def encMMA (h : Nat) (t : BitVec 4) (a b : BitVec 6) (k : BitVec 2) (r : Option RemX) : List Nat :=
  (h + t.toNat * 2 ^ 14 + a.toNat * 2 ^ 8 + b.toNat * 2 ^ 2 + k.toNat) :: (match r with
    | none => []
    | some x => [0x0F000000 + x.ra.toNat * 2 ^ 23 + x.rb.toNat * 2 ^ 22 + x.mc.toNat * 2 ^ 21 + x.off.toNat * 2 ^ 17])

/-- The I slot of an offset. -/
def encOff (o : Off) : List Nat :=
  match o.ext with
  | none => []
  | some x => [0x0F000000 + x.toNat]

/-- The words of br, call, loop and loopw. -/
def encBO (h : Nat) (p : BitVec 4) (n : Bool) (o : Off) : List Nat :=
  (h + p.toNat * 2 ^ 14 + n.toNat * 2 ^ 13 + o.lo.toNat) :: encOff o

/-- The words of cropen. -/
def encCR (h : Nat) (o : Off) : List Nat := (h + o.lo.toNat) :: encOff o

/-- The word of a hint slot (R100). -/
def encHint (kind : Nat) (p : BitVec 20) : List Nat := [0x0E000000 + kind * 2 ^ 20 + p.toNat]

/-- The words of an instruction, with S = 0 and P = 0: its slot word, then its I slots. A device event has none. -/
def encode (i : Instr) : List Nat :=
  match i with
  | .nop k => encNK 0x00000000 k
  | .add d a b => encTR3 0x00040000 d a b
  | .sub d a b => encTR3 0x00080000 d a b
  | .mul d a b => encTR3 0x000C0000 d a b
  | .mulh d a b => encTR3 0x00100000 d a b
  | .mulhu d a b => encTR3 0x00140000 d a b
  | .div d a b => encTR3 0x00180000 d a b
  | .divu d a b => encTR3 0x001C0000 d a b
  | .rem d a b => encTR3 0x00200000 d a b
  | .remu d a b => encTR3 0x00240000 d a b
  | .and d a b => encTR3 0x00280000 d a b
  | .or d a b => encTR3 0x002C0000 d a b
  | .xor d a b => encTR3 0x00300000 d a b
  | .andn d a b => encTR3 0x00340000 d a b
  | .shl d a b => encTR3 0x00380000 d a b
  | .shr d a b => encTR3 0x003C0000 d a b
  | .sar d a b => encTR3 0x00400000 d a b
  | .min d a b => encTR3 0x00440000 d a b
  | .max d a b => encTR3 0x00480000 d a b
  | .minu d a b => encTR3 0x004C0000 d a b
  | .maxu d a b => encTR3 0x00500000 d a b
  | .clz d a => encTR2 0x00540000 d a
  | .popc d a => encTR2 0x00580000 d a
  | .addx2 d a b => encTR3 0x005C0000 d a b
  | .addx3 d a b => encTR3 0x00600000 d a b
  | .addx4 d a b => encTR3 0x00640000 d a b
  | .movi d i => encIM 0x00680000 d i
  | .cmpeq p c a b => encPC 0x006C0000 p c a b
  | .cmpne p c a b => encPC 0x00700000 p c a b
  | .cmplt p c a b => encPC 0x00740000 p c a b
  | .cmple p c a b => encPC 0x00780000 p c a b
  | .cmpltu p c a b => encPC 0x007C0000 p c a b
  | .cmpleu p c a b => encPC 0x00800000 p c a b
  | .movt d a n p => encMV 0x00840000 d a n p
  | .plog d f x y => encPL 0x00880000 d f x y
  | .pmov p a => encPM 0x008C0000 p a
  | .pget d => encD0 0x00900000 d
  | .mfs d n => encSG 0x00940000 d n
  | .mts n a => encSP 0x00980000 n a
  | .cmpt a b => encCT 0x009C0000 a b
  | .bfx d a b => encTR3 0x00A00000 d a b
  | .bfi d a b => encTR3 0x00A40000 d a b
  | .vaddf d a b => encV3 0x01000000 d a b
  | .vsubf d a b => encV3 0x01040000 d a b
  | .vmulf d a b => encV3 0x01080000 d a b
  | .vfmaf d a b => encV3 0x010C0000 d a b
  | .vfmsf d a b => encV3 0x01100000 d a b
  | .vminf d a b => encV3 0x01140000 d a b
  | .vmaxf d a b => encV3 0x01180000 d a b
  | .vabsf d a => encV2 0x011C0000 d a
  | .vnegf d a => encV2 0x01200000 d a
  | .vceqf m a b => encVC 0x01240000 m a b
  | .vcltf m a b => encVC 0x01280000 m a b
  | .vclef m a b => encVC 0x012C0000 m a b
  | .vcunf m a b => encVC 0x01300000 m a b
  | .vaddi d a b => encV3 0x01400000 d a b
  | .vsubi d a b => encV3 0x01440000 d a b
  | .vmuli d a b => encV3 0x01480000 d a b
  | .vmulhi d a b => encV3 0x014C0000 d a b
  | .vmini d a b => encV3 0x01500000 d a b
  | .vmaxi d a b => encV3 0x01540000 d a b
  | .vand d a b => encV3 0x01580000 d a b
  | .vor d a b => encV3 0x015C0000 d a b
  | .vxor d a b => encV3 0x01600000 d a b
  | .vshl d a b => encV3 0x01640000 d a b
  | .vshr d a b => encV3 0x01680000 d a b
  | .vsar d a b => encV3 0x016C0000 d a b
  | .vceqi m a b => encVC 0x01700000 m a b
  | .vclti m a b => encVC 0x01740000 m a b
  | .vcltu m a b => encVC 0x01780000 m a b
  | .vaddsi d a b => encV3 0x017C0000 d a b
  | .vsel d a b => encV3 0x01800000 d a b
  | .vbc d a => encV2 0x01840000 d a
  | .vmov d a => encV2 0x01880000 d a
  | .naddB d a b => encV3 0x02000000 d a b
  | .nsubB d a b => encV3 0x02040000 d a b
  | .nmulB d a b => encV3 0x02080000 d a b
  | .nfmaB d a b => encV3 0x020C0000 d a b
  | .nminB d a b => encV3 0x02100000 d a b
  | .nmaxB d a b => encV3 0x02140000 d a b
  | .nceqB m a b => encVC 0x02180000 m a b
  | .ncltB m a b => encVC 0x021C0000 m a b
  | .naddH d a b => encV3 0x02400000 d a b
  | .nsubH d a b => encV3 0x02440000 d a b
  | .nmulH d a b => encV3 0x02480000 d a b
  | .nminH d a b => encV3 0x024C0000 d a b
  | .nmaxH d a b => encV3 0x02500000 d a b
  | .naddQ d a b => encV3 0x02600000 d a b
  | .nsubQ d a b => encV3 0x02640000 d a b
  | .nminQ d a b => encV3 0x02680000 d a b
  | .nmaxQ d a b => encV3 0x026C0000 d a b
  | .naddsQ d a b => encV3 0x02700000 d a b
  | .vcvt d a c => encV3 0x03000000 d a c
  | .vred d a o => encV3 0x03080000 d a o
  | .vscan d a o => encV3 0x030C0000 d a o
  | .vshuf d a b => encV3 0x03100000 d a b
  | .vrot d a b => encV3 0x03140000 d a b
  | .vcx d a dir ty k => encCX 0x03180000 d a dir ty k
  | .vhist d a n => encV3 0x031C0000 d a n
  | .vmerge d a n => encV3 0x03200000 d a n
  | .vfind d m w => encVF 0x03240000 d m w
  | .vlane d a b => encDS3 0x03280000 d a b
  | .vins d a b => encV3 0x032C0000 d a b
  | .msel n => encN4 0x03300000 n
  | .mlog d f x y => encPL 0x03340000 d f x y
  | .msetn m a w => encMN 0x03380000 m a w
  | .mpop d w m => encMP 0x033C0000 d w m
  | .vcmpt a b => encVT 0x03400000 a b
  | .frcp d a => encV2 0x04000000 d a
  | .frsq d a => encV2 0x04040000 d a
  | .fsqrt d a => encV2 0x04080000 d a
  | .fexp2 d a => encV2 0x040C0000 d a
  | .flog2 d a => encV2 0x04100000 d a
  | .fsig d a => encV2 0x04140000 d a
  | .ftanh d a => encV2 0x04180000 d a
  | .ferf d a => encV2 0x041C0000 d a
  | .fsinp d a => encV2 0x04200000 d a
  | .fcosp d a => encV2 0x04240000 d a
  | .frcpB d a => encV2 0x04800000 d a
  | .frsqB d a => encV2 0x04840000 d a
  | .fsqrtB d a => encV2 0x04880000 d a
  | .fexp2B d a => encV2 0x048C0000 d a
  | .flog2B d a => encV2 0x04900000 d a
  | .fsigB d a => encV2 0x04940000 d a
  | .ftanhB d a => encV2 0x04980000 d a
  | .ferfB d a => encV2 0x049C0000 d a
  | .fsinpB d a => encV2 0x04A00000 d a
  | .fcospB d a => encV2 0x04A40000 d a
  | .ldB d b x => encLD 0x05000000 d b x
  | .ldBu d b x => encLD 0x05040000 d b x
  | .ldH d b x => encLD 0x05080000 d b x
  | .ldHu d b x => encLD 0x050C0000 d b x
  | .ldW d b x => encLD 0x05100000 d b x
  | .ldWu d b x => encLD 0x05140000 d b x
  | .ldD d b x => encLD 0x05180000 d b x
  | .stB v b x => encSTS 0x05200000 v b x
  | .stH v b x => encSTS 0x05240000 v b x
  | .stW v b x => encSTS 0x05280000 v b x
  | .stD v b x => encSTS 0x052C0000 v b x
  | .vldF32 d b x => encVM 0x05400000 d b x
  | .vldF16 d b x => encVM 0x05440000 d b x
  | .vldBf16 d b x => encVM 0x05480000 d b x
  | .vldI8 d b x => encVM 0x054C0000 d b x
  | .vldI8n d b x => encVM 0x05500000 d b x
  | .vldB18 d b x => encVM 0x05540000 d b x
  | .vld d b x => encVM 0x05580000 d b x
  | .vstF32 v b x => encVM 0x05600000 v b x
  | .vstF16 v b x => encVM 0x05640000 v b x
  | .vstBf16 v b x => encVM 0x05680000 v b x
  | .vstI8 v b x => encVM 0x056C0000 v b x
  | .vstI8n v b x => encVM 0x05700000 v b x
  | .vstB18 v b x => encVM 0x05740000 v b x
  | .vst v b x => encVM 0x05780000 v b x
  | .vlds d b o x => encVX 0x05800000 d b o x
  | .vgath d b o x => encVX 0x05840000 d b o x
  | .vscat d b o x => encVX 0x05880000 d b o x
  | .amo d b o x => encAMO 0x05A00000 d b o x
  | .cas d b o x => encCAS 0x05A40000 d b o x
  | .fence sc => [0x05C00000 + sc.toNat * 2 ^ 15]
  | .fenceRo sc => [0x05C04000 + sc.toNat * 2 ^ 15]
  | .drain => encZ0 0x05C40000
  | .pref b x => encPF 0x05C80000 b x
  | .mmaI8 t a b k r => encMMA 0x06000000 t a b k r
  | .mmaI8p t a b k r => encMMA 0x06040000 t a b k r
  | .mmaBf16 t a b k r => encMMA 0x06080000 t a b k r
  | .mmaF16 t a b k r => encMMA 0x060C0000 t a b k r
  | .mmaBf16p t a b k r => encMMA 0x06100000 t a b k r
  | .mmazI8 t a b k r => encMMA 0x06200000 t a b k r
  | .mmazI8p t a b k r => encMMA 0x06240000 t a b k r
  | .mmazBf16 t a b k r => encMMA 0x06280000 t a b k r
  | .mmazF16 t a b k r => encMMA 0x062C0000 t a b k r
  | .mmazBf16p t a b k r => encMMA 0x06300000 t a b k r
  | .sacc t ts i a k => encSACC 0x06400000 t ts i a k
  | .tclr t k => encTK 0x06440000 t k
  | .tcvt t f a i k => encTCVT 0x06480000 t f a i k
  | .tld t f a k => encTF 0x064C0000 t f a k
  | .tred t o v k => encTF 0x06500000 t o v k
  | .sscan t v k => encSSC 0x06540000 t v k
  | .tdig t w v k => encTF 0x06580000 t w v k
  | .tcopy t ts k => encTCP 0x065C0000 t ts k
  | .mma64 t a b k r => encMMA 0x06800000 t a b k r
  | .xpush36 l a => encXP 0x07000000 l a
  | .xpush18 l a => encXP 0x07040000 l a
  | .xpush9 l a => encXP 0x07080000 l a
  | .xpop d => encVD0 0x07100000 d
  | .xplane d a tr => encXPL 0x07200000 d a tr
  | .xrst => encZ0 0x07300000
  | .br p n o => encBO 0x08000000 p n o
  | .bri p n a => encBX 0x08040000 p n a
  | .call p n o => encBO 0x08080000 p n o
  | .calli p n a => encBX 0x080C0000 p n a
  | .ret p n => encBN 0x08100000 p n
  | .loop p n o => encBO 0x08140000 p n o
  | .loopw p n o => encBO 0x08180000 p n o
  | .exit p n => encBN 0x081C0000 p n
  | .yield p n => encBN 0x08200000 p n
  | .copy d a ch => encECP 0x09000000 d a ch
  | .coll d a => encTR2 0x09040000 d a
  | .waittl tl a => encPM 0x09080000 tl a
  | .tlrd d tl => encTLR 0x090C0000 d tl
  | .waitwp ch a => encC2A 0x09100000 ch a
  | .launch d a => encTR2 0x09140000 d a
  | .launcht a => encA0 0x09180000 a
  | .join a => encA0 0x091C0000 a
  | .bar cl => encB1 0x09200000 cl
  | .signal a b => encVT 0x09240000 a b
  | .trap c => encNK 0x0A000000 c
  | .rft => encZ0 0x0A040000
  | .cropen o => encCR 0x0A080000 o
  | .crclose => encZ0 0x0A0C0000
  | .modew a => encA0 0x0A100000 a
  | .vwin a => encA0 0x0A140000 a
  | .ilock d a b => encDS3 0x0A180000 d a b
  | .iunlk a b => encVT 0x0A1C0000 a b
  | .wpset w a => encC2A 0x0A200000 w a
  | .brk c => encNK 0x0A240000 c
  | .hintNone kind p => encHint kind.toNat p
  | .succPrefetch p => encHint 1 p
  | .branchLikely p => encHint 2 p
  | .locality p => encHint 3 p
  | .resultArrival _ _ => []
  | .pageWalk _ _ => []
  | .loadReply _ _ _ => []
  | .trapDelivery _ => []
  | .rankEnd _ => []
  | .xComplete _ => []
  | .engineFinish _ _ => []
  | .leafHash _ => []
  | .millinerSlot _ _ => []
  | .launchComplete _ => []
  | .shadowReplay _ => []
  | .splicePair _ _ => []
  | .poolSpill _ => []
  | .gangPop _ => []
  | .preempt _ _ => []
  | .gangResume _ => []
  | .intervalSigning _ => []
  | .evacDrainDone _ => []
  | .selfTestAbandon _ => []
  | .ageProm _ => []
  | .unwind _ => []
  | .gangStop _ => []
  | .millinerHeartbeat _ => []
  | .millinerTakeover _ => []
  | .standbyBegin => []
  | .dispatch => []
  | .budgetReset _ => []
  | .uncontained _ => []
  | .bisect _ _ _ _ => []
  | .sign _ _ _ => []
  | .capture _ _ _ _ _ _ _ => []
  | .referee _ _ _ _ _ _ => []
  | .wakeWrite _ _ => []
  | .tick => []
  | .clockChange _ _ => []
  | .powerThrottle _ => []
  | .uncorrectable _ => []
  | .corrected _ _ => []
  | .stackFence _ => []
  | .treeFence _ _ => []
  | .selfTestStart _ => []
  | .selfTestComplete _ _ _ _ _ => []
  | .scan _ => []
  | .scanComplete _ _ _ _ _ => []
  | .eyeMargin _ _ _ _ => []
  | .flitReceive _ _ _ => []
  | .flitReplay _ _ _ => []
  | .peerEntry _ _ => []
  | .linkh _ _ => []
  | .tlbInvalidate _ => []
  | .tlbInvComplete => []
  | .chainBind _ _ => []
  | .logrd _ _ => []
  | .loadreq _ => []
  | .load => []
  | .unload => []
  | .debugStop _ _ => []
  | .debugResume _ _ => []
  | .dumpreq _ => []
  | .featlock _ => []
  | .warmStart _ => []
  | .coldStart => []
  | .powerOn => []
  | .fundReset => []
  | .stackTrained _ _ => []
  | .clusterReady _ _ => []
  | .millinerLoaded _ _ => []
  | .brimTrained _ _ => []
  | .vfFlr _ => []
  | .zoneWordWrite _ _ => []
  | .zoneTrip _ _ => []
  | .zoneTripClear _ => []
  | .clockRestore _ => []
  | .evac _ => []
  | .evacValveClosed _ => []
  | .evacDry _ => []
  | .evacTimeout _ => []
  | .refill _ => []
  | .refillComplete _ => []
  | .refillTimeout _ => []
  | .getVersion => []
  | .getCapabilities => []
  | .negotiateAlgorithms => []
  | .getDigests => []
  | .getCertificate _ _ _ => []
  | .challenge _ => []
  | .getMeasurements _ _ => []
  | .vendorSlhSig => []
  | .vendorSlhCert => []
  | .spdmUnsupported _ => []
  | .ctlWrite _ _ => []
  | .wpAdvance _ _ _ => []
  | .dumpGranule => []
  | .aperture _ _ _ => []
  | .vfEnable _ => []
  | .qdescWrite _ _ => []

end Sys2Proof
end

