-- ==== Sys2Proof/Config.lean ====
section
/-! DEFINITION. What one LK3-B part fixes and the manual does not: opaque constants, of which nothing can be proved, so that a
claim holds whatever they are. The free values are functions of a counter in the state that each use advances. -/

namespace Sys2Proof.Config

/-- The metal revision in IDPART (R22), part-specific (log 4). -/
opaque metal : BitVec 8

/-- The serial number IDSER, fused at manufacture (R24, log 4). -/
opaque serial : Word

/-- The firmware default of a zone's SET and FLOOR (Table 31.6), by zone (log 15). -/
opaque zoneSet : Nat → BitVec 8
opaque zoneFloor : Nat → BitVec 8

/-- The binding table of R282 as published (R385): one 4-byte entry per queue. It comes with the Milliner image, so it is a function of
measurement 0x03 (log 15). -/
opaque binding : BitVec 384 → Nat → BitVec 32

/-- The device address of the binding table, BINDT (R385). -/
opaque bindt : Word

/-- The cycles that a bank-conflict counter loses between two uses (R363), by use, core and counter: a free value (log 16). -/
opaque lostCycles : Nat → Nat → Nat → BitVec 32

/-- What a zone's sensors show at a cold start (R397): 0 for a wet zone, 1 for a dry one, any other value for a bubbling one;
by use and zone: a free value (log 16). -/
opaque zoneSensor : Nat → Nat → Nat

/-- The fused secret UDS of key derivation (R387, log 8). -/
opaque uds : List Byte

/-- The signatures of the Alias keys (R331, R387): RSASSA-PKCS1-v1_5 and SLH-DSA, functions of CDI₁, from which the keys are derived, and
of the message (log 8). -/
opaque rsaSign : List Byte → List Byte → Nat → Byte
opaque slhSign : List Byte → List Byte → Nat → Byte

/-- The certificate chains of SPDM slot 0 and of the SLH-DSA keys (R332, R387), which end in the Alias certificates: length and bytes by
CDI₀ and CDI₁ (log 8). -/
opaque rsaCertLen : List Byte → List Byte → Nat
opaque rsaCert : List Byte → List Byte → Nat → Byte
opaque slhCertLen : List Byte → List Byte → Nat
opaque slhCert : List Byte → List Byte → Nat → Byte

/-- Whether a referee passes its start-up test, and whether the management firmware verifies, at a cold start (R25, R386): by use and
unit: free values (log 99). -/
opaque refereePasses : Nat → Nat → Bool
opaque firmwareOk : Nat → Bool

/-- The eye margins that training leaves (Table 27.5), by use and lane: a free value (log 100). -/
opaque eyeTrained : Nat → Nat → BitVec 16

/-- Whether a counter that a write finds at its maximum overflows in the cycle of the write (R362), by use: a free value (log 101). -/
opaque overflows : Nat → Bool

/-- How many payload bytes a memory request of a peer writes, by its flags, whose meaning no table gives (Table 31.5, log 102). -/
opaque requestWrites : BitVec 8 → Nat

/-- SHA-384 of a byte string (R386, R388), which the model keeps uninterpreted (log 8). -/
opaque sha384 : List Byte → BitVec 384

/-- The measurements that the firmware takes at start-up (Table 31.4), by index (log 8). -/
opaque measured : Nat → BitVec 384

/-- Whether the far side, a host or a peer package, reports an error for a store, amo or cas that it performs (R179, R180), by
use: a free value (log 3). -/
opaque farFails : Nat → Bool

/-- Whether an access uses a translation that a TLB still holds although the tables have changed since, before an invalidation is
complete (R310, R311), by use and page: a free value (log 26). -/
opaque tlbStale : Nat → Nat → Bool

/-- What a collective that reaches other packages brings from them (R216, R217, R391): how many of its contributors are there, by group
and number, and whether any is here; and by use, whether it fails there and, where the root is there, the bytes of its result: free
values. -/
opaque collElse : Nat → Nat → Nat
opaque collOwn : Nat → Nat → Bool
opaque collFails : Nat → Bool
opaque collByte : Nat → Nat → Byte

/-- The peer number of the package that holds a collective group's root, which the routes lead to (R391, Table 31.5), by group (log 105). -/
opaque rootPeer : Nat → BitVec 8

/-- The ordinal of a leaf's slot, which its record does not hold and of which RSR's draws are a function (R80, R329), by leaf record:
a free value. -/
opaque refereeOrd : List Byte → Nat

/-- The bytes of fused code in the Fuller's code area, whose layout is the device's own (R345), by pair and offset: free values. -/
opaque fusedByte : Nat → Nat → Byte

/-- A free value for an unstated result, by use: a word, and a Z row. -/
opaque freeWord : Nat → Word
opaque freeRow : Nat → Row

end Sys2Proof.Config
end

