-- ==== Sys2Proof/Machine/Hash.lean ====
section
/-! DEFINITION. SHA3-256 and GHASH on byte strings (R80, R89, R316, R317, R330), and little-endian byte strings. -/

namespace Sys2Proof.Machine

/-- A number as n little-endian bytes (R7). -/
def leBytes : Nat → Nat → List Byte
  | 0, _ => []
  | n + 1, x => BitVec.ofNat 8 x :: leBytes n (x / 256)

/-- The number of a little-endian byte string. -/
def leNat : List Byte → Nat
  | [] => 0
  | b :: bs => b.toNat + 256 * leNat bs

/-- The number of a big-endian byte string. -/
def beNat (bs : List Byte) : Nat := bs.foldl (fun a b => a * 256 + b.toNat) 0

/-- A number as n big-endian bytes. -/
def beBytes (n x : Nat) : List Byte := (leBytes n x).reverse

/-- One bit per number below n, as a number. -/
def bitsOf (n : Nat) (f : Nat → Bool) : Nat := (List.range n).foldl (fun a i => a + (f i).toNat * 2 ^ i) 0

/-- The bytes of an ASCII string. -/
def ascii (s : String) : List Byte := s.toList.map (fun c => BitVec.ofNat 8 c.toNat)

/-- Rotation of a 64-bit number to the left. -/
def rotl64 (x n : Nat) : Nat := (x * 2 ^ n + x / 2 ^ (64 - n)) % 2 ^ 64

/-- Lane i of a Keccak state. -/
def lane (a : List Nat) (i : Nat) : Nat := a.getD i 0

/-- Rotation offsets of ρ, by x + 5y. -/
def rhoOff : List Nat := [0, 1, 62, 28, 27, 36, 44, 6, 55, 20, 3, 10, 43, 25, 39, 41, 45, 15, 21, 8, 18, 2, 61, 56, 14]

/-- Round constants of ι. -/
def rcs : List Nat :=
  [0x0000000000000001, 0x0000000000008082, 0x800000000000808A, 0x8000000080008000, 0x000000000000808B, 0x0000000080000001]
  ++ [0x8000000080008081, 0x8000000000008009, 0x000000000000008A, 0x0000000000000088, 0x0000000080008009, 0x000000008000000A]
  ++ [0x000000008000808B, 0x800000000000008B, 0x8000000000008089, 0x8000000000008003, 0x8000000000008002, 0x8000000000000080]
  ++ [0x000000000000800A, 0x800000008000000A, 0x8000000080008081, 0x8000000000008080, 0x0000000080000001, 0x8000000080008008]

/-- One round of Keccak-f[1600]. -/
def keccakRound (a : List Nat) (rc : Nat) : List Nat :=
  let c := (List.range 5).map (fun x => (List.range 5).foldl (fun v y => Nat.xor v (lane a (x + 5 * y))) 0)
  let d := (List.range 5).map (fun x => Nat.xor (lane c ((x + 4) % 5)) (rotl64 (lane c ((x + 1) % 5)) 1))
  let t := (List.range 25).map (fun i => Nat.xor (lane a i) (lane d (i % 5)))
  -- ρ and π: B[y, 2x + 3y] := rot(A[x, y])
  let b := (List.range 25).map (fun i =>
    let x' := i % 5
    let y' := i / 5
    -- source (x, y) with y = x' and 2x + 3y = y' mod 5
    let y := x'
    let x := (3 * (y' + 2 * y)) % 5
    rotl64 (lane t (x + 5 * y)) (rhoOff.getD (x + 5 * y) 0))
  let chi := (List.range 25).map (fun i =>
    let x := i % 5
    let y := i / 5
    Nat.xor (lane b i) (Nat.land (Nat.xor (lane b ((x + 1) % 5 + 5 * y)) (2 ^ 64 - 1)) (lane b ((x + 2) % 5 + 5 * y))))
  match chi with
  | [] => []
  | l :: ls => Nat.xor l rc :: ls

/-- Keccak-f[1600]. -/
def keccakF (a : List Nat) : List Nat := rcs.foldl keccakRound a

/-- The message absorbed so far into `a`, `fuel` blocks of 136 bytes at most to come. -/
def absorb : Nat → List Nat → List Byte → List Nat
  | 0, a, _ => a
  | fuel + 1, a, bs =>
    if bs.isEmpty then a
    else
      let blk := bs.take 136
      let ws := (List.range 25).map (fun i => if i < 17 then leNat ((blk.drop (8 * i)).take 8) else 0)
      absorb fuel (keccakF (List.zipWith Nat.xor a ws)) (bs.drop 136)

/-- The padding of SHA3: 0x06, zeros, and the last bit of the block. -/
def sha3Pad (bs : List Byte) : List Byte :=
  let n := 136 - bs.length % 136
  if n = 1 then bs ++ [0x86] else bs ++ [0x06] ++ List.replicate (n - 2) 0 ++ [0x80]

/-- SHA3-256, as 32 bytes. -/
def sha3 (bs : List Byte) : List Byte :=
  let p := sha3Pad bs
  ((absorb (p.length / 136 + 1) (List.replicate 25 0) p).take 4).flatMap (leBytes 8)

/-- A hash as one number, its first byte lowest. -/
def sha3V (bs : List Byte) : BitVec 256 := BitVec.ofNat 256 (leNat (sha3 bs))

/-- The 32 bytes of a hash. -/
def hashBytes (h : BitVec 256) : List Byte := leBytes 32 h.toNat

/-- Product in GF(2^128) with the bit order of NIST SP 800-38D: bit 0 of a block is its most significant bit. -/
def gmulGo : Nat → Nat → Nat → Nat → Nat
  | 0, _, _, z => z
  | n + 1, x, v, z =>
    let z' := if x / 2 ^ n % 2 = 1 then Nat.xor z v else z
    let v' := if v % 2 = 1 then Nat.xor (v / 2) 0xE1000000000000000000000000000000 else v / 2
    gmulGo n x v' z'

/-- x • y in that field. -/
def gmul (x y : Nat) : Nat := gmulGo 128 x y 0

/-- GHASH over whole 16-byte blocks under subkey h. -/
def ghashGo (h : Nat) : Nat → Nat → List Byte → Nat
  | 0, y, _ => y
  | fuel + 1, y, bs =>
    if bs.isEmpty then y else ghashGo h fuel (gmul (Nat.xor y (beNat (bs.take 16))) h) (bs.drop 16)

/-- Digest(region, H, mask) of R89 on the serialised region. -/
def digest (h mask : Nat) (bs : List Byte) : List Byte :=
  let pad := List.replicate ((16 - bs.length % 16) % 16) (0 : Byte)
  let all := bs ++ pad ++ List.replicate 8 0 ++ beBytes 8 (8 * bs.length)
  beBytes 16 (Nat.xor (ghashGo h (all.length / 16 + 1) 0 all) mask)

/-- The task's digest key and mask (R316): bytes 0 to 15 and 16 to 31 of K, each as one GHASH block. -/
def taskKey (nonce : List Byte) (task : Nat) : Nat × Nat :=
  let k := sha3 (ascii "ZOLIS-TILE" ++ nonce ++ leBytes 4 task)
  (beNat (k.take 16), beNat (k.drop 16))

/-- The task key TK of stochastic rounding (R80). -/
def taskTK (nonce : List Byte) (task : Nat) : Nat :=
  leNat ((sha3 (ascii "ZOLIS-RSR" ++ nonce ++ leBytes 4 task)).take 8)

/-- The running link digest D := (D xor b) • H over the four blocks of a flit, D in the block order of GHASH (R330). -/
def linkDigest (d h : Nat) (flit : List Byte) : Nat := ghashGo h 4 d flit

/-! CRC-32C (R389). -/

/-- One bit of the reflected division by the Castagnoli polynomial. -/
def crcBit (c : Nat) : Nat := if c % 2 = 1 then Nat.xor (c / 2) 0x82F63B78 else c / 2

/-- One byte. -/
def crcByte (c : Nat) (b : Byte) : Nat := (List.range 8).foldl (fun x _ => crcBit x) (Nat.xor c b.toNat)

/-- The CRC-32C of a byte string, with both complements (log 103). -/
def crc32c (bs : List Byte) : Nat := Nat.xor (bs.foldl crcByte 0xFFFFFFFF) 0xFFFFFFFF

end Sys2Proof.Machine
end

