-- ==== Sys2Proof/Machine/Num.lean ====
section
/-! DEFINITION. Number formats, rounding and exact arithmetic (R66 to R89): floats as exact dyadic values, one rounding
function for every float format, the saturating and wrapping narrowings, and BlockSum. -/

namespace Sys2Proof.Machine

/-- A float format: exponent bits, fraction bits and bias (Table 5.2). -/
structure Fmt where
  ew : Nat
  fw : Nat
  bias : Nat
  deriving DecidableEq, Repr

def F36 : Fmt := ⟨8, 27, 127⟩
def B18 : Fmt := ⟨8, 9, 127⟩
def FP32 : Fmt := ⟨8, 23, 127⟩
def FP16 : Fmt := ⟨5, 10, 15⟩
def BF16 : Fmt := ⟨8, 7, 127⟩
def E4M3 : Fmt := ⟨4, 3, 7⟩
def E5M2 : Fmt := ⟨5, 2, 15⟩

/-- The FLAGS bits (Table 5.4). -/
def fINV : Nat := 1
def fDBZ : Nat := 2
def fOVF : Nat := 4
def fUNF : Nat := 8
def fINX : Nat := 16
def fSAT : Nat := 32

/-- A float operand taken apart: a NaN with its quiet bit, sign, fraction and fraction width; an infinity; or the exact value
(-1)^s × m × 2^e, where m = 0 is a zero of sign s. -/
inductive FV where
  | nan (quiet s : Bool) (frac fw : Nat)
  | inf (s : Bool)
  | fin (s : Bool) (m : Nat) (e : Int)
  deriving DecidableEq, Repr

/-- The MODE fields that rounding looks at (Table 5.3), and the stochastic draw of each rounding (R80). -/
structure REnv where
  rm : Nat
  fz : Nat
  nanp : Bool
  iwrap : Bool
  draw : Nat → Nat

/-- A result's encoding and the flags it raises. -/
structure FR where
  bits : Nat
  flags : Nat
  deriving DecidableEq, Repr

/-- The all-ones exponent of a format. -/
def Fmt.emax (f : Fmt) : Nat := 2 ^ f.ew - 1

/-- Width of an encoding. -/
def Fmt.width (f : Fmt) : Nat := 1 + f.ew + f.fw

/-- The encoding of sign, exponent field and fraction field. -/
def Fmt.pack (f : Fmt) (s : Bool) (e frac : Nat) : Nat := s.toNat * 2 ^ (f.ew + f.fw) + e * 2 ^ f.fw + frac

/-- The canonical NaN (Table 5.2); E4M3's is 0x7F. -/
def Fmt.canon (f : Fmt) : Nat := if f = E4M3 then 0x7F else f.pack false f.emax (2 ^ (f.fw - 1))

/-- An encoding taken apart (R68). -/
def Fmt.dec (f : Fmt) (x : Nat) : FV :=
  let s := x / 2 ^ (f.ew + f.fw) % 2 == 1
  let e := x / 2 ^ f.fw % 2 ^ f.ew
  let m := x % 2 ^ f.fw
  if f = E4M3 then
    if e = 15 ∧ m = 7 then .nan true s 7 3
    else if e = 0 then .fin s m (-9) else .fin s (8 + m) ((e : Int) - 10)
  else if e = f.emax then
    if m = 0 then .inf s else .nan (2 ^ (f.fw - 1) ≤ m) s m f.fw
  else if e = 0 then .fin s m (1 - (f.bias : Int) - f.fw)
  else .fin s (2 ^ f.fw + m) ((e : Int) - f.bias - f.fw)

/-- Whether an encoding is a subnormal. -/
def Fmt.subnormal (f : Fmt) (x : Nat) : Bool := x / 2 ^ f.fw % 2 ^ f.ew == 0 && x % 2 ^ f.fw != 0

/-- An operand under step 1 of R77: FZ = 2 replaces a subnormal by a zero of its sign, without a flag. -/
def Fmt.decIn (f : Fmt) (v : REnv) (x : Nat) : FV :=
  if v.fz = 2 ∧ f.subnormal x then .fin (x / 2 ^ (f.ew + f.fw) % 2 == 1) 0 0 else f.dec x

def FV.isNan : FV → Bool
  | .nan .. => true
  | _ => false

def FV.isSnan : FV → Bool
  | .nan q _ _ _ => !q
  | _ => false

def FV.isInf : FV → Bool
  | .inf _ => true
  | _ => false

def FV.isZero : FV → Bool
  | .fin _ m _ => m == 0
  | _ => false

def FV.sign : FV → Bool
  | .nan _ s _ _ => s
  | .inf s => s
  | .fin s _ _ => s

def FV.neg : FV → FV
  | .nan q s f w => .nan q (!s) f w
  | .inf s => .inf (!s)
  | .fin s m e => .fin (!s) m e

/-- A NaN operand's fraction in another format, with the quiet bit set (R69). -/
def Fmt.nanOf (f : Fmt) (s : Bool) (frac fw : Nat) : Nat :=
  let fr := if f.fw ≤ fw then frac / 2 ^ (fw - f.fw) else frac * 2 ^ (f.fw - fw)
  if f = E4M3 then s.toNat * 0x80 + 0x7F
  else f.pack s f.emax (fr % 2 ^ (f.fw - 1) + 2 ^ (f.fw - 1))

/-- The NaN result of an instruction with the given operands, in operand order (R69): INV for a signalling one. -/
def nanRes (v : REnv) (f : Fmt) (ops : List FV) : FR :=
  let fl := if ops.any FV.isSnan then fINV else 0
  if v.nanp then
    match ops.find? FV.isNan with
    | some (.nan _ s fr w) => ⟨f.nanOf s fr w, fl⟩
    | _ => ⟨f.canon, fl⟩
  else ⟨f.canon, fl⟩

/-- The NaN result of an invalid operation (R81). -/
def invRes (v : REnv) (f : Fmt) (ops : List FV) : FR := { nanRes v f ops with flags := fINV }

/-- Largest e with 2^e ≤ n / d, for positive n and d. -/
def ilog2 (n d : Nat) : Int :=
  let k : Int := (n.log2 : Int) - d.log2
  let ge (j : Int) : Bool := if 0 ≤ j then d * 2 ^ j.toNat ≤ n else d ≤ n * 2 ^ (-j).toNat
  if ge k then k else k - 1

/-- Whether an integer part i with remainder r of d, of sign s, rounds up in magnitude (R77, R80). -/
def roundUp (v : REnv) (elem : Nat) (s : Bool) (i r d : Nat) : Bool :=
  if r = 0 then false else
  match v.rm with
  | 0 => d < 2 * r || (2 * r == d && i % 2 == 1)
  | 1 => false
  | 2 => s
  | 3 => !s
  | 4 => d ≤ 2 * r
  | _ => 2 ^ 32 ≤ r * 2 ^ 32 / d + v.draw elem

/-- Round of R77 to R79 and R70: (-1)^s × n / d to a format. A zero keeps its sign. -/
def roundTo (v : REnv) (f : Fmt) (elem : Nat) (s : Bool) (n d : Nat) : FR :=
  if n = 0 then ⟨f.pack s 0 0, 0⟩ else
  let emin : Int := 1 - (f.bias : Int)
  let e := max (ilog2 n d) emin
  let q := e - f.fw
  let num := if 0 ≤ q then n else n * 2 ^ (-q).toNat
  let den := if 0 ≤ q then d * 2 ^ q.toNat else d
  let i0 := num / den
  let r := num % den
  let i := if roundUp v elem s i0 r den then i0 + 1 else i0
  let inx := if r = 0 then 0 else fINX
  let tiny : Bool := i < 2 ^ f.fw
  let e' := if i = 2 ^ (f.fw + 1) then e + 1 else e
  let i' := if i = 2 ^ (f.fw + 1) then 2 ^ f.fw else i
  if tiny then
    if v.fz = 0 then ⟨f.pack s 0 i, if r = 0 then 0 else fINX + fUNF⟩
    else ⟨f.pack s 0 0, fINX + fUNF⟩
  else
    let ef := (e' + f.bias).toNat
    let top := if f = E4M3 then ef > 15 || (ef == 15 && i' - 2 ^ f.fw == 7) else f.emax ≤ ef
    if top then
      if f = E4M3 then ⟨f.pack s 15 6, fOVF + fINX⟩
      else if f = E5M2 then ⟨f.pack s 30 3, fOVF + fINX⟩
      else
        let big : Bool := match v.rm with
          | 1 => true
          | 2 => !s
          | 3 => s
          | _ => false
        if big then ⟨f.pack s (f.emax - 1) (2 ^ f.fw - 1), fOVF + fINX⟩ else ⟨f.pack s f.emax 0, fOVF + fINX⟩
    else ⟨f.pack s ef (i' - 2 ^ f.fw), inx⟩

/-- Numerator of m × 2^e. -/
def numOf (m : Nat) (e : Int) : Nat := m * 2 ^ e.toNat
/-- Denominator of m × 2^e. -/
def denOf (e : Int) : Nat := 2 ^ (-e).toNat

/-- Rounds (-1)^s × m × 2^e. -/
def roundDy (v : REnv) (f : Fmt) (elem : Nat) (s : Bool) (m : Nat) (e : Int) : FR :=
  roundTo v f elem s (numOf m e) (denOf e)

/-- The infinity of a format: E4M3 has none, and there the conversion gives a NaN with the sign kept and INV (R70). -/
def infRes (f : Fmt) (s : Bool) : FR :=
  if f = E4M3 then ⟨s.toNat * 0x80 + 0x7F, fINV⟩ else ⟨f.pack s f.emax 0, 0⟩

/-- A signed value m × 2^e of an exact finite operand, as an integer multiple of 2^e0 with e0 ≤ e. -/
def alignTo (e0 : Int) (s : Bool) (m : Nat) (e : Int) : Int :=
  let k : Nat := m * 2 ^ (e - e0).toNat
  if s then -(k : Int) else k

/-- The exact product of two operands, or none where it is invalid (0 × ±Inf); NaNs are handled before. -/
def mulV (x y : FV) : Option FV :=
  match x, y with
  | .fin s m e, .fin t n g => some (.fin (s != t) (m * n) (e + g))
  | .inf s, .inf t => some (.inf (s != t))
  | .inf s, .fin t n _ => if n = 0 then none else some (.inf (s != t))
  | .fin s m _, .inf t => if m = 0 then none else some (.inf (s != t))
  | _, _ => some x

/-- The sum of two non-NaN operands rounded once; the sign of an exact zero is that of R77. -/
def addV (v : REnv) (f : Fmt) (elem : Nat) (ops : List FV) (x y : FV) : FR :=
  match x, y with
  | .inf s, .inf t => if s = t then infRes f s else invRes v f ops
  | .inf s, _ => infRes f s
  | _, .inf t => infRes f t
  | .fin s m e, .fin t n g =>
    let e0 := min e g
    let k := alignTo e0 s m e + alignTo e0 t n g
    if k = 0 then
      let z := if m = 0 ∧ n = 0 ∧ s = t then s else v.rm == 2
      ⟨f.pack z 0 0, 0⟩
    else roundDy v f elem (k < 0) k.natAbs e0
  | _, _ => nanRes v f ops

/-- x + y (vaddf, R230). -/
def fadd (v : REnv) (f : Fmt) (elem : Nat) (x y : FV) : FR :=
  if x.isNan || y.isNan then nanRes v f [x, y] else addV v f elem [x, y] x y

/-- x − y. The NaN operands are those of the instruction, unnegated. -/
def fsub (v : REnv) (f : Fmt) (elem : Nat) (x y : FV) : FR :=
  if x.isNan || y.isNan then nanRes v f [x, y] else addV v f elem [x, y] x y.neg

/-- x × y. -/
def fmul (v : REnv) (f : Fmt) (elem : Nat) (x y : FV) : FR :=
  if x.isNan || y.isNan then nanRes v f [x, y] else
  match mulV x y with
  | none => invRes v f [x, y]
  | some (.fin s m e) => roundDy v f elem s m e
  | some (.inf s) => infRes f s
  | some _ => nanRes v f [x, y]

/-- z + x × y, or z − x × y with `sub`: one rounding; 0 × ±Inf sets INV even beside a quiet NaN z (R230). -/
def ffma (v : REnv) (f : Fmt) (elem : Nat) (sub : Bool) (x y z : FV) : FR :=
  let ops := [x, y, z]
  if x.isNan || y.isNan then nanRes v f ops else
  match mulV x y with
  | none => invRes v f ops
  | some p =>
    if z.isNan then nanRes v f ops else addV v f elem ops z (if sub then p.neg else p)

/-- Comparison of two non-NaN values: the sign of x − y; zeros are equal. -/
def cmpV (x y : FV) : Int :=
  match x, y with
  | .inf s, .inf t => if s = t then 0 else if s then -1 else 1
  | .inf s, _ => if s then -1 else 1
  | _, .inf t => if t then 1 else -1
  | .fin s m e, .fin t n g =>
    let e0 := min e g
    (alignTo e0 s m e - alignTo e0 t n g).sign
  | _, _ => 0

/-- vminf and vmaxf on encodings of one format (R231). -/
def fminmax (v : REnv) (f : Fmt) (isMax : Bool) (xb yb : Nat) : FR :=
  let x := f.decIn v xb
  let y := f.decIn v yb
  if x.isSnan || y.isSnan || (x.isNan && y.isNan) then nanRes v f [x, y] else
  let flush (b : Nat) : FR :=
    if f.subnormal b then
      if v.fz = 0 then ⟨b, 0⟩
      else if v.fz = 1 then ⟨f.pack ((f.dec b).sign) 0 0, fUNF + fINX⟩
      else ⟨f.pack ((f.dec b).sign) 0 0, 0⟩
    else ⟨b, 0⟩
  if x.isNan then flush yb
  else if y.isNan then flush xb
  else
    let c := cmpV x y
    let xLess : Bool := c < 0 || (c == 0 && x.sign && !y.sign)
    let yLess : Bool := 0 < c || (c == 0 && y.sign && !x.sign)
    if isMax then flush (if xLess then yb else xb) else flush (if yLess then yb else xb)

/-- A value converted to a float format (R87, R70): rounded when it is narrower. -/
def cvtV (v : REnv) (f : Fmt) (elem : Nat) (x : FV) : FR :=
  match x with
  | .nan .. => nanRes v f [x]
  | .inf s => infRes f s
  | .fin s m e => roundDy v f elem s m e

/-- An exact widening (R68, R87, R70): it keeps subnormals and payloads, and only a signalling NaN sets INV. -/
def widen (src dst : Fmt) (b : Nat) : FR :=
  let v : REnv := ⟨0, 0, true, false, fun _ => 0⟩
  match src.dec b with
  | .nan q s fr w =>
    -- DEDUCED (log 12): R70 names the F36 encoding of an E4M3 NaN, 0x7_FE00_0000
    if src = E4M3 then ⟨dst.pack s dst.emax (3 * 2 ^ (dst.fw - 2)), 0⟩
    else ⟨dst.nanOf s fr w, if q then 0 else fINV⟩
  | x => ⟨(cvtV v dst 0 x).bits, 0⟩

/-- Two's complement encoding of an integer in n bits. -/
def encI (n : Nat) (x : Int) : Nat := (x % (2 ^ n : Int)).toNat

/-- Two's complement value of n bits. -/
def decI (n : Nat) (x : Nat) : Int :=
  let y := x % 2 ^ n
  if 2 ^ (n - 1) ≤ y then (y : Int) - 2 ^ n else y

/-- Sat of R67, with its flag. -/
def satI (x : Int) (n : Nat) : Int × Nat :=
  if x > 2 ^ (n - 1) - 1 then (2 ^ (n - 1) - 1, fSAT)
  else if x < -(2 ^ (n - 1)) then (-(2 ^ (n - 1)), fSAT)
  else (x, 0)

/-- Sat as an encoding. -/
def satR (x : Int) (n : Nat) : FR := ⟨encI n (satI x n).1, (satI x n).2⟩

/-- The narrowing of lane add, subtract and multiply under MODE.IWRAP (R67). -/
def narrow (v : REnv) (x : Int) (n : Nat) : FR := if v.iwrap then ⟨encI n x, 0⟩ else satR x n

/-- A rational (-1)^s n / d rounded to an integer by MODE.RM and saturated (R86). -/
def roundInt (v : REnv) (elem : Nat) (w : Nat) (s : Bool) (n d : Nat) : FR :=
  let i0 := n / d
  let r := n % d
  let i := if roundUp v elem s i0 r d then i0 + 1 else i0
  let x : Int := if s then -(i : Int) else i
  let t := satI x w
  ⟨encI w t.1, t.2 + (if r = 0 then 0 else fINX)⟩

/-- A float operand converted to an integer format (R86). -/
def cvtI (v : REnv) (elem : Nat) (w : Nat) (x : FV) : FR :=
  match x with
  | .nan .. => ⟨0, fINV⟩
  | .inf s => ⟨encI w (if s then -(2 ^ (w - 1)) else 2 ^ (w - 1) - 1), fINV⟩
  | .fin s m e => roundInt v elem w s (numOf m e) (denOf e)

/-- An integer converted to a float format (R87). -/
def ofInt (v : REnv) (f : Fmt) (elem : Nat) (x : Int) : FR := roundTo v f elem (x < 0) x.natAbs 1

/-- An exact integer as an operand. -/
def intV (x : Int) : FV := .fin (x < 0) x.natAbs 0

/-- The S12 scale of a container (R72): zero, NaN, or 2^(e − 127) × (1 + f / 16). -/
def s12 (c : Nat) : FV :=
  let e := c / 16 % 256
  let f := c % 16
  if e = 0 then .fin false 0 0
  else if e = 255 then .nan true false 0 0
  else .fin false (16 + f) ((e : Int) - 131)

/-- mix32 of R80. -/
def mix32 (key ctr elem : Nat) : Nat :=
  let m := 2 ^ 64
  let z0 := (Nat.xor key ctr + elem * 0x9E3779B97F4A7C15) % m
  let rnd (z : Nat) : Nat :=
    let z := (Nat.xor z (z / 2 ^ 30)) * 0xBF58476D1CE4E5B9 % m
    let z := (Nat.xor z (z / 2 ^ 27)) * 0x94D049BB133111EB % m
    Nat.xor z (z / 2 ^ 31)
  rnd (rnd z0) / 2 ^ 32 % 2 ^ 32

/-- floor(log2 |q|) of a nonzero finite value. -/
def log2V (m : Nat) (e : Int) : Int := (m.log2 : Int) + e

/-- One step of BlockSum's accumulation: |q| truncated to a multiple of 2^ue, and whether a nonzero bit was discarded. -/
def truncTo (ue : Int) (s : Bool) (m : Nat) (e : Int) : Int × Bool :=
  if ue ≤ e then (alignTo ue s m e, false)
  else
    let sh := (ue - e).toNat
    let k : Nat := m / 2 ^ sh
    (if s then -(k : Int) else (k : Int), m % 2 ^ sh != 0)

/-- BlockSum of R82 over the operand pairs below K: an exact value, or a NaN result, with its flags. A NaN is given as the
encoding in format f. -/
def blockSum (v : REnv) (f : Fmt) (ps : List (FV × FV)) : FV × Nat :=
  let ops := ps.foldr (fun p l => p.1 :: p.2 :: l) []
  let nanV (r : FR) : FV × Nat := (f.dec r.bits, r.flags)
  let qs := ps.map (fun p => if p.1.isNan || p.2.isNan then none else mulV p.1 p.2)
  let anyNan := ops.any FV.isNan
  let anyBad := ps.any (fun p => !p.1.isNan && !p.2.isNan && (mulV p.1 p.2).isNone)
  let pinf := qs.any (fun q => q == some (.inf false))
  let ninf := qs.any (fun q => q == some (.inf true))
  let zero : FV := .fin (v.rm == 2) 0 0
  if anyBad || (pinf && ninf) then nanV (invRes v f ops)
  else if anyNan then nanV (nanRes v f ops)
  else if pinf then (.inf false, 0)
  else if ninf then (.inf true, 0)
  else
    let fs := qs.filterMap (fun q => match q with
      | some (.fin s m e) => if m = 0 then none else some (s, m, e)
      | _ => none)
    match fs with
    | [] => (zero, 0)
    | x :: xs =>
      let emax := xs.foldl (fun a y => max a (log2V y.2.1 y.2.2)) (log2V x.2.1 x.2.2)
      let ue := emax - 61
      let ts := fs.map (fun y => truncTo ue y.1 y.2.1 y.2.2)
      let acc : Int := ts.foldl (fun a t => a + t.1) 0
      let fl := if ts.any (fun t => t.2) then fINX else 0
      if acc = 0 then (zero, fl) else (.fin (acc < 0) acc.natAbs ue, fl)

/-- RoundF36 of a block sum: a NaN and an infinity stand, a zero keeps its sign. -/
def roundV (v : REnv) (f : Fmt) (elem : Nat) (x : FV) : FR :=
  match x with
  | .nan q s fr w => ⟨f.nanOf s fr w, if q then 0 else fINV⟩
  | .inf s => infRes f s
  | .fin s m e => roundDy v f elem s m e

end Sys2Proof.Machine
end

