-- ==== Sys2Proof/Machine/State.lean ====
section
/-! DEFINITION. The state of an LK3-B package as plain data: the issuing context and every other one, the memories and
buffers, the engines, the scheduler, the registers of control space, and the events that the surroundings have in store. -/

namespace Sys2Proof.Machine

/-- Why the machine stops with a fault. No rule of the manual stops the machine: a failed check is a trap, a hold or an error
record, and each of these is a next state. So there is no constructor. -/
inductive Fault where
  deriving DecidableEq, Repr

/-- Why the model has no next state. -/
inductive Refusal where
  /-- Raised by an arm of `exec` for an instruction without a meaning. Safe: nothing follows from it. -/
  | notModelled (mnemonic : String)
  deriving DecidableEq, Repr

/-- A finite map from numbers to values, as a list of pairs in rising order that lists no entry equal to the map's default. -/
abbrev Tab (α : Type) := List (Nat × α)

/-- Device, host and peer memory and the core buffers: bytes by address or offset; an unlisted byte reads 0. -/
abbrev Memory := List Host.Cell

/-- A deferred fault held by a register, a Z row or a pending result (R52, R298). -/
structure DFault where
  cause : Nat
  addr : Word
  info1 : Word
  code : Nat
  srcpc : Word
  srcstep : Word
  deriving DecidableEq, Repr

/-- A scalar register with its valid and full bits (R50, R51) and the deferred fault it may hold (R52). -/
structure SReg where
  val : Word := 0
  valid : Bool := false
  full : Bool := true
  fault : Option DFault := none
  deriving DecidableEq, Repr

/-- A physical predicate with its valid bit. -/
structure PReg where
  val : Bool := false
  valid : Bool := false
  deriving DecidableEq, Repr

/-- A physical lane mask with its valid bit. -/
structure MReg where
  val : Mask := 0
  valid : Bool := false
  deriving DecidableEq, Repr

/-- A clip register with its valid bit (Table 3.4). -/
structure KReg where
  val : Word := 0
  valid : Bool := false
  deriving DecidableEq, Repr

/-- A Z row with its valid, full and reader-policy bits (R50, R51), the deferred fault it may hold, and the poison mark of its
granule, which only a write of the whole row clears (R348). -/
structure ZRow where
  bits : Row := 0
  valid : Bool := false
  full : Bool := true
  pol : Bool := false
  fault : Option DFault := none
  mark : Bool := false
  deriving DecidableEq, Repr

/-- What a result is written to, in the form of R299: kind 0 scalar, 1 physical predicate, 2 physical mask, 3 physical Z row,
4 special register, 5 clip register, 6 nothing but FLAGS. -/
structure Dest where
  kind : Nat
  num : Nat
  deriving DecidableEq, Repr

/-- A pending result or delivery-queue entry (R45 to R49): where it goes, which bits it writes, how many steps it still waits,
the flags it ORs in, and whether it has arrived physically (R48). `rec` is the launch record address of a launch whose pool
trap is due at this result's step (R221). -/
structure Pend where
  dest : Dest
  val : Row
  msk : Row
  rem : Nat
  flags : BitVec 8
  /-- MODE.FTRAP as it stood when the slot issued (R74, R76) -/
  ftrap : Nat
  fault : Option DFault
  arrived : Bool
  srcpc : Word
  srcstep : Word
  pool : Option Word
  /-- the step at which it became visible, once that has come (R76) -/
  vis : Word := 0
  /-- the containment regions open when it was issued (R151) -/
  depth : Nat := 0
  deriving DecidableEq, Repr

/-- A trap as it will stand in a frame (R298). -/
structure Trap where
  cause : Nat
  ordn : Nat := 0xFF
  addr : Word := 0
  info1 : Word := 0
  info2 : Word := 0
  code : Nat := 0
  srcpc : Word := 0
  srcstep : Word := 0
  defer : Bool := false
  after : Bool := false
  mstep : Nat := 0xFF
  pend : Nat := 0
  /-- the lowest policy cause raised outside every region among those that the boundary reports together (R350) -/
  polc : Option Nat := none
  inRegion : Bool := false
  /-- whether the trap is a consumption of poison under R349 -/
  cons : Bool := false
  /-- whether an X-class operation raised it, and the step at which a result that raised it became visible (R76) -/
  ofX : Bool := false
  vis : Word := 0
  /-- whether it belongs to the bundle that holds the port copy of the second origin of a fused task (R343) -/
  ofC : Bool := false
  deriving DecidableEq, Repr

/-- Why a bundle is held (R39): for a reader of the state only, since a held bundle is tried again as a whole. -/
inductive Hold where
  | empty | busy | queue | gate | wait | arrival | order | leaf | log | dump
  | poolSpill (rcb : Nat)
  /-- the gate of a multicast, with the rank's address of B and BSTRIDE or PLANES (R264) -/
  | mcast (addr : Word) (par : Nat)
  deriving DecidableEq, Repr

/-- Whether a hold is the wait for a gang's other ranks (R212). -/
def Hold.isGate : Hold → Bool
  | .gate => true
  | .mcast .. => true
  | _ => false

/-- A timeline (R183): the issue count, the numbers above the completed value that have finished, the completed value, and the
numbers of failed operations that no waittl or waitwp has reported. -/
structure TLine where
  issued : Nat := 0
  done : Nat := 0
  fins : List Nat := []
  fails : List Nat := []
  deriving DecidableEq, Repr

/-- A write pointer (R186): the bytes delivered, the length of the copy it refers to, and that copy's number (0 for none). -/
structure WPtr where
  val : Word := 0
  len : Nat := 0
  num : Nat := 0
  deriving DecidableEq, Repr

/-- A watchpoint (Table 9.7). -/
structure Watch where
  lo : Word := 0
  hi : Word := 0
  value : Word := 0
  dmask : Word := 0
  ctl : Word := 0
  deriving DecidableEq, Repr

/-- The transposer's fill block (R249): width 0 for none, and its rows of 128 elements. -/
structure XFill where
  w : Nat := 0
  rows : List (List (BitVec 36)) := []
  deriving DecidableEq, Repr

/-- The transposer's drain block (R249). -/
structure XDrain where
  w : Nat
  rows : List (List (BitVec 36))
  c : Nat
  rdy : Word
  deriving DecidableEq, Repr

/-- An open containment region: the checkpoint of R149 and the Z rows written since. -/
structure Region where
  handler : Word
  s : Tab SReg
  p : Tab PReg
  lc : Word
  rrb : Nat
  prb : Nat
  leafn : Nat
  rseq : BitVec 16
  rows : List Nat
  /-- the rank-tree builder: the granularity in force, from which leaf on, and whether it stalls (R149, R325) -/
  tree : Nat × Nat × Bool
  deriving DecidableEq, Repr

/-- How far an origin of a fused task has come (R338, R341, R343): 0 before its loop, 1 in it, 2 after it; its closed iterations; the
port copies issued and finished, with the descriptors of those whose partner has not come yet; and for C its port region: buffer,
offset, length and the physical offset of P's region (R342). -/
structure Fz where
  part : Nat := 0
  iter : Nat := 0
  issued : Nat := 0
  finished : Nat := 0
  descs : List (Nat × List Byte) := []
  region : Option (Nat × Nat × Nat × Nat) := none
  deriving DecidableEq, Repr

/-- The iterations of the fused loop that an origin has reached: behind the loop, one more than in its last (R342). -/
def Fz.turn (z : Fz) : Nat := if z.part = 2 then z.iter + 1 else z.iter

/-- What a context is doing: issuing; waiting to end after its taken exit (R144); stopped at a boundary, with the trap it
holds of its own (R305); stopped for a debug agent (R307); or ended. -/
inductive CStat where
  | run
  | exited
  | stopped (own : Option Trap)
  | debug
  | ended
  deriving DecidableEq, Repr

/-- A row that an X-class operation writes: the bits under the mask; a row that was invalid takes zeros elsewhere (R262). -/
structure XWrite where
  row : Nat
  bits : Row
  msk : Row
  deriving DecidableEq, Repr

/-- An mma64 with its micro-steps to come (R265): what it captured at issue, the operand bytes its finished micro-steps read,
and its leaf record but for the digests. -/
structure M64 where
  micro : Nat
  t : Nat
  a : Word
  b : Word
  clip : Word
  mode : Word
  x : Option RemX
  opa : List (List Byte)
  opb : List (List Byte)
  base : List Byte
  lidx : Nat
  ord : Nat
  depth : Nat
  pc : Word
  step : Word
  deriving DecidableEq, Repr

/-- An X-class operation in flight (R257): the identity of its context and bundle, its tiles and occupancy, and what its
completion brings about, which its operands as they stood at issue fix (R187, R257): rows, buffer bytes (by buffer and key),
flags, the leaf record (none for a leaf that is rescinded), or its failure with the address (R259). `win` is the range that a
`tcvt` will write. -/
structure XOp where
  core : Nat
  cid : Nat
  gang : Nat
  arr : Nat
  task : Nat
  rank : Nat
  pc : Word
  step : Word
  ftrap : Nat
  lidx : Nat
  depth : Nat
  tiles : List Nat
  tgt : List Nat
  cost : Nat
  writes : List XWrite
  bufs : List (Nat × Nat × List Byte)
  flags : Nat
  leaf : List Byte
  fail : Option (Nat × Word)
  win : Nat × Nat
  m64 : Option M64
  dropped : Bool
  deriving DecidableEq, Repr

/-- A hardware context and the task on it (Tables 3.3, 3.5, 21.3, 11.2), with the identity the dispatcher gave it. -/
structure Ctx where
  live : Bool := false
  core : Nat := 0
  cid : Nat := 0
  gang : Nat := 0
  rank : Nat := 0
  nrank : Nat := 1
  skew : Nat := 0
  arr : Nat := 0
  task : Nat := 0
  prio : Nat := 0
  priv : Bool := false
  ptroot : Word := 0
  text : Word := 0
  lat : List Nat := []
  stat : CStat := .run
  blocked : Option Hold := none
  age : Nat := 0
  yielded : Bool := false
  /-- whether the bundle before held a drain, which the next bundle waits for (R175) -/
  drains : Bool := false
  /-- the TB at which the rank took its exit, where its core time ends (R30) -/
  left : Option Word := none
  pc : Word := 0
  step : Word := 0
  bseq : Nat := 0
  s : Tab SReg := []
  p : Tab PReg := []
  m : Tab MReg := []
  k : Tab KReg := []
  mode : Word := 0
  flags : Word := 0
  msel : Nat := 0
  vwb : Nat := 0
  rrb : Nat := 0
  prb : Nat := 0
  lc : Word := 0
  leafn : Nat := 0
  rseq : BitVec 16 := 0
  tmap : Word := 0
  zown : Word := 0
  wwin : Word := 0
  awin : Word := 0
  swin : Word := 0
  spovf : Word := 0
  tvec : Word := 0
  area : Word := 0
  inh : Bool := false
  dbg : Word := 0
  tls : List TLine := []
  wps : List WPtr := []
  dq : List Pend := []
  fill : XFill := {}
  drain : Option XDrain := none
  watch : List Watch := []
  regions : List Region := []
  compl : List Trap := []
  async : List Trap := []
  resumeSeq : Nat := 0
  /-- the mma64 whose micro-step trapped, until rft takes it up (R265, R303) -/
  susp : Option M64 := none
  /-- the scalar faults and the delivery-queue entries as the trap frame was written: what its bytes do not hold (R303) -/
  keptF : Tab DFault := []
  keptQ : List Pend := []
  /-- the same of a save image, for the agent of a debug stop (R307) -/
  imgF : Tab DFault := []
  imgQ : List Pend := []
  /-- the rows of owned tiles, by physical tile, and the buffers whose windows pre-emption saved because another task took their place
  (R308): a window's bytes then stand in storage (`storeKey`) -/
  keptZ : List (Nat × List ZRow) := []
  keptW : List Nat := []
  /-- what the allocator gave: the physical tiles in logical order, the unnamed one last, and the W, A and S windows (R38, R60) -/
  alloc : List Nat × Word × Word × Word := ([], 0, 0, 0)
  fz : Fz := {}
  deriving DecidableEq, Repr

/-- What an exit does beside leaving the bundle. -/
inductive ExitKind where
  | branch (target : Word)
  | exit
  | yield
  deriving DecidableEq, Repr

/-- The issue of one bundle: the slot being executed, and what the slots leave for the boundary (R45, R96, R118, R126, R297). -/
structure Iss where
  /-- the slot being executed: its ordinal and its word -/
  ord : Nat := 0
  word : Nat := 0
  /-- the address of the next sequential bundle -/
  npc : Word := 0
  /-- how many B slots have been tested, and the exit taken: its number and what it does -/
  bslots : Nat := 0
  taken : Option (Nat × ExitKind) := none
  /-- the results of this bundle, with the ordinals of their slots -/
  out : List (Nat × Pend) := []
  /-- the registers that a long-latency load of this bundle marks empty -/
  empt : List (Dest × Bool) := []
  hold : Option Hold := none
  traps : List Trap := []
  compl : List Trap := []
  /-- the advance of STEP by nop (R118) -/
  nk : Nat := 0
  gangOp : Bool := false
  /-- how many loop slots were loop fall-throughs (R142, R364) -/
  loopFalls : Nat := 0
  /-- the rows that a raw store of this bundle has written, as they stood before it: what its other slots read (R45) -/
  before : List (Nat × ZRow) := []
  drains : Bool := false
  wpt : List (Nat × Watch) := []
  /-- the register state that RFT restored replaces pc and STEP -/
  rft : Bool := false
  /-- the leaf indices assigned and the counted slots of this bundle (R60, R80) -/
  leafs : Nat := 0
  counted : Nat := 0
  deriving DecidableEq, Repr

/-- A translation that a cluster's TLB holds (R309 to R311): the cluster, the page-table root, the size of the page as a power of two and
VA over it, and the leaf: its target, the address of the page's first byte, the entry's address, and whether it lets writes and fetches
through. -/
structure TlbEnt where
  cluster : Nat
  root : Word
  sh : Nat
  page : Nat
  tgt : Nat
  pa : Nat
  ea : Nat
  wr : Bool
  ex : Bool
  deriving DecidableEq, Repr

/-- A walk in progress on a die (R310, R311): the root and the page VA[47:16], the invalidations stored before it began, and its outcome: the
leaf, or the cause and kind of the fault that every access waiting on it receives. -/
structure WalkEnt where
  die : Nat
  root : Word
  page : Nat
  inv : Nat
  out : Option TlbEnt
  cause : Nat
  kind : Nat
  deriving DecidableEq, Repr

/-- An outstanding long-latency load (R51): its destination, the sampled value or fault, and the pages whose walks it still waits
for (R310). -/
structure PLoad where
  core : Nat
  cid : Nat
  gang : Nat
  dest : Dest
  val : Row
  msk : Row
  flags : BitVec 8
  ftrap : Nat
  fault : Option DFault
  pages : List Nat
  root : Word
  va : Word
  /-- the first of its addresses in host or peer memory, whose far side may report an error (R179, R180) -/
  far : Option Word
  depth : Nat
  reqs : Nat
  discard : Bool
  srcpc : Word
  srcstep : Word
  deriving DecidableEq, Repr

/-- An engine operation in flight (R183): a copy, a collective or an xplane, with its descriptor bytes. -/
structure EngOp where
  core : Nat
  cid : Nat
  gang : Nat
  arr : Nat
  task : Nat
  rank : Nat
  ord : Nat
  words : List Nat
  tl : Nat
  num : Nat
  desc : List Byte
  lidx : Nat
  pc : Word
  text : Word
  step : Word
  mode : Word
  depth : Nat
  block : Option XDrain
  dst : Word
  delivered : Nat
  srcBytes : List Byte
  dropped : Bool
  /-- the iteration whose port copy this is (R343), and that of its issue in a fused task (R342) -/
  port : Option Nat
  iter : Nat
  deriving DecidableEq, Repr

/-- A leaf in a core's retirement buffer (R19): assigned at issue, retired with its record at completion. -/
structure LeafEnt where
  core : Nat
  arr : Nat
  task : Nat
  rank : Nat
  idx : Nat
  record : Option (List Byte)
  deriving DecidableEq, Repr

/-- The tree of one rank (R318, R323 to R325): the leaf hashes so far, the granularity in force and from which leaf on, and
the root once the rank has ended. `next` is the lowest level whose log entry the leaf that waits for room has still to get. -/
structure RankTree where
  arr : Nat
  task : Nat
  rank : Nat
  leaves : List (BitVec 256)
  gran : Nat
  base : Nat
  stalled : Bool
  next : Nat
  root : Option (BitVec 256)
  deriving DecidableEq, Repr

/-- A log entry that waits for room in its chain's pool (R323 to R325): its launch, its chain record and its RCBs, whether it may take the bytes held
back, and its bytes. -/
structure LogWait where
  arr : Nat
  chain : Nat
  rcbs : List Nat
  low : Bool
  bytes : List Byte
  deriving DecidableEq, Repr

/-- A rank's B parameters of a multicast product, as it comes to the gate (R264): the address, and BSTRIDE or PLANES. -/
structure McastArg where
  rank : Nat
  addr : Word
  par : Nat
  deriving DecidableEq, Repr

/-- A lock on a cluster instruction-cache line (R374). -/
structure ILock where
  cluster : Nat
  gang : Nat
  root : Word
  va : Nat
  deriving DecidableEq, Repr

/-- A bundle that the cluster sequencer has fetched for a gang (R35): its number, its address and its words. -/
structure Shown where
  seq : Nat
  pc : Word
  words : List Nat
  deriving DecidableEq, Repr

/-- An exit that a gang does not take because a rank dissented from it (R144): the number of its bundle, and whether the divergence stop
is still to come. -/
structure Voided where
  seq : Nat
  due : Bool
  deriving DecidableEq, Repr

/-- A gang (R34, R37, R212): its decisions by bundle number, the ranks waiting at a gang operation, those it has let through,
and the results that rank 0's slots share with every rank. `began` is the TB at which the ranks' core time began to count and
`acc` the core time counted so far in TB units (R30); `saved` holds once the gang is pre-empted, and `drained` when it may
resume on any cores (R308). -/
structure Gang where
  id : Nat
  arr : Nat
  task : Nat
  cores : List Nat
  dec : List (Nat × Nat × Word)
  /-- the bundles fetched that a rank has still to issue (R35, R36), and an exit that no rank takes (R144) -/
  shown : List Shown := []
  void : Option Voided := none
  gate : List Nat
  opened : List Nat
  shared : List (Nat × Word)
  mcast : List (Nat × McastArg)
  /-- W, A and their poison marks as a multicast's last rank came to the gate: its one read of B is of these (R264) -/
  snap : Option (Memory × Memory × Tab Bool)
  began : Option Word
  acc : Nat
  saved : Bool
  drained : Bool
  /-- the instruction-cache lines that the gang held when it was pre-empted and takes back when it resumes (R308, R374) -/
  relock : List ILock
  /-- the gang of the other origin of a fused task; 0 for none (R337) -/
  mate : Nat
  deriving DecidableEq, Repr

/-- A capture run (R328): the leaf wanted, where its record and regions go, the management packet that asked for it with its space, its
queue and that queue's owner, and what the slot that received the index has left: its record and the three regions. -/
structure Capture where
  task : Nat
  rank : Nat
  leaf : Nat
  cap : Word
  size : Nat
  packet : List Byte
  space : Word
  queue : Nat
  owner : Nat
  regions : Option (List Byte × List Byte × List Byte)
  record : List Byte
  deriving DecidableEq, Repr

/-- A registered code object (R371), with what its notes say (Table 7.16). -/
structure CodeObj where
  ptroot : Word := 0
  text : Word := 0
  tsize : Nat := 0
  entry : Nat := 0
  gw : Nat := 0
  skew : Nat := 0
  tiles : Nat := 0
  win : Nat := 0
  spill : Nat := 0
  lat : List Nat := []
  native : Bool := true
  trap : Word := 0
  succ : List (Nat × List Nat) := []
  splice : Option (List Byte) := none
  use : List (List Byte) := []
  stepping : List Byte := []
  opcmap : List (Nat × Nat) := []
  idig : BitVec 256 := 0
  deriving DecidableEq, Repr

/-- A launch's part in a fused pair (R335 to R340, R345): the other launch, whether this one is P (1) or C (2), both SPLICE descriptors, its
own first, the offsets of its body's bundles, its PSYNC index, the shift of C's bundles from there on, the positions that hold one
fused bundle, the address and the bytes taken in the Fuller's code area, the bundles of its kernel in the fused code, by their offsets in
`.text`, and the mapping table from C's registers, as kind and number, to their fused numbers (R339). -/
structure Fuse where
  mate : Nat
  origin : Nat
  note : List Byte
  other : List Byte
  body : List Nat
  sync : Nat
  shift : Nat
  joined : List Nat
  at_ : Nat
  room : Nat
  code : List (Nat × List Nat)
  table : List (Nat × Nat × Nat)
  deriving DecidableEq, Repr

/-- An RCB of a launch's chain, with the budgets of its own as they stood when the launch was admitted (R28, R30): core-microseconds,
memory bytes and log bytes; none where it has its parent's. -/
structure Grant where
  addr : Nat
  cb : Option Nat
  mb : Option Nat
  lb : Option Nat
  deriving DecidableEq, Repr

/-- A continuation record of a run queue (R294): the kernel entry, the parameter block, the join counter, the first task and the
count minus 1. -/
structure Cont where
  code : Word
  frame : Word
  join : Word
  first : Nat
  cnt : Nat
  deriving DecidableEq, Repr

/-- A launch from admission to completion (R286 to R296). `own` is its chain from the leaf RCB up, `cool` its coolant share and `runq`
its run queue. -/
structure Launch where
  arr : Nat
  packet : List Byte
  queue : Nat
  prio : Nat
  root : Word
  ptroot : Word
  priv : Bool
  cpol : Nat
  fdfl : Nat
  eroute : Nat
  cabase : Word
  casize : Word
  own : List Grant
  cool : Nat
  runq : List Cont
  chain : Nat
  code : CodeObj
  placed : Nat
  ended : Nat
  status : Nat
  faults : Nat
  start : Option Word
  fin : Word
  used : Nat
  cflags : Nat
  attempt : Nat
  inHeap : Bool
  tasks : List (Nat × BitVec 256)
  held : List (Nat × List Byte × Word)
  stopped : Bool
  replay : Bool
  banned : List Nat
  fuse : Option Fuse
  capture : Option Capture
  deriving DecidableEq, Repr

/-- A shadow granule of a launch (R312): its bytes by offset, and the 64-byte lines written. -/
structure Shadow where
  arr : Nat
  granule : Nat
  bytes : Memory
  lines : List Nat
  /-- the lines whose original was poisoned when the copy was taken, as long as no write has covered them -/
  bad : List Nat
  deriving DecidableEq, Repr

/-- A Milliner core (R282 to R285). -/
structure Milli where
  loaded : Bool := false
  stopped : Bool := false
  /-- the frames in a row that ended without its heartbeat, and whether it has come in this one -/
  missed : Nat := 0
  beat : Bool := false
  takes : Option Nat := none
  /-- the standby's load is complete: it begins with the next frame; and whether it serves -/
  due : Bool := false
  serving : Bool := false
  deriving DecidableEq, Repr

/-- A dump in progress (R366): `wait` holds until its gang has stopped. -/
structure Dump where
  desc : Nat
  wait : Bool
  arr : Nat
  task : Nat
  dest : Nat
  size : Nat
  out : Nat
  hold : Bool
  root : Word
  todo : List (Nat × Nat)
  pages : Nat
  deriving DecidableEq, Repr

/-- A latched bank-conflict snapshot (R364). -/
structure Snap where
  core : Nat
  tb : Word
  pc : Word
  arr : Nat
  task : Nat
  cid : Nat
  rank : Nat
  step : Word
  counts : Tab (BitVec 32)
  ovf : Tab Bool
  deriving DecidableEq, Repr

/-- What the management complex's SPDM responder keeps (R332): the transcript of the session, the message of the last signed
response, and the last response given. -/
structure Spdm where
  transcript : List Byte := []
  signed : List Byte := []
  out : List Byte := []
  deriving DecidableEq, Repr

/-- The whole package. -/
structure State where
  /-- the context whose bundle issues next, or that an event concerns -/
  ctx : Ctx
  /-- every other allocated context, and the contexts of pre-empted gangs -/
  parked : List Ctx
  saved : List Ctx
  iss : Iss
  mem : Memory
  host : Memory
  peer : Memory
  wbuf : Memory
  abuf : Memory
  sbuf : Memory
  rows : Tab ZRow
  pline : Tab Bool
  pbuf : Tab Bool
  wake : Tab Word
  ctl : Tab Word
  /-- the stacks fenced at the last cold start, which fix the address map (R26, R167) -/
  stackMap : Nat
  tb : Word
  xq : List XOp
  loads : List PLoad
  engs : List EngOp
  leaves : List LeafEnt
  trees : List RankTree
  logq : List LogWait
  gangs : List Gang
  nextGang : Nat
  launches : List Launch
  nextArr : Nat
  registry : List CodeObj
  loadq : List Nat
  shadows : List Shadow
  spills : List Nat
  millis : List Milli
  deadq : List Nat
  /-- the cores reserved for the heap's top entry, and the entry that they are reserved for (R291) -/
  reserved : List Nat
  resvFor : Nat
  clock : Tab Nat
  trips : Tab Nat
  /-- the TB at which a core's last self-test or scan ended, plus one; 0 for none (R358) -/
  testEnd : Tab Word
  scans : Tab Bool
  locks : List ILock
  conflicts : Tab (BitVec 32)
  confOvf : Tab Bool
  snaps : List Snap
  /-- the TLBs, the walks in progress, the invalidations stored so far, and those not yet complete (R309 to R311) -/
  tlb : List TlbEnt
  walks : List WalkEnt
  tlbn : Nat
  tlbq : List (Nat × Word × Nat × Word)
  dump : Option Dump
  signedAt : Tab Word
  lastSign : Tab Word
  spdm : Spdm
  measure : Tab (BitVec 384)
  /-- the tree-log bytes charged to each RCB in its period (R324) -/
  lused : Tab Nat
  /-- the collectives of each group that are over (R215, R391) -/
  collSeq : Tab Nat
  /-- the budget period of each RCB that has been charged core time, as the latest admission found it (R28, R293) -/
  charged : Tab Nat
  /-- the RCBs whose pools have taken records, in the order in which the Milliner visits them (R282, R295) -/
  pools : List Nat
  /-- dependences found to hold: the queue or pool they came by, the packet's index there and their own (R287) -/
  depSeen : List (Nat × Nat × Nat)
  /-- pairs that the Fuller has refused: P, C's place and the reason (R336) -/
  noSplice : List (Nat × (Nat × Nat) × Nat)
  /-- VF Enable of the host link's SR-IOV capability (R379, R380) -/
  vfOn : Bool
  /-- the peer entries written so far, which place the next one in its ring (R330) -/
  plog : Nat
  /-- the flits of the collectives that wait to go out, each with its port (R391), and the failures of the flit that a port replays (R389) -/
  txq : List (Nat × BitVec 512)
  retries : Tab Nat
  /-- the TYPE 4 flits that have come by a port toward contributors and are not yet in a sum, each with its port (R73, R391) -/
  collRx : List (Nat × BitVec 512)
  /-- READY0 and READY1 as a warm start found them (R384), and the recovery image by offset (R386) -/
  wasReady : Word × Word
  recov : Tab Word
  /-- the low half of LINKH staged per port until the high half is stored (Table 23.6) -/
  linkLo : Tab Word
  inputs : List Instr
  free : Nat
  /-- the model's own counters: bundles since the last internal event, and internal events (log 2) -/
  since : Nat
  turn : Nat
  deriving DecidableEq, Repr

/-- The machine after a cold start at its entry to HOLD (R381, R382): SYSSTATE is HOLD and the feature bits are published (the
values that the control registers have there are their defaults, `ctlReset`), TB is 0, no unit is ready, device memory is
zero-filled and not yet usable, and no context, launch or transfer exists. The values that the manual does not give are in the
assumption log (logs 5 to 7). -/
def State.reset : State :=
  { ctx := {}, parked := [], saved := [], iss := {}, mem := [], host := [], peer := [], wbuf := [], abuf := [], sbuf := [],
    rows := [], pline := [], pbuf := [], wake := [], ctl := [], stackMap := 0, tb := 0, xq := [], loads := [], engs := [],
    leaves := [], trees := [], logq := [], gangs := [], nextGang := 1, launches := [], nextArr := 1, registry := [], loadq := [],
    shadows := [], spills := [], millis := [], deadq := [], reserved := [], resvFor := 0, clock := [], trips := [], testEnd := [],
    scans := [], locks := [], conflicts := [], confOvf := [], snaps := [], tlb := [], walks := [], tlbn := 0, tlbq := [], dump := none, signedAt := [],
    lastSign := [], spdm := {}, measure := [], lused := [], collSeq := [], charged := [], pools := [], depSeen := [], noSplice := [],
    vfOn := false, linkLo := [], plog := 0, txq := [], retries := [], collRx := [], wasReady := (0, 0), recov := [], inputs := [], free := 0, since := 0, turn := 0 }

end Sys2Proof.Machine
end

