-- ==== Sys2Proof/Machine/Tab.lean ====
section
/-! DEFINITION. Finite maps and memories in one canonical form: keys strictly rising, and no entry equal to the default. -/

namespace Sys2Proof.Machine

/-- The entry of a key. -/
def tabFind {α : Type} : Tab α → Nat → Option α
  | [], _ => none
  | (a, v) :: t, k => if a = k then some v else tabFind t k

/-- Sets the entry of a key, or takes it out. -/
def tabPut {α : Type} (m : Tab α) (k : Nat) (o : Option α) : Tab α :=
  m.filter (fun x => x.1 < k) ++ (o.map (fun v => (k, v))).toList ++ m.filter (fun x => k < x.1)

/-- Sets a key of a map whose unlisted keys read as `d`: the value `d` takes the entry out. -/
def tabSet {α : Type} [DecidableEq α] (d : α) (m : Tab α) (k : Nat) (v : α) : Tab α :=
  tabPut m k (if v = d then none else some v)

/-- Reads a key of a map whose unlisted keys read as `d`. -/
def tabGet {α : Type} (d : α) (m : Tab α) (k : Nat) : α := (tabFind m k).getD d

/-- The canonical form of a map with default `d`. -/
def tabWf {α : Type} [DecidableEq α] (d : α) (m : Tab α) : Bool :=
  (m.map Prod.fst).Pairwise (fun a b => a < b) && m.all (fun x => x.2 != d)

/-- The byte at an address; an unlisted address reads 0: the zero-fill of R382 for device memory, and a DESIGN CHOICE
(logs 6 and 7) for host memory, peer memory and the core buffers. -/
def memByte (m : Memory) (a : Nat) : Byte := tabGet (0 : Byte) m a

/-- n bytes from an address upward. -/
def memRead (m : Memory) (a n : Nat) : List Byte := (List.range n).map (fun i => memByte m (a + i))

/-- The cells of a byte string at an address: a zero byte has none. -/
def cells (a : Nat) : List Byte → Memory
  | [] => []
  | b :: bs => if b = 0 then cells (a + 1) bs else (a, b) :: cells (a + 1) bs

/-- Writes a byte string at an address. -/
def memWrite (m : Memory) (a : Nat) (bs : List Byte) : Memory :=
  m.filter (fun x => x.1 < a) ++ cells a bs ++ m.filter (fun x => a + bs.length ≤ x.1)

/-- Clears n bytes. -/
def memClear (m : Memory) (a n : Nat) : Memory := m.filter (fun x => x.1 < a || a + n ≤ x.1)

/-- The canonical form of a memory. -/
abbrev memWf (m : Memory) : Bool := tabWf (0 : Byte) m

/-- The little-endian number of n bytes. -/
def memNat (m : Memory) (a n : Nat) : Nat := (List.range n).foldr (fun i acc => (memByte m (a + i)).toNat + 256 * acc) 0

end Sys2Proof.Machine
end

