-- ==== Sys2Proof/Machine/Ops.lean ====
section
/-! DEFINITION. The registers of a context behind accessors, the results that a slot leaves for the delivery queue, and the
form of a slot's outcome: a next state, a hold of its bundle or a trap of its bundle (R39, R45, R50 to R58, R126). -/

namespace Sys2Proof.Machine

/-- What a meaning answers. -/
abbrev Res := Host.Outcome State Fault Refusal

/-- Why a slot does not go ahead: its bundle is held, or its bundle traps. -/
inductive Stop where
  | hold (h : Hold)
  | trap (t : Trap)
  deriving DecidableEq, Repr

/-- A slot's way to a value. -/
abbrev SlotR (α : Type) := Except Stop α

/-- Two readings of one slot: a hold of either holds the bundle, whatever the other; then the first trap counts. -/
def both {α β : Type} (a : SlotR α) (b : SlotR β) : SlotR (α × β) :=
  match a, b with
  | .error (.hold h), _ => .error (.hold h)
  | _, .error (.hold h) => .error (.hold h)
  | .error (.trap t), _ => .error (.trap t)
  | .ok _, .error (.trap t) => .error (.trap t)
  | .ok x, .ok y => .ok (x, y)

/-- A trap of the slot. -/
def trapS {α : Type} (t : Trap) : SlotR α := .error (.trap t)

/-- A trap of the slot when a check fails. -/
def need (ok : Bool) (t : Trap) : SlotR Unit := if ok then .ok () else .error (.trap t)

/-- A hold of the bundle when a condition is not met. -/
def await (ok : Bool) (h : Hold) : SlotR Unit := if ok then .ok () else .error (.hold h)

/-- An operand trap with the offending value in INFO1 (R298). -/
def opTrap (v : Word) : Trap := { cause := 0x0B, info1 := v }

/-- The state after a slot: its effects, or its hold or trap recorded for the boundary, where the bundle then has no effect
(R39, R126). The frame's ordinal is the slot's. A wait for the other ranks of a gang counts only where nothing else holds. -/
def finish (s : State) (r : SlotR State) : Res :=
  match r with
  | .ok t => .next t
  | .error (.hold h) =>
    .next { s with iss := { s.iss with hold := if s.iss.hold.any (fun k => !k.isGate) then s.iss.hold else some h } }
  | .error (.trap t) => .next { s with iss := { s.iss with traps := s.iss.traps ++ [{ t with ordn := s.iss.ord, inRegion := !s.ctx.regions.isEmpty }] } }

/-! Names of registers (R56, R57). -/

/-- The physical predicate or mask of a name (R57). -/
def physP (c : Ctx) (n : Nat) : Nat := if n < 8 then n else 8 + (n - 8 + (8 - c.prb % 8)) % 8

/-- The Z row of a vector register (R56). -/
def physV (c : Ctx) (n : Nat) : Nat := if n < 16 then c.vwb + n else c.vwb + 16 + (n - 16 + (48 - c.rrb % 48)) % 48

/-- A field of a word. -/
def wfld (w : Word) (lo n : Nat) : Nat := w.toNat / 2 ^ lo % 2 ^ n

/-- TCNT of ZOWN. -/
def tcnt (c : Ctx) : Nat := wfld c.zown 16 5

/-- The physical tile of tn under TMAP (R58). -/
def tileOf (c : Ctx) (n : Nat) : Nat := wfld c.tmap (4 * n) 4

/-- The key of a physical Z row of a core. -/
def rowKey (core r : Nat) : Nat := core * 2048 + r

/-- A Z row. -/
def State.row (s : State) (core r : Nat) : ZRow := tabGet {} s.rows (rowKey core r)

/-- Replaces a Z row. -/
def State.setRow (s : State) (core r : Nat) (z : ZRow) : State := { s with rows := tabSet {} s.rows (rowKey core r) z }

/-- Whether an X-class operation was issued by the bundle that is issuing: its own bundle does not wait for it. -/
def State.sameBundle (s : State) (x : XOp) : Bool :=
  x.core == s.ctx.core && x.cid == s.ctx.cid && x.step == s.ctx.step && x.pc == s.ctx.pc

/-- The busy bit of a physical tile (R58): an uncompleted X-class operation of the core has it in its tile set. -/
def State.busy (s : State) (core tile : Nat) : Bool :=
  s.xq.any (fun x => x.core == core && x.tiles.contains tile && !s.sameBundle x)

/-- A scalar register; s0 reads 0 and is always valid and full (R50, R53). -/
def Ctx.sreg (c : Ctx) (n : Nat) : SReg := if n = 0 then { valid := true } else tabGet {} c.s n

/-- Replaces a scalar register; s0 is never written (R53). -/
def Ctx.setS (c : Ctx) (n : Nat) (r : SReg) : Ctx := if n = 0 then c else { c with s := tabSet {} c.s n r }

/-- A physical predicate; p0 reads 1. -/
def Ctx.preg (c : Ctx) (n : Nat) : PReg := if n = 0 then ⟨true, true⟩ else tabGet {} c.p n

/-- Replaces a physical predicate; p0 is never written. -/
def Ctx.setP (c : Ctx) (n : Nat) (r : PReg) : Ctx := if n = 0 then c else { c with p := tabSet {} c.p n r }

/-- A physical mask; m0 reads all ones. -/
def Ctx.mreg (c : Ctx) (n : Nat) : MReg := if n = 0 then ⟨BitVec.allOnes 512, true⟩ else tabGet {} c.m n

/-- Replaces a physical mask; m0 is never written. -/
def Ctx.setM (c : Ctx) (n : Nat) (r : MReg) : Ctx := if n = 0 then c else { c with m := tabSet {} c.m n r }

/-- A clip register. -/
def Ctx.kreg (c : Ctx) (n : Nat) : KReg := tabGet {} c.k n

/-- Replaces a clip register. -/
def Ctx.setK (c : Ctx) (n : Nat) (r : KReg) : Ctx := { c with k := tabSet {} c.k n r }

/-- INFO1 of a register (R299). -/
def regInfo (kind n : Nat) : Word := BitVec.ofNat 64 (kind * 4096 + n)

/-- The trap of a deferred fault that is consumed (R52, R298). -/
def DFault.trap (f : DFault) : Trap :=
  { cause := f.cause, addr := f.addr, info1 := f.info1, code := f.code, srcpc := f.srcpc, srcstep := f.srcstep, defer := true, cons := f.cause == 0x0F }

/-- Reads a register's state bits: empty first, under the policy, then a deferred fault, then the valid bit (R50 to R52). -/
def readBits {α : Type} (v : α) (valid full pol : Bool) (fault : Option DFault) (info : Word) : SlotR α :=
  if !full then (if pol then trapS { cause := 0x06, info1 := info } else .error (.hold .empty))
  else match fault with
    | some f => trapS f.trap
    | none => if valid then .ok v else trapS { cause := 0x05, info1 := info }

/-- Reads scalar n under a policy. -/
def State.rdSn (s : State) (n : Nat) (pol : Bool) : SlotR Word :=
  let r := s.ctx.sreg n
  readBits r.val r.valid r.full pol r.fault (regInfo 0 n)

/-- Reads a scalar source field: bits [4:0] the register, bit 5 the reader policy (R104). -/
def State.rdS (s : State) (f : BitVec 6) : SlotR Word := s.rdSn (f.toNat % 32) (32 ≤ f.toNat)

/-- Notes rows that are written, for every open region (R150). -/
def Ctx.wrote (c : Ctx) (rs : List Nat) : Ctx :=
  { c with regions := c.regions.map (fun g => { g with rows := g.rows ++ rs.filter (fun r => !g.rows.contains r) }) }

/-- Reads predicate pn through PRB. -/
def State.rdP (s : State) (n : Nat) : SlotR Bool :=
  let k := physP s.ctx n
  let r := s.ctx.preg k
  if r.valid then .ok r.val else trapS { cause := 0x05, info1 := regInfo 1 k }

/-- Reads mask mn through PRB. -/
def State.rdM (s : State) (n : Nat) : SlotR Mask :=
  let k := physP s.ctx n
  let r := s.ctx.mreg k
  if r.valid then .ok r.val else trapS { cause := 0x05, info1 := regInfo 2 k }

/-- Reads the active mask m[MSEL] (R55). -/
def State.rdMask (s : State) : SlotR Mask := s.rdM s.ctx.msel

/-- A row of the context's core as it stood before any slot of the issuing bundle wrote (R45). -/
def State.rowBefore (s : State) (r : Nat) : ZRow := ((s.iss.before.find? (fun x => x.1 == r)).map Prod.snd).getD (s.row s.ctx.core r)

/-- Keeps a row as it stands before a raw store of the bundle. -/
def State.keepRow (s : State) (r : Nat) : State :=
  if s.iss.before.any (fun x => x.1 == r) then s else { s with iss := { s.iss with before := s.iss.before ++ [(r, s.row s.ctx.core r)] } }

/-- Reads a Z row of the context's core as a source (R45, R50, R51, R58): a row of a busy tile holds the bundle. -/
def State.rdRow (s : State) (r : Nat) : SlotR Row :=
  if s.busy s.ctx.core (r / 128) then .error (.hold .busy)
  else
    let z := s.rowBefore r
    readBits z.bits z.valid z.full z.pol z.fault (regInfo 3 r)

/-- Reads a vector register. -/
def State.rdV (s : State) (n : BitVec 6) : SlotR Row := s.rdRow (physV s.ctx n.toNat)

/-- Reads a clip register for MFS (R137): an unwritten one is invalid. -/
def State.rdK (s : State) (n : Nat) : SlotR Word :=
  let r := s.ctx.kreg n
  if r.valid then .ok r.val else trapS { cause := 0x05, info1 := regInfo 5 n }

/-- An empty scalar destination holds the bundle (R52). -/
def State.dstS (s : State) (n : Nat) : SlotR Unit := await (s.ctx.sreg n).full .empty

/-- An empty row as destination holds the bundle (R52), and so does a row of a busy tile (R58). -/
def State.dstRow (s : State) (r : Nat) : SlotR Unit :=
  if s.busy s.ctx.core (r / 128) then .error (.hold .busy) else await (s.row s.ctx.core r).full .empty

/-- The same for a vector register. -/
def State.dstV (s : State) (n : BitVec 6) : SlotR Unit := s.dstRow (physV s.ctx n.toNat)

/-- A field of MODE. -/
def modeRM (m : Word) : Nat := wfld m 0 3
def modeFZ (m : Word) : Nat := wfld m 3 2
def modeIWRAP (m : Word) : Bool := m.getLsbD 5
def modeNANP (m : Word) : Bool := m.getLsbD 6
def modeSSTH (m : Word) : Nat := wfld m 8 8
def modeFTRAP (m : Word) : Nat := wfld m 16 4

/-! Latencies (R117, R372) and results (R45). -/

/-- The LK3-B latency table (Table 7.14), by group. -/
def lat14 : List Nat := [1, 3, 18, 3, 4, 2, 2, 2, 6, 8, 5, 3, 4, 8, 2, 1, 8, 1]

/-- The latency of a group in the context's table. -/
def Ctx.latOf (c : Ctx) (g : Nat) : Nat := c.lat.getD (g - 1) (lat14.getD (g - 1) 1)

/-- A result that stands complete when its slot issues. -/
def State.pend (s : State) (d : Dest) (lat : Nat) (val msk : Row) (flags : Nat) : Pend :=
  { dest := d, val := val, msk := msk, rem := lat, flags := BitVec.ofNat 8 flags,
    ftrap := modeFTRAP s.ctx.mode, fault := none, arrived := true,
    srcpc := s.ctx.pc, srcstep := s.ctx.step, pool := none, depth := s.ctx.regions.length }

/-- Leaves a result for the delivery queue. -/
def State.post (s : State) (p : Pend) : State := { s with iss := { s.iss with out := s.iss.out ++ [(s.iss.ord, p)] } }

/-- A scalar result. One for s0 is pending like any other and its value is discarded when it becomes visible (R53, R303). -/
def State.postS (s : State) (n lat : Nat) (v : Word) : State :=
  s.post (s.pend ⟨0, n⟩ lat (v.zeroExtend 4608) allRow 0)

/-- A predicate result for the name pn. -/
def State.postP (s : State) (n lat : Nat) (v : Bool) : State :=
  s.post (s.pend ⟨1, physP s.ctx n⟩ lat (BitVec.ofNat 4608 v.toNat) allRow 0)

/-- A mask result for the name mn with its flags, which a compare into m0 still raises (R232). -/
def State.postM (s : State) (n lat : Nat) (v : Mask) (flags : Nat) : State :=
  s.post (s.pend ⟨2, physP s.ctx n⟩ lat (v.zeroExtend 4608) allRow flags)

/-- A result for physical row r: the bits of `msk` are written (R227). -/
def State.postRow (s : State) (r lat : Nat) (val msk : Row) (flags : Nat) : State :=
  s.post (s.pend ⟨3, r⟩ lat val msk flags)

/-- A result for a vector register, whose row is fixed at issue (R226). -/
def State.postV (s : State) (n : BitVec 6) (lat : Nat) (val msk : Row) (flags : Nat) : State :=
  s.postRow (physV s.ctx n.toNat) lat val msk flags

/-- A special-register result: an MTS, MODEW or VWIN at latency 1, an MSEL at its own (R60, R245). -/
def State.postX (s : State) (num lat : Nat) (v : Word) : State :=
  s.post (s.pend ⟨4, num⟩ lat (v.zeroExtend 4608) allRow 0)

/-- Flags that become visible at the boundary after the bundle (R200). -/
def State.postF (s : State) (flags : Nat) : State := s.post (s.pend ⟨6, 0⟩ 1 0 0 flags)

/-! Lanes of a Z row (R54, R55). -/

/-- The lanes of a row in the view of width w, as unsigned patterns. -/
def lanes (w : Nat) (r : Row) : List Nat :=
  let x := r.toNat
  (List.range (4608 / w)).map (fun i => x / 2 ^ (w * i) % 2 ^ w)

/-- Numbers laid side by side, w bits each. -/
def packW (w : Nat) : List Nat → Nat
  | [] => 0
  | x :: xs => x % 2 ^ w + 2 ^ w * packW w xs

/-- A row of lane values. -/
def packRow (w : Nat) (xs : List Nat) : Row := BitVec.ofNat 4608 (packW w xs)

/-- The bit that lane i of width w reads from a mask: 4i, 2i or i. -/
def maskBit (w : Nat) (m : Mask) (i : Nat) : Bool := m.getLsbD (i * (w / 9))

/-- The lanes that a mask activates, in the view of width w. -/
def actives (w : Nat) (m : Mask) : List Bool := (List.range (4608 / w)).map (maskBit w m)

/-- The written bits of a row whose active lanes are given. -/
def laneMask (w : Nat) (act : List Bool) : Row := packRow w (act.map (fun b => if b then 2 ^ w - 1 else 0))

/-- A mask from one bit per lane, each written to the whole group (R55). -/
def groupMask (w : Nat) (bs : List Bool) : Mask :=
  BitVec.ofNat 512 (packW (w / 9) (bs.map (fun b => if b then 2 ^ (w / 9) - 1 else 0)))

/-- The mask bits of a view field: 36, 18 or 9 (R103). -/
def viewW (v : BitVec 2) : Nat := match v.toNat with
  | 0 => 36
  | 1 => 18
  | _ => 9

/-! Rounding under the issuing context's MODE (R74, R77, R80). -/

/-- Whether a value may be written to MODE (R74). -/
def modeOk (v : Word) : Bool :=
  modeRM v < 6 && modeFZ v < 3 && 1 ≤ modeSSTH v && modeSSTH v ≤ 128 && v.toNat / 2 ^ 20 == 0 && !v.getLsbD 7

/-- A launch by its ARR value. -/
def State.launch? (s : State) (arr : Nat) : Option Launch := s.launches.find? (fun l => l.arr == arr)

/-- Replaces the launch of the same ARR. -/
def State.setLaunch (s : State) (l : Launch) : State :=
  { s with launches := s.launches.map (fun x => if x.arr = l.arr then l else x) }

/-- The launch nonce (Table 19.2). -/
def Launch.nonce (l : Launch) : List Byte := (l.packet.drop 0x40).take 32

/-- The nonce of a launch; zeros where there is none. -/
def State.nonce (s : State) (arr : Nat) : List Byte :=
  match s.launch? arr with
  | some l => l.nonce
  | none => List.replicate 32 0

/-- The draws of a slot under RSR (R80). -/
def drawOf (mode : Word) (nonce : List Byte) (task ctr ord : Nat) (elem : Nat) : Nat :=
  if modeRM mode = 5 then mix32 (taskTK nonce task) ctr (ord * 65536 + elem) else 0

/-- The ctr of a slot without a leaf: LEAFN and RSEQ as they stood before the bundle (R80). -/
def Ctx.ctrSlot (c : Ctx) : Nat := c.rank * 2 ^ 56 + 2 ^ 55 + (c.leafn % 2 ^ 39) * 65536 + c.rseq.toNat

/-- The ctr of a leaf-producing slot (R80). -/
def ctrLeaf (rank lidx : Nat) : Nat := rank * 2 ^ 56 + lidx % 2 ^ 55

/-- The rounding of a slot without a leaf. -/
def State.renv (s : State) : REnv :=
  let m := s.ctx.mode
  ⟨modeRM m, modeFZ m, modeNANP m, modeIWRAP m, drawOf m (s.nonce s.ctx.arr) s.ctx.task s.ctx.ctrSlot s.iss.ord⟩

/-- The rounding of a leaf-producing slot. -/
def renvLeaf (mode : Word) (nonce : List Byte) (task rank lidx ord : Nat) : REnv :=
  ⟨modeRM mode, modeFZ mode, modeNANP mode, modeIWRAP mode, drawOf mode nonce task (ctrLeaf rank lidx) ord⟩

/-- Counts the slot for RSEQ (R80). -/
def State.count (s : State) : State :=
  if modeRM s.ctx.mode = 5 then { s with iss := { s.iss with counted := s.iss.counted + 1 } } else s

/-- Assigns the next leaf index of the rank (R60), in slot order within the bundle. -/
def State.nextLeaf (s : State) : Nat := s.ctx.leafn + s.iss.leafs

/-- The leaves a core holds in its retirement buffer (R19). -/
def State.leafRoom (s : State) : Bool := (s.leaves.filter (fun l => l.core == s.ctx.core)).length < 64

/-- The rank tree of the context's task, and whether it stalls for log space (R325). -/
def State.logStalled (s : State) : Bool :=
  s.trees.any (fun t => t.arr == s.ctx.arr && t.task == s.ctx.task && t.rank == s.ctx.rank && t.stalled)

/-- Takes a leaf index and a place in the retirement buffer. -/
def State.takeLeaf (s : State) : State :=
  let e : LeafEnt := ⟨s.ctx.core, s.ctx.arr, s.ctx.task, s.ctx.rank, s.nextLeaf, none⟩
  { s with leaves := s.leaves ++ [e], iss := { s.iss with leafs := s.iss.leafs + 1 } }

/-- Sets the whole current context. -/
def State.setCtx (s : State) (f : Ctx → Ctx) : State := { s with ctx := f s.ctx }

end Sys2Proof.Machine
end

