-- ==== Sys2Proof/Machine/Ctl.lean ====
section
/-! DEFINITION. The control registers' values after a cold start (R21 to R26, R321, R357, R380 to R394), their one home, and the
counting rule of R362. -/

namespace Sys2Proof.Machine

/-- Word 1 of a valve zone from its fields (Table 31.6). -/
def zoneWord (step state set ceil floor : Nat) : Word :=
  BitVec.ofNat 64 (step % 256 * 2 ^ 32 + state % 256 * 2 ^ 24 + set % 256 * 2 ^ 16 + ceil % 256 * 2 ^ 8 + floor % 256)

/-- The offset of word 1 of zone n. -/
def zoneOff (n : Nat) : Nat := 0x610008 + 16 * n

/-- What a control register holds after a cold start (Tables 1.6 to 1.10, 27.4, 31.2, 31.6): 0 unless stated. BANDCAP, ZTHR and
the other configuration registers have no stated value and start at 0 (log 5). -/
def ctlReset (o : Nat) : Word :=
  if o = 0x0000 then BitVec.ofNat 64 (0x5AD14C4B00030200 + Config.metal.toNat)
  else if o = 0x0008 then 0x40101
  else if o = 0x0010 then Config.serial
  else if o = 0x0018 then 0x181040080C181044
  else if 0x230000 ≤ o ∧ o < 0x230C00 then 2
  else if o = 0x230C00 then 1000000000
  else if o = 0x600000 then 2
  else if o = 0x600028 then Config.bindt
  else if o = 0x600100 then 0x3FF
  else if 0x610000 ≤ o ∧ o < 0x610780 ∧ o % 16 = 8 then
    zoneWord 0 0 (Config.zoneSet ((o - 0x610000) / 16)).toNat 255 (Config.zoneFloor ((o - 0x610000) / 16)).toNat
  else 0

/-- The value of a control register. -/
def State.reg (s : State) (o : Nat) : Word := (tabFind s.ctl o).getD (ctlReset o)

/-- Sets a control register; a value equal to that after a cold start is not listed. -/
def State.setReg (s : State) (o : Nat) (v : Word) : State :=
  { s with ctl := tabPut s.ctl o (if v = ctlReset o then none else some v) }

/-- A feature bit as accepted and fixed (R380): FEATACC counts once FEATLOCK is 1. -/
def State.feat (s : State) (b : Nat) : Bool := (s.reg 0x600140).getLsbD 0 && (s.reg 0x600120).getLsbD b

/-- SYSSTATE (R381): 0 ROM, 1 VERIFY, 2 HOLD, 3 RUN, 4 RECOVERY, 5 WARM. -/
def State.sysstate (s : State) : Nat := wfld (s.reg 0x600000) 0 3

/-- Whether the unit of a bit of READY0 is trained or loaded: a warm start keeps the training while the ready bits read 0 (R383, R384). -/
def State.trained (s : State) (b : Nat) : Bool :=
  (s.reg 0x600010).getLsbD b || ((s.sysstate == 4 || s.sysstate == 5) && s.wasReady.1.getLsbD b)

/-- Whether a Brim port is up (R382, R389): trained and not fenced. -/
def State.brimUp (s : State) (p : Nat) : Bool := s.trained (24 + p) && !(s.reg 0x58).getLsbD p

/-- Sets or clears one bit of a control register. -/
def State.setBit (s : State) (o b : Nat) (v : Bool) : State :=
  let m : Word := BitVec.ofNat 64 (2 ^ b)
  s.setReg o (if v then s.reg o ||| m else s.reg o &&& ~~~m)

/-- Replaces bits [lo + n - 1 : lo] of a word. -/
def putFld (w : Word) (lo n v : Nat) : Word :=
  let m : Word := BitVec.ofNat 64 ((2 ^ n - 1) * 2 ^ lo)
  (w &&& ~~~m) ||| BitVec.ofNat 64 (v % 2 ^ n * 2 ^ lo)

/-- A 64-bit counter without an overflow bit (ERRDROP, BCDROP, LDROP, SIGSKIP) advances by one and wraps (R362). -/
def State.bump (s : State) (o : Nat) : State := s.setReg o (s.reg o + 1)

/-- The fence bit of a core (R25). -/
def State.coreFenced (s : State) (n : Nat) : Bool := (s.reg (0x20 + 8 * (n / 64))).getLsbD (n % 64)

/-- The device memory's size: DMSIZE, 0 until the memory is usable (R382). -/
def State.devSize (s : State) : Nat := (s.reg 0x600020).toNat

/-! Measurements and keys (R385, R387, R388). -/

/-- The fence maps as bytes, for measurement 0x06. -/
def State.fenceBytes (s : State) : List Byte := (List.range 9).flatMap (fun i => leBytes 8 (s.reg (0x20 + 8 * i)).toNat)

/-- The measurement of an index (Table 31.4): 0x06 is taken of the fence maps, none of which is set before the first cold start, and 0x08 to
0x0F are zero. -/
def State.measurement (s : State) (i : Nat) : BitVec 384 :=
  if 8 ≤ i then 0 else (tabFind s.measure i).getD (if i = 6 then Config.sha384 (List.replicate 72 0) else Config.measured i)

/-- Records a measurement. -/
def State.takeMeasure (s : State) (i : Nat) (v : BitVec 384) : State := { s with measure := tabPut s.measure i (some v) }

/-- The entry of a queue in the binding table. -/
def State.binding (s : State) (q : Nat) : Nat := (Config.binding (s.measurement 3) q).toNat

/-- HMAC-SHA-384 of a message under a key of at most 128 bytes. -/
def hmac384 (k m : List Byte) : List Byte :=
  let pad (x : Byte) : List Byte := (k ++ List.replicate (128 - k.length) 0).map (fun b => b ^^^ x)
  leBytes 48 (Config.sha384 (pad 0x5C ++ leBytes 48 (Config.sha384 (pad 0x36 ++ m)).toNat)).toNat

/-- CDI₀ and CDI₁ (R387). -/
def State.cdi0 (s : State) : List Byte := hmac384 Config.uds (leBytes 48 (s.measurement 1).toNat)
def State.cdi1 (s : State) : List Byte := hmac384 s.cdi0 (leBytes 48 (s.measurement 2).toNat)

/-! The address map (R166, R167). -/

/-- Four bits of a number. -/
def nib (x i : Nat) : Nat := x / 16 ^ i % 16

/-- The stack of a physical address with all 16 stacks present (R166). -/
def stack16 (pa : Nat) : Nat :=
  let x := pa / 2 ^ 11
  (List.range 7).foldl (fun a i => Nat.xor a (nib x i)) (pa / 2 ^ 39 % 2)

/-- The address within that stack: PA[39:15] ‖ PA[10:0] (R166). -/
def stackAddr16 (pa : Nat) : Nat := pa / 2 ^ 15 % 2 ^ 25 * 2048 + pa % 2048

/-- The stacks not in a fence mask, in rising order. -/
def unfenced (mask : Nat) : List Nat := (List.range 16).filter (fun i => !mask.testBit i)

/-- The stack of a physical address over the stacks not in a fence mask (R167). -/
def stackN (mask pa : Nat) : Nat :=
  let u := unfenced mask
  let g := pa / 2048
  let row := g / u.length
  let h := (List.range 6).foldl (fun a i => Nat.xor a (nib row i)) (row / 2 ^ 24 % 2)
  u.getD ((g % u.length + h) % u.length) 0

/-- The address within that stack: row × 2,048 + PA[10:0] (R167). -/
def stackAddrN (mask pa : Nat) : Nat := pa / 2048 / (unfenced mask).length * 2048 + pa % 2048

/-- The address within the stack that holds a physical address. -/
def State.stackAddr (s : State) (pa : Nat) : Nat := if s.stackMap = 0 then stackAddr16 pa else stackAddrN s.stackMap pa

/-- The stack that holds a physical address: the map was fixed at the last cold start (R26). -/
def State.stackOf (s : State) (pa : Nat) : Nat := if s.stackMap = 0 then stack16 pa else stackN s.stackMap pa

/-- Whether an address lies in a stack fenced since the last cold start, whose lines read as poison and take no write (R26). -/
def State.dead (s : State) (pa : Nat) : Bool :=
  let f := (s.reg 0x60).toNat
  let k := s.stackOf pa
  f.testBit k && !s.stackMap.testBit k

/-- Whether the 64-byte line of a physical address is poisoned. -/
def State.poisoned (s : State) (pa : Nat) : Bool := s.dead pa || tabGet false s.pline (pa / 64)

/-- Marks or clears a device line. -/
def State.markLine (s : State) (pa : Nat) (b : Bool) : State := { s with pline := tabSet false s.pline (pa / 64) b }

/-- The whole lines inside a byte range lose their marks (R348). -/
def State.clearLines (s : State) (pa n : Nat) : State :=
  { s with pline := s.pline.filter (fun x => !(pa ≤ 64 * x.1 && 64 * x.1 + 64 ≤ pa + n)) }

/-- Writes bytes granule by granule of 2 KiB, of which each lies in one stack: those of a lost stack are discarded. -/
def State.devPutGo : Nat → State → Nat → List Byte → State
  | 0, s, _, _ => s
  | n + 1, s, pa, bs =>
    let k := 2048 - pa % 2048
    State.devPutGo n (if s.dead pa then s else { s with mem := memWrite s.mem pa (bs.take k) }) (pa + k) (bs.drop k)

/-- A write of the device itself to physical memory: lines of a lost stack discard it (R26), and each whole line loses its mark. -/
def State.devPut (s : State) (pa : Nat) (bs : List Byte) : State :=
  (State.devPutGo (bs.length / 2048 + 2) s pa bs).clearLines pa bs.length

/-- A little-endian number written to physical memory. -/
def State.devNat (s : State) (pa n v : Nat) : State := s.devPut pa (leBytes n v)

end Sys2Proof.Machine
end

