-- ==== Sys2Proof/Machine/Operands.lean ====
section
/-! DEFINITION. The operand forms: operand b of class S (Table 7.4), movi's immediate, branch offsets (R114, R140) and the addresses
of class M (R191). -/

namespace Sys2Proof.Machine

/-- Sign extension to 64 bits. -/
def sx {n : Nat} (v : BitVec n) : Word := v.signExtend 64

/-- Reads operand b: a register under its policy, or the sign-extended immediate. -/
def State.bop (s : State) (b : BOp) : SlotR Word :=
  match b with
  | .reg r => s.rdS r
  | .imm1 i => .ok (sx i)
  | .imm2 j i => .ok (sx (j ++ i))

/-- movi's immediate (R130). -/
def movValue (i : MovImm) : Word :=
  match i with
  | .i0 m => sx m
  | .i1 m lo => sx (lo ++ m)
  | .i2 m hi lo => sx (hi ++ lo ++ m)

/-- A BO offset in words: off13, or the 37 bits of an I slot and off13 (R140, Table 7.4). -/
def offWords (o : Off) : Word :=
  match o.ext with
  | none => sx o.lo
  | some x => sx (x ++ o.lo)

/-- The target of a BO form: the bundle address plus 4 × the offset. -/
def offTarget (o : Off) (pc : Word) : Word := pc + 4 * offWords o

/-- The I-slot fields of an address operand; the index form has U, ORD and CP 0 (R191). -/
def midxExt (x : MIdx) : MExt :=
  match x with
  | .idx _ => ⟨0, false, 0, 0, 0⟩
  | .disp1 _ e => e
  | .disp2 _ e _ => e

/-- The index or displacement of an address operand. -/
def State.mdisp (s : State) (x : MIdx) : SlotR Word :=
  match x with
  | .idx r => s.rdS r
  | .disp1 lo e => .ok (sx (e.disp ++ lo))
  | .disp2 lo e hi => .ok (sx (hi ++ e.disp ++ lo))

/-- The address of an ld, st, vld, vst or pref: base + index or displacement, modulo 2^64 (R191). -/
def State.maddr (s : State) (b : BitVec 6) (x : MIdx) : SlotR Word := do
  let r ← both (s.rdS b) (s.mdisp x)
  pure (r.1 + r.2)

/-- The displacement of vlds, vgath and vscat. -/
def vidxDisp (x : VIdx) : Word :=
  match x.hi with
  | none => sx x.x.disp
  | some h => sx (h ++ x.x.disp)

/-- The base update of U = 1: the base register receives the address at latency 1 (R192). -/
def State.baseUpd (s : State) (u : Bool) (b : BitVec 6) (a : Word) : State :=
  if u then s.postS (b.toNat % 32) 1 a else s

/-- The number of a scalar source field. -/
def srcNum (f : BitVec 6) : Nat := f.toNat % 32

end Sys2Proof.Machine
end

