-- ==== Sys2Proof/Machine/Scalar.lean ====
section
/-! DEFINITION. Class S: scalar arithmetic and logic, compares and predicates, and the special registers (R127 to R139). -/

namespace Sys2Proof.Machine

/-- A three-register form: sources read, destination not empty, the result at the latency of a group (R125, R127). -/
def binS (s : State) (d : BitVec 5) (a : BitVec 6) (b : BOp) (g : Nat) (f : Word → Word → Word) : Res :=
  finish s (do
    let r ← both (both (s.rdS a) (s.bop b)) (s.dstS d.toNat)
    pure (s.postS d.toNat (s.ctx.latOf g) (f r.1.1 r.1.2)))

/-- A two-register form. -/
def unS (s : State) (d : BitVec 5) (a : BitVec 6) (f : Word → Word) : Res :=
  finish s (do
    let r ← both (s.rdS a) (s.dstS d.toNat)
    pure (s.postS d.toNat (s.ctx.latOf 1) (f r.1)))

/-- The division forms: a zero divisor raises trap 0x16 and d is not written (R128). -/
def divS (s : State) (d : BitVec 5) (a : BitVec 6) (b : BOp) (f : Word → Word → Word) : Res :=
  finish s (do
    let r ← both (both (s.rdS a) (s.bop b)) (s.dstS d.toNat)
    need (r.1.2 != 0) { cause := 0x16 }
    pure (s.postS d.toNat (s.ctx.latOf 3) (f r.1.1 r.1.2)))

/-- Upper half of the signed product. -/
def mulhs (x y : Word) : Word := BitVec.ofInt 64 (x.toInt * y.toInt / 2 ^ 64)
/-- Upper half of the unsigned product. -/
def mulhuW (x y : Word) : Word := BitVec.ofNat 64 (x.toNat * y.toNat / 2 ^ 64)
/-- The shift amount y[5:0]. -/
def shamt (y : Word) : Nat := y.toNat % 64
/-- Number of leading zero bits. -/
def clzW (x : Word) : Word := BitVec.ofNat 64 (if x.toNat = 0 then 64 else 63 - x.toNat.log2)
/-- Number of one bits. -/
def popcW (x : Word) : Word := BitVec.ofNat 64 ((List.range 64).filter (fun i => x.getLsbD i)).length

/-- bfx of R129, with pos, len and sx of operand b. -/
def bfxW (x b : Word) : Word :=
  let pos := wfld b 0 6
  let len := wfld b 6 7
  let f := x.toNat / 2 ^ pos % 2 ^ len
  if b.getLsbD 13 && 0 < len && f.testBit (len - 1) then BitVec.ofInt 64 ((f : Int) - 2 ^ len) else BitVec.ofNat 64 f

/-- bfi of R129: bits of x go to d from pos upward; those above bit 63 do not exist. -/
def bfiW (x b d : Word) : Word :=
  let pos := wfld b 0 6
  let len := wfld b 6 7
  let m : Word := BitVec.ofNat 64 ((2 ^ len - 1) * 2 ^ pos)
  (d &&& ~~~m) ||| (BitVec.ofNat 64 (x.toNat % 2 ^ len * 2 ^ pos) &&& m)

def execNop (k : BitVec 8) (s : State) : Res :=
  finish s (.ok { s with iss := { s.iss with nk := max s.iss.nk (max 1 k.toNat) } })

def execAdd (d : BitVec 5) (a : BitVec 6) (b : BOp) (s : State) : Res := binS s d a b 1 (fun x y => x + y)
def execSub (d : BitVec 5) (a : BitVec 6) (b : BOp) (s : State) : Res := binS s d a b 1 (fun x y => x - y)
def execMul (d : BitVec 5) (a : BitVec 6) (b : BOp) (s : State) : Res := binS s d a b 2 (fun x y => x * y)
def execMulh (d : BitVec 5) (a : BitVec 6) (b : BOp) (s : State) : Res := binS s d a b 2 mulhs
def execMulhu (d : BitVec 5) (a : BitVec 6) (b : BOp) (s : State) : Res := binS s d a b 2 mulhuW
def execDiv (d : BitVec 5) (a : BitVec 6) (b : BOp) (s : State) : Res := divS s d a b (fun x y => BitVec.ofInt 64 (x.toInt.tdiv y.toInt))
def execDivu (d : BitVec 5) (a : BitVec 6) (b : BOp) (s : State) : Res := divS s d a b (fun x y => BitVec.ofNat 64 (x.toNat / y.toNat))
def execRem (d : BitVec 5) (a : BitVec 6) (b : BOp) (s : State) : Res := divS s d a b (fun x y => BitVec.ofInt 64 (x.toInt.tmod y.toInt))
def execRemu (d : BitVec 5) (a : BitVec 6) (b : BOp) (s : State) : Res := divS s d a b (fun x y => BitVec.ofNat 64 (x.toNat % y.toNat))
def execAnd (d : BitVec 5) (a : BitVec 6) (b : BOp) (s : State) : Res := binS s d a b 1 (fun x y => x &&& y)
def execOr (d : BitVec 5) (a : BitVec 6) (b : BOp) (s : State) : Res := binS s d a b 1 (fun x y => x ||| y)
def execXor (d : BitVec 5) (a : BitVec 6) (b : BOp) (s : State) : Res := binS s d a b 1 (fun x y => x ^^^ y)
def execAndn (d : BitVec 5) (a : BitVec 6) (b : BOp) (s : State) : Res := binS s d a b 1 (fun x y => x &&& ~~~y)
def execShl (d : BitVec 5) (a : BitVec 6) (b : BOp) (s : State) : Res := binS s d a b 1 (fun x y => x <<< shamt y)
def execShr (d : BitVec 5) (a : BitVec 6) (b : BOp) (s : State) : Res := binS s d a b 1 (fun x y => x >>> shamt y)
def execSar (d : BitVec 5) (a : BitVec 6) (b : BOp) (s : State) : Res := binS s d a b 1 (fun x y => x.sshiftRight (shamt y))
def execMin (d : BitVec 5) (a : BitVec 6) (b : BOp) (s : State) : Res := binS s d a b 1 (fun x y => if x.toInt ≤ y.toInt then x else y)
def execMax (d : BitVec 5) (a : BitVec 6) (b : BOp) (s : State) : Res := binS s d a b 1 (fun x y => if x.toInt ≤ y.toInt then y else x)
def execMinu (d : BitVec 5) (a : BitVec 6) (b : BOp) (s : State) : Res := binS s d a b 1 (fun x y => if x.toNat ≤ y.toNat then x else y)
def execMaxu (d : BitVec 5) (a : BitVec 6) (b : BOp) (s : State) : Res := binS s d a b 1 (fun x y => if x.toNat ≤ y.toNat then y else x)
def execClz (d : BitVec 5) (a : BitVec 6) (s : State) : Res := unS s d a clzW
def execPopc (d : BitVec 5) (a : BitVec 6) (s : State) : Res := unS s d a popcW
def execAddx2 (d : BitVec 5) (a : BitVec 6) (b : BOp) (s : State) : Res := binS s d a b 1 (fun x y => x + y <<< 2)
def execAddx3 (d : BitVec 5) (a : BitVec 6) (b : BOp) (s : State) : Res := binS s d a b 1 (fun x y => x + y <<< 3)
def execAddx4 (d : BitVec 5) (a : BitVec 6) (b : BOp) (s : State) : Res := binS s d a b 1 (fun x y => x + y <<< 4)

/-- bfx: a len above 64 raises an operand trap (R129). -/
def execBfx (d : BitVec 5) (a : BitVec 6) (b : BOp) (s : State) : Res :=
  finish s (do
    let r ← both (both (s.rdS a) (s.bop b)) (s.dstS d.toNat)
    need (wfld r.1.2 6 7 ≤ 64) (opTrap r.1.2)
    pure (s.postS d.toNat (s.ctx.latOf 1) (bfxW r.1.1 r.1.2)))

/-- bfi also reads d (R129); an empty d holds the bundle under R52. -/
def execBfi (d : BitVec 5) (a : BitVec 6) (b : BOp) (s : State) : Res :=
  finish s (do
    let r ← both (both (s.rdS a) (s.bop b)) (s.rdSn d.toNat false)
    need (wfld r.1.2 6 7 ≤ 64) (opTrap r.1.2)
    pure (s.postS d.toNat (s.ctx.latOf 1) (bfiW r.1.1 r.1.2 r.2)))

def execMovi (d : BitVec 5) (i : MovImm) (s : State) : Res :=
  finish s (do
    let _ ← s.dstS d.toNat
    pure (s.postS d.toNat (s.ctx.latOf 1) (movValue i)))

/-- A compare: pd, and with C the mask of the same number, all 512 bits (R132). -/
def cmpS (s : State) (p : BitVec 4) (c : Bool) (a : BitVec 6) (b : BOp) (f : Word → Word → Bool) : Res :=
  finish s (do
    let r ← both (s.rdS a) (s.bop b)
    let t := f r.1 r.2
    let s' := s.postP p.toNat (s.ctx.latOf 1) t
    pure (if c then s'.postM p.toNat (s.ctx.latOf 1) (if t then BitVec.allOnes 512 else 0) 0 else s'))

def execCmpeq (p : BitVec 4) (c : Bool) (a : BitVec 6) (b : BOp) (s : State) : Res := cmpS s p c a b (fun x y => x == y)
def execCmpne (p : BitVec 4) (c : Bool) (a : BitVec 6) (b : BOp) (s : State) : Res := cmpS s p c a b (fun x y => x != y)
def execCmplt (p : BitVec 4) (c : Bool) (a : BitVec 6) (b : BOp) (s : State) : Res := cmpS s p c a b (fun x y => x.toInt < y.toInt)
def execCmple (p : BitVec 4) (c : Bool) (a : BitVec 6) (b : BOp) (s : State) : Res := cmpS s p c a b (fun x y => x.toInt ≤ y.toInt)
def execCmpltu (p : BitVec 4) (c : Bool) (a : BitVec 6) (b : BOp) (s : State) : Res := cmpS s p c a b (fun x y => x.toNat < y.toNat)
def execCmpleu (p : BitVec 4) (c : Bool) (a : BitVec 6) (b : BOp) (s : State) : Res := cmpS s p c a b (fun x y => x.toNat ≤ y.toNat)

/-- movt reads a and pn whatever the test gives, and writes only where it holds (R133). -/
def execMovt (d : BitVec 5) (a : BitVec 6) (n : Bool) (p : BitVec 4) (s : State) : Res :=
  finish s (do
    let r ← both (both (s.rdS a) (s.rdP p.toNat)) (s.dstS d.toNat)
    pure (if r.1.2 != n then s.postS d.toNat (s.ctx.latOf 1) r.1.1 else s))

/-- plog: bit fn[2 px + py] (R134). -/
def execPlog (d f x y : BitVec 4) (s : State) : Res :=
  finish s (do
    let r ← both (s.rdP x.toNat) (s.rdP y.toNat)
    pure (s.postP d.toNat (s.ctx.latOf 1) (f.getLsbD (2 * r.1.toNat + r.2.toNat))))

def execPmov (p : BitVec 4) (a : BitVec 6) (s : State) : Res :=
  finish s (do
    let x ← s.rdS a
    pure (s.postP p.toNat (s.ctx.latOf 1) (x != 0)))

/-- Predicates pn from n = k − 1 down to 0 as bits of a number. -/
def predBits (s : State) : Nat → SlotR Nat
  | 0 => .ok 0
  | k + 1 => do
    let lo ← predBits s k
    let b ← s.rdP k
    pure (lo + b.toNat * 2 ^ k)

def execPget (d : BitVec 5) (s : State) : Res :=
  finish s (do
    let r ← both (predBits s 16) (s.dstS d.toNat)
    pure (s.postS d.toNat (s.ctx.latOf 1) (BitVec.ofNat 64 r.1)))

/-! Special registers (R60, R61, Table 3.5, R160, R162, R300). -/

/-- The value of a special register below 0x100; none where Table 3.5 lists none. Those that R62 gives a value at a task's first bundle are
always valid: the model keeps no valid bit for them (DEDUCED, log 109). -/
def State.special (s : State) (n : Nat) : Option (SlotR Word) :=
  let c := s.ctx
  match n with
  | 0x000 => some (.ok (BitVec.ofNat 64 c.rank))
  | 0x001 => some (.ok (BitVec.ofNat 64 c.nrank))
  | 0x002 => some (.ok (BitVec.ofNat 64 c.skew))
  | 0x003 => some (.ok (BitVec.ofNat 64 c.task))
  | 0x004 => some (.ok (BitVec.ofNat 64 c.arr))
  | 0x008 => some (.ok c.mode)
  | 0x009 => some (.ok c.flags)
  | 0x00A => some (.ok (BitVec.ofNat 64 c.msel))
  | 0x00B => some (.ok (BitVec.ofNat 64 c.vwb))
  | 0x00C => some (.ok (BitVec.ofNat 64 c.rrb))
  | 0x00D => some (.ok (BitVec.ofNat 64 c.prb))
  | 0x00E => some (.ok c.lc)
  | 0x010 => some (.ok (BitVec.ofNat 64 c.leafn))
  | 0x011 => some (.ok s.tb)
  | 0x012 => some (.ok c.step)
  | _ =>
    if 0x020 ≤ n ∧ n ≤ 0x027 then some (s.rdK (n - 0x020))
    else if 0x030 ≤ n ∧ n ≤ 0x033 then some (.ok (c.wps.getD (n - 0x030) {}).val)
    else if 0x040 ≤ n ∧ n ≤ 0x045 then some (.ok (BitVec.ofNat 64 (c.tls.getD (n - 0x040) {}).done))
    else if 0x046 ≤ n ∧ n ≤ 0x04F then some (.ok 0)
    else none

/-- The physical tiles of the other origin of a fused task, whose contexts' numbers agree modulo 4: ZOWN's list is the task's (R337). -/
def State.mateOwn (s : State) : Word :=
  (s.parked.filter (fun c => c.live && c.core == s.ctx.core && c.cid % 4 == s.ctx.cid % 4)).foldl (fun a c => a ||| (c.zown &&& 0xFFFF)) 0

/-- ZOWN of the current context. -/
def State.ownSet (s : State) : Word := s.ctx.zown ||| s.mateOwn

/-- The value of a privileged special register (0x100 to 0x108). -/
def State.privReg (s : State) (n : Nat) : Option Word :=
  let c := s.ctx
  match n with
  | 0x100 => some c.tmap
  | 0x101 => some s.ownSet
  | 0x102 => some c.wwin
  | 0x103 => some c.awin
  | 0x104 => some c.swin
  | 0x105 => some c.spovf
  | 0x106 => some c.tvec
  | 0x107 => some (c.area ||| (if c.inh then 1 else 0))
  | 0x108 => some c.dbg
  | _ => none

/-- mfs (R61, R137). -/
def execMfs (d : BitVec 5) (n : BitVec 12) (s : State) : Res :=
  finish s (do
    let num : Word := n.zeroExtend 64
    let v : SlotR Word :=
      if n.toNat < 0x100 then
        match s.special n.toNat with
        | some r => r
        | none => trapS (opTrap num)
      else if !s.ctx.priv then trapS { cause := 0x04, info1 := num }
      else match s.privReg n.toNat with
        | some w => .ok w
        | none => trapS (opTrap num)
    let r ← both v (s.dstS d.toNat)
    pure (s.postS d.toNat (s.ctx.latOf 1) r.1))

/-- Whether rows VWB to VWB + 63 lie in the physical tiles that ZOWN lists, VWB a multiple of 16 (R56). -/
def windowOk (zown : Word) (vwb : Nat) : Bool :=
  vwb % 16 == 0 && vwb < 2048 && zown.getLsbD (vwb / 128) && (vwb + 63) / 128 < 16 && zown.getLsbD ((vwb + 63) / 128)

/-- The physical tiles that TMAP names below the TCNT of a ZOWN value. -/
def tmapTiles (zown tmap : Word) : List Nat := (List.range (wfld zown 16 5)).map (fun n => wfld tmap (4 * n) 4)

/-- Whether a ZOWN value lists every tile that TMAP names below its TCNT (R61). -/
def tmapIn (zown tmap : Word) : Bool := (tmapTiles zown tmap).all (fun t => zown.getLsbD t)

/-- The same, and TMAP names each of them once (R61). -/
def tmapOk (zown tmap : Word) : Bool := tmapIn zown tmap && (tmapTiles zown tmap).Nodup

/-- The physical tiles owned by the other contexts of the core. -/
def State.othersOwn (s : State) : Word :=
  (s.parked.filter (fun c => c.live && c.core == s.ctx.core && c.cid % 4 != s.ctx.cid % 4)).foldl (fun a c => a ||| (c.zown &&& 0xFFFF)) 0

/-- Whether a window register may take a value: no reserved bit, and BASE + SIZE within the buffer (R160). -/
def winOk (v : Word) (kib : Nat) : Bool :=
  v.toNat / 2 ^ 27 == 0 && wfld v 11 5 == 0 && wfld v 0 11 + wfld v 16 11 ≤ kib

/-- The check of an MTS below 0x100 (R56, R61, R74): the value written, or the trap. -/
def mtsCheck (s : State) (n : Nat) (v : Word) : SlotR Word :=
  match n with
  | 0x008 => if modeOk v then .ok v else trapS { cause := 0x03, info1 := BitVec.ofNat 64 s.iss.word }
  | 0x009 => .ok (v &&& 0x3F)
  | 0x00A => if v.toNat < 16 then .ok v else trapS (opTrap v)
  | 0x00B => if windowOk s.ownSet v.toNat then .ok v else trapS { cause := 0x0A, addr := v }
  | 0x00C => if v.toNat ≤ 47 then .ok v else trapS (opTrap v)
  | 0x00D => if v.toNat ≤ 7 then .ok v else trapS (opTrap v)
  | 0x00E => .ok v
  | _ => if 0x020 ≤ n ∧ n ≤ 0x027 then .ok v else trapS (opTrap (BitVec.ofNat 64 n))

/-- The check of a privileged MTS (R61, R160, R162, R300, R380). -/
def mtsPriv (s : State) (n : Nat) (v : Word) : SlotR Word :=
  let c := s.ctx
  match n with
  | 0x100 => if tmapOk s.ownSet v then .ok v else trapS (opTrap v)
  | 0x101 =>
    if wfld v 16 5 ≤ 16 && (v &&& 0xFFFF &&& s.othersOwn) == 0 && windowOk v c.vwb && tmapIn v c.tmap
      then .ok (v &&& 0x1FFFFF &&& ~~~s.mateOwn) else trapS (opTrap v)
  | 0x102 => if winOk v 1024 then .ok v else trapS (opTrap v)
  | 0x103 => if winOk v 768 then .ok v else trapS (opTrap v)
  | 0x104 => if winOk v 256 then .ok v else trapS (opTrap v)
  | 0x105 => if v &&& 0x3F == 0 then .ok v else trapS (opTrap v)
  | 0x106 => .ok (v &&& ~~~(3 : Word))
  | 0x107 => .ok (v &&& ~~~(0xFFF : Word))
  | 0x108 => .ok (if s.feat 8 then v &&& 1 else c.dbg)
  | _ => trapS (opTrap (BitVec.ofNat 64 n))

/-- mts (R61, R138): the value is visible to the next bundle. -/
def execMts (n : BitVec 12) (a : BitVec 6) (s : State) : Res :=
  finish s (do
    let v ← s.rdS a
    let w ← if n.toNat < 0x100 then mtsCheck s n.toNat v
      else if !s.ctx.priv then trapS { cause := 0x04, info1 := n.zeroExtend 64 }
      else mtsPriv s n.toNat v
    pure (s.postX n.toNat 1 w))

/-- cmpt: a difference raises a compare trap with both values (R139). -/
def execCmpt (a : BitVec 6) (b : BOp) (s : State) : Res :=
  finish s (do
    let r ← both (s.rdS a) (s.bop b)
    need (r.1 == r.2) { cause := 0x0C, info1 := r.1, info2 := r.2 }
    pure s)

end Sys2Proof.Machine
end

