-- ==== Sys2Proof/Machine/Rcb.lean ====
section
/-! DEFINITION. Region control blocks, their chains and effective attributes, and budgets (R27 to R30, R293, R399). -/

namespace Sys2Proof.Machine

/-- A region control block (Table 3.1). -/
structure Rcb where
  addr : Nat
  parent : Nat
  ovr : Nat
  ptroot : Nat
  prio : Nat
  cpol : Nat
  fdfl : Nat
  cool : Nat
  cbudget : Nat
  period : Nat
  mbudget : Nat
  lbudget : Nat
  eroute : Nat
  pool : Nat
  spilla : Nat
  cused : Nat
  mused : Nat
  cabase : Nat
  casize : Nat
  rsv : Bool
  deriving DecidableEq, Repr

/-- Reads the RCB at a device physical address. One in a poisoned line has no field to give: it reads as zeros with a reserved bit set
(R26, DESIGN CHOICE, log 107). -/
def State.rcb (s : State) (a : Nat) : Rcb :=
  if s.poisoned a || s.poisoned (a + 64) then
    { addr := a, parent := 0, ovr := 0, ptroot := 0, prio := 0, cpol := 0, fdfl := 0, cool := 0, cbudget := 0, period := 0, mbudget := 0,
      lbudget := 0, eroute := 0, pool := 0, spilla := 0, cused := 0, mused := 0, cabase := 0, casize := 0, rsv := true }
  else
  let r (o n : Nat) : Nat := memNat s.mem (a + o) n
  { addr := a, parent := r 0 8, ovr := r 8 8, ptroot := r 0x10 8, prio := r 0x18 1, cpol := r 0x1A 1, fdfl := r 0x1B 1, cool := r 0x1C 4,
    cbudget := r 0x20 8, period := r 0x28 8, mbudget := r 0x30 8, lbudget := r 0x38 8, eroute := r 0x40 8, pool := r 0x48 8,
    spilla := r 0x50 8, cused := r 0x58 8, mused := r 0x60 8, cabase := r 0x68 8, casize := r 0x70 8,
    rsv := r 8 8 / 2 ^ 9 != 0 || r 0x1B 1 / 16 != 0 || r 0x78 8 != 0 }

/-- The RCBs from one up to its root; none where an address is no RCB's or its lines are poisoned (R26), or where the root does not follow in `n` steps. -/
def State.chainGo (s : State) : Nat → Nat → Option (List Rcb)
  | 0, _ => none
  | n + 1, a =>
    if a = 0 ∨ a % 128 ≠ 0 ∨ s.devSize < a + 128 ∨ s.poisoned a ∨ s.poisoned (a + 64) then none
    else
      let r := s.rcb a
      if r.parent = 0 then some [r] else (s.chainGo n r.parent).map (fun l => r :: l)

/-- Whether an address can be that of an RCB (R27). -/
def State.rcbAddr (s : State) (a : Nat) : Bool := a != 0 && a % 128 == 0 && a + 128 ≤ s.devSize

/-- The RCBs from one up along PARENT, each once, as far as they can be read, whether or not the last is a root: `seen` are those below. -/
def State.climb (s : State) : Nat → List Nat → Nat → List Rcb
  | 0, _, _ => []
  | n + 1, seen, a =>
    if !s.rcbAddr a || s.poisoned a || s.poisoned (a + 64) || seen.contains a then []
    else s.rcb a :: s.climb n (a :: seen) (s.rcb a).parent

/-- All RCBs that PARENT pointers lead to, of any number and in a cycle too: memory has no room for more than it can hold. -/
def State.ups (s : State) (a : Nat) : List Rcb := s.climb (s.devSize / 128 + 1) [] a

/-- The effective attribute of OVR bit b of an RCB whose chain may be invalid: that of the nearest RCB that has it (R28); none where no RCB
that can be read has it. -/
def State.nearest? (s : State) (b : Nat) (f : Rcb → Nat) (a : Nat) : Option Nat :=
  ((s.ups a).find? (fun r => r.ovr.testBit b)).map f

/-- The effective page-table root of an RCB, whether or not its chain is valid (R28, R29). -/
def State.spaceOf (s : State) (rcb : Nat) : Option Word := (s.nearest? 8 Rcb.ptroot rcb).map (BitVec.ofNat 64)

/-- Whether an RCB lies in the subtree of another: PARENT pointers lead to it. -/
def State.under (s : State) (owner a : Nat) : Bool :=
  s.rcbAddr owner && (a == owner || (s.ups a).any (fun r => r.parent == owner))

/-- The chain of an RCB, at most 8 long (R28). -/
def State.chain (s : State) (a : Nat) : Option (List Rcb) := s.chainGo 8 a

/-- An effective attribute: that of the first RCB of the chain whose OVR bit is set (R28). -/
def effR (b : Nat) (f : Rcb → Nat) : List Rcb → Nat
  | [] => 0
  | r :: rs => if r.ovr.testBit b then f r else effR b f rs

/-- The root of a chain. -/
def rootOf (ch : List Rcb) : Nat := ((ch.getLast?).map Rcb.addr).getD 0

/-- Whether a chain is valid for a gang of width w (R28). -/
def chainOk (w : Nat) (ch : List Rcb) : Bool :=
  (match ch.getLast? with
    | some r => r.ovr % 512 == 511
    | none => false)
  && ch.all (fun r => !r.rsv)
  && ch.all (fun r => !r.ovr.testBit 0 || r.prio ≤ 47)
  && ch.all (fun r => !r.ovr.testBit 5 || r.cpol < 3)
  && ch.all (fun r => !r.ovr.testBit 8 || (r.cabase % 4096 == 0 && r.casize % 81920 == 0))
  && w * 81920 ≤ effR 8 Rcb.casize ch

/-- Whether an address is the root RCB of an enabled VF (R379). -/
def State.vfRoot (s : State) (a : Nat) : Bool :=
  s.vfOn && a != 0 && (List.range 63).any (fun i => (s.reg (0x600800 + 16 * (i + 1))).toNat == a)

/-- Whether tasks of a chain run privileged (R399). -/
def State.privChain (s : State) (ch : List Rcb) : Bool :=
  ch.all (fun r => r.fdfl.testBit 3) && !s.vfRoot (rootOf ch)

/-- The effective FDFL bits 0 to 2, where bits 0 and 1 read as 0 until features 2 and 7 are accepted (Table 31.2). -/
def State.fdflOf (s : State) (ch : List Rcb) : Nat :=
  let f := effR 6 Rcb.fdfl ch % 8
  let f0 := if s.feat 2 then f else f - f % 2
  if s.feat 7 then f0 else f0 - 2 * (f0 / 2 % 2)

/-- Whether a chain can take a charge against the budget of OVR bit b (R30): an RCB whose bit is clear has its parent's budget, which
the parent's own charge already keeps. -/
def canCharge (b : Nat) (used budget : Rcb → Nat) (n : Nat) (ch : List Rcb) : Bool :=
  ch.all (fun r => !r.ovr.testBit b || used r + n ≤ budget r)

/-- Adds to a device field of every RCB of a chain. -/
def State.addAll (s : State) (o : Nat) (d : Int) : List Rcb → State
  | [] => s
  | r :: rs =>
    let v := memNat s.mem (r.addr + o) 8
    State.addAll (s.devNat (r.addr + o) 8 (((v : Int) + d) % 2 ^ 64).toNat) o d rs

/-- Charges memory to the chain of an RCB against MBUDGET; none where that would exceed a budget (R30, R293). -/
def State.chargeMem (s : State) (rcb n : Nat) : Option State :=
  match s.chain rcb with
  | none => none
  | some ch => if canCharge 2 Rcb.mused Rcb.mbudget n ch then some (s.addAll 0x60 n ch) else none

/-- Gives memory back. -/
def State.freeMem (s : State) (rcb n : Nat) : State :=
  match s.chain rcb with
  | none => s
  | some ch => s.addAll 0x60 (-(n : Int)) ch

/-! What an admitted launch has resolved (R28). -/

/-- The RCBs of a chain with the budgets of their own. -/
def grantsOf (ch : List Rcb) : List Grant :=
  ch.map (fun r => ⟨r.addr, if r.ovr.testBit 1 then some r.cbudget else none, if r.ovr.testBit 2 then some r.mbudget else none,
    if r.ovr.testBit 4 then some r.lbudget else none⟩)

/-- Adds to a device field of every RCB of a launch's chain; one in a poisoned line has no value to add to and stays (R26, log 107). -/
def State.addOwn (s : State) (o : Nat) (d : Int) : List Grant → State
  | [] => s
  | g :: gs =>
    let v := memNat s.mem (g.addr + o) 8
    State.addOwn (if s.poisoned (g.addr + o) then s else s.devNat (g.addr + o) 8 (((v : Int) + d) % 2 ^ 64).toNat) o d gs

/-- Charges memory to a launch against the budgets that it has resolved; none where that would exceed one, or where poison hides what is
charged to it already (R26, DESIGN CHOICE, log 107). A capture run is charged nothing (R328). -/
def State.chargeOwn (s : State) (l : Launch) (n : Nat) : Option State :=
  if l.capture.isSome then some s
  else if l.own.all (fun g => match g.mb with
      | some b => !s.poisoned (g.addr + 0x60) && decide (memNat s.mem (g.addr + 0x60) 8 + n ≤ b)
      | none => true) then some (s.addOwn 0x60 n l.own)
  else none

/-- Gives a launch's memory back. -/
def State.freeOwn (s : State) (l : Launch) (n : Nat) : State :=
  if l.capture.isSome then s else s.addOwn 0x60 (-(n : Int)) l.own

/-- Corrects CUSED by a difference in core-microseconds (R293); a capture run reserved nothing (R328). -/
def State.addCused (s : State) (l : Launch) (d : Int) : State := if l.capture.isSome then s else s.addOwn 0x58 d l.own

/-- Whether an RCB lies on a launch's chain. -/
def Launch.below (l : Launch) (a : Nat) : Bool := l.own.any (fun g => g.addr == a)

/-- The RCB of a launch packet. -/
def Launch.rcb (l : Launch) : Nat := leNat ((l.packet.drop 8).take 8)

end Sys2Proof.Machine
end

