-- ==== Sys2Proof/Machine/Mem.lean ====
section
/-! DEFINITION. Address translation (R309), the places that an address names (R158 to R167), and reading and writing them with poison
and launch shadows (R312, R348). -/

namespace Sys2Proof.Machine

/-- How an access fails after its issue checks: the cause, the fault kind and the code. -/
structure Flt where
  cause : Nat
  kind : Nat := 0
  code : Nat := 0
  deriving DecidableEq, Repr

/-- An address fault of a kind of Table 21.6. -/
def aflt (k : Nat) : Flt := { cause := 0x07, kind := k }

/-- Whether a leaf entry is malformed at a level (R309): a reserved bit, TGT 3, or an address that its page or target forbids. -/
def badLeaf (lvl e : Nat) : Bool :=
  lvl == 4 || e / 2 ^ 61 != 0 || e / 2 ^ 56 % 8 != 0 || e / 2 ^ 6 % 2 ^ 10 != 0 || e / 2 ^ 59 % 4 == 3
    || (e / 2 ^ 59 % 4 == 0 && e / 2 ^ 40 % 2 ^ 16 != 0)
    || (lvl == 3 && e / 2 ^ 16 % 2 ^ 14 != 0) || (lvl == 2 && e / 2 ^ 16 % 32 != 0)

/-- Whether a table entry is malformed at a level: a reserved bit, NEXT[11:8] of a 4 KiB table, or no leaf at level 1. -/
def badTable (lvl e : Nat) : Bool :=
  lvl == 1 || e / 2 ^ 40 != 0 || e / 4 % 64 != 0 || (3 ≤ lvl && e / 256 % 16 != 0)

/-- The position of a level's index in a virtual address. -/
def lvlShift (lvl : Nat) : Nat := if lvl = 1 then 16 else 12 + 9 * (lvl - 1)

/-- The leaf that the walk from a table at level `lvl` comes to (R309). -/
def State.walkGo (s : State) (va : Nat) : Nat → Nat → Except Flt TlbEnt
  | 0, _ => .error (aflt 4)
  | n + 1, tb =>
    let lvl := n + 1
    let sh := lvlShift lvl
    let ea := tb + 8 * (va / 2 ^ sh % (if lvl = 1 then 32 else 512))
    if s.devSize < ea + 8 then .error (aflt 6)
    else if s.poisoned ea then .error { cause := 0x0F }
    else
      let e := memNat s.mem ea 8
      if !e.testBit 0 then .error (aflt 1)
      else if e.testBit 1 then
        if badLeaf lvl e then .error (aflt 4)
        else .ok ⟨0, 0, sh, va / 2 ^ sh, e / 2 ^ 59 % 4, e / 2 ^ 16 % 2 ^ 40 * 2 ^ 16, ea, e.testBit 2, e.testBit 3⟩
      else if badTable lvl e then .error (aflt 4)
      else s.walkGo va n (e / 256 % 2 ^ 32 * 256)

/-- The physical address that a leaf gives an access, or its fault: what the leaf allows, its target, and the device's size (R309). -/
def TlbEnt.use (e : TlbEnt) (size sel va : Nat) (wr ex : Bool) : Except Flt Nat :=
  let pa := e.pa + va % 2 ^ e.sh
  if wr && !e.wr then .error (aflt 2)
  else if ex && !e.ex then .error (aflt 3)
  else if e.tgt != (if sel = 2 then 1 else if sel = 3 then 2 else 0) then .error (aflt 5)
  else if e.tgt == 0 && size ≤ pa then .error (aflt 6)
  else .ok pa

/-- Translates a 48-bit virtual address of paths 0x00 to 0x03 under a root as the tables stand (R309): the physical address and where
the leaf entry lies. -/
def State.walk (s : State) (root : Word) (sel va : Nat) (wr ex : Bool) : Except Flt (Nat × Nat) :=
  match s.walkGo va 4 root.toNat with
  | .error f => .error f
  | .ok e => match e.use s.devSize sel va wr ex with
    | .error f => .error f
    | .ok pa => .ok (pa, e.ea)

/-- The walker sets A, and D for a write, in the leaf entry (R309). -/
def State.touch (s : State) (ea : Nat) (wr : Bool) : State :=
  if s.dead ea then s else { s with mem := memWrite s.mem ea [memByte s.mem ea ||| (if wr then 0x30 else 0x10)] }

/-! TLBs and shared walks (R310, R311). -/

/-- Whether a cached translation is a cluster's for an address under a root. -/
def TlbEnt.covers (e : TlbEnt) (cl : Nat) (root : Word) (va : Nat) : Bool := e.cluster == cl && e.root == root && va / 2 ^ e.sh == e.page

/-- The cached translation of an address. -/
def State.cached (s : State) (cl : Nat) (root : Word) (va : Nat) : Option TlbEnt := s.tlb.find? (fun e => e.covers cl root va)

/-- The walk of an address that is outstanding on a die. -/
def State.walking (s : State) (die : Nat) (root : Word) (va : Nat) : Option WalkEnt :=
  s.walks.find? (fun w => w.die == die && w.root == root && w.page == va / 65536 % 2 ^ 32)

/-- What a walk for a cluster comes to as the tables stand. -/
def State.freshLeaf (s : State) (cl : Nat) (root : Word) (va : Nat) : Except Flt TlbEnt :=
  match s.walkGo va 4 root.toNat with
  | .error f => .error f
  | .ok e => .ok { e with cluster := cl, root := root }

/-- The leaf that an access of a core uses (R310): a cached one; the outcome of a walk that is outstanding; or that of a walk of its own.
Where the tables have changed since a leaf was cached, either may be used (log 26). -/
def State.leafFor (s : State) (core : Nat) (root : Word) (va : Nat) : Except Flt TlbEnt :=
  let cl := core / 16
  let now := s.freshLeaf cl root va
  match s.cached cl root va, s.walking (core / 96) root va with
  | some e, _ => match now with
    | .ok k => if k = e then now else if Config.tlbStale s.free e.page then .ok e else now
    | .error _ => if Config.tlbStale s.free e.page then .ok e else now
  | none, some w => match w.out with
    | some e => .ok { e with cluster := cl }
    | none => .error { cause := w.cause, kind := w.kind }
  | none, none => now

/-- Translates an address of a context's access: the physical address and the leaf used. -/
def State.translate (s : State) (c : Ctx) (sel va : Nat) (wr ex : Bool) : Except Flt (Nat × TlbEnt) :=
  match s.leafFor c.core c.ptroot va with
  | .error f => .error f
  | .ok e => match e.use s.devSize sel va wr ex with
    | .error f => .error f
    | .ok pa => .ok (pa, e)

/-- Caches a leaf for its cluster, in place of what covered its page. A use of a stale leaf is a use of a free value. -/
def State.cache (s : State) (e : TlbEnt) : State :=
  let va := e.page * 2 ^ e.sh
  match s.cached e.cluster e.root va with
  | some k => if k = e then { s with free := s.free + 1 }
    else { s with tlb := s.tlb.filter (fun x => !x.covers e.cluster e.root va) ++ [e], free := s.free + 1 }
  | none => { s with tlb := s.tlb ++ [e] }

/-- A load's miss begins a walk of its page, unless its cluster holds the page or its die walks it already: its outcome is fixed then, and
every access that waits on it receives it (R310). -/
def State.beginWalk (s : State) (c : Ctx) (va : Nat) : State :=
  match s.cached (c.core / 16) c.ptroot va, s.walking (c.core / 96) c.ptroot va with
  | none, none =>
    let w : WalkEnt := ⟨c.core / 96, c.ptroot, va / 65536 % 2 ^ 32, s.tlbn, none, 0, 0⟩
    { s with walks := s.walks ++ [match s.freshLeaf (c.core / 16) c.ptroot va with
      | .ok e => { w with out := some e }
      | .error f => { w with cause := f.cause, kind := f.kind }] }
  | _, _ => s

/-! Places. -/

/-- What an address names once its checks are made. A buffer place is W (0), A (1) or S (3) with its key
core × 2^20 + offset; a peer place has the key peer × 2^56 + address. -/
inductive Place where
  | dev (pa : Nat)
  | host (pa : Nat)
  | peer (k : Nat)
  | buf (b k : Nat)
  | span (b k lo n base : Nat)
  | row (core r o : Nat)
  | wake (q : Nat)
  | ctl (o : Nat)
  deriving DecidableEq, Repr

/-- The selector and the 56 low bits of an address. -/
def selOf (a : Word) : Nat := wfld a 56 8
def lowOf (a : Word) : Nat := wfld a 0 56

/-- SIZE × 1,024 and BASE × 1,024 of a window register. -/
def winSize (w : Word) : Nat := wfld w 16 11 * 1024
def winBase (w : Word) : Nat := wfld w 0 11 * 1024

/-- The window of a context for buffer 0, 1 or 3. -/
def Ctx.win (c : Ctx) (b : Nat) : Word := if b = 0 then c.wwin else if b = 1 then c.awin else c.swin

/-- The key of a buffer byte of a core. -/
def bufKey (core o : Nat) : Nat := core * 2 ^ 20 + o

/-- The key of offset o of a window that pre-emption has put away: storage stands above the cores in the same memories (R308). -/
def storeKey (gang rank o : Nat) : Nat := bufKey (1000 + 16 * gang + rank) o

/-- The key of offset o of a context's window, in place or put away. -/
def Ctx.bufAt (c : Ctx) (b o : Nat) : Nat := if c.keptW.contains b then storeKey c.gang c.rank o else bufKey c.core (winBase (c.win b) + o)

/-- Pieces, as key and length, of the n bytes from key k on, of which [lo, lo + len) stand from `base` on instead. -/
def spanSegs (k n lo len base : Nat) : List (Nat × Nat) :=
  let m := max k lo
  let e := min (k + n) (lo + len)
  if e ≤ m then [(k, n)] else [(k, m - k), (base + (m - lo), e - m), (e, k + n - e)].filter (fun x => x.2 != 0)

/-- The place of offset o of a context's window: in a fused task the port region of C lies in P's window (R342). -/
def Ctx.bufPlace (c : Ctx) (b o : Nat) : Place :=
  match c.fz.region with
  | some (rb, lo, n, base) => if b = rb then .span b (c.bufAt b o) (c.bufAt b lo) n base else .buf b (c.bufAt b o)
  | none => .buf b (c.bufAt b o)

/-- The pieces, as key and length, of n bytes of a place in a buffer. -/
def Place.segs (p : Place) (n : Nat) : List (Nat × Nat) :=
  match p with
  | .buf _ k => [(k, n)]
  | .span _ k lo len base => spanSegs k n lo len base
  | _ => []

/-- The same for n bytes at offset o of a context's window. -/
def Ctx.bufSegs (c : Ctx) (b o n : Nat) : List (Nat × Nat) := (c.bufPlace b o).segs n

/-- A buffer's contents. -/
def State.bufMem (s : State) (b : Nat) : Memory := if b = 0 then s.wbuf else if b = 1 then s.abuf else s.sbuf

/-- Replaces a buffer's contents. -/
def State.setBuf (s : State) (b : Nat) (m : Memory) : State :=
  if b = 0 then { s with wbuf := m } else if b = 1 then { s with abuf := m } else { s with sbuf := m }

/-- The key of an 8-byte buffer unit's poison mark. -/
def unitKey (b k : Nat) : Nat := b * 2 ^ 80 + k / 8

/-- Physical addresses of peers' memories continue those of device memory from 2^80 on: a granule's shadow is named by them (R312). -/
def peerBase : Nat := 2 ^ 80

/-- Every context of the package that holds a place on its core. -/
def State.ctxs (s : State) : List Ctx := s.ctx :: s.parked

/-- Whether any port of the route to a peer is up (R390): the mask of PEERRT, BRIMR and the port fence map. -/
def State.peerUp (s : State) (p : Nat) : Bool :=
  (List.range 24).any (fun i => (s.reg (0x602000 + 8 * p)).getLsbD i && s.brimUp i)

/-- The member of a context's gang that a cluster-remote address names, and its offset (R164); the members of a saved gang are saved
(R183). -/
def State.remote (s : State) (c : Ctx) (a : Word) : Option (Ctx × Nat) :=
  let i := wfld a 44 4
  let f (x : Ctx) : Bool := x.live && x.gang == c.gang
    && (if a.getLsbD 43 then i < c.nrank && x.rank == i else x.core == c.core / 16 * 16 + i)
  ((s.ctxs ++ s.saved).find? f).map (fun x => (x, wfld a 0 43))

/-- The place of tile offset o of a context, o below 73,728 × TCNT (R161). -/
def tilePlace (c : Ctx) (o : Nat) : Place := .row c.core (128 * tileOf c (o / 73728) + o / 576 % 128) (o % 576)

/-- The place of an address whose issue checks have passed, and the leaf that translated it (R160 to R164). An overflow access beyond the
virtual addresses is an address fault of kind 1 (DESIGN CHOICE, log 91). -/
def State.place (s : State) (c : Ctx) (a : Word) (wr : Bool) : Except Flt (Place × Option TlbEnt) :=
  let sel := selOf a
  let o := lowOf a
  if sel ≤ 3 then
    match s.translate c sel (o % 2 ^ 48) wr false with
    | .error f => .error f
    | .ok (pa, e) =>
      if sel = 2 then .ok (.host pa, some e)
      else if sel = 3 then .ok (.peer (o / 2 ^ 48 * 2 ^ 56 + pa), some e)
      else .ok (.dev pa, some e)
  else if sel = 0x12 then .ok (tilePlace c o, none)
  else if sel ≤ 0x13 then
    let b := sel - 0x10
    let w := c.win b
    if o < winSize w then .ok (c.bufPlace b o, none)
    else
      -- an overflow access of S (R162)
      let va := c.spovf.toNat + (o - winSize w)
      if 2 ^ 48 ≤ va then .error (aflt 1)
      else match s.translate c 0 va wr false with
        | .error f => .error f
        | .ok (pa, e) => .ok (.dev pa, some e)
  else if sel ≤ 0x17 then
    match s.remote c a with
    | none => .error { cause := 0x0A }
    | some (t, ro) =>
      if sel = 0x16 then
        if ro < 73728 * tcnt t then .ok (tilePlace t ro, none) else .error { cause := 0x0A }
      else
        let b := sel - 0x14
        if ro < winSize (t.win b) then .ok (t.bufPlace b ro, none) else .error { cause := 0x0A }
  else if sel = 0x20 then .ok (.wake (o / 8), none)
  else .ok (.ctl o, none)

/-- An access's translation sets the A and D bits of its leaf entry (R309). A leaf that the tables no longer hold is used as it is. -/
def State.touchLeaf (s : State) (c : Ctx) (e : Option TlbEnt) (wr : Bool) : State :=
  match e with
  | some k => match s.freshLeaf k.cluster c.ptroot (k.page * 2 ^ k.sh) with
    | .ok x => if x = k then s.touch k.ea wr else s
    | .error _ => s
  | none => s

/-- The same, and the leaf stays cached (R310). -/
def State.touched (s : State) (c : Ctx) (e : Option TlbEnt) (wr : Bool) : State :=
  match e with
  | some k => (s.touchLeaf c e wr).cache k
  | none => s

/-! Shadows (R312). A granule of a peer's memory is named by its address from `peerBase` on. -/

/-- The shadow of a launch for the granule of a physical address. -/
def State.shadow? (s : State) (arr pa : Nat) : Option Shadow :=
  s.shadows.find? (fun h => h.arr == arr && h.granule == pa / 65536)

/-- Whether a launch runs with shadowing in effect. -/
def State.shadowed (s : State) (arr : Nat) : Bool :=
  match s.launch? arr with
  | some l => l.fdfl.testBit 0
  | none => false

/-- The bytes of a granule of device or peer memory, by offset. -/
def State.granule (s : State) (g : Nat) : Memory :=
  let p := g * 65536
  if p < peerBase then (s.mem.filter (fun x => p ≤ x.1 && x.1 < p + 65536)).map (fun x => (x.1 - p, x.2))
  else (s.peer.filter (fun x => p ≤ x.1 + peerBase && x.1 + peerBase < p + 65536)).map (fun x => (x.1 + peerBase - p, x.2))

/-- Takes the shadow of a granule, charged to MUSED; none when MBUDGET is exhausted. A line that reads as poison is poisoned in the
shadow too. A launch that captures a leaf takes its shadows uncharged, since its writes are discarded (R328). -/
def State.takeShadow (s : State) (arr pa : Nat) : Option State :=
  match s.shadow? arr pa with
  | some _ => some s
  | none =>
    let g := pa / 65536
    let h : Shadow := ⟨arr, g, s.granule g, [],
      if g * 65536 < peerBase then (List.range 1024).filter (fun i => s.poisoned (g * 65536 + 64 * i)) else []⟩
    match s.launch? arr with
    | none => none
    | some l => (s.chargeOwn l 65536).map (fun t => { t with shadows := t.shadows ++ [h] })

/-- One byte of device or peer memory as a launch sees it. -/
def State.devByte (s : State) (arr pa : Nat) : Byte :=
  match s.shadow? arr pa with
  | some h => memByte h.bytes (pa % 65536)
  | none => if pa < peerBase then memByte s.mem pa else memByte s.peer (pa - peerBase)

/-- Whether a launch's read of a physical address meets poison. -/
def State.devBad (s : State) (arr pa : Nat) : Bool :=
  match s.shadow? arr pa with
  | some h => h.bad.contains (pa % 65536 / 64)
  | none => pa < peerBase && s.poisoned pa

/-- A write of a launch within one granule: to its shadow, or to memory itself. A line covered whole loses its mark, and the
bytes for a lost stack are discarded (R26, R312, R348). -/
def State.devWrite (s : State) (arr pa : Nat) (bs : List Byte) : State :=
  match s.shadow? arr pa with
  | some h =>
    let o := pa % 65536
    let ls := (List.range (bs.length / 64 + 2)).map (fun i => o / 64 + i)
    let hit := ls.filter (fun l => 64 * l < o + bs.length)
    let whole (l : Nat) : Bool := o ≤ 64 * l && 64 * l + 64 ≤ o + bs.length
    let h' : Shadow := { h with bytes := memWrite h.bytes o bs, lines := h.lines ++ hit.filter (fun l => !h.lines.contains l),
                                bad := h.bad.filter (fun l => !whole l) }
    { s with shadows := s.shadows.map (fun x => if x.arr = arr ∧ x.granule = pa / 65536 then h' else x) }
  | none => if pa < peerBase then s.devPut pa bs else { s with peer := memWrite s.peer (pa - peerBase) bs }

/-! Reading and writing a place. -/

/-- An invalid row. The mark of a poisoned granule, which no write of the whole row has cleared, stays with what it reads as (R348). -/
def ZRow.invalid (z : ZRow) : ZRow := { bits := z.bits, fault := if z.mark then z.fault else none, mark := z.mark }

/-- A row that a load will fill: empty, with the policy that its readers obey (R51); a mark stays (R348). -/
def ZRow.emptied (z : ZRow) (pol : Bool) : ZRow := { z with full := false, fault := if z.mark then z.fault else none, pol := pol }

/-- The bytes of a raw row from byte o. -/
def rowBytes (r : Row) (o n : Nat) : List Byte := leBytes n (r.toNat / 2 ^ (8 * o) % 2 ^ (8 * n))

/-- Reads n bytes of a buffer from a key on, unless their first or last unit is poisoned. -/
def State.bufBytes (s : State) (b k n : Nat) : Except Flt (List Byte) :=
  if tabGet false s.pbuf (unitKey b k) || tabGet false s.pbuf (unitKey b (k + n - 1)) then .error { cause := 0x0F }
  else .ok (memRead (s.bufMem b) k n)

/-- Reads pieces of a buffer in turn. -/
def State.segBytes (s : State) (b : Nat) : List (Nat × Nat) → Except Flt (List Byte)
  | [] => .ok []
  | x :: xs => match s.bufBytes b x.1 x.2 with
    | .error f => .error f
    | .ok u => match s.segBytes b xs with
      | .error f => .error f
      | .ok v => .ok (u ++ v)

/-- Writes bytes to a buffer from a key on: the marks of the units that they cover whole go (R348). -/
def State.putBuf (s : State) (b k : Nat) (bs : List Byte) : State :=
  let t := s.setBuf b (memWrite (s.bufMem b) k bs)
  { t with pbuf := t.pbuf.filter (fun x => !(unitKey b (k + 7) ≤ x.1 && x.1 < unitKey b (k + bs.length))) }

/-- Writes bytes to pieces of a buffer in turn. -/
def State.putSegs (s : State) (b : Nat) : List (Nat × Nat) → List Byte → State
  | [], _ => s
  | x :: xs, bs => (s.putBuf b x.1 (bs.take x.2)).putSegs b xs (bs.drop x.2)

/-- Reads n bytes of a place as a launch sees them. A remote or local row that holds a deferred fault gives that fault's cause;
an invalid one gives an invalid read (R50), and an empty one the bits it held before (DESIGN CHOICE, log 41). Wake and control places are read
by the control layer. -/
def State.readPlace (s : State) (arr : Nat) (p : Place) (n : Nat) : Except Flt (List Byte) :=
  match p with
  | .dev pa =>
    if s.devBad arr pa || s.devBad arr (pa + n - 1) then .error { cause := 0x0F }
    else .ok ((List.range n).map (fun i => s.devByte arr (pa + i)))
  | .host pa => .ok (memRead s.host pa n)
  | .peer k =>
    if (s.shadow? arr (peerBase + k)).isSome || s.peerUp (k / 2 ^ 56) then .ok ((List.range n).map (fun i => s.devByte arr (peerBase + k + i)))
    else .error (aflt 0)
  | .buf b k => s.bufBytes b k n
  | .span b k lo len base => s.segBytes b (spanSegs k n lo len base)
  | .row core r o =>
    let z := s.row core r
    match z.fault with
    | some f => .error { cause := f.cause, kind := f.info1.toNat, code := f.code }
    | none => if z.valid then .ok (rowBytes z.bits o n) else .error { cause := 0x05, kind := 3 * 4096 + r }
  | .wake q => .ok ((leBytes 8 (tabGet 0 s.wake q).toNat).take n)
  | .ctl _ => .ok (List.replicate n 0)

/-- A wake register takes the unsigned maximum (R177). -/
def State.wakePut (s : State) (q : Nat) (v : Word) : State :=
  { s with wake := tabSet 0 s.wake q (if (tabGet 0 s.wake q).toNat < v.toNat then v else tabGet 0 s.wake q) }

/-- A row after a write of the bits under a mask: valid and full, without its deferred fault; where the row's granule is marked, a write of
part of it leaves the mark and what it reads as (R348). `bits` is the row's contents after the write. -/
def ZRow.written (z : ZRow) (bits msk : Row) : ZRow :=
  if z.mark ∧ msk ≠ allRow then { z with bits := bits, valid := true, full := true }
  else { z with bits := bits, valid := true, full := true, fault := none, mark := false }

/-- Writes the bytes of a raw row from byte o. -/
def putRow (z : ZRow) (o : Nat) (bs : List Byte) : ZRow :=
  let n := 8 * bs.length
  let m : Row := BitVec.ofNat 4608 ((2 ^ n - 1) * 2 ^ (8 * o))
  z.written ((z.bits &&& ~~~m) ||| BitVec.ofNat 4608 (leNat bs * 2 ^ (8 * o))) m

/-- Writes bytes to a place on behalf of a launch (R26, R177, R312, R348). -/
def State.writePlace (s : State) (arr : Nat) (p : Place) (bs : List Byte) : State :=
  match p with
  | .dev pa => s.devWrite arr pa bs
  | .host pa => { s with host := memWrite s.host pa bs }
  | .peer k => s.devWrite arr (peerBase + k) bs
  | .buf b k => s.putBuf b k bs
  | .span b k lo len base => s.putSegs b (spanSegs k bs.length lo len base) bs
  | .row core r o => s.setRow core r (putRow (s.row core r) o bs)
  | .wake q => s.wakePut q (BitVec.ofNat 64 (leNat bs))
  | .ctl _ => s

/-! The granules of a dump (R366). -/

/-- Appends bytes to the image; none when DESTSZ runs out. -/
def Dump.put (d : Dump) (s : State) (bs : List Byte) : Option (State × Dump) :=
  if d.size < d.out + bs.length then none else some (s.devPut (d.dest + d.out) bs, { d with out := d.out + bs.length })

/-- Writes DSTAT and DPAGES and ends the dump. -/
def State.endDump (s : State) (d : Dump) (stat : Nat) : State :=
  { (s.devNat (d.desc + 0x20) 8 stat).devNat (d.desc + 0x30) 8 d.pages with dump := none }

/-- The lines of a granule that are poisoned stay so in the image (R26, R348). -/
def State.dumpMarks (s : State) (d : Dump) (pa dst : Nat) : State :=
  (List.range 1024).foldl (fun t i => if s.devBad d.arr (pa + 64 * i) then t.markLine (dst + 64 * i) true else t) s

/-- Copies the next granule of a dump as the task's launch sees it: its head (VA, PA, 65,536, zero) and its bytes; its protection lifts. -/
def State.dumpCopy (s : State) : State :=
  match s.dump with
  | none => s
  | some d => match d.todo with
    | [] => s.endDump d 2
    | (va, pa) :: r =>
      let b := leBytes 8 va ++ leBytes 8 pa ++ leBytes 8 65536 ++ List.replicate 40 0 ++ (List.range 65536).map (fun i => s.devByte d.arr (pa + i))
      match d.put s b with
      | none => s.endDump d 3
      | some (t, e) => { t.dumpMarks d pa (d.dest + d.out + 64) with dump := some { e with todo := r, pages := e.pages + 1 } }

/-- Whether a write through a space to a virtual address waits for a dump to copy its granule. -/
def State.dumpHeld (s : State) (root : Word) (va : Nat) : Bool :=
  match s.dump with
  | none => false
  | some d => d.root == root && d.todo.any (fun x => x.1 == va / 65536 * 65536)

/-- The same of n bytes from a virtual address on. -/
def State.spanHeld (s : State) (root : Word) (va n : Nat) : Bool :=
  s.dump.isSome && (s.dumpHeld root (va + (n - 1)) || (List.range (n / 65536 + 1)).any (fun i => s.dumpHeld root (va + 65536 * i)))

/-- The same of a granule of device memory that the device writes on behalf of a task of a space. -/
def State.granHeld (s : State) (root : Word) (pa : Nat) : Bool :=
  match s.dump with
  | none => false
  | some d => d.root == root && d.todo.any (fun x => x.2 == pa / 65536 * 65536)

/-- A dump goes on as long as it holds a write. -/
def State.dumpPast (held : State → Bool) : Nat → State → State
  | 0, s => s
  | k + 1, s => if held s then State.dumpPast held k s.dumpCopy else s

/-- The state in which a write of the device that waits for a dump may be made: the dump has copied its granule by then. -/
def State.dumpFirst (s : State) (held : State → Bool) : State :=
  match s.dump with
  | none => s
  | some d => State.dumpPast held (d.todo.length + 1) s

/-- The same before n bytes are written through a space at a virtual address. -/
def State.dumpVa (s : State) (root : Word) (va n : Nat) : State := s.dumpFirst (fun t => t.spanHeld root va n)

end Sys2Proof.Machine
end

