-- ==== Sys2Proof/Machine/Records.lean ====
section
/-! DEFINITION. Queue descriptors (R278, R400) and error records (R354 to R356). -/

namespace Sys2Proof.Machine

/-- A queue descriptor as it stands in memory (Table 19.1). -/
structure QDesc where
  addr : Nat
  base : Word
  size : Nat
  flags : Nat
  ridx : Nat
  widx : Nat
  qrcb : Nat
  rsv : Bool
  deriving DecidableEq, Repr

/-- The address of the descriptor of queue q; none where QDESCq is 0 or names no memory. -/
def State.qdescAt (s : State) (q : Nat) : Option Nat :=
  let a := (s.reg (0x100000 + 8 * q)).toNat / 64 * 64
  if q < 4096 ∧ a ≠ 0 ∧ a + 64 ≤ s.devSize then some a else none

/-- The descriptor of queue q; none where it has none or its line is poisoned (R26, R348). -/
def State.qdesc (s : State) (q : Nat) : Option QDesc :=
  match s.qdescAt q with
  | none => none
  | some a => if s.poisoned a then none else
    let r (o n : Nat) : Nat := memNat s.mem (a + o) n
    some ⟨a, BitVec.ofNat 64 (r 0 8), r 8 4, r 0x0C 4, r 0x10 8, r 0x18 8, r 0x20 8,
      r 0x0C 4 / 4 != 0 || r 0x28 8 != 0 || r 0x30 8 != 0 || r 0x38 8 != 0⟩

/-- Translates a virtual address that the device uses on behalf of a launch or queue (R400): the path must be one of 0x00,
0x02 and 0x03, and a walk that faults makes the address unusable. -/
def State.useAddr (s : State) (root : Word) (a : Word) (wr : Bool) : Option (Place × Nat) :=
  let sel := selOf a
  if sel = 0 ∨ sel = 2 ∨ sel = 3 then
    if sel ≠ 3 ∧ wfld a 48 8 ≠ 0 then none
    else match s.walk root sel (wfld a 0 48) wr false with
      | .error _ => none
      | .ok (pa, ea) =>
        some (if sel = 2 then .host pa else if sel = 3 then .peer (wfld a 48 8 * 2 ^ 56 + pa) else .dev pa, ea)
  else none

/-- Where packet i of a ring lies (R279). -/
def QDesc.slot (d : QDesc) (i : Nat) : Word := d.base + BitVec.ofNat 64 (128 * (i % d.size))

/-- Puts a record into a route queue (R356); none where QENA is set, the ring is full or the queue is unusable. -/
def State.sendTo (s : State) (q : Nat) (rec64 : List Byte) : Option State :=
  match s.qdesc q with
  | none => none
  | some d =>
    if d.flags % 2 = 1 ∨ d.size = 0 ∨ d.widx - d.ridx = d.size then none
    else match s.spaceOf d.qrcb with
      | none => none
      | some root =>
        let s := s.dumpVa root (wfld (d.slot d.widx) 0 48) 128
        match s.useAddr root (d.slot d.widx) true with
        | some (.dev pa, ea) =>
          let t := ((s.touch ea true).devPut pa (rec64 ++ List.replicate 64 0)).devNat (d.addr + 0x18) 8 (d.widx + 1)
          some (t.wakePut q (BitVec.ofNat 64 (d.widx + 1)))
        | _ => none

/-- An error record (Table 27.1), with the "none" values as defaults; TB is taken when it is sent. -/
structure ErrRec where
  kind : Nat
  uclass : Nat := 0
  inst : Nat := 0
  die : Nat := 0xFF
  core : Nat := 0xFFFF
  cluster : Nat := 0xFF
  cause : Nat := 0
  synd : Nat := 0
  addr : Nat := 0
  launch : Nat := 0
  task : Nat := 0
  rank : Nat := 0xFF
  cid : Nat := 0xFF
  rcb : Nat := 0
  pc : Nat := 0
  deriving DecidableEq, Repr

/-- The 64 bytes of a record. -/
def ErrRec.bytes (r : ErrRec) (tb : Word) : List Byte :=
  leBytes 1 r.kind ++ leBytes 1 r.uclass ++ leBytes 1 r.inst ++ leBytes 1 r.die ++ leBytes 2 r.core ++ leBytes 1 r.cluster
    ++ leBytes 1 r.cause ++ leBytes 8 tb.toNat ++ leBytes 8 r.synd ++ leBytes 8 r.addr ++ leBytes 8 r.launch ++ leBytes 4 r.task
    ++ leBytes 1 r.rank ++ leBytes 1 r.cid ++ leBytes 2 1 ++ leBytes 8 r.rcb ++ leBytes 8 r.pc

/-- Sends to the management queue, EQMGT[11:0]; a record that finds it full is dropped and counted (R356). -/
def State.sendMgt (s : State) (b : List Byte) : State :=
  match s.sendTo (wfld (s.reg 0x231000) 0 12) b with
  | some t => t
  | none => s.bump 0x231008

/-- Sends a record (R356): to a route when it has one, and to the management queue otherwise; kinds 2, 3 and 5 go to both. -/
def State.sendRec (s : State) (r : ErrRec) (route : Option Nat) : State :=
  let b := r.bytes s.tb
  match route with
  | none => s.sendMgt b
  | some q =>
    let t := match s.sendTo q b with
      | some t => t
      | none => s.sendMgt b
    if r.kind = 2 ∨ r.kind = 3 ∨ r.kind = 5 then t.sendMgt b else t

/-- Names a core in a record. -/
def ErrRec.atCore (r : ErrRec) (n : Nat) : ErrRec := { r with die := n / 96, core := n, cluster := n / 16 }

/-- Names a context and its task in a record. -/
def ErrRec.atCtx (r : ErrRec) (s : State) (c : Ctx) : ErrRec :=
  let q := r.atCore c.core
  let b : Nat := match s.launch? c.arr with
    | some l => l.rcb
    | none => 0
  { q with launch := c.arr, task := c.task, rank := c.rank, cid := c.cid % 4, rcb := b }

/-- Sends a record that concerns a context, to its launch's error route. -/
def State.ctxRec (s : State) (c : Ctx) (r : ErrRec) : State :=
  s.sendRec (r.atCtx s c) ((s.launch? c.arr).map Launch.eroute)

end Sys2Proof.Machine
end

