-- ==== Sys2Proof/Machine/Tree.lean ====
section
/-! DEFINITION. The retirement tree: leaf records and digests (R313 to R317), the tree log (R323 to R325), rank trees (R318,
R319) and the root chain (R321, R322). -/

namespace Sys2Proof.Machine

/-- The hash of a node over two hashes (R317). -/
def nodeHash (l r : BitVec 256) : BitVec 256 := sha3V (0x01 :: (hashBytes l ++ hashBytes r))

/-- The largest power of two below n, for n of 2 or more. -/
def splitAtPow (n : Nat) : Nat := 2 ^ (n - 1).log2

/-- The root of the tree over a list of hashes, lists of at most `fuel` levels (R317). -/
def treeGo : Nat → List (BitVec 256) → BitVec 256
  | _, [] => sha3V [0x04]
  | _, [d] => d
  | 0, d :: _ => d
  | n + 1, ds =>
    let k := splitAtPow ds.length
    nodeHash (treeGo n (ds.take k)) (treeGo n (ds.drop k))

/-- T(D) of R317. -/
def treeRoot (ds : List (BitVec 256)) : BitVec 256 := treeGo 64 ds

/-- The hash of a leaf record, with ELIDED taken as zero (R317, R344). -/
def leafHashOf (rec128 : List Byte) : BitVec 256 :=
  sha3V (0x00 :: (rec128.take 0x1D ++ [(rec128.getD 0x1D 0) &&& 0xF7] ++ rec128.drop 0x1E))

/-- A rank entry and a task entry (R317). -/
def rankEntry (rank : Nat) (root : BitVec 256) (n : Nat) : BitVec 256 :=
  sha3V ([0x02, BitVec.ofNat 8 rank] ++ hashBytes root ++ leBytes 8 n)
def taskEntry (task : Nat) (root : BitVec 256) : BitVec 256 := sha3V (0x05 :: (leBytes 4 task ++ hashBytes root))

/-- The fields of a leaf record (Table 23.1). -/
structure LeafRec where
  lidx : Nat
  words : List Nat
  opc : Nat
  mode : Nat
  rank : Nat
  lflags : Nat
  clip : Nat := 0
  scal : Nat := 0
  da : List Byte
  db : List Byte
  dc : List Byte
  dr : List Byte
  deriving DecidableEq, Repr

/-- The 128 bytes of a leaf record. -/
def LeafRec.bytes (r : LeafRec) : List Byte :=
  let w (i : Nat) : Nat := r.words.getD i 0 % 2 ^ 28
  leBytes 8 r.lidx ++ leBytes 4 (w 0) ++ leBytes 4 (w 1) ++ leBytes 4 (w 2) ++ leBytes 4 r.opc ++ leBytes 4 r.mode
    ++ leBytes 1 r.rank ++ leBytes 1 r.lflags ++ leBytes 2 0 ++ leBytes 8 r.clip ++ leBytes 8 r.scal
    ++ r.da ++ r.db ++ r.dc ++ r.dr ++ List.replicate 16 0

/-- The digest of a region under a task's key (R316). -/
def State.digestOf (s : State) (arr task : Nat) (bs : List Byte) : List Byte :=
  let k := taskKey (s.nonce arr) task
  digest k.1 k.2 bs

/-- The OPC of a bundle of a launch: its offset in `.text`, or the Miosal offset that OPCMAP gives (R314, R376). -/
def State.opcOf (s : State) (arr : Nat) (text pc : Word) : Nat :=
  let o := (pc - text).toNat
  match s.launch? arr with
  | some l => match l.code.opcmap.find? (fun x => x.1 == o) with
    | some x => x.2
    | none => o
  | none => o

/-- What a capture run keeps of the leaf that it is to capture (R328): the regions as the slot read them; `dc` none keeps the third. -/
def State.note (s : State) (arr task rank idx : Nat) (da db : List Byte) (dc : Option (List Byte)) : State :=
  match s.launch? arr with
  | none => s
  | some l => match l.capture with
    | none => s
    | some k =>
      if k.task = task ∧ k.rank = rank ∧ k.leaf = idx then
        let old := match k.regions with
          | some r => r.2.2
          | none => []
        s.setLaunch { l with capture := some { k with regions := some (da, db, dc.getD old) } }
      else s

/-- The record of that leaf. -/
def State.noteLeaf (s : State) (arr task rank idx : Nat) (rec128 : List Byte) : State :=
  match s.launch? arr with
  | none => s
  | some l => match l.capture with
    | none => s
    | some k =>
      if k.task = task ∧ k.rank = rank ∧ k.leaf = idx then s.setLaunch { l with capture := some { k with record := rec128 } } else s

/-- Retires a leaf with its record: the entry of the retirement buffer waits for a tree engine (R313, R318). -/
def State.retire (s : State) (arr task rank idx : Nat) (rec128 : List Byte) : State :=
  let t := s.noteLeaf arr task rank idx rec128
  { t with leaves := t.leaves.map (fun l =>
      if l.arr = arr ∧ l.task = task ∧ l.rank = rank ∧ l.idx = idx then { l with record := some rec128 } else l) }

/-! The log (R323 to R325). -/

/-- The offset of chain record n. -/
def chainOff (n : Nat) : Nat := 0x200000 + 128 * n

/-- The head of a log entry (Table 23.4). -/
def logHead (kind level rank task arr first count : Nat) (h : BitVec 256) : List Byte :=
  leBytes 1 kind ++ leBytes 1 level ++ leBytes 2 rank ++ leBytes 4 task ++ leBytes 8 arr ++ leBytes 8 first ++ leBytes 8 count
    ++ hashBytes h

/-- Appends an entry to a chain's log; none where it does not fit. 4 KiB are held back for root, coarsen and rescind entries
(`low`). -/
def State.logPut (s : State) (n : Nat) (low : Bool) (e : List Byte) : Option State :=
  let o := chainOff n
  let base := (s.reg (o + 8)).toNat
  let size := (s.reg (o + 0x10)).toNat
  let rd := (s.reg (o + 0x18)).toNat
  let wr := (s.reg (o + 0x20)).toNat
  if size = 0 then none
  else
    let pos := wr % size
    let pad := if size < pos + e.length then size - pos else 0
    let free := size - (wr - rd)
    if free < pad + e.length + (if low then 0 else 4096) then none
    else
      let t := if pad = 0 then s else s.devPut (base + pos) (List.replicate pad 0)
      some ((t.devPut (base + (wr + pad) % size) e).setReg (o + 0x20) (BitVec.ofNat 64 (wr + pad + e.length)))

/-- Charges log bytes to RCBs, whatever LBUDGET holds (R324). -/
def State.chargeLog (s : State) (rcbs : List Nat) (n : Nat) : State :=
  { s with lused := rcbs.foldl (fun t a => tabSet 0 t a (tabGet 0 t a + n)) s.lused }

/-- The RCBs of a launch's chain. -/
def Launch.rcbs (l : Launch) : List Nat := l.own.map Grant.addr

/-- Writes waiting entries in turn: one that does not fit holds back those of its launch after it, in its chain (a refused packet's ARR is 0). -/
def State.logGo (s : State) (stuck : List (Nat × Nat)) : List LogWait → State × List LogWait
  | [] => (s, [])
  | e :: es =>
    match (if stuck.contains (e.arr, e.chain) then none else s.logPut e.chain e.low e.bytes) with
    | some t => (t.chargeLog e.rcbs e.bytes.length).logGo stuck es
    | none =>
      let r := s.logGo ((e.arr, e.chain) :: stuck) es
      (r.1, e :: r.2)

/-- Writes what waits for room in the logs, as far as there is room. -/
def State.logFlush (s : State) : State :=
  let r := s.logGo [] s.logq
  { r.1 with logq := r.2 }

/-- Whether an entry of a launch waits for room. -/
def State.logWaits (s : State) (arr : Nat) : Bool := s.logq.any (fun e => e.arr == arr)

/-- An entry of a launch is written, or waits for room: roots are always written (R324), and entries stand in the order they were made
(R323). A capture run writes no log (R328). -/
def State.logEntry (s : State) (l : Launch) (low : Bool) (e : List Byte) : State :=
  let t : State := { s with logq := s.logq ++ [⟨l.arr, l.chain, l.rcbs, low, e⟩] }
  if l.capture.isSome then s else t.logFlush

/-- A root, coarsen or rescind entry of a launch, for which its chain keeps room. -/
def State.logLow (s : State) (arr : Nat) (e : List Byte) : State :=
  match s.launch? arr with
  | none => s
  | some l => s.logEntry l true e

/-- The levels whose entries are due when leaf i of a rank is hashed at granularity g (R324), without those below `next`. -/
def leafLevels (g next i : Nat) : List Nat := (List.range 41).filter (fun l => g ≤ l && next ≤ l && (i + 1) % 2 ^ l == 0)

/-- The entry of level l: the leaf entry, or that of the node which leaf i completes. -/
def leafEntry (t : RankTree) (i : Nat) (rec128 : List Byte) (hs : List (BitVec 256)) (l : Nat) : List Byte :=
  if l = 0 then logHead 3 0 t.rank t.task t.arr i 1 (hs.getD i 0) ++ rec128
  else logHead 2 l t.rank t.task t.arr (i + 1 - 2 ^ l) (2 ^ l) (treeRoot ((hs.drop (i + 1 - 2 ^ l)).take (2 ^ l)))

/-- The entries due when leaf i of a rank is hashed (R324). -/
def leafEntries (t : RankTree) (i : Nat) (rec128 : List Byte) (hs : List (BitVec 256)) : List (List Byte) :=
  (leafLevels t.gran t.next i).map (leafEntry t i rec128 hs)

/-- The launch's log granularity policy: LFL bit 0. -/
def Launch.coarsen (l : Launch) : Bool := (l.packet.getD 3 0).getLsbD 0

/-- Writes the entries of leaf i at some levels, as far as they fit: the state, the tree with the next level still to write, and whether
they all fit. -/
def State.putLevels (s : State) (l : Launch) (t : RankTree) (i : Nat) (rec128 : List Byte) (hs : List (BitVec 256)) : List Nat → State × RankTree × Bool
  | [] => (s, t, true)
  | v :: vs =>
    let e := leafEntry t i rec128 hs v
    match s.logPut l.chain false e with
    | none => (s, t, false)
    | some u => (u.chargeLog l.rcbs e.length).putLevels l { t with next := v + 1 } i rec128 hs vs

/-- Logs a leaf, raising the granularity under COARSEN up to 40 while its entries do not fit (R325): the state, the rank's tree with the
granularity and the leaf from which it is in force (the lowest that no logged node of the old level covers), and whether the leaf is logged or
the rank stalls. An entry that fits is written though a later one does not; entries of the launch that wait for room stall it too. -/
def State.logLeaf (s : State) (l : Launch) (t : RankTree) (i : Nat) (rec128 : List Byte) (hs : List (BitVec 256)) :
    Nat → State × RankTree × Bool
  | 0 => (s, t, false)
  | n + 1 =>
    if s.logWaits l.arr then (s, t, false)
    else
      match s.putLevels l t i rec128 hs (leafLevels t.gran t.next i) with
      | (u, k, true) => (u, { k with next := 0 }, true)
      | (u, k, false) =>
        if l.coarsen ∧ k.gran < 40 then
          let first := if k.gran < k.next then i + 1 else i / 2 ^ k.gran * 2 ^ k.gran
          let m : Launch := { l with cflags := Nat.lor l.cflags 0x200 }
          let v := (u.setLaunch m).logEntry m true (logHead 5 (k.gran + 1) k.rank k.task k.arr first 0 0)
          State.logLeaf v m { k with gran := k.gran + 1, base := first } i rec128 hs n
        else (u, k, false)

/-- The tree of a rank. -/
def State.tree? (s : State) (arr task rank : Nat) : Option RankTree :=
  s.trees.find? (fun t => t.arr == arr && t.task == task && t.rank == rank)

/-- Replaces the tree of the same rank. -/
def State.setTree (s : State) (t : RankTree) : State :=
  { s with trees := s.trees.map (fun x => if x.arr = t.arr ∧ x.task = t.task ∧ x.rank = t.rank then t else x) }

/-- A tree engine hashes a retired leaf into its rank tree, when every lower leaf is in it, and frees its buffer entry
(R19, R318). A leaf whose log entries do not fit stays, and its rank stalls. -/
def State.hashLeaf (s : State) (e : LeafEnt) (rec128 : List Byte) : State :=
  match s.tree? e.arr e.task e.rank, s.launch? e.arr with
  | some t, some l =>
    let hs := t.leaves ++ [leafHashOf rec128]
    let free (u : State) : State :=
      { u with leaves := u.leaves.filter (fun x => !(x.arr == e.arr && x.task == e.task && x.rank == e.rank && x.idx == e.idx)) }
    if l.capture.isSome then (free s).setTree { t with leaves := hs }
    else match s.logLeaf l t e.idx rec128 hs 41 with
      | (v, k, true) => (free v).setTree { k with leaves := hs, stalled := false }
      | (v, k, false) => v.setTree { k with stalled := true }
  | _, _ => s

/-- Whether any tree engine of the package is unfenced (R25). -/
def State.anyTree (s : State) : Bool := (List.range 48).any (fun i => !(s.reg 0x50).getLsbD i)

/-- The entry of a leaf-producing slot: no leaf in a handler (R302), and the holds of R19, R25 and R325: no place in the retirement
buffer, no tree engine that is not fenced, or a rank tree that waits for room in its log. -/
def State.leafGate (s : State) : SlotR Unit := do
  need (!s.ctx.inh) { cause := 0x04 }
  await s.leafRoom .leaf
  await s.anyTree .leaf
  await (!s.logStalled) .log

/-- The retired leaves of a core whose lower leaves are hashed. -/
def State.toHash (s : State) (core : Nat) : List (LeafEnt × List Byte) :=
  s.leaves.filterMap (fun e =>
    match e.record with
    | some r =>
      if e.core == core && (match s.tree? e.arr e.task e.rank with
        | some t => t.leaves.length == e.idx
        | none => false) then some (e, r) else none
    | none => none)

/-- Whether a leaf waits for room in its log, and whether hashing it now brings its tree further. -/
def State.leafStalled (s : State) (e : LeafEnt) : Bool := (s.tree? e.arr e.task e.rank).any (fun t => t.stalled)
def State.leafGoes (s : State) (x : LeafEnt × List Byte) : Bool :=
  ((s.hashLeaf x.1 x.2).tree? x.1.arr x.1.task x.1.rank).any (fun t => t.leaves.length != x.1.idx)

/-- The leaf of a core that its die's engines serve next: the first retired one whose lower leaves are hashed. One that waits for room in its
log holds its own rank only (R325): it comes again once its entries fit, or when no other leaf does. -/
def State.nextHash (s : State) (core : Nat) : Option (LeafEnt × List Byte) :=
  let xs := s.toHash core
  match xs.find? (fun x => !s.leafStalled x.1) with
  | some x => some x
  | none => (xs.find? s.leafGoes).or xs.head?

/-- Removes a rank's leaves from index n on, those not yet hashed included, takes the rank-tree builder back to where it stood, and
writes the rescind entry (R149, R319). The rank stalls as then only while the leaf that stalled it still waits. -/
def State.rescind (s : State) (arr task rank n : Nat) (b : Nat × Nat × Bool) : State :=
  let s1 : State := { s with
    leaves := s.leaves.filter (fun x => !(x.arr == arr && x.task == task && x.rank == rank && n ≤ x.idx))
    xq := s.xq.map (fun x => if x.arr = arr ∧ x.task = task ∧ x.rank = rank ∧ n ≤ x.lidx then { x with leaf := [] } else x)
    engs := s.engs.map (fun x => if x.arr = arr ∧ x.task = task ∧ x.rank = rank ∧ n ≤ x.lidx then { x with dropped := true } else x) }
  match s1.tree? arr task rank with
  | some t =>
    let waits := s1.leaves.any (fun x => x.arr == arr && x.task == task && x.rank == rank && x.idx < n)
    let next := if t.leaves.length < n then t.next else 0
    (s1.setTree { t with leaves := t.leaves.take n, gran := b.1, base := b.2.1, stalled := b.2.2 && waits, next := next }).logLow arr (logHead 4 0 rank task arr n 0 0)
  | none => s1

/-- Closes a rank tree: its root and the rank root entry (R318, R324). -/
def State.closeTree (s : State) (arr task rank : Nat) : State :=
  match s.tree? arr task rank with
  | none => s
  | some t =>
    let r := treeRoot t.leaves
    (s.setTree { t with root := some r }).logLow arr (logHead 6 0 rank task arr 0 t.leaves.length r)

/-- The task root over the rank entries 0 to w − 1 (R318). -/
def State.taskRoot (s : State) (arr task w : Nat) : BitVec 256 :=
  treeRoot ((List.range w).map (fun r => match s.tree? arr task r with
    | some t => rankEntry r (t.root.getD (treeRoot t.leaves)) t.leaves.length
    | none => rankEntry r (treeRoot []) 0))

/-- The launch descriptor digest (R322). -/
def Launch.descDigest (l : Launch) : BitVec 256 := sha3V (l.packet.take 0x60 ++ hashBytes l.code.idig)

/-- The launch header entry (Table 23.4). -/
def Launch.header (l : Launch) : List Byte :=
  logHead 1 0 0 0 l.arr 0 0 l.descDigest ++ l.nonce ++ [l.packet.getD 2 0, l.packet.getD 3 0, BitVec.ofNat 8 l.attempt]
    ++ List.replicate 29 0

/-- HEAD of a chain as one number. -/
def State.headOf (s : State) (n : Nat) : BitVec 256 :=
  let o := chainOff n + 0x40
  BitVec.ofNat 256 (leNat ((List.range 4).flatMap (fun i => leBytes 8 (s.reg (o + 8 * i)).toNat)))

/-- Replaces HEAD. -/
def State.setHead (s : State) (n : Nat) (h : BitVec 256) : State :=
  (List.range 4).foldl (fun t i => t.setReg (chainOff n + 0x40 + 8 * i) (BitVec.ofNat 64 (h.toNat / 2 ^ (64 * i)))) s

/-- Chains a launch root (R317, R322). -/
def State.chainAppend (s : State) (n : Nat) (root desc : BitVec 256) : State :=
  let h := sha3V (0x03 :: (hashBytes (s.headOf n) ++ hashBytes root ++ hashBytes desc))
  let o := chainOff n
  ((s.setHead n h).setReg (o + 0x30) (s.reg (o + 0x30) + 1)).setReg (o + 0x38) s.tb

/-- The chain bound to a root RCB (R321). -/
def State.chainOf (s : State) (root : Nat) : Option Nat :=
  (List.range 64).find? (fun n => root ≠ 0 && (s.reg (chainOff n)).toNat == root)

/-- The chain value (R331). -/
def State.chainValue (s : State) (n : Nat) : List Byte :=
  let o := chainOff n
  leBytes 8 Config.serial.toNat ++ leBytes 4 n ++ leBytes 4 0 ++ leBytes 8 (s.reg (o + 0x30)).toNat ++ leBytes 8 (s.reg (o + 0x38)).toNat
    ++ hashBytes (s.headOf n)

/-- The bytes of an opaque signature. -/
def sigBytes (n : Nat) (f : Nat → Byte) : List Byte := (List.range n).map f

/-- The signature block of a chain (R331): the value, both signatures, and zeros to 36,160 bytes. -/
def State.sigBlock (s : State) (n : Nat) : List Byte :=
  let v := s.chainValue n
  let m := ascii "LK3-CHAIN" ++ v
  v ++ sigBytes 384 (Config.rsaSign s.cdi1 m) ++ sigBytes 35664 (Config.slhSign s.cdi1 m) ++ List.replicate 48 0

end Sys2Proof.Machine
end

