-- ==== Sys2Proof/Machine/SysOps.lean ====
section
/-! DEFINITION. Start-up, fencing and cooling (R25, R26, R380 to R397), and operations on several contexts. -/

namespace Sys2Proof.Machine

/-- Changes every context that holds a place on a core. -/
def State.mapCtx (s : State) (f : Ctx → Ctx) : State := { s with ctx := f s.ctx, parked := s.parked.map f }

/-- Changes every context of a gang, the saved ones included. -/
def State.mapGang (s : State) (g : Nat) (f : Ctx → Ctx) : State :=
  let h (c : Ctx) : Ctx := if c.live && c.gang == g then f c else c
  { s with ctx := h s.ctx, parked := s.parked.map h, saved := s.saved.map h }

/-- Changes the context of a core and context number. -/
def State.updCtx (s : State) (core cid : Nat) (f : Ctx → Ctx) : State :=
  s.mapCtx (fun c => if c.live && c.core == core && c.cid == cid then f c else c)

/-- The live contexts. -/
def State.live (s : State) : List Ctx := s.ctxs.filter (fun c => c.live)

/-- The context of a core and context number. -/
def State.ctxAt (s : State) (core cid : Nat) : Option Ctx := s.live.find? (fun c => c.core == core && c.cid == cid)

/-- The contexts of a gang on their cores, in rank order. -/
def State.members (s : State) (g : Nat) : List Ctx :=
  (List.range 16).filterMap (fun r => s.live.find? (fun c => c.gang == g && c.rank == r))

/-- A gang by its number. -/
def State.gang? (s : State) (g : Nat) : Option Gang := s.gangs.find? (fun x => x.id == g)

/-- Replaces the gang of the same number. -/
def State.setGang (s : State) (g : Gang) : State := { s with gangs := s.gangs.map (fun x => if x.id = g.id then g else x) }

/-! What a core has free (R38, R160). -/

/-- The contexts on a core, and those that pre-emption took from it and that still have tiles or window bytes there. -/
def State.liveOn (s : State) (n : Nat) : List Ctx := s.live.filter (fun c => c.core == n)
def State.left (s : State) (n : Nat) : List Ctx := s.saved.filter (fun c => c.live && c.core == n)

/-- Physical tiles in ZOWN. -/
def Ctx.owned (c : Ctx) : List Nat := (List.range 16).filter (fun i => c.zown.getLsbD i)

/-- The tiles of a saved context that are still in place. -/
def Ctx.stays (c : Ctx) : List Nat := c.owned.filter (fun t => !c.keptZ.any (fun k => k.1 == t))

/-- A window as base and size in KiB, and whether a saved context's is still in place. -/
def winPair (w : Word) : Nat × Nat := (wfld w 0 11, wfld w 16 11)
def Ctx.winHere (c : Ctx) (b : Nat) : Bool := !c.keptW.contains b

/-! Zones (R292, R392 to R397). -/

/-- Fields of word 1 of a zone: STATE, SET, CEIL, FLOOR and STEP (Table 31.6). -/
def State.zone (s : State) (n : Nat) : Word := s.reg (zoneOff n)
def zState (w : Word) : Nat := wfld w 24 8
def zSet (w : Word) : Nat := wfld w 16 8
def zCeil (w : Word) : Nat := wfld w 8 8
def zFloor (w : Word) : Nat := wfld w 0 8
def zStep (w : Word) : Nat := wfld w 32 8

/-- The zone of a core (R292). -/
def zoneOfCore (n : Nat) : Nat := 4 * (n / 16) + n % 16 / 4

/-- Changes STATE, STEP and SET of a zone. -/
def State.setZone (s : State) (n st step set : Nat) : State :=
  let w := s.zone n
  s.setReg (zoneOff n) (zoneWord step st set (zCeil w) (zFloor w))

/-- The sum of SET over the other zones of an owner. -/
def State.ownedSet (s : State) (owner : Word) (n : Nat) : Nat :=
  ((List.range 120).map (fun m => if m ≠ n ∧ s.reg (zoneOff m - 8) = owner then zSet (s.zone m) else 0)).foldl Nat.add 0

/-- The value SET takes (R393): clamped to FLOOR to CEIL, then lowered to the owner's effective COOL. -/
def State.clampSet (s : State) (n v floor ceil : Nat) : Nat :=
  let x := min (max v floor) ceil
  let owner := s.reg (zoneOff n - 8)
  if owner = 0 then x
  else match s.chain owner.toNat with
    | none => x
    | some ch => min x (effR 3 Rcb.cool ch - s.ownedSet owner n)

/-- A write to a word of the coolant allocation table (R393): word 0 is OWNER; a zone that is not WET discards the write. -/
def State.zoneWrite (s : State) (o : Nat) (v : Word) : State :=
  let n := (o - 0x610000) / 16
  let w := s.zone n
  if zState w ≠ 0 then s
  else if o % 16 = 0 then s.setReg o v
  else
    let ceil := wfld v 8 8
    let floor := if wfld v 0 8 ≤ ceil then wfld v 0 8 else min (zFloor w) 255
    s.setReg o (zoneWord (zStep w) 0 (s.clampSet n (wfld v 16 8) floor ceil) ceil floor)

/-- Sends a record of kind 8 for a fenced unit. -/
def State.fenceRec (s : State) (uclass inst die : Nat) : State := s.sendRec { kind := 8, uclass := uclass, inst := inst, die := die } none

/-- Fences a core (R25), with a record that names the unit of `r` behind it; a core fenced already stays so without a record. -/
def State.fenceCoreFor (s : State) (n : Nat) (r : ErrRec) : State :=
  if s.coreFenced n then s
  else (s.setBit (0x20 + 8 * (n / 64)) (n % 64) true).sendRec (({ r with kind := 8 } : ErrRec).atCore n) none

/-- Fences a core of which no unit is named. -/
def State.fenceCore (s : State) (n : Nat) : State := s.fenceCoreFor n { kind := 8 }

/-- Fences a stack during a run: its lines read as poison from then on (R26), and its ready bit clears as that of a Brim port that goes
down does (DESIGN CHOICE, log 111). -/
def State.fenceStack (s : State) (k : Nat) : State :=
  if (s.reg 0x60).getLsbD k then s else ((s.setBit 0x60 k true).setBit 0x600010 k false).fenceRec 8 k (k / 4)

/-- Takes a Brim port down and fences it (R25, R389). -/
def State.portDown (s : State) (p : Nat) : State :=
  if (s.reg 0x58).getLsbD p then s else ((s.setBit 0x58 p true).setBit 0x600010 (24 + p) false).fenceRec 9 p (4 + p / 12)

/-- Fences a referee (R25). -/
def State.fenceReferee (s : State) (i : Nat) : State :=
  if (s.reg 0x50).getLsbD (56 + i) then s else (s.setBit 0x50 (56 + i) true).fenceRec 14 i (4 + i)

/-- Fences a tree engine (R25). -/
def State.fenceTree (s : State) (d e : Nat) : State :=
  if (s.reg 0x50).getLsbD (12 * d + e) then s else (s.setBit 0x50 (12 * d + e) true).fenceRec 12 e d

/-- Fences a Milliner core (R25). -/
def State.fenceMilliner (s : State) (m : Nat) : State :=
  if (s.reg 0x50).getLsbD (48 + m) then s else (s.setBit 0x50 (48 + m) true).fenceRec 13 m (4 + m / 4)

/-- Changes a Milliner core. -/
def State.updMilli (s : State) (m : Nat) (f : Milli → Milli) : State :=
  { s with millis := (List.range 8).map (fun i => let x := s.millis.getD i {}; if i = m then f x else x) }

/-- Fences the units that a zone serves (R395); zones 115 and 119 serve no unit that can be fenced. -/
def State.fenceZone (s : State) (n : Nat) : State :=
  if n < 96 then (List.range 4).foldl (fun t i => t.fenceCore (n / 4 * 16 + n % 4 * 4 + i)) s
  else if n < 112 then s.fenceStack (n - 96)
  else
    let i := (n - 112) / 4
    match (n - 112) % 4 with
    | 0 => (List.range 4).foldl (fun t m => (t.fenceMilliner (4 * i + m)).updMilli (4 * i + m) (fun x => { x with stopped := true })) s
    | 1 => (List.range 12).foldl (fun t p => t.portDown (12 * i + p)) s
    | 2 => s.fenceReferee i
    | _ => s

/-- Whether a gang with a member in the zone runs, or stands there pre-empted without a drain. -/
def State.zoneBusy (s : State) (n : Nat) : Bool :=
  n < 96 && (s.live.any (fun c => zoneOfCore c.core == n)
    || s.gangs.any (fun g => g.saved && !g.drained && g.cores.any (fun k => zoneOfCore k == n)))

/-- A store to EVAC (R395): step 1 stops placement in the zone. -/
def State.evacStart (s : State) (v : Word) : State :=
  let n := v.toNat
  let active := ((List.range 120).filter (fun m => zState (s.zone m) == 1)).length
  if 120 ≤ n ∨ n = 115 ∨ n = 119 ∨ zState (s.zone n) ≠ 0 ∨ 8 ≤ active ∨ (96 ≤ n ∧ s.sysstate ≠ 2) then s
  else s.setZone n 1 1 (zSet (s.zone n))

/-- The steps that end by themselves (R395): 1, the fabric cycle after which the gangs of the zone are drained, and 3, the stop of the zone's
clocks, after which the inlet closes. A drain that is over ends step 2. -/
def State.evacDrained (s : State) (n : Nat) : State :=
  if zState (s.zone n) ≠ 1 then s
  else match zStep (s.zone n) with
    | 1 => s.setZone n 1 2 (zSet (s.zone n))
    | 2 => if s.zoneBusy n then s else s.setZone n 1 3 (zSet (s.zone n))
    | 3 => s.setZone n 1 4 0
    | 5 => s.setZone n 1 6 0
    | _ => s

/-- The inlet is closed: the purge of step 5 opens, and step 6 then holds until the sensor reads dry. -/
def State.evacClosed (s : State) (n : Nat) : State :=
  if zState (s.zone n) = 1 ∧ zStep (s.zone n) = 4 then s.setZone n 1 5 0 else s

/-- Step 7: the zone is DRY and the units it serves are fenced. -/
def State.evacDry (s : State) (n : Nat) : State :=
  if zState (s.zone n) = 1 ∧ zStep (s.zone n) = 6 then (s.setZone n 2 7 0).fenceZone n else s

/-- The die of a valve zone (R392): zones 0 to 95 serve the cores, 96 to 111 the stacks, the others the I/O dies. -/
def zoneDie (n : Nat) : Nat := if n < 96 then n / 24 else if n < 112 then (n - 96) / 4 else 4 + (n - 112) / 4

/-- A zone record of kind 13 (R394 to R397). -/
def State.zoneRec (s : State) (n kind : Nat) : State := s.sendRec { kind := 13, uclass := 16, inst := n, die := zoneDie n, synd := kind } none

/-- The hold of step 6 has not ended in 600 s. -/
def State.evacLate (s : State) (n : Nat) : State :=
  if zState (s.zone n) = 1 ∧ zStep (s.zone n) = 6 then (s.setZone n 4 6 0).zoneRec n 1 else s

/-- A store to REFILL (R396). -/
def State.refillStart (s : State) (v : Word) : State :=
  let n := v.toNat
  if 120 ≤ n ∨ ¬(zState (s.zone n) = 2 ∨ zState (s.zone n) = 4) then s else s.setZone n 3 1 0

/-- The refill's hold has ended: WET with SET equal to FLOOR. -/
def State.refillDone (s : State) (n : Nat) : State :=
  if zState (s.zone n) = 3 then s.setZone n 0 0 (zFloor (s.zone n)) else s

/-- The refill's hold has not ended at 900 s: the inlet closes. -/
def State.refillLate (s : State) (n : Nat) : State := if zState (s.zone n) = 3 then s.setZone n 4 0 0 else s

/-! Start-up (R380 to R388, R397). -/

/-- FEATLOCK (R380): fixes FEATACC, takes measurement 0x07 and moves SYSSTATE from HOLD to RUN. -/
def State.featLock (s : State) (v : Word) : State :=
  if v = 1 ∧ s.sysstate = 2 ∧ s.reg 0x600140 = 0 then
    ((s.setReg 0x600140 1).setReg 0x600000 3).takeMeasure 7
      (Config.sha384 ((List.range 4).flatMap (fun i => leBytes 8 (s.reg (0x600120 + 8 * i)).toNat)))
  else s

/-- A request for a warm start (R384): refused outside HOLD and RUN (log 23), while an admitted launch has not completed, a dump runs or a zone
is not WET. When it is accepted the Milliners stop and the ready bits are cleared (R383). -/
def State.warmRequest (s : State) : State :=
  if (s.sysstate == 2 || s.sysstate == 3) && s.launches.isEmpty && s.dump.isNone && (List.range 120).all (fun n => zState (s.zone n) == 0) then
    let t : State := { s with wasReady := (s.reg 0x600010, s.reg 0x600018), millis := s.millis.map (fun m => { m with loaded := false, missed := 0 }) }
    (((t.setReg 0x600010 0).setReg 0x600018 0).setReg 0x600008 0x100).setReg 0x600000 5
  else s.setReg 0x600008 0x200

/-- The binding table stands at BINDT once device memory can hold it (R282, R385). -/
def State.publishBinding (s : State) : State :=
  if s.devSize = 0 then s else s.devPut Config.bindt.toNat ((List.range 4096).flatMap (fun q => leBytes 4 (s.binding q)))

/-- Whether a warm start verifies an image again (R384): one of the firmware images of Table 31.4 whose digest is not its current
measurement. -/
def State.differs (s : State) (x : Nat × BitVec 384 × Bool) : Bool := 2 ≤ x.1 && x.1 ≤ 5 && x.2.1 != s.measurement x.1

/-- An image that a warm start has verified (R384, R386, R388): its measurement is replaced, or its units are fenced and so never ready. -/
def State.reverified (s : State) (x : Nat × BitVec 384 × Bool) : State :=
  if x.2.2 then s.takeMeasure x.1 x.2.1
  else match x.1 with
    | 3 => (List.range 8).foldl (fun t m => t.fenceMilliner m) s
    | 4 => (List.range 2).foldl State.fenceReferee s
    | 5 => (List.range 24).foldl State.portDown s
    | _ => s

/-- READY0 after a warm start: the bits that it found or that were set meanwhile, but for those of units fenced since, and MILR of the
Milliners loaded again (R384). -/
def State.readyAgain (s : State) : Word :=
  let out (lo n : Nat) (w : Word) (fb : Nat) : Nat :=
    bitsOf n (fun i => w.getLsbD (lo + i) && !(s.reg fb).getLsbD (if fb = 0x50 then 48 + i else i)) * 2 ^ lo
  let mil := bitsOf 8 (fun m => !(s.reg 0x50).getLsbD (48 + m)) * 2 ^ 16
  let w := s.reg 0x600010 ||| s.wasReady.1
  BitVec.ofNat 64 (out 0 16 w 0x60 + mil + out 24 24 w 0x58)

/-- An accepted warm start (R384, R388): the images that differ are verified, and a management firmware that fails leaves the device in RECOVERY
(R386). Otherwise the Milliners are reloaded, with their binding table, and HOLD is entered with FEATACC, FEATLOCK and VF Enable zero,
measurement 0x06 taken afresh, and the ready bits set again that no step cleared. -/
def State.warmFinish (s : State) (images : List (Nat × BitVec 384 × Bool)) : State :=
  let changed := images.filter s.differs
  let s1 := (List.range 4).foldl (fun t i => t.setReg (0x600120 + 8 * i) 0) (s.setReg 0x600140 0)
  let s2 := changed.foldl State.reverified { s1 with vfOn := false }
  if changed.any (fun x => x.1 == 2 && !x.2.2) then s2.setReg 0x600000 4
  else
    let s3 := (List.range 8).foldl (fun t m => t.updMilli m (fun x => { x with loaded := !(s2.reg 0x50).getLsbD (48 + m) })) s2
    let s4 := (s3.setReg 0x600010 s3.readyAgain).setReg 0x600018 (s3.reg 0x600018 ||| s.wasReady.2)
    let s5 := if changed.any (fun x => x.1 == 3 && x.2.2) then s4.publishBinding else s4
    (s5.takeMeasure 6 (Config.sha384 s5.fenceBytes)).setReg 0x600000 2

/-- The state of zone n that its sensors show at a cold start (R397). -/
def State.coldZone (s : State) (n : Nat) : State :=
  match Config.zoneSensor s.free n with
  | 0 => s
  | 1 => (s.setZone n 2 0 0).fenceZone n |>.zoneRec n 1
  | _ => (s.setZone n 4 0 0).fenceZone n

/-- A cold start up to HOLD (R381, R382, R386, R397): every register at its value after a cold start, TB zero, device memory zero-filled and
not yet usable, no launch and no context. Host and peer memory are not the device's, and the images are those of the last start,
or the recovery image where the host has written one. A management firmware that does not verify, or a zone 115 or 119 that is not wet,
leaves the device in RECOVERY with no feature bit published, since HOLD is not entered; a referee that fails its start-up test is fenced. -/
def State.coldStart (s : State) : State :=
  let s0 : State := { State.reset with host := s.host, peer := s.peer, inputs := s.inputs, free := s.free + 1
                                       measure := s.measure.filter (fun x => x.1 < 6) }
  let s1 := (List.range 120).foldl (fun t n => t.coldZone n) s0
  let s2 := (List.range 2).foldl (fun t i => if Config.refereePasses s.free i then t else t.fenceReferee i) s1
  let img := s.recov.flatMap (fun x => leBytes 8 x.2.toNat)
  let s3 := (if img.isEmpty then s2 else s2.takeMeasure 2 (Config.sha384 img)).takeMeasure 6 (Config.sha384 s2.fenceBytes)
  if Config.firmwareOk s.free ∧ zState (s3.zone 115) = 0 ∧ zState (s3.zone 119) = 0 then s3 else (s3.setReg 0x600100 0).setReg 0x600000 4

/-- Once every stack is ready or fenced, device memory is usable, the address map is fixed and the binding table stands in it (R26, R382,
R385). -/
def State.publishMem (s : State) : State :=
  let f := (s.reg 0x60).toNat
  if s.devSize = 0 ∧ (List.range 16).all (fun k => f.testBit k || s.trained k) then
    { s.setReg 0x600020 (BitVec.ofNat 64 ((unfenced f).length * 2 ^ 36)) with stackMap := f }.publishBinding
  else s

end Sys2Proof.Machine
end

