-- ==== Sys2Proof/Machine/Frames.lean ====
section
/-! DEFINITION. The trap frame and the save image: their bytes and their return into a context (R298 to R303, R308, R401). -/

namespace Sys2Proof.Machine

/-- A byte string filled with zeros up to n bytes. -/
def padTo (n : Nat) (bs : List Byte) : List Byte := bs ++ List.replicate (n - bs.length) 0

/-- The 16 bytes of a delivery-queue entry and its 576-byte value (Table 21.5). -/
def Pend.head (p : Pend) : List Byte :=
  leBytes 2 (p.dest.kind * 4096 + p.dest.num) ++ leBytes 2 p.rem ++ leBytes 1 p.flags.toNat ++ leBytes 1 p.fault.isSome.toNat
    ++ List.replicate 10 0
def Pend.valBytes (p : Pend) : List Byte :=
  match p.fault with
  | none => leBytes 576 p.val.toNat
  | some f => padTo 576 (leBytes 8 f.cause ++ leBytes 8 f.addr.toNat ++ leBytes 8 f.info1.toNat ++ leBytes 8 f.srcpc.toNat
      ++ leBytes 8 f.srcstep.toNat)

/-- CTRL of the frame. -/
def Ctx.ctrl (c : Ctx) : Nat :=
  c.msel % 16 + c.vwb % 2048 * 2 ^ 16 + c.rrb % 64 * 2 ^ 32 + c.prb % 8 * 2 ^ 40 + c.regions.length % 8 * 2 ^ 48

/-- The first 0x58 bytes: the trap as it stands in the frame. -/
def trapHead (c : Ctx) (t : Trap) (origm : Nat) : List Byte :=
  leBytes 8 c.pc.toNat ++ leBytes 8 c.step.toNat ++ leBytes 1 t.cause ++ leBytes 1 t.ordn ++ leBytes 2 origm ++ leBytes 1 t.mstep
    ++ leBytes 1 t.code ++ leBytes 1 c.dq.length ++ leBytes 1 (2 * t.defer.toNat + 4 * t.after.toNat) ++ leBytes 4 t.pend
    ++ leBytes 4 0 ++ leBytes 16 0 ++ leBytes 8 t.addr.toNat ++ leBytes 8 t.info1.toNat ++ leBytes 8 t.info2.toNat
    ++ leBytes 8 t.srcpc.toNat ++ leBytes 8 t.srcstep.toNat

/-- The bytes 0x080 to 0x297: the registers. -/
def Ctx.regBytes (c : Ctx) : List Byte :=
  (List.range 32).flatMap (fun n => leBytes 8 (c.sreg n).val.toNat)
    ++ leBytes 4 (bitsOf 32 (fun n => (c.sreg n).valid)) ++ leBytes 4 (bitsOf 32 (fun n => (c.sreg n).full))
    ++ leBytes 8 (bitsOf 32 (fun n => (c.sreg n).fault.isSome))
    ++ leBytes 2 (bitsOf 16 (fun n => (c.preg n).val)) ++ leBytes 2 (bitsOf 16 (fun n => (c.preg n).valid)) ++ leBytes 4 0
    ++ leBytes 8 c.mode.toNat ++ leBytes 8 c.flags.toNat ++ leBytes 8 c.lc.toNat ++ leBytes 8 c.ctrl ++ leBytes 8 c.leafn
    ++ leBytes 8 c.rseq.toNat ++ (List.range 8).flatMap (fun n => leBytes 8 (c.kreg n).val.toNat)
    ++ leBytes 8 (bitsOf 8 (fun n => (c.kreg n).valid))
    ++ (List.range 6).flatMap (fun n => leBytes 8 (c.tls.getD n {}).issued ++ leBytes 8 (c.tls.getD n {}).done)
    ++ (List.range 4).flatMap (fun n => leBytes 8 (c.wps.getD n {}).val.toNat)
    ++ leBytes 8 (bitsOf 16 (fun n => (c.mreg n).valid))

/-- The 40 KiB of a frame or save image (Table 21.5). -/
def frameBytes (c : Ctx) (t : Trap) (origm : Nat) : List Byte :=
  padTo 0x80 (trapHead c t origm) ++ padTo 0x380 c.regBytes
    ++ (List.range 16).flatMap (fun n => leBytes 64 (c.mreg n).val.toNat)
    ++ padTo 0x800 ((c.dq.take 64).flatMap Pend.head)
    ++ padTo 0x9000 ((c.dq.take 64).flatMap Pend.valBytes)

/-- Writes 4 KiB pieces into a context's area from offset `o` on, through its space and its launch's shadows (R401); a dump copies their granules first (R366). -/
def State.writeArea (s0 : State) (c : Ctx) (o : Nat) : Nat → List Byte → Option State
  | 0, _ => some s0
  | n + 1, bs =>
    let a := c.area + BitVec.ofNat 64 o
    let s := s0.dumpVa c.ptroot a.toNat 4096
    if wfld a 48 16 ≠ 0 then none
    else match s.walk c.ptroot 0 a.toNat true false with
      | .error _ => none
      | .ok (pa, ea) =>
        let s1 := s.touch ea true
        match (if s1.shadowed c.arr then s1.takeShadow c.arr pa else some s1) with
        | none => none
        | some s2 => State.writeArea (s2.devWrite c.arr pa (bs.take 4096)) c (o + 4096) n (bs.drop 4096)

/-- Writes a trap frame at AREA, or a save image 40 KiB above it. -/
def State.writeFrame (s : State) (c : Ctx) (image : Bool) (t : Trap) (origm : Nat) : Option State :=
  s.writeArea c (if image then 40960 else 0) 10 (frameBytes c t origm)

/-- The device address of offset `o` of a context's area, for writing; none where it does not translate. -/
def State.areaAddr (s : State) (c : Ctx) (o : Nat) : Option Nat :=
  match s.walk c.ptroot 0 (c.area + BitVec.ofNat 64 o).toNat true false with
  | .error _ => none
  | .ok (pa, _) => some pa

/-- Sets or clears bit n of a field of a context's save image. -/
def State.imageBit (s : State) (c : Ctx) (o n : Nat) (v : Bool) : State :=
  match s.areaAddr c (40960 + o + n / 8) with
  | none => s
  | some pa =>
    let b := s.devByte c.arr pa
    let m : Byte := BitVec.ofNat 8 (2 ^ (n % 8))
    s.devWrite c.arr pa [if v then b ||| m else b &&& ~~~m]

/-- A reply lands at scalar n of the save image at a context's area too (R308): the register's value, its valid and full bits and its fault
bit. -/
def State.imageReply (s0 : State) (c : Ctx) (n : Nat) (r : SReg) : State :=
  let s := s0.dumpVa c.ptroot (c.area + 40960).toNat 4096
  let t := match s.areaAddr c (40960 + 0x80 + 8 * n) with
    | none => s
    | some pa => s.devWrite c.arr pa (leBytes 8 r.val.toNat)
  ((t.imageBit c 0x180 n r.valid).imageBit c 0x184 n r.full).imageBit c 0x188 n r.fault.isSome

/-- ORs flags into a byte at offset `o` of a context's save image. -/
def State.imageOr (s : State) (c : Ctx) (o flags : Nat) : State :=
  match s.areaAddr c (40960 + o) with
  | none => s
  | some pa => s.devWrite c.arr pa [s.devByte c.arr pa ||| BitVec.ofNat 8 (flags % 64)]

/-- The 64-byte lines of a frame that none of the fields which rft reads lies in: 0x040 to 0x07F, and TL and WP from 0x240 to 0x27F
(R303). -/
def lineUnread (k : Nat) : Bool := k == 0x40 || k == 0x240

/-- Reads 4 KiB pieces of a context's area from offset `o` on, `k` of the frame: the state with the walker's marks, and the bytes. -/
def State.readArea (s : State) (c : Ctx) (o k : Nat) : Nat → Except Flt (State × List Byte)
  | 0 => .ok (s, [])
  | n + 1 =>
    let a := c.area + BitVec.ofNat 64 (o + k)
    if wfld a 48 16 ≠ 0 then .error (aflt 1)
    else match s.walk c.ptroot 0 a.toNat false false with
      | .error f => .error f
      | .ok (pa, ea) =>
        let t := s.touch ea false
        if (List.range 64).any (fun i => !lineUnread (k + 64 * i) && t.devBad c.arr (pa + 64 * i)) then .error { cause := 0x0F }
        else match State.readArea t c o (k + 4096) n with
          | .error f => .error f
          | .ok (u, r) => .ok (u, (List.range 4096).map (fun i => t.devByte c.arr (pa + i)) ++ r)

/-- A number in a byte string. -/
def numAt (bs : List Byte) (o n : Nat) : Nat := leNat ((bs.drop o).take n)

/-- A delivery-queue entry from the frame (R303); what the bytes do not hold comes from the entry as it was saved. -/
def pendAt (bs : List Byte) (kept : List Pend) (i : Nat) : Pend :=
  let h := 0x800 + 16 * i
  let v := 0x1000 + 576 * i
  let d := numAt bs h 2
  let k : Option Pend := kept[i]?
  let f : Option DFault :=
    if numAt bs (h + 5) 1 % 2 = 1 then
      some ⟨numAt bs v 1, BitVec.ofNat 64 (numAt bs (v + 8) 8), BitVec.ofNat 64 (numAt bs (v + 16) 8), 0,
        BitVec.ofNat 64 (numAt bs (v + 24) 8), BitVec.ofNat 64 (numAt bs (v + 32) 8)⟩
    else none
  { dest := ⟨d / 4096, d % 4096⟩, val := BitVec.ofNat 4608 (numAt bs v 576),
    msk := (k.map Pend.msk).getD allRow, rem := numAt bs (h + 2) 2, flags := BitVec.ofNat 8 (numAt bs (h + 4) 1),
    ftrap := (k.map Pend.ftrap).getD 0, fault := f, arrived := true, srcpc := (k.map Pend.srcpc).getD 0,
    srcstep := (k.map Pend.srcstep).getD 0, pool := k.bind Pend.pool }

/-- A scalar as a frame restores it (R303): one whose full bit is clear there keeps its live value and state. -/
def scalarAt (c : Ctx) (kept : Tab DFault) (bs : List Byte) (n : Nat) : SReg :=
  if (numAt bs 0x184 4).testBit n then
    { val := BitVec.ofNat 64 (numAt bs (0x80 + 8 * n) 8), valid := (numAt bs 0x180 4).testBit n, full := true,
      fault := if (numAt bs 0x188 4).testBit n then tabFind kept n else none }
  else c.sreg n

/-- The context as a frame's bytes restore it, with the checks of R303; `kf` and `kq` are what its bytes do not hold. -/
def restoreFrame (c : Ctx) (kf : Tab DFault) (kq : List Pend) (bs : List Byte) (word : Nat) : Except Trap Ctx :=
  let pc : Word := BitVec.ofNat 64 (numAt bs 0 8)
  let mode : Word := BitVec.ofNat 64 (numAt bs 0x198 8)
  let ctrl := numAt bs 0x1B0 8
  let vwb := ctrl / 2 ^ 16 % 2048
  let rrb := ctrl / 2 ^ 32 % 64
  let pv := numAt bs 0x190 8
  if wfld pc 0 2 ≠ 0 then .error { cause := 0x09, addr := pc }
  else if !modeOk mode then .error { cause := 0x03, info1 := BitVec.ofNat 64 word }
  else if 47 < rrb then .error (opTrap (BitVec.ofNat 64 rrb))
  else if !windowOk c.zown vwb then .error { cause := 0x0A, addr := BitVec.ofNat 64 vwb }
  else
    let c1 := (List.range 32).foldl (fun x n => x.setS n (scalarAt c kf bs n)) c
    let c2 := (List.range 16).foldl (fun x n => x.setP n ⟨pv.testBit n, pv.testBit (16 + n)⟩) c1
    let c3 := (List.range 16).foldl (fun x n => x.setM n ⟨BitVec.ofNat 512 (numAt bs (0x400 + 64 * n) 64), (numAt bs 0x290 8).testBit n⟩) c2
    let c4 := (List.range 8).foldl (fun x n => x.setK n ⟨BitVec.ofNat 64 (numAt bs (0x1C8 + 8 * n) 8), (numAt bs 0x208 8).testBit n⟩) c3
    .ok { c4 with
      pc := pc, step := BitVec.ofNat 64 (numAt bs 8 8), mode := mode, flags := BitVec.ofNat 64 (numAt bs 0x1A0 8) &&& 0x3F,
      lc := BitVec.ofNat 64 (numAt bs 0x1A8 8), msel := ctrl % 16, vwb := vwb, rrb := rrb, prb := ctrl / 2 ^ 40 % 8,
      leafn := numAt bs 0x1B8 8, rseq := BitVec.ofNat 16 (numAt bs 0x1C0 2),
      dq := (List.range (min 64 (numAt bs 0x16 1))).map (pendAt bs kq) }

/-- The scalar faults of a context, which a frame's bytes hold only as bits. -/
def Ctx.faults (c : Ctx) : Tab DFault := (List.range 32).filterMap (fun n => (c.sreg n).fault.map (fun f => (n, f)))

/-- What a context keeps beside its frame, and beside a save image (R303, R307). -/
def Ctx.keep (c : Ctx) : Ctx := { c with keptF := c.faults, keptQ := c.dq }
def Ctx.keepImage (c : Ctx) : Ctx := { c with imgF := c.faults, imgQ := c.dq }

/-- The faults beside a save image after a reply has landed in it. -/
def Ctx.keepFault (c : Ctx) : Ctx := { c with imgF := c.faults }

end Sys2Proof.Machine
end

