-- ==== Sys2Proof/Machine/Fuse.lean ====
section
/-! DEFINITION. The fused task (R337, R338, R340 to R343, R346): which origin's bundle comes next, when port copies pair, and its frame.
An origin is a context of its own, so that the state of Table 25.3 is held once for each; the two share a core and take turns as the
fused code would issue their bundles (log 46). -/

namespace Sys2Proof.Machine

/-- The other origin of a context of a fused task, on the same rank. -/
def State.mateOf (s : State) (c : Ctx) : Option Ctx :=
  match s.gang? c.gang with
  | none => none
  | some g => if g.mate = 0 then none else (s.ctxs ++ s.saved).find? (fun x => x.live && x.gang == g.mate && x.rank == c.rank)

/-- The part of a context's launch in its fused pair; none for a task that runs alone. -/
def State.fuseOf (s : State) (c : Ctx) : Option Fuse :=
  match s.mateOf c with
  | none => none
  | some _ => (s.launch? c.arr).bind Launch.fuse

/-! Fields of a SPLICE descriptor (Table 25.1). -/
def snLtop (d : List Byte) : Nat := numAt d 8 4
def snLend (d : List Byte) : Nat := numAt d 0x0C 4
def snCopy (d : List Byte) : Nat := numAt d 0x10 4
def snSync (d : List Byte) : Nat := numAt d 0x14 4
def snKind (d : List Byte) : Nat := numAt d 0x18 1
def snPath (d : List Byte) : Nat := numAt d 0x19 1
def snOff (d : List Byte) : Nat := numAt d 0x1C 4
def snLen (d : List Byte) : Nat := numAt d 0x20 4
def snTrip (d : List Byte) : Nat := numAt d 0x24 4

/-- The offset of a context's bundle in `.text`. -/
def Ctx.offset (c : Ctx) : Nat := (c.pc - c.text).toNat

/-- The position of a context's bundle in the fused loop (R340). -/
def Fuse.pos (f : Fuse) (c : Ctx) : Nat :=
  let i := (f.body.takeWhile (fun o => o != c.offset)).length
  if f.origin = 2 ∧ f.sync ≤ i then i + f.shift else i

/-- Whether it is a fused context's turn (R338, R340): P to its loop, C to its loop, the loop position by position with P first, P
after its loop up to its end, then C. -/
def fuseTurn (f fm : Fuse) (c m : Ctx) : Bool :=
  let gone : Bool := match m.stat with
    | .ended => true
    | _ => false
  if f.origin = 1 then
    if gone then true
    else if c.fz.part = 0 then true
    else if c.fz.part = 1 then
      if m.fz.part = 0 then m.stat == .exited
      else if m.fz.part = 1 then c.fz.iter < m.fz.iter || (c.fz.iter == m.fz.iter && f.pos c ≤ fm.pos m)
      else true
    else m.fz.part == 2 || m.stat == .exited
  else
    if gone then true
    else if m.stat = .exited then false
    else if m.fz.part = 0 then false
    else if c.fz.part = 0 then true
    else if c.fz.part = 1 then
      if m.fz.part = 1 then c.fz.iter < m.fz.iter || (c.fz.iter == m.fz.iter && f.pos c < fm.pos m)
      else true
    else false

/-- Whether a context may issue as far as its fused task is concerned. -/
def State.turnOf (s : State) (c : Ctx) : Bool :=
  match s.mateOf c with
  | none => true
  | some m => match s.fuseOf c, s.fuseOf m with
    | some f, some fm => fuseTurn f fm c m
    | _, _ => true

/-- The other origin, if its bundle stands at the same position of the same iteration and forms one fused bundle with this one. -/
def State.joinedWith (s : State) (c : Ctx) : Option Ctx :=
  match s.mateOf c with
  | none => none
  | some m => match s.fuseOf c, s.fuseOf m with
    | some f, some fm =>
      if f.origin = 1 ∧ c.fz.part = 1 ∧ m.fz.part = 1 ∧ c.fz.iter = m.fz.iter ∧ f.pos c = fm.pos m ∧ f.joined.contains (f.pos c)
          ∧ m.stat = .run then some m else none
    | _, _ => none

/-- How far a context has come after a bundle: `o` is the offset of that bundle, and `fall` whether it took no exit, as where the test of its
closing loop does not hold (R142, R341). -/
def Ctx.fzStep (c : Ctx) (f : Fuse) (o : Nat) (fall : Bool) : Ctx :=
  if c.fz.part = 0 then (if c.offset = snLtop f.note then { c with fz := { c.fz with part := 1 } } else c)
  else if c.fz.part = 1 ∧ o = snLend f.note then
    (if fall then { c with fz := { c.fz with part := 2 } } else { c with fz := { c.fz with iter := c.fz.iter + 1 } })
  else c

/-- Whether the closing test of a bundle at offset `o` disagrees with the other origin's of the same iteration (R341). -/
def closeClash (f : Fuse) (c m : Ctx) (o : Nat) (fall : Bool) : Bool :=
  c.fz.part == 1 && o == snLend f.note && (if fall then m.fz.iter == c.fz.iter + 1 else m.fz.part == 2 && m.fz.iter == c.fz.iter)

/-! Port copies (R343). -/

/-- The iteration whose port copy a bundle of a fused context holds. -/
def State.portOf (s : State) (c : Ctx) : Option Nat :=
  match s.fuseOf c with
  | some f => if c.fz.part = 1 ∧ c.offset = snCopy f.note then some c.fz.iter else none
  | none => none

/-- Whether row j of a copy lies in a port region: its address at `a`, its stride and its length. -/
def rowsIn (d : List Byte) (n : List Byte) (a stride : Int) : Bool :=
  let lo : Int := snPath n * 2 ^ 56 + snOff n
  let len := numAt d 0x10 4
  (List.range (numAt d 0x14 4)).all (fun j => decide (lo ≤ a + j * stride) && decide (a + j * stride + len ≤ lo + snLen n))

/-- Whether the descriptors of P's and C's port copies pair exactly. -/
def portsPair (p c pn cn : List Byte) : Bool :=
  let sg (d : List Byte) (o : Nat) : Int := (BitVec.ofNat 64 (numAt d o 8)).toInt
  numAt p 0 8 == snPath pn * 2 ^ 56 + snOff pn && numAt c 8 8 == snPath cn * 2 ^ 56 + snOff cn
    && numAt p 0x10 8 == numAt c 0x10 8 && numAt p 0x18 8 == numAt c 0x20 8 && numAt p 0x20 8 == numAt c 0x18 8
    && numAt p 8 8 == numAt c 0 8 && rowsIn p pn (numAt p 0 8) (sg p 0x18) && rowsIn c cn (numAt c 8 8) (sg c 0x20)

/-- A port copy of iteration i comes with its descriptor: the state that remembers it, or C's descriptor where it does not pair with the
other origin's of that iteration. -/
def State.portIssue (s : State) (i : Nat) (d : List Byte) : Except (List Byte) State :=
  match s.mateOf s.ctx, s.fuseOf s.ctx with
  | some m, some f =>
    match m.fz.descs.find? (fun x => x.1 == i) with
    | none => .ok { s with ctx := { s.ctx with fz := { s.ctx.fz with descs := s.ctx.fz.descs ++ [(i, d)] } } }
    | some x =>
      let ok := if f.origin = 1 then portsPair d x.2 f.note f.other else portsPair x.2 d f.other f.note
      if ok then .ok (s.updCtx m.core m.cid (fun y => { y with fz := { y.fz with descs := y.fz.descs.filter (fun z => z.1 != i) } }))
      else .error (if f.origin = 1 then x.2 else d)
  | _, _ => .ok s

/-- Whether a port copy is elided: C's always, and P's unless its descriptor has PERSIST set. -/
def Fuse.elides (f : Fuse) (d : List Byte) : Bool := f.origin == 2 || numAt d 0x28 1 % 2 == 0

/-- Rows, as address and length, from row lo of a copy on: of its source, or of its destination. -/
def copyRows (d : List Byte) (dst : Bool) (lo : Nat) : List (Word × Nat) :=
  let o := if dst then 8 else 0
  let st : Word := BitVec.ofNat 64 (numAt d (if dst then 0x20 else 0x18) 8)
  ((List.range (numAt d 0x14 4)).drop lo).map (fun j => (BitVec.ofNat 64 (numAt d o 8) + BitVec.ofNat 64 j * st, numAt d 0x10 4))

/-- The bytes of an element of a collective's format code. -/
def collSize (f : Nat) : Nat := match f with
  | 0 => 4
  | 3 => 4
  | 4 => 1
  | _ => 2

/-- What an engine operation has still to read: the rows of a copy that are not delivered, a collective's source, and for C's port copy the
bytes of its destination, which its leaf digests (R342 to R344). An xplane's block was taken at issue (R252). -/
def EngOp.reads (e : EngOp) (isC : Bool) : List (Word × Nat) :=
  let d := e.desc
  if e.tl < 4 then copyRows d (e.port.isSome && isC) (if e.port.isSome && isC then 0 else e.delivered / max 1 (numAt d 0x10 4))
  else if e.tl = 5 then [(BitVec.ofNat 64 (numAt d 0 8), numAt d 0x10 4 * collSize (numAt d 0x15 1))]
  else []

/-- What an engine operation writes: the rows of a copy, an xplane's tile, a collective's result. -/
def EngOp.puts (e : EngOp) : List (Word × Nat) :=
  let d := e.desc
  if e.tl < 4 then copyRows d true 0
  else if e.tl = 5 then
    let n := numAt d 0x10 4 * collSize (numAt d 0x16 1)
    [(BitVec.ofNat 64 (numAt d 8 8), if numAt d 0x14 1 = 3 then n * numAt d 0x1C 4 else n)]
  else [(e.dst, 16384)]

/-- The pieces of buffer b that n bytes at an address of a context take, in its own window or a gang member's. -/
def State.piecesOf (s : State) (c : Ctx) (b : Nat) (x : Word × Nat) : List (Nat × Nat) :=
  if selOf x.1 = 0x10 + b then c.bufSegs b (lowOf x.1) x.2
  else if selOf x.1 = 0x14 + b then
    match s.remote c x.1 with
    | some (t, o) => t.bufSegs b o x.2
    | none => []
  else []

/-- Whether pieces meet. -/
def segsMeet (xs ys : List (Nat × Nat)) : Bool := xs.any (fun x => ys.any (fun y => x.1 < y.1 + y.2 && y.1 < x.1 + x.2))

/-- Whether the writes to the port region that P's PSYNC bundle issued before P's port copy `e` have completed (R343): no X-class or engine
operation of that bundle that writes there is in flight. -/
def State.synced (s : State) (p : Ctx) (f : Fuse) (e : EngOp) : Bool :=
  let pc := p.text + BitVec.ofNat 64 (snSync f.note)
  let b := snPath f.note - 0x10
  let region := (p.bufAt b (snOff f.note), snLen f.note)
  let k := b * 2 ^ 80 + region.1
  !s.xq.any (fun x => x.gang == p.gang && x.rank == p.rank && x.pc == pc && x.step.toNat < e.step.toNat && !x.dropped
      && x.win.1 < k + region.2 && k < x.win.2)
    && !s.engs.any (fun y => y.gang == p.gang && y.rank == p.rank && y.pc == pc && y.step.toNat < e.step.toNat
      && segsMeet (y.puts.flatMap (s.piecesOf p b)) [region])

/-- Whether the port copy `e`, of iteration i, may finish: P's once its PSYNC bundle's writes have completed, C's once P's has finished, a
persisting one counting as finished from the former on. -/
def State.portReady (s : State) (c : Ctx) (e : EngOp) (i : Nat) : Bool :=
  match s.mateOf c, s.fuseOf c with
  | some m, some f =>
    if f.origin = 1 then s.synced c f e
    else i < m.fz.finished || s.engs.any (fun x => x.gang == m.gang && x.rank == m.rank && x.port == some i && numAt x.desc 0x28 1 % 2 == 1
      && (match s.fuseOf m with
        | some g => s.synced m g x
        | none => false))
  | _, _ => true

/-- Whether an earlier operation of the other origin has still to read bytes of some pieces of buffer b (R342): one of the engine operations
given, of this or another rank, or an mma64 in the pipe of any rank. A port copy of C reads what P has written up to its iteration: it holds
a write of a later one, `turn`. -/
def State.aliasHeld (s : State) (c : Ctx) (es : List EngOp) (b : Nat) (segs : List (Nat × Nat)) (turn : Nat) : Bool :=
  match s.mateOf c with
  | none => false
  | some m =>
    let isC := match s.fuseOf m with
      | some f => f.origin == 2
      | none => false
    es.any (fun e => e.gang == m.gang
        && (match e.port with
          | some i => !isC || i < turn
          | none => true)
        && (match (s.ctxs ++ s.saved).find? (fun x => x.live && x.gang == e.gang && x.rank == e.rank) with
          | some o => segsMeet ((e.reads isC).flatMap (s.piecesOf o b)) segs
          | none => false))
      || (c.fz.region.isSome || m.fz.region.isSome) && s.xq.any (fun x => x.gang == m.gang && x.m64.isSome && !x.dropped)

/-- The same for a slot or an X-class operation. -/
def State.aliasBusy (s : State) (c : Ctx) (b : Nat) (segs : List (Nat × Nat)) : Bool := s.aliasHeld c s.engs b segs c.fz.turn

/-- A context's port region lies in the window of the first origin, wherever that is (R342). -/
def State.fixRegion (s : State) (c : Ctx) : Ctx :=
  match c.fz.region, (s.launch? c.arr).bind Launch.fuse, s.mateOf c with
  | some (b, lo, n, _), some f, some p => { c with fz := { c.fz with region := some (b, lo, n, p.bufAt b (snOff f.other)) } }
  | _, _, _ => c
def State.fixRegions (s : State) : State :=
  { s with ctx := s.fixRegion s.ctx, parked := s.parked.map s.fixRegion, saved := s.saved.map s.fixRegion }

/-! The frame of a fused task (R346). -/

/-- The OR of a field of an object's USE notes. -/
def CodeObj.used (k : CodeObj) (o n : Nat) : Nat := (k.use.map (fun d => numAt d o n)).foldl Nat.lor 0

/-- The fused number of C's register n among the registers lo to hi: C's used ones take P's free ones in rising order (R339). -/
def fusedReg (p c lo hi n : Nat) : Nat :=
  let rs := (List.range (hi + 1)).filter (fun i => lo ≤ i)
  let mine := rs.filter (fun i => c.testBit i)
  let free := rs.filter (fun i => !p.testBit i)
  if mine.contains n then free.getD (mine.takeWhile (fun i => i != n)).length n else n

/-- The registers of C in a fused task, as kind (that of R299), own number and fused number: the static ones and the clip registers that it
uses, and the rotating ones where it uses any (R339). -/
def fusedMap (kp kc : CodeObj) (clips : Nat × Nat) : List (Nat × Nat × Nat) :=
  let part (k p c lo hi : Nat) : List (Nat × Nat × Nat) :=
    ((List.range (hi + 1)).filter (fun n => lo ≤ n && c.testBit n)).map (fun n => (k, n, fusedReg p c lo hi n))
  let turn (k c : Nat) : List (Nat × Nat × Nat) := if c / 2 ^ 8 % 2 ^ 8 = 0 then [] else (List.range 8).map (fun i => (k, 8 + i, 8 + i))
  part 0 (kp.used 8 8) (kc.used 8 8) 1 31 ++ part 1 (kp.used 16 2) (kc.used 16 2) 1 7 ++ part 2 (kp.used 18 2) (kc.used 18 2) 1 7
    ++ part 5 clips.1 clips.2 0 7 ++ turn 1 (kc.used 16 2) ++ turn 2 (kc.used 18 2)

/-- Copies a register of `src` into another of `dst`, both of a kind. -/
def copyReg (dst src : Ctx) (k n m : Nat) : Ctx :=
  if k = 0 then dst.setS m (src.sreg n) else if k = 1 then dst.setP m (src.preg n) else if k = 2 then dst.setM m (src.mreg n) else dst.setK m (src.kreg n)

/-- A pending result at the number that a map gives its destination. -/
def Pend.renum (q : Pend) (ms : List (Nat × Nat × Nat)) : Pend :=
  match ms.find? (fun x => x.1 == q.dest.kind && x.2.1 == q.dest.num) with
  | some x => { q with dest := ⟨q.dest.kind, x.2.2⟩ }
  | none => q

/-- Both origins' registers and pending results at their fused numbers. -/
def fusedRegs (ms : List (Nat × Nat × Nat)) (p c : Ctx) : Ctx :=
  { ms.foldl (fun x m => copyReg x c m.1 m.2.1 m.2.2) p with dq := p.dq ++ c.dq.map (fun q => q.renum ms) }

/-- C's state of Table 25.3, at offset 0x298 of the frame. -/
def Ctx.originBytes (c : Ctx) : List Byte :=
  leBytes 8 c.step.toNat ++ leBytes 8 c.leafn ++ leBytes 8 c.rseq.toNat ++ leBytes 8 c.lc.toNat ++ leBytes 8 c.ctrl ++ leBytes 8 c.mode.toNat
    ++ leBytes 8 c.flags.toNat ++ (List.range 6).flatMap (fun n => leBytes 8 (c.tls.getD n {}).issued ++ leBytes 8 (c.tls.getD n {}).done)
    ++ (List.range 4).flatMap (fun n => leBytes 8 (c.wps.getD n {}).val.toNat)

/-- The frame of a fused task whose reported slot is one of context `o`: ORIGV, the origin's object and PC, P's state and then C's. Where
the bundle lies in the Fuller's code area is the device's own: a free value. -/
def fusedFrame (free : Word) (ms : List (Nat × Nat × Nat)) (p c o : Ctx) (t : Trap) (origm : Nat) : List Byte :=
  let b := frameBytes (fusedRegs ms p c) t origm
  leBytes 8 free.toNat ++ (b.drop 8).take 0x0F ++ [b.getD 0x17 0 ||| 1] ++ (b.drop 0x18).take 8 ++ leBytes 8 o.text.toNat ++ leBytes 8 o.offset
    ++ (b.drop 0x30).take 0x268 ++ c.originBytes ++ b.drop (0x298 + c.originBytes.length)

/-- P and C of the fused task of a context, and the map of C's registers, which lasts when one of the two launches is over. -/
def State.fusedPair (s : State) (x : Ctx) : Option (Ctx × Ctx × List (Nat × Nat × Nat)) :=
  match s.mateOf x with
  | none => none
  | some m => match s.fuseOf x, s.fuseOf m with
    | some f, _ => some (if f.origin = 1 then (x, m, f.table) else (m, x, f.table))
    | none, some f => some (if f.origin = 1 then (m, x, f.table) else (x, m, f.table))
    | none, none => none

/-- The save image that holds a context: the context at whose area it stands, whether its state there is the second origin's, at offset 0x298
(R346), how many results stand before its own, and where its scalars stand. -/
structure ImagePos where
  home : Ctx
  second : Bool := false
  skip : Nat := 0
  scalars : List (Nat × Nat) := []
  deriving DecidableEq, Repr

/-- The number of a scalar in an image. -/
def ImagePos.scalar (x : ImagePos) (n : Nat) : Nat := ((x.scalars.find? (fun m => m.1 == n)).map Prod.snd).getD n

/-- Where a context's state stands: the image of a fused task is at P's area, with C's registers at their fused numbers (R346). -/
def State.imagePos (s : State) (c : Ctx) : ImagePos :=
  match s.fusedPair c with
  | some (p, k, ms) =>
    if c.gang = k.gang then { home := p, second := true, skip := p.imgQ.length, scalars := (ms.filter (fun m => m.1 == 0)).map Prod.snd } else { home := p }
  | none => { home := c }

/-- ORs flags into FLAGS of the save image that holds a context, and into what a pending mts to FLAGS there will write (R75, R308): C's
FLAGS in the image of a fused task is the one of Table 25.3, and its results stand after P's (R346). -/
def State.imageFlags (s : State) (c : Ctx) (flags : Nat) : State :=
  let x := s.imagePos c
  (List.range c.imgQ.length).foldl (fun t i =>
    if (c.imgQ[i]?).any (fun q => q.dest == ⟨4, 0x009⟩) then t.imageOr x.home (0x1000 + 576 * (x.skip + i)) flags else t)
    ((s.dumpVa x.home.ptroot (x.home.area + 40960).toNat 40960).imageOr x.home (if x.second then 0x2C8 else 0x1A0) flags)

/-- Writes the frame of a fused task for a context of either origin at its area, or the save image 40 KiB above it (R346). -/
def State.writeFused (s : State) (x : Ctx) (image : Bool) (t : Trap) (origm : Nat) : Option State :=
  match s.fusedPair x with
  | some (p, c, ms) =>
    let w := Config.freeWord s.free
    let u : State := { s with free := s.free + 1 }
    u.writeArea p (if image then 40960 else 0) 10 (fusedFrame w ms p c x t origm)
  | none => none

/-- C as a frame of the fused task restores it: the registers at their fused numbers, and the state at offset 0x298, with the checks of
R303. -/
def restoreOrigin (c : Ctx) (ms : List (Nat × Nat × Nat)) (bs : List Byte) (read : Ctx) (word : Nat) : Except Trap Ctx :=
  let q (i : Nat) : Nat := numAt bs (0x298 + 8 * i) 8
  let mode : Word := BitVec.ofNat 64 (q 5)
  let vwb := q 4 / 2 ^ 16 % 2048
  let rrb := q 4 / 2 ^ 32 % 64
  if !modeOk mode then .error { cause := 0x03, info1 := BitVec.ofNat 64 word }
  else if 47 < rrb then .error (opTrap (BitVec.ofNat 64 rrb))
  else if !windowOk c.zown vwb then .error { cause := 0x0A, addr := BitVec.ofNat 64 vwb }
  else
    let d := ms.foldl (fun x m =>
      if m.1 = 0 then
        (if (numAt bs 0x184 4).testBit m.2.2 then
          x.setS m.2.1 { read.sreg m.2.2 with fault := if (numAt bs 0x188 4).testBit m.2.2 then tabFind c.imgF m.2.1 else none } else x)
      else copyReg x read m.1 m.2.2 m.2.1) c
    .ok { d with
      step := BitVec.ofNat 64 (q 0), leafn := q 1, rseq := BitVec.ofNat 16 (q 2), lc := BitVec.ofNat 64 (q 3), msel := q 4 % 16, vwb := vwb, rrb := rrb,
      prb := q 4 / 2 ^ 40 % 8, mode := mode, flags := BitVec.ofNat 64 (q 6) &&& 0x3F }

/-- Both origins of a fused task as a frame restores them: the bundle that comes next is where each stands, since the layout of the code
area is the device's own. -/
def restoreFused (p c : Ctx) (ms : List (Nat × Nat × Nat)) (bs : List Byte) (word : Nat) : Except Trap (Ctx × Ctx) :=
  let back := ms.map (fun m => (m.1, m.2.2, m.2.1))
  let bs1 := leBytes 8 p.pc.toNat ++ bs.drop 8
  match restoreFrame p p.imgF (p.imgQ ++ c.imgQ.map (fun q => q.renum ms)) bs1 word with
  | .error e => .error e
  | .ok r => match restoreOrigin c ms bs r word with
    | .error e => .error e
    | .ok d =>
      let n := p.imgQ.length
      .ok ({ ms.foldl (fun x m => copyReg x p m.1 m.2.2 m.2.2) r with dq := r.dq.take n }, { d with dq := (r.dq.drop n).map (fun q => q.renum back) })

end Sys2Proof.Machine
end

