-- ==== Sys2Proof/Machine/Traps.lean ====
section
/-! DEFINITION. Taking a trap: arbitration (R297), the stop of a gang (R305), the containment policy (R350), delivery to the handlers
(R301), an unhandled trap, the unwinding of a region (R150, R319), the uncontained error (R352) and debug stops (R307). -/

namespace Sys2Proof.Machine

/-- Whether a context still takes part in its gang: one that has taken its exit does not (R144). -/
def Ctx.active (c : Ctx) : Bool :=
  match c.stat with
  | .exited => false
  | .ended => false
  | _ => c.live

/-- The lowest of a list of causes. -/
def leastCause : List Trap → Nat
  | [] => 0xFF
  | t :: ts => min t.cause (leastCause ts)

/-- Whether a trap comes before another of its cause in the order of R76: what X-class operations raised comes last. -/
def Trap.before (t u : Trap) : Bool :=
  if t.ofX != u.ofX then u.ofX
  else if t.vis != u.vis then t.vis.toNat < u.vis.toNat
  else t.srcstep.toNat < u.srcstep.toNat

/-- The first of a list of traps in that order, and of those raised earlier where it does not tell. -/
def firstTrap : List Trap → Option Trap
  | [] => none
  | t :: ts => match firstTrap ts with
    | none => some t
    | some u => if u.before t then some u else some t

/-- The causes that the containment policy decides (R350). -/
def policyCause (k : Nat) : Bool := k == 0x0C || k == 0x0D || k == 0x0F

/-- The lowest policy cause that a list of traps raised outside every region. -/
def outCause (ts : List Trap) : Option Nat :=
  match ts.filter (fun t => policyCause t.cause && !t.inRegion) with
  | [] => none
  | us => some (leastCause us)

/-- The traps that the policy may decide: not a deferred fault that a context consumes in its handler, which is unhandled (R302). -/
def Ctx.underPolicy (c : Ctx) (ts : List Trap) : List Trap := ts.filter (fun t => !(c.inh && t.defer))

/-- The policy cause that a rank holds outside every region with a trap, its own or one in PEND (R350). -/
def Ctx.policy (c : Ctx) (t : Trap) : Option Nat := (outCause (c.underPolicy [t])).or t.polc

/-- The trap of a boundary (R297): the lowest cause of class 1 with PEND for the others, then the oldest asynchronous trap.
Several watch matches raise one trap with the mask of all (R157); floating-point traps come in the order of their visibility steps and then
of issue, those of X-class operations after every slot result (R76); the micro-step of an mma64 stands in the frame whatever the cause
(R265, R303). -/
def Ctx.arbitrate (c : Ctx) : Option (Trap × Ctx) :=
  match c.compl with
  | [] => match c.async with
    | [] => none
    | t :: ts => some (t, { c with async := ts })
  | ts =>
    let k := leastCause ts
    match firstTrap (ts.filter (fun t => t.cause == k)) with
    | none => none
    | some t =>
      let same := ts.filter (fun x => x.cause == k)
      let code := if k = 0x11 then (same.map Trap.code).foldl Nat.lor 0 else if k = 0x10 then (same.map Trap.code).foldl Nat.lor 0 else t.code
      let pend := ((ts.filter (fun x => x.cause != k)).map (fun x => 2 ^ x.cause)).foldl Nat.lor 0
      let ms := ((ts.map Trap.mstep).find? (fun m => m != 0xFF)).getD 0xFF
      some ({ t with code := code, pend := pend, polc := outCause (c.underPolicy ts), after := true, mstep := ms }, { c with compl := [] })

/-- Ends a gang's decisions: the bundle numbers start anew above every rank's. -/
def State.freshSeq (s : State) (g : Nat) : Nat := ((s.members g).map Ctx.bseq).foldl Nat.max 0 + 2 ^ 32

/-- The leaves of a rank as they stand in the tree and the retirement buffer, without those not yet retired, numbered anew. -/
def dropUnretired (base : Nat) (p : LeafEnt → Bool) : List LeafEnt → List LeafEnt
  | [] => []
  | l :: ls =>
    if p l then
      (if l.record.isSome then { l with idx := base } :: dropUnretired (base + 1) p ls else dropUnretired base p ls)
    else l :: dropUnretired base p ls

/-- A rank's operations in flight lose their leaves: the task contributes those it had retired (R318). -/
def State.dropLeaves (s : State) (c : Ctx) : State :=
  let n := match s.tree? c.arr c.task c.rank with
    | some t => t.leaves.length
    | none => 0
  { s with leaves := dropUnretired n (fun l => l.arr == c.arr && l.task == c.task && l.rank == c.rank) s.leaves
           xq := s.xq.map (fun x => if x.arr = c.arr ∧ x.task = c.task ∧ x.rank = c.rank then { x with dropped := true, leaf := [] } else x)
           engs := s.engs.map (fun x => if x.arr = c.arr ∧ x.task = c.task ∧ x.rank = c.rank then { x with dropped := true } else x) }

/-- The contexts of a gang, on their cores or saved, in rank order. -/
def State.everyone (s : State) (g : Nat) : List Ctx :=
  (List.range 16).filterMap (fun r => (s.ctxs ++ s.saved).find? (fun c => c.live && c.gang == g && c.rank == r))

/-- Stops the ranks of a gang that still take part: their outstanding work is discarded as by exit (R144, R301), and each
rank ends once its operations are done; its core time ends here (R30). -/
def State.discardGang (s : State) (g : Nat) : State :=
  let s1 := ((s.everyone g).filter Ctx.active).foldl (fun t c => t.dropLeaves c) s
  let s2 : State := { s1 with loads := s1.loads.filter (fun l => l.gang != g) }
  s2.mapGang g (fun c => if c.active then
    { c with stat := .exited, left := some s.tb, dq := [], regions := [], compl := [], async := [], blocked := none, susp := none } else c)

/-- A launch counts a task that an unhandled trap ended (R301). -/
def State.countFault (s : State) (arr : Nat) : State :=
  match s.launch? arr with
  | some l => s.setLaunch { l with status := 6, faults := l.faults + 1 }
  | none => s

/-- A task ended by an unhandled trap on every rank (R301): counted in FAULTS with STATUS FAULTED, with a record of kind 4. -/
def State.endTask (s : State) (g cause : Nat) (o : Ctx) : State :=
  ((s.discardGang g).countFault o.arr).ctxRec o { kind := 4, cause := cause, pc := o.pc.toNat }

/-- An uncontained error of a launch (R352): every rank of every running task stops, no further task is placed, the shadows are
discarded, and a record of kind 11 with SYND bit 0 is sent. The launch waits for its replay (R353). -/
def State.uncontainedErr (s : State) (arr : Nat) (core : Option Nat) : State :=
  match s.launch? arr with
  | none => s
  | some l =>
    if l.stopped then s
    else
      let s1 := (s.gangs.filter (fun g => g.arr == arr)).foldl (fun t g => t.discardGang g.id) s
      let s2 : State := { s1 with shadows := s1.shadows.filter (fun h => h.arr != arr) }
      let n := (s.shadows.filter (fun h => h.arr == arr)).length
      let s3 := s2.freeOwn l (65536 * n)
      (s3.setLaunch { l with stopped := true, held := [], banned := l.banned ++ core.toList, inHeap := false, replay := l.attempt == 0,
                              status := if l.attempt = 0 then l.status else 7 }).sendRec
        { kind := 11, synd := 1, launch := arr, rcb := l.rcb } (some l.eroute)

/-- Whether a launch has a cause of R350 on a rank that takes part, raised outside every region (R352). -/
def State.uncontainedCause (s : State) (arr : Nat) : Bool :=
  s.live.any (fun c => c.arr == arr && c.active
    && (outCause (c.underPolicy (c.compl ++ c.async ++ (match c.stat with
      | .stopped (some t) => [t]
      | _ => [])))).isSome)

/-- s30 at the handler: the frame's 8-byte word at 0x010. -/
def frameWord (c : Ctx) (t : Trap) (origm : Nat) : Word := BitVec.ofNat 64 (leNat (((trapHead c t origm).drop 0x10).take 8))

/-- A context entering its handler (R301). -/
def Ctx.enter (c : Ctx) (t : Trap) (origm seq : Nat) : Ctx :=
  let k := c.keep
  let k1 := (k.setS 29 { val := c.area, valid := true }).setS 30 { val := frameWord c t origm, valid := true }
  { k1 with dq := [], inh := true, pc := c.tvec, stat := .run, blocked := none, resumeSeq := c.bseq, bseq := seq }

/-- Delivers the stopped ranks' traps, each with its frame: none when one of them cannot be delivered. -/
def State.deliverAll (s : State) (origm seq : Nat) : List (Ctx × Trap) → Option State
  | [] => some s
  | (c, t) :: r =>
    if c.tvec = 0 ∨ c.inh then none
    else match s.writeFrame c false t origm with
      | none => none
      | some u => State.deliverAll (u.updCtx c.core c.cid (fun x => x.enter t origm seq)) origm seq r

/-- The same of a context's task: each launch of a fused task counts it (R346). -/
def State.endTaskAll (s : State) (o : Ctx) (cause : Nat) : State :=
  let s1 := s.endTask o.gang cause o
  match s.mateOf o with
  | none => s1
  | some m => (s1.discardGang m.gang).countFault m.arr

/-- A trap in fused code (R346): each rank's frame is written at its area, and the task ends as an unhandled trap. -/
def State.fusedTrap (s : State) (o : Ctx) (ts : List (Ctx × Trap)) (cause origm : Nat) : State :=
  (ts.foldl (fun (u : State) x => (u.writeFused x.1 false x.2 origm).getD u) s).endTaskAll o cause

/-- The records of kind 5 of a stop: one for each rank stopped when a compare or divergence trap stopped it (R351). -/
def State.kind5 (s : State) (ts : List (Ctx × Trap)) : State :=
  if ts.any (fun x => x.2.cause == 0x0C || x.2.cause == 0x0D) then
    ts.foldl (fun u x =>
      let y := x.2.ordn + (if x.2.cause = 0x0D then x.2.info1.toNat * 2 ^ 16 else 0)
      u.ctxRec x.1 { kind := 5, cause := x.2.cause, pc := x.1.pc.toNat, synd := y }) s
  else s

/-- The traps that the stopped ranks of a gang hold of their own: what each raised, and where one diverged, the divergence that the whole gang
takes, with the branching bundle and the mask of the ranks that dissented (R37; ORIGM then has every rank: DEDUCED, log 29). -/
def ownTraps (cs : List Ctx) : List (Ctx × Trap) :=
  let raised := cs.filterMap (fun c => match c.stat with
    | .stopped (some t) => some (c, t)
    | _ => none)
  match (raised.map Prod.snd).find? (fun t => t.cause == 0x0D) with
  | none => raised
  | some d => cs.map (fun c => match c.stat with
    | .stopped (some t) => (c, t)
    | _ => (c, { cause := 0x0D, info1 := d.info1, srcpc := d.srcpc, srcstep := d.srcstep, inRegion := !c.regions.isEmpty }))

/-- The gang's bundles are fetched anew after a stop (R305), and a divergence stop that was to come has come (R144). -/
def State.gangStopped (s : State) (g : Nat) : State :=
  match s.gang? g with
  | some x => s.setGang { x with shown := [], void := x.void.map (fun v => { v with due := false }) }
  | none => s

/-- The stop of a gang whose ranks hold the traps they raised (R305): the ranks outside ORIGM report the lowest cause; the policy
is applied to the gang as a whole (R350), but not to what a rank consumes in its handler (R302); then every rank enters its
handler, or the task ends as unhandled (R301). -/
def State.deliverGang (s0 : State) (g : Nat) : State :=
  let s := s0.gangStopped g
  let cs := (s.members g).filter Ctx.active
  let own := ownTraps cs
  let origm := (own.map (fun x => 2 ^ x.1.rank)).foldl Nat.lor 0
  let ts := cs.map (fun c => (own.find? (fun x => x.1.rank == c.rank)).getD (c, { cause := leastCause (own.map Prod.snd) }))
  match own.head? with
  | none => s.mapGang g (fun c => if c.active then { c with stat := .run } else c)
  | some o =>
    let s1 := s.kind5 ts
    let out := own.filterMap (fun x => (x.1.policy x.2).map (fun k => (x.1, k)))
    let pol := match s1.launch? o.1.arr with
      | some l => if l.cpol = 2 ∧ ¬ l.fdfl.testBit 0 then 1 else l.cpol
      | none => 0
    if (s1.mateOf o.1).isSome then s1.fusedTrap o.1 ts o.2.cause origm
    else match out.head? with
    | some x =>
      if pol = 2 then s1.uncontainedErr o.1.arr none
      else if pol = 1 then s1.endTask g x.2 x.1
      else (s1.deliverAll origm (s1.freshSeq g) ts).getD (s1.endTask g o.2.cause o.1)
    | none => (s1.deliverAll origm (s1.freshSeq g) ts).getD (s1.endTask g o.2.cause o.1)

/-! Debug stops (R307, R365). -/

/-- One rank of a stopped gang comes back from its save image, as the agent left it (R307): a frame that cannot be taken back ends the
task as an unhandled trap. A fused task's image holds both origins, of which one that has taken its exit stays as it is (R346). -/
def State.debugBack (s : State) (c : Ctx) : State :=
  let run (d x : Ctx) : Ctx := if x.stat = .debug then { d with stat := .run, blocked := none } else x
  match s.fusedPair c with
  | some (p, k, ms) => match s.readArea p 40960 0 10 with
    | .error f => s.endTaskAll p f.cause
    | .ok (u, bs) => match restoreFused p k ms bs 0 with
      | .error t => u.endTaskAll p t.cause
      | .ok (q, d) => (u.updCtx p.core p.cid (run q)).updCtx k.core k.cid (run d)
  | none => match s.readArea c 40960 0 10 with
    | .error f => s.endTaskAll c f.cause
    | .ok (u, bs) => match restoreFrame c c.imgF c.imgQ bs 0 with
      | .error t => u.endTaskAll c t.cause
      | .ok d => u.updCtx c.core c.cid (run d)

/-- Resumes a gang that stands stopped for its agent. -/
def State.debugResume (s : State) (g : Nat) : State :=
  (s.members g).foldl (fun t c => if (t.ctxAt c.core c.cid).any (fun x => x.stat == .debug) then t.debugBack c else t) s

/-! Unwinding a containment region (R150). -/

/-- The row of a context's core becomes invalid. -/
def State.killRow (s : State) (core r : Nat) : State := s.setRow core r (s.row core r).invalid

/-- The rows of a destination. -/
def Pend.rowOf (p : Pend) : List Nat := if p.dest.kind = 3 then [p.dest.num] else []

/-- Unwinds the innermost region of one rank. A rank of the gang that has no region open has no checkpoint: it takes the
handler's address and the code only (log 20). -/
def State.unwindRank (s : State) (c : Ctx) (handler : Word) (code seq : Nat) : State :=
  let mine (x : XOp) : Bool := x.core == c.core && x.cid == c.cid
  let s1 := (c.dq.flatMap Pend.rowOf).foldl (fun t r => t.killRow c.core r) s
  let s2 := (s1.loads.filter (fun l => l.gang == c.gang && l.core == c.core)).foldl (fun t l =>
    if l.dest.kind = 3 then t.killRow c.core l.dest.num else t) s1
  let s3 := (s2.xq.filter mine).foldl (fun t x =>
    let u := x.writes.foldl (fun u w => u.killRow c.core w.row) t
    x.tgt.foldl (fun u g => (List.range 128).foldl (fun v i => v.killRow c.core (128 * g + i)) u) u) s2
  let s4 : State := { s3 with
    loads := s3.loads.filter (fun l => !(l.gang == c.gang && l.core == c.core))
    xq := s3.xq.map (fun x => if mine x then { x with dropped := true } else x) }
  match c.regions with
  | [] => s4.updCtx c.core c.cid (fun x =>
      let y := x.setS 30 { val := BitVec.ofNat 64 code, valid := true }
      { y with dq := [], pc := handler, stat := .run, blocked := none, bseq := seq, susp := none })
  | r :: rs =>
    let s5 := r.rows.foldl (fun t k => t.killRow c.core k) s4
    let s6 := s5.updCtx c.core c.cid (fun x =>
      let y : Ctx := { x with s := r.s, p := r.p, lc := r.lc, rrb := r.rrb, prb := r.prb, leafn := r.leafn, rseq := r.rseq,
                              dq := [], regions := rs, pc := r.handler, stat := .run, blocked := none, bseq := seq, susp := none }
      y.setS 30 { val := BitVec.ofNat 64 code, valid := true })
    s6.rescind c.arr c.task c.rank r.leafn r.tree

/-- A consumption of poison inside a region (R349). -/
def Trap.consumed (t : Trap) : Bool := t.cause == 0x0F && t.cons

/-- Whether a boundary of a context holds a consumption that unwinds its innermost region (R150, R302). -/
def Ctx.consumes (c : Ctx) : Bool := c.compl.any Trap.consumed && !c.regions.isEmpty && !c.inh

/-- Unwinds a gang after the ranks of `hit` consumed poison inside their innermost region, each with the trap that stands for it: every
rank that takes part uses its own checkpoint, and each consumer sends a record of kind 3 (R150, R349). -/
def State.unwindGang (s0 : State) (g : Nat) (o : Ctx) (hit : List (Nat × Trap)) : State :=
  let s := s0.gangStopped g
  let cs := (s.members g).filter Ctx.active
  let seq := s.freshSeq g
  let h := match o.regions with
    | r :: _ => r.handler
    | [] => o.pc
  let s1 := cs.foldl (fun u c =>
    u.unwindRank c h (0x0F + c.regions.length % 16 * 256 + (if hit.any (fun x => x.1 == c.rank) then 4096 else 0)) seq) s
  let s2 := s1.mapGang g (fun c => { c with compl := c.compl.filter (fun t => !t.consumed) })
  hit.foldl (fun u x => match cs.find? (fun c => c.rank == x.1) with
    | some c => u.ctxRec c { kind := 3, cause := 0x0F, pc := c.pc.toNat, addr := x.2.addr.toNat }
    | none => u) s2

end Sys2Proof.Machine
end

