-- ==== Sys2Proof/Machine/Dump.lean ====
section
/-! DEFINITION. Core dumps (R366). -/

namespace Sys2Proof.Machine

/-- The 64 KiB granules of a leaf that maps `n` of them, as (VA, PA). -/
def leafGranules (va pa n : Nat) : List (Nat × Nat) := (List.range n).map (fun i => (va + 65536 * i, pa + 65536 * i))

/-- The device-memory granules that a table at a level maps, in increasing virtual address (R366). -/
def State.granules (s : State) : Nat → Nat → Nat → List (Nat × Nat)
  | 0, _, _ => []
  | n + 1, tb, va =>
    let lvl := n + 1
    (List.range (if lvl = 1 then 32 else 512)).flatMap (fun i =>
      let ea := tb + 8 * i
      let e := memNat s.mem ea 8
      let v := va + i * 2 ^ lvlShift lvl
      if s.devSize < ea + 8 ∨ s.poisoned ea ∨ ¬ e.testBit 0 then []
      else if e.testBit 1 then
        let pa := e / 2 ^ 16 % 2 ^ 40 * 2 ^ 16
        if badLeaf lvl e || e / 2 ^ 59 % 4 != 0 || s.devSize ≤ pa then [] else leafGranules v pa (2 ^ (lvlShift lvl - 16))
      else if badTable lvl e then []
      else s.granules n (e / 256 % 2 ^ 32 * 256) v)

/-- The bytes of a context's window, in place or put away. -/
def State.winBytes (s : State) (c : Ctx) (b : Nat) : List Byte := memRead (s.bufMem b) (c.bufAt b 0) (winSize (c.win b))

/-- The bytes of a context's logical tile n: its rows, in place or put away. -/
def State.tileBytes (s : State) (c : Ctx) (n : Nat) : List Byte :=
  match c.keptZ.find? (fun k => k.1 == tileOf c n) with
  | some k => (List.range 128).flatMap (fun r => leBytes 576 (k.2.getD r {}).bits.toNat)
  | none => (List.range 128).flatMap (fun r => leBytes 576 (s.row c.core (128 * tileOf c n + r)).bits.toNat)

/-- The save image of a context (Table 21.5), a fused task's in its own layout (R346). -/
def State.imageOf (s : State) (c : Ctx) : List Byte :=
  match s.fusedPair c with
  | some (p, k, ms) => fusedFrame (Config.freeWord s.free) ms p k c { cause := 0 } 0
  | none => frameBytes c { cause := 0 } 0

/-- A rank's section: its save image, its tiles and its window bytes. -/
def State.rankSection (s : State) (c : Ctx) : List Byte :=
  s.imageOf c ++ (List.range (tcnt c)).flatMap (s.tileBytes c) ++ s.winBytes c 0 ++ s.winBytes c 1 ++ s.winBytes c 3

/-- The header of an image: LAUNCH, TASK, NRANK, DTB and PTROOT, 4 KiB. -/
def dumpHeader (arr task n : Nat) (tb root : Word) : List Byte :=
  padTo 4096 (leBytes 8 arr ++ leBytes 8 task ++ leBytes 8 n ++ leBytes 8 tb.toNat ++ leBytes 8 root.toNat)

/-- The contexts of a task in rank order, on their cores or saved. -/
def State.taskCtxs (s : State) (arr task : Nat) : List Ctx :=
  (List.range 16).filterMap (fun r => (s.ctxs ++ s.saved).find? (fun c => c.live && c.arr == arr && c.task == task && c.rank == r && c.stat != .ended))

/-- The image of a stopped task at this instant (R366): DTB, the header and every rank's section; from now on the granules of its space are
protected until they have been copied. -/
def State.dumpTake (s : State) (d : Dump) : State :=
  let cs := s.taskCtxs d.arr d.task
  match cs.head? with
  | none => s.endDump d 4
  | some c =>
    let s1 := s.devNat (d.desc + 0x28) 8 s.tb.toNat
    let e : Dump := { d with wait := false, root := c.ptroot, todo := s1.granules 4 c.ptroot.toNat 0 }
    let secs := dumpHeader d.arr d.task c.nrank s.tb c.ptroot :: cs.map s1.rankSection
    match secs.foldl (fun o b => o.bind (fun (x : State × Dump) => x.2.put x.1 b)) (some (s1, e)) with
    | none => s1.endDump e 3
    | some (t, f) => { t with dump := some f }

/-- The request of a dump to its gang: a stop at the next boundary, which DBG does not decide. -/
def dumpStop : Trap := { cause := 0, code := 1 }

/-- The gang of a dump has stopped (R366): the image is taken, and the gang resumes unless HOLD is set. -/
def State.dumpStopped (s : State) (g : Nat) : State :=
  match s.dump with
  | none => s
  | some d =>
    let t := s.dumpTake d
    if d.hold then t else t.debugResume g

/-- A request for a dump (R366): a task that runs is stopped first; one that is saved or stands stopped is dumped at once, and one that stood
stopped for its agent on its cores then resumes too unless HOLD is set (DEDUCED, log 133). A descriptor
in a poisoned line names no task (DESIGN CHOICE, log 107). -/
def State.dumpStart (s : State) (desc : Nat) : State :=
  if s.devSize < desc + 64 then s
  else if s.dump.isSome then s.devNat (desc + 0x20) 8 5
  else if s.poisoned desc then s.devNat (desc + 0x20) 8 4
  else
    let r (o n : Nat) : Nat := memNat s.mem (desc + o) n
    let cs := s.taskCtxs (r 0 8) (r 8 4)
    match cs.head? with
    | none => s.devNat (desc + 0x20) 8 4
    | some c =>
      let d : Dump := ⟨desc, true, r 0 8, r 8 4, r 0x10 8, r 0x18 8, 0, (r 0x0C 4).testBit 0, c.ptroot, [], 0⟩
      let s1 := s.devNat (desc + 0x20) 8 1
      match cs.find? (fun c => c.stat == .run && s.ctxs.contains c) with
      | none =>
        let t := s1.dumpTake d
        match cs.find? (fun c => c.stat == .debug && s.ctxs.contains c) with
        | some k => if d.hold then t else t.debugResume k.gang
        | none => t
      | some k => { s1 with dump := some d }.updCtx k.core k.cid (fun x => { x with async := x.async ++ [dumpStop] })

/-- A dump whose gang was to stop: one that has been saved is dumped from its save image, and one that is no more ends the dump. -/
def State.dumpWait (s : State) (d : Dump) : State :=
  let cs := (s.taskCtxs d.arr d.task).filter Ctx.active
  let clear (c : Ctx) : Ctx := if c.arr = d.arr ∧ c.task = d.task then { c with async := c.async.filter (fun t => t != dumpStop) } else c
  if cs.isEmpty then s.endDump d 4
  else if cs.any (fun c => s.ctxs.contains c) then s
  else ({ s with saved := s.saved.map clear } : State).dumpTake d

/-- The next step of a dump: its stop, or its next granule. -/
def State.dumpStep (s : State) : State :=
  match s.dump with
  | none => s
  | some d =>
    if d.wait then s.dumpWait d else s.dumpCopy

/-- Whether n bytes that a context writes at an address wait for a dump to copy their granules: on path 0x00, or through its S overflow area (R162). -/
def State.writeHeld (s : State) (c : Ctx) (a : Word) (n : Nat) : Bool :=
  if selOf a = 0 then s.spanHeld c.ptroot (lowOf a) n
  else if selOf a = 0x13 ∧ winSize c.swin ≤ lowOf a then s.spanHeld c.ptroot (c.spovf.toNat + (lowOf a - winSize c.swin)) n
  else false

end Sys2Proof.Machine
end

