-- ==== Sys2Proof/Machine/Control.lean ====
section
/-! DEFINITION. Control space: what a load from an offset returns and what a store to it does (R21, R178, R278, R311, R321, R330,
R345, R356 to R366, R368, R378 to R396). -/

namespace Sys2Proof.Machine

/-- The bank-conflict counters of a core count up to the instant of a read by a number of cycles that nothing fixes (R363). -/
def State.syncCount (s : State) (core c : Nat) : State :=
  let k := core * 1152 + c
  let a := (tabGet 0 s.conflicts k).toNat
  let d := (Config.lostCycles s.free core c).toNat
  { s with conflicts := tabSet 0 s.conflicts k (BitVec.ofNat 32 (a + d))
           confOvf := if a + d < 2 ^ 32 then s.confOvf else tabSet false s.confOvf k true
           free := s.free + 1 }

/-- What a read first does to the state: bank-conflict counters advance to the instant of the read. -/
def State.ctlSync (s : State) (o : Nat) : State :=
  if 0x800000 ≤ o ∧ o < 0xB00000 then
    let n := (o - 0x800000) / 0x2000
    let i := (o - 0x800000) % 0x2000
    if i < 0x1200 then (s.syncCount n (i / 4)).syncCount n (i / 4 + 1)
    else if i < 0x1290 then (List.range 64).foldl (fun t j => t.syncCount n ((i - 0x1200) * 8 + j)) s
    else s
  else s

/-- Reads a register of a core's bank-conflict block (R363). -/
def State.bankRead (s : State) (n i : Nat) : Word :=
  let g (c : Nat) : Nat := (tabGet 0 s.conflicts (n * 1152 + c)).toNat
  if i < 0x1200 then BitVec.ofNat 64 (g (i / 4) + g (i / 4 + 1) * 2 ^ 32)
  else if i < 0x1290 then BitVec.ofNat 64 (bitsOf 64 (fun j => tabGet false s.confOvf (n * 1152 + (i - 0x1200) * 8 + j)))
  else s.reg (0x800000 + 0x2000 * n + i)

/-- The contexts of a core that stand stopped for an agent (R365). -/
def State.stoppedOn (s : State) (n : Nat) : Nat :=
  bitsOf 4 (fun i => s.live.any (fun c => c.core == n && c.cid % 4 == i && c.stat == .debug))

/-- Whether a register stands at an offset of 0x60_0000 to 0x60_0FFF (R378 to R385). -/
def hostReg (o : Nat) : Bool :=
  (0x600000 ≤ o && o < 0x600040) || (0x600100 ≤ o && o < 0x600148) || (0x600810 ≤ o && o < 0x600C00)

/-- The value of a control-space offset (R178): an offset that nothing defines reads 0, and so do the write-only ones. -/
def State.ctlRead (s : State) (o : Nat) : Word :=
  if s.sysstate = 4 then (if 0x600000 ≤ o ∧ o < 0x601000 then if hostReg o then s.reg o else (tabFind s.recov o).getD 0 else 0)
  else if 0x210000 ≤ o ∧ o < 0x210600 ∧ 0x30 ≤ o % 64 then 0
  else if 0x250000 ≤ o ∧ o < 0x250C00 then BitVec.ofNat 64 (s.stoppedOn ((o - 0x250000) / 8))
  else if 0x250C00 ≤ o ∧ o < 0x251800 then 0
  else if o = 0x3010 then s.reg 0x3010
  else if 0x800000 ≤ o ∧ o < 0xB00000 then s.bankRead ((o - 0x800000) / 0x2000) ((o - 0x800000) % 0x2000)
  else s.reg o

/-- A store to a chain record's field (R321): entries that wait for room in the log are written where there is room now. -/
def State.chainWrite (s : State) (o : Nat) (v : Word) : State :=
  let b := o - o % 128
  let rd := s.reg (b + 0x18)
  let wr := s.reg (b + 0x20)
  match o % 128 with
  | 0x00 => if s.reg b = 0 then s.setReg b v else s
  | 0x08 => if rd = wr ∧ v.toNat % 4096 = 0 then (s.setReg o v).logFlush else s
  | 0x10 => if rd = wr ∧ (v = 0 ∨ (v.toNat % 4096 = 0 ∧ 65536 ≤ v.toNat)) then (s.setReg o v).logFlush else s
  | 0x18 => if rd.toNat ≤ v.toNat ∧ v.toNat ≤ wr.toNat then (s.setReg o v).logFlush else s
  | 0x28 => s.setReg o v
  | _ => s

/-- A store to a link digest register (R330): LINKH takes effect with the store of its high half, which clears the port's
digests and counts. -/
def State.linkWrite (s : State) (o : Nat) (v : Word) : State :=
  let p := (o - 0x210000) / 64
  let b := o - o % 64
  if o % 64 = 0x30 then { s with linkLo := tabSet 0 s.linkLo p v }
  else if o % 64 = 0x38 then
    (List.range 6).foldl (fun t i => t.setReg (b + 8 * i) 0) ((s.setReg (b + 0x30) (tabGet 0 s.linkLo p)).setReg (b + 0x38) v)
  else s

/-- A store to ATCTLn (R357, R359): ARM is set, and a 1 in SCAN requests a scan; a fenced core's is ignored. -/
def State.atctlWrite (s : State) (n : Nat) (v : Word) : State :=
  if s.coreFenced n then s
  else
    let s1 := s.setBit (0x230000 + 8 * n) 1 (v.getLsbD 1)
    if v.getLsbD 2 then s1.setBit (0x230000 + 8 * n) 2 true else s1

/-- A store to a counter with CNT and OVF (R360, R362): it wins over a count of its cycle, but OVF stays set by an overflow in that cycle. -/
def State.countWrite (s : State) (o : Nat) (v : Word) : State :=
  let w := putFld (s.reg o) 0 33 (wfld v 0 33)
  if wfld (s.reg o) 0 32 = 0xFFFFFFFF then { s.setReg o (if Config.overflows s.free then putFld w 32 1 1 else w) with free := s.free + 1 }
  else s.setReg o w

/-- A request for debug stops (R365): each masked context with an agent takes one at its next boundary, a fused
task's once for both origins. -/
def State.debugRequest (s : State) (n : Nat) (v : Word) : State :=
  let second (c : Ctx) : Bool := 4 ≤ c.cid && s.live.any (fun x => x.core == n && x.cid + 4 == c.cid && x.stat == .run)
  s.mapCtx (fun c => if c.live && c.core == n && v.getLsbD (c.cid % 4) && c.dbg.getLsbD 0 && c.stat == .run && !second c then
    { c with async := c.async ++ [{ cause := 0 }] } else c)

/-- The gangs of the masked stopped contexts resume (R365). -/
def State.debugResumeReq (s : State) (n : Nat) (v : Word) : State :=
  (s.live.filter (fun c => c.core == n && v.getLsbD (c.cid % 4) && c.stat == .debug)).foldl (fun t c => t.debugResume c.gang) s

/-- A store to TLBIV (R311): it starts the next invalidation. -/
def State.tlbStart (s : State) (v : Word) : State :=
  { s with tlbn := s.tlbn + 1, tlbq := s.tlbq ++ [(s.tlbn + 1, s.reg 0x3000, wfld v 0 2, v)] }

/-- Whether a bank-conflict counter overflows in the cycle of a store (R362). -/
def State.bankOver (s : State) (k : Nat) : Bool := tabGet 0 s.conflicts k == 0xFFFFFFFF && Config.overflows (s.free + k)

/-- A store to a bank-conflict counter, which has counted up to then (R362). -/
def State.bankPut (s : State) (n c : Nat) (v : BitVec 32) : State :=
  let t := s.syncCount n c
  let k := n * 1152 + c
  { t with conflicts := tabSet 0 t.conflicts k v, confOvf := if t.bankOver k then tabSet false t.confOvf k true else t.confOvf }

/-- A store to a bank-conflict block (R362 to R364); a count that overflows in the cycle of a store to its OVF bit wraps to zero. -/
def State.bankWrite (s : State) (n i : Nat) (v : Word) : State :=
  let k (c : Nat) : Nat := n * 1152 + c
  if i < 0x1200 then (s.bankPut n (i / 4) (v.truncate 32)).bankPut n (i / 4 + 1) ((v >>> 32).truncate 32)
  else if i < 0x1290 then
    let t := s.ctlSync (0x800000 + 0x2000 * n + i)
    let cs := (List.range 64).map (fun j => k ((i - 0x1200) * 8 + j))
    { t with confOvf := cs.foldl (fun o c => tabSet false o c (v.getLsbD (c - k ((i - 0x1200) * 8)) || t.bankOver c)) t.confOvf
             conflicts := (cs.filter t.bankOver).foldl (fun o c => tabSet 0 o c 0) t.conflicts }
  else if i = 0x1300 then s.setReg (0x800000 + 0x2000 * n + i) (v &&& ~~~(0xFFF : Word))
  else if i = 0x1308 ∨ i = 0x1318 then s.setReg (0x800000 + 0x2000 * n + i) v
  else s

/-- A store to the registers from 0x60_0000 on (R379 to R391). -/
def State.hostWrite (s : State) (o : Nat) (v : Word) : State :=
  if o = 0x600008 then (if v = 1 then s.warmRequest else if v = 2 then s.coldStart else s)
  else if o = 0x600030 then s.setReg o (v &&& 0xFF)
  else if o = 0x600038 then s.setReg o (v &&& 0xFF00000000)
  else if 0x600120 ≤ o ∧ o < 0x600140 then (if s.reg 0x600140 = 0 then s.setReg o (v &&& s.reg (o - 0x20)) else s)
  else if o = 0x600140 then s.featLock v
  else if 0x600810 ≤ o ∧ o < 0x600C00 then s.setReg o (if o % 16 = 0 then v else v &&& 0x0FFF0FFF)
  else if 0x602000 ≤ o ∧ o < 0x602800 then s.setReg o (v &&& 0xFFFFFF)
  else if 0x604000 ≤ o ∧ o < 0x608000 then s.setReg o (if o % 16 = 0 then v &&& 0xFFFFFFFFFFFF else v &&& 1)
  else s

/-- A store in RECOVERY (R386): the registers among the offsets that respond act as ever, read-only ones too, and the other offsets take the
recovery image (DESIGN CHOICE, log 132). -/
def State.recoveryWrite (s : State) (o : Nat) (v : Word) : State :=
  if hostReg o then s.hostWrite o v
  else if 0x600000 ≤ o ∧ o < 0x601000 then { s with recov := tabPut s.recov o (some v) }
  else s

/-- A store to control space (R178): the state, or the trap that the store raises. An offset that no rule defines, a read-only
register and, in RECOVERY, every offset outside 0x60_0000 to 0x60_0FFF discard it (R386). -/
def State.ctlWrite (s : State) (o : Nat) (v : Word) : Except Trap State :=
  if s.sysstate = 4 then .ok (s.recoveryWrite o v)
  else if 0x2000 ≤ o ∧ o < 0x2180 then .ok (s.setReg o (v &&& 0x1FF))
  else if o = 0x3000 then .ok (s.setReg o v)
  else if o = 0x3008 then (if wfld v 2 14 ≠ 0 ∨ wfld v 48 16 ≠ 0 ∨ wfld v 0 2 = 3 then .error (opTrap v) else .ok (s.tlbStart v))
  else if 0x100000 ≤ o ∧ o < 0x108000 then
    let q := (o - 0x100000) / 8
    .ok { s.setReg o (v &&& ~~~(0x3F : Word)) with
      deadq := s.deadq.filter (fun k => k ≠ q), depSeen := s.depSeen.filter (fun x => x.1 ≠ q), noSplice := s.noSplice.filter (fun x => x.2.1.1 ≠ q) }
  else if 0x200000 ≤ o ∧ o < 0x202000 then .ok (s.chainWrite o v)
  else if 0x210000 ≤ o ∧ o < 0x210600 then .ok (s.linkWrite o v)
  else if o = 0x211000 ∨ o = 0x211008 then .ok (s.setReg o v)
  else if o = 0x220000 then (if wfld v 0 12 ≠ 0 then .error { cause := 0x03, info1 := BitVec.ofNat 64 s.iss.word } else .ok (s.setReg o v))
  else if o = 0x220008 then (if wfld v 32 32 ≠ 0 then .error { cause := 0x03, info1 := BitVec.ofNat 64 s.iss.word } else .ok (s.setReg o v))
  else if 0x230000 ≤ o ∧ o < 0x230C00 then .ok (s.atctlWrite ((o - 0x230000) / 8) v)
  else if o = 0x230C00 ∨ o = 0x231008 ∨ o = 0x243000 ∨ o = 0x270008 then .ok (s.setReg o v)
  else if o = 0x231000 then .ok (s.setReg o (v &&& 0xFFF))
  else if 0x240000 ≤ o ∧ o < 0x242600 then .ok (s.countWrite o v)
  else if 0x250000 ≤ o ∧ o < 0x250C00 then
    (if !s.feat 8 then .ok s else if wfld v 4 60 ≠ 0 then .error (opTrap v) else .ok (s.debugRequest ((o - 0x250000) / 8) v))
  else if 0x250C00 ≤ o ∧ o < 0x251800 then .ok (s.debugResumeReq ((o - 0x250C00) / 8) v)
  else if o = 0x251800 then .ok (s.setReg o v)
  else if o = 0x252000 then .ok (if s.feat 8 then s.dumpStart (v.toNat / 64 * 64) else s)
  else if o = 0x270000 then
    (if wfld v 40 24 ≠ 0 ∨ wfld v 0 7 ≠ 0 then .error (opTrap v)
     else if 64 ≤ s.loadq.length then .ok (s.bump 0x270008) else .ok { s with loadq := s.loadq ++ [v.toNat] })
  else if 0x610000 ≤ o ∧ o < 0x610780 then .ok (s.zoneWrite o v)
  else if 0x611000 ≤ o ∧ o < 0x6113C0 then .ok (s.setReg o (v &&& 0xFFFFFF))
  else if o = 0x612000 then .ok (s.evacStart v)
  else if o = 0x612008 then .ok (s.refillStart v)
  else if 0x600000 ≤ o ∧ o < 0x608000 then .ok (s.hostWrite o v)
  else if 0x800000 ≤ o ∧ o < 0xB00000 then .ok (s.bankWrite ((o - 0x800000) / 0x2000) ((o - 0x800000) % 0x2000) v)
  else .ok s

/-- A privileged store from outside a task: one that would raise a trap starts nothing. -/
def State.ctlPut (s : State) (o : Nat) (v : Word) : State :=
  match s.ctlWrite o v with
  | .ok t => t
  | .error _ => s

end Sys2Proof.Machine
end

