-- ==== Sys2Proof/Machine/Flags.lean ====
section
/-! DEFINITION. How lane results become one row result with its flags (R75, R227, R228), and the trapping flags (R76). -/

namespace Sys2Proof.Machine

/-- The OR of flag sets. -/
def orFlags (fs : List Nat) : Nat := fs.foldl Nat.lor 0

/-- The flags of the active lanes: an inactive lane contributes none (R227). -/
def laneFlags (rs : List (Option FR)) : Nat := orFlags (rs.filterMap (fun r => r.map FR.flags))

/-- The row of lane results; an inactive lane stands as 0 and is not written. -/
def laneRow (w : Nat) (rs : List (Option FR)) : Row := packRow w (rs.map (fun r => (r.map FR.bits).getD 0))

/-- The written bits of lane results. -/
def laneMsk (w : Nat) (rs : List (Option FR)) : Row := laneMask w (rs.map Option.isSome)

/-- Leaves lane results as a result for a vector register. -/
def State.postLanes (s : State) (d : BitVec 6) (lat w : Nat) (rs : List (Option FR)) : State :=
  s.postV d lat (laneRow w rs) (laneMsk w rs) (laneFlags rs)

/-- The flags that trap under MODE.FTRAP: INV, DBZ, OVF and UNF; INX and SAT never do (R76). -/
def trapping (ftrap flags : Nat) : Nat := Nat.land (Nat.land flags 15) ftrap

end Sys2Proof.Machine
end

