-- ==== Sys2Proof/Machine/Paths.lean ====
section
/-! DEFINITION. The checks of an access at issue (R163 to R165), reading and writing for slots with watchpoints (R157), pending
long-latency loads (R51, R193, R195), and the holds against X-class operations (R58, R187, R260). -/

namespace Sys2Proof.Machine

/-- What an access is, for Table 11.4. -/
inductive Acc where
  | ld | st | vld | vst | rawLd | rawSt
  | amo (host : Bool)
  | sig
  | join
  | copySrc | copyDst
  deriving DecidableEq, Repr

/-- Whether the access stores. -/
def Acc.writes (k : Acc) : Bool :=
  match k with
  | .st => true
  | .vst => true
  | .rawSt => true
  | .amo _ => true
  | .sig => true
  | .join => true
  | .copyDst => true
  | _ => false

/-- Table 11.4 with R206, R211, R223 and R225. -/
def pathOk (k : Acc) (sel : Nat) : Bool :=
  match k with
  | .ld => sel ≤ 3 || sel == 0x10 || sel == 0x11 || sel == 0x13 || sel == 0x14 || sel == 0x15 || sel == 0x17 || sel == 0x20 || sel == 0x30
  | .st => sel == 0 || sel == 2 || sel == 3 || sel == 0x10 || sel == 0x11 || sel == 0x13 || sel == 0x20 || sel == 0x30
  | .vld => sel ≤ 3 || sel == 0x10 || sel == 0x11 || sel == 0x14 || sel == 0x15
  | .vst => sel == 0 || sel == 2 || sel == 3 || sel == 0x10 || sel == 0x11
  | .rawLd => sel ≤ 3 || sel == 0x10 || sel == 0x11 || sel == 0x12 || sel == 0x14 || sel == 0x15 || sel == 0x16
  | .rawSt => sel == 0 || sel == 2 || sel == 3 || sel == 0x10 || sel == 0x11 || sel == 0x12
  | .amo h => sel == 0 || sel == 3 || (h && sel == 2)
  | .sig => sel == 0 || sel == 2 || sel == 3 || sel == 0x20
  | .join => sel == 0
  | .copySrc => sel ≤ 3 || sel == 0x10 || sel == 0x11 || sel == 0x13 || sel == 0x14 || sel == 0x15
  | .copyDst => sel == 0 || sel == 2 || sel == 3 || sel == 0x10 || sel == 0x11 || sel == 0x13

/-- Whether the path check passes: Table 11.3 and Table 11.4, peer memory behind feature bit 3, and the paths that a shadowed
launch does not write (R312). -/
def State.pathPass (s : State) (k : Acc) (sel : Nat) : Bool :=
  pathOk k sel && (sel != 3 || s.feat 3)
    && !(k.writes && (sel == 2 || sel == 0x20) && s.shadowed s.ctx.arr)

/-- Whether every bit that Table 11.3 marks zero is zero. -/
def zeroBits (a : Word) : Bool :=
  let sel := selOf a
  if sel ≤ 2 then wfld a 48 8 == 0
  else if 0x14 ≤ sel ∧ sel ≤ 0x17 then wfld a 48 8 == 0
  else if sel = 0x20 then wfld a 15 41 == 0 && wfld a 0 3 == 0
  else true

/-- The bounds check of an access that depends on the issuing context alone (R160 to R162). -/
def Ctx.inBounds (c : Ctx) (a : Word) : Bool :=
  let sel := selOf a
  let o := lowOf a
  if sel = 0x10 ∨ sel = 0x11 then o < winSize (c.win (sel - 0x10))
  else if sel = 0x12 then o < 73728 * tcnt c
  else if sel = 0x13 then o < winSize c.swin || (o < 0x1000000 && c.spovf != 0)
  else true

/-- The checks of one access at issue, in the order of R163: path, address, privileged, align, bounds. `al` is the alignment
that the access needs; on path 0x12 and 0x16 it is a row's. INFO1 of the address trap is 0 (DESIGN CHOICE, log 108). -/
def State.issueCheck (s : State) (k : Acc) (a : Word) (al : Nat) : SlotR Unit := do
  let sel := selOf a
  need (s.pathPass k sel) { cause := 0x08, addr := a }
  need (zeroBits a) { cause := 0x07, addr := a }
  need (sel != 0x30 || s.ctx.priv) { cause := 0x04, addr := a }
  let al' := if sel = 0x12 ∨ sel = 0x16 then 576 else if sel = 0x20 ∨ sel = 0x30 then 8 else al
  let o := if sel = 0x16 then wfld a 0 43 else if sel = 0x12 then lowOf a else a.toNat
  need (o % al' == 0 && !((sel == 0x20 || sel == 0x30) && al != 8)) { cause := 0x09, addr := a }
  need (s.ctx.inBounds a) { cause := 0x0A, addr := a }

/-- Whether an address is on a path whose reads are long-latency (R51). -/
def longPath (a : Word) : Bool :=
  let sel := selOf a
  sel ≤ 3 || (0x14 ≤ sel && sel ≤ 0x17) || sel == 0x20 || sel == 0x30

/-! X-class operations in flight. A window of a `tcvt` destination is a range of keys. -/

/-- The key of a buffer byte across buffers: buf × 2^80 + core × 2^20 + offset. -/
def winKey (b k : Nat) : Nat := b * 2 ^ 80 + k

/-- Whether a range of buffer bytes meets the destination of a `tcvt` in flight, whose result is not yet there (R260). -/
def State.tcvtHit (s : State) (b k n : Nat) : Bool :=
  s.xq.any (fun x => x.win.1 < winKey b k + n && winKey b k < x.win.2 && !s.sameBundle x)

/-- The same of pieces of a buffer. -/
def State.tcvtHits (s : State) (b : Nat) (segs : List (Nat × Nat)) : Bool := segs.any (fun x => s.tcvtHit b x.1 x.2)

/-- The range of keys that covers pieces of a buffer. -/
def winOf (b : Nat) (segs : List (Nat × Nat)) : Nat × Nat :=
  match segs with
  | [] => (0, 0)
  | x :: xs => (winKey b (xs.foldl (fun k y => min k y.1) x.1), winKey b (xs.foldl (fun k y => max k (y.1 + y.2)) (x.1 + x.2)))

/-- Bytes cut up over pieces of a buffer. -/
def cutSegs (b : Nat) : List Byte → List (Nat × Nat) → List (Nat × Nat × List Byte)
  | _, [] => []
  | bs, x :: xs => (b, x.1, bs.take x.2) :: cutSegs b (bs.drop x.2) xs

/-- A place held by an X-class operation, a row of a busy tile (R58) or bytes that a `tcvt` in flight writes, or by the other origin of
a fused task that has still to read it (R342). -/
def State.placeHeld (s : State) (p : Place) (n : Nat) : Bool :=
  match p with
  | .row core r _ => s.busy core (r / 128)
  | .buf b _ => s.tcvtHits b (p.segs n) || s.aliasBusy s.ctx b (p.segs n)
  | .span b _ _ _ _ => s.tcvtHits b (p.segs n) || s.aliasBusy s.ctx b (p.segs n)
  | _ => false

/-- A `tcvt` of the context is in flight: operations that order its write wait (R260). -/
def State.tcvtOut (s : State) : Bool :=
  s.xq.any (fun x => x.core == s.ctx.core && x.cid == s.ctx.cid && x.win.1 < x.win.2 && !s.sameBundle x)

/-! Watchpoints (R157). -/

/-- KIND, LD and ST of a watchpoint. -/
def Watch.kind (w : Watch) : Nat := wfld w.ctl 0 2

/-- Whether an access range meets a watchpoint's. -/
def Watch.meets (w : Watch) (a : Word) (n : Nat) : Bool := a.toNat ≤ w.hi.toNat && w.lo.toNat < a.toNat + n

/-- Whether watchpoint w matches an access: `val` is the data that kind 2 compares, `old` the contents a store replaced; both
are absent for vector accesses. -/
def Watch.hits (w : Watch) (isLd isSt : Bool) (a : Word) (n : Nat) (val old : Option Word) : Bool :=
  w.meets a n && ((isLd && w.ctl.getLsbD 2) || (isSt && w.ctl.getLsbD 3)) &&
    (match w.kind with
      | 1 => true
      | 2 => match val with
        | some v => (v ^^^ w.value) &&& w.dmask == 0
        | none => false
      | 3 => match val, old with
        | some v, some o => isSt && (v ^^^ o) &&& w.dmask != 0
        | _, _ => false
      | _ => false)

/-- The mask of the watchpoints that match. -/
def Ctx.watchMask (c : Ctx) (isLd isSt : Bool) (a : Word) (n : Nat) (val old : Option Word) : Nat :=
  bitsOf 4 (fun i => (c.watch.getD i {}).hits isLd isSt a n val old)

/-- Records a completion trap of the slot. -/
def State.complTrap (s : State) (t : Trap) : State :=
  { s with iss := { s.iss with compl := s.iss.compl ++ [{ t with ordn := s.iss.ord, inRegion := !s.ctx.regions.isEmpty }] } }

/-- Records a watch trap of the slot at the boundary after the bundle (R157). -/
def State.watchTrap (s : State) (a : Word) (mask : Nat) : State := if mask = 0 then s else s.complTrap { cause := 0x11, addr := a, code := mask }

/-! Reading an element. -/

/-- A long-latency load of paths 0x00 to 0x03 waits for the walk of its page (R163, R310): the walk begins at its issue. -/
def State.loadWalk (s : State) (a : Word) : State := if selOf a ≤ 3 then s.beginWalk s.ctx (lowOf a % 2 ^ 48) else s

/-- The walk of a load sets the A bit; the leaf is cached when the walk is complete, or at once where no load waits for it. -/
def State.loadTouch (s : State) (a : Word) (e : Option TlbEnt) : State :=
  if selOf a ≤ 3 ∧ (s.cached (s.ctx.core / 16) s.ctx.ptroot (lowOf a % 2 ^ 48)).isNone then s.touchLeaf s.ctx e false
  else s.touched s.ctx e false

/-- The bytes of an element read by a slot, the state in which the walker has set A, and the fault otherwise (R52, R164). Bank
counters advance with their read. -/
def State.loadElem (s : State) (a : Word) (n : Nat) : State × Except Flt (List Byte) :=
  let s0 := s.loadWalk a
  match s0.place s.ctx a false with
  | .error f => (s0, .error f)
  | .ok (p, e) =>
    let s1 := s0.loadTouch a e
    match p with
    | .ctl o => let s2 := s1.ctlSync o; (s2, .ok (leBytes n (s2.ctlRead o).toNat))
    | _ => (s1, s1.readPlace s.ctx.arr p n)

/-- The holds of an element's place: a busy tile, a `tcvt` in flight, an empty row. -/
def State.elemHold (s : State) (a : Word) (n : Nat) : SlotR Unit :=
  match s.place s.ctx a false with
  | .error _ => .ok ()
  | .ok (p, _) => await (!s.placeHeld p n) .busy

/-- A deferred fault of the slot's bundle at an address (R52, R298). -/
def State.dfault (s : State) (f : Flt) (a : Word) : DFault :=
  { cause := f.cause, addr := a, info1 := BitVec.ofNat 64 f.kind, code := f.code, srcpc := s.ctx.pc, srcstep := s.ctx.step }

/-- The trap of a fault taken at the slot's own bundle (R194). -/
def fltTrap (f : Flt) (a : Word) : Trap := { cause := f.cause, addr := a, info1 := BitVec.ofNat 64 f.kind }

/-- Whether an address on the S path is an overflow access: beyond the context's S window (R162). -/
def Ctx.overflows (c : Ctx) (a : Word) : Bool := selOf a == 0x13 && winSize c.swin ≤ lowOf a

/-- The memory requests of a scalar access: one where it leaves the core, an overflow access of S included (R162, R195). -/
def Ctx.asks (c : Ctx) (a : Word) : Nat := if longPath a || c.overflows a then 1 else 0

/-- The overflow loads of a core whose late replies are out (R48, R162). -/
def State.lateLoads (s : State) : Nat :=
  ((((s.ctxs ++ s.saved).filter (fun c => c.live && c.core == s.ctx.core)).flatMap Ctx.dq ++ s.iss.out.map Prod.snd).filter (fun p => !p.arrived)).length

/-- The requests that the core has outstanding, and whether `n` more fit (R195). -/
def State.room (s : State) (n : Nat) : Bool :=
  (((s.loads.filter (fun l => l.core == s.ctx.core)).map PLoad.reqs).foldl Nat.add 0) + s.lateLoads + n ≤ 8192

/-- The pages of a load's addresses whose walks are outstanding on its die (R310). -/
def State.waitPages (s : State) (as : List Word) : List Nat :=
  ((as.filter (fun a => selOf a ≤ 3 && (s.walking (s.ctx.core / 96) s.ctx.ptroot (lowOf a % 2 ^ 48)).isSome)).map (fun a => wfld a 16 32)).eraseDups

/-- Enters a long-latency load of the addresses `as`: its destination goes empty at the boundary and fills on reply (R51, R193). -/
def State.pendLoad (s : State) (d : Dest) (pol : Bool) (a : Word) (as : List Word) (val msk : Row) (flags : Nat) (f : Option DFault) (reqs : Nat) : State :=
  let c := s.ctx
  let l : PLoad := { core := c.core, cid := c.cid, gang := c.gang, dest := d, val := val, msk := msk, flags := BitVec.ofNat 8 flags,
                     ftrap := modeFTRAP c.mode, fault := f, pages := s.waitPages as, root := c.ptroot, va := a,
                     far := as.find? (fun x => selOf x == 2 || selOf x == 3), depth := c.regions.length,
                     reqs := reqs, discard := d.kind == 0 && d.num == 0, srcpc := c.pc, srcstep := c.step }
  { s with loads := s.loads ++ [l], iss := { s.iss with empt := if l.discard then s.iss.empt else s.iss.empt ++ [(d, pol)] } }

/-! Writing an element. -/

/-- A write of a launch to device memory, on path 0x00 or 0x03, takes a shadow first where the launch is shadowed; none where MBUDGET is
exhausted (R312). -/
def State.shadowFor (s : State) (arr : Nat) (p : Place) : Option State :=
  if !s.shadowed arr then some s
  else match p with
    | .dev pa => s.takeShadow arr pa
    | .peer k => s.takeShadow arr (peerBase + k)
    | _ => some s

/-- The place that a store writes once its translation is made at issue (R194): shadow space is taken for a shadowed launch
(R312). -/
def State.storePlace (s : State) (a : Word) : Except Flt (State × Place) :=
  match s.place s.ctx a true with
  | .error f => .error f
  | .ok (p, ea) =>
    let s1 := s.touched s.ctx ea true
    match s1.shadowFor s.ctx.arr p with
    | some t => .ok (t, p)
    | none => .error (aflt 7)

/-- The holds of a store: the place's, and those of a dump (R366). -/
def State.storeHold (s : State) (a : Word) (n : Nat) : SlotR Unit := do
  await (!s.writeHeld s.ctx a n) .dump
  match s.place s.ctx a true with
  | .error _ => .ok ()
  | .ok (p, _) =>
    await (!s.placeHeld p n) .busy
    match p with
    | .row core r _ => await (s.row core r).full .empty
    | _ => .ok ()

/-- Whether a write fails at its far side: a peer without a route, or an error that the host (for an atomic) or the peer
reports (R179, R180); what goes to a shadow does not leave the package (R312). A host's error on a plain store is reported to no one. -/
def State.farFails (s : State) (arr : Nat) (p : Place) (atomic : Bool) : Bool :=
  match p with
  | .peer k => (s.shadow? arr (peerBase + k)).isNone && (!s.peerUp (k / 2 ^ 56) || Config.farFails s.free)
  | .host _ => atomic && Config.farFails s.free
  | _ => false

/-- A use of the far side's answer. -/
def State.farUse (s : State) (p : Place) : State :=
  match p with
  | .peer _ => { s with free := s.free + 1 }
  | .host _ => { s with free := s.free + 1 }
  | _ => s

/-- Performs a store of bytes, with the watchpoints' match on it; a store that its peer does not take raises an address trap at
the boundary after its bundle (R180), and the watchpoints match it all the same (DEDUCED, log 92). Old contents that read as poison have no
value for KIND 3 to compare: it does not match (DESIGN CHOICE, log 120). -/
def State.storeElem (s : State) (a : Word) (p : Place) (bs : List Byte) (scalar : Bool) : SlotR State :=
  let old := match p with
    | .ctl o => some ((s.ctlSync o).ctlRead o)
    | _ => match s.readPlace s.ctx.arr p bs.length with
      | .ok o => some (BitVec.ofNat 64 (leNat o))
      | .error _ => none
  let val : Word := BitVec.ofNat 64 (leNat bs)
  let w := s.ctx.watchMask false true a bs.length (if scalar then some val else none) (if scalar then old else none)
  if s.farFails s.ctx.arr p false then .ok (((s.farUse p).complTrap (fltTrap (aflt 0) a)).watchTrap a w)
  else match p with
    | .ctl o => match s.ctlWrite o val with
      | .ok t => .ok (t.watchTrap a w)
      | .error tr => trapS tr
    | .row c r o =>
      let t := (s.keepRow r).writePlace s.ctx.arr (.row c r o) bs
      .ok ({ t with ctx := t.ctx.wrote [r] }.watchTrap a w)
    | _ => .ok (((s.farUse p).writePlace s.ctx.arr p bs).watchTrap a w)

end Sys2Proof.Machine
end

