-- ==== Sys2Proof/Machine/MemOps.lean ====
section
/-! DEFINITION. Class M: loads, stores, atomics, fences and prefetch (R190 to R209). -/

namespace Sys2Proof.Machine

/-! Scalar loads and stores (R196 to R198). ORD adds no effect where every access performs in one order (log 1). -/

/-- The register value of n loaded bytes. -/
def extendLd (n : Nat) (sg : Bool) (bs : List Byte) : Word :=
  let v := leNat bs
  if sg && v.testBit (8 * n - 1) then BitVec.ofInt 64 ((v : Int) - 2 ^ (8 * n)) else BitVec.ofNat 64 v

/-- A local load's result: at the latency of group 13, with a deferred fault where the access failed. -/
def State.postLocal (s : State) (d : Dest) (val msk : Row) (flags : Nat) (f : Option DFault) (late : Bool) : State :=
  s.post { s.pend d (s.ctx.latOf 13) val msk flags with fault := f, arrived := !late }

/-- A deferred watch fault where a watchpoint matches a load (R157). -/
def State.watchFault (s : State) (a : Word) (n : Nat) (v : Option Word) : Option DFault :=
  let m := s.ctx.watchMask true false a n v none
  if m = 0 then none else some (s.dfault { cause := 0x11, code := m } a)

/-- A scalar load of n bytes (R191 to R196). One whose access fails reads nothing that a watchpoint could match: its fault stands (DESIGN CHOICE,
log 119). -/
def loadS (s : State) (d : BitVec 5) (b : BitVec 6) (x : MIdx) (n : Nat) (sg : Bool) : Res :=
  finish s (do
    let r ← both (both (s.rdS b) (s.mdisp x)) (s.dstS d.toNat)
    let a := r.1.1 + r.1.2
    let e := midxExt x
    need (!(e.u && srcNum b == d.toNat)) (opTrap (BitVec.ofNat 64 d.toNat))
    s.issueCheck .ld a n
    s.elemHold a n
    await (s.room (s.ctx.asks a)) .queue
    let (s1, l) := s.loadElem a n
    let (v, f) : Word × Option DFault := match l with
      | .ok bs => (extendLd n sg bs, s.watchFault a n (some (BitVec.ofNat 64 (leNat bs))))
      | .error f => (0, some (s.dfault f a))
    let s2 := s1.baseUpd e.u b a
    pure (if longPath a then s2.pendLoad ⟨0, d.toNat⟩ false a [a] (v.zeroExtend 4608) allRow 0 f 1
      else s2.postLocal ⟨0, d.toNat⟩ (v.zeroExtend 4608) allRow 0 f (s.ctx.overflows a)))

/-- A scalar store of n bytes (R191, R192, R194, R197). -/
def storeS (s : State) (v b : BitVec 6) (x : MIdx) (n : Nat) : Res :=
  finish s (do
    let r ← both (s.rdS v) (both (s.rdS b) (s.mdisp x))
    let a := r.2.1 + r.2.2
    s.issueCheck .st a n
    await (s.room (s.ctx.asks a)) .queue
    s.storeHold a n
    match s.storePlace a with
    | .error f => trapS (fltTrap f a)
    | .ok (s1, p) => do
      let s2 ← s1.storeElem a p (leBytes n r.1.toNat) true
      pure (s2.baseUpd (midxExt x).u b a))

def execLdB (d : BitVec 5) (b : BitVec 6) (x : MIdx) (s : State) : Res := loadS s d b x 1 true
def execLdBu (d : BitVec 5) (b : BitVec 6) (x : MIdx) (s : State) : Res := loadS s d b x 1 false
def execLdH (d : BitVec 5) (b : BitVec 6) (x : MIdx) (s : State) : Res := loadS s d b x 2 true
def execLdHu (d : BitVec 5) (b : BitVec 6) (x : MIdx) (s : State) : Res := loadS s d b x 2 false
def execLdW (d : BitVec 5) (b : BitVec 6) (x : MIdx) (s : State) : Res := loadS s d b x 4 true
def execLdWu (d : BitVec 5) (b : BitVec 6) (x : MIdx) (s : State) : Res := loadS s d b x 4 false
def execLdD (d : BitVec 5) (b : BitVec 6) (x : MIdx) (s : State) : Res := loadS s d b x 8 false
def execStB (v b : BitVec 6) (x : MIdx) (s : State) : Res := storeS s v b x 1
def execStH (v b : BitVec 6) (x : MIdx) (s : State) : Res := storeS s v b x 2
def execStW (v b : BitVec 6) (x : MIdx) (s : State) : Res := storeS s v b x 4
def execStD (v b : BitVec 6) (x : MIdx) (s : State) : Res := storeS s v b x 8

/-! Vector loads and stores (R199 to R203). -/

/-- The memory formats of Table 13.3 beside the raw form. -/
inductive VFmt where
  | f32 | f16 | bf16 | i8 | i8n | b18
  deriving DecidableEq, Repr

/-- The bytes of an element and the width of the view. -/
def VFmt.size (f : VFmt) : Nat := match f with
  | .f32 => 4
  | .f16 => 2
  | .bf16 => 2
  | .i8 => 1
  | .i8n => 1
  | .b18 => 2
def VFmt.view (f : VFmt) : Nat := match f with
  | .i8n => 9
  | .b18 => 18
  | _ => 36

/-- The load conversion (R200): widening keeps subnormals and quiets a signalling NaN with INV. -/
def VFmt.toLane (f : VFmt) (x : Nat) : FR := match f with
  | .f32 => widen FP32 F36 x
  | .f16 => widen FP16 F36 x
  | .bf16 => widen BF16 F36 x
  | .i8 => ⟨encI 36 (decI 8 x), 0⟩
  | .i8n => ⟨encI 9 (decI 8 x), 0⟩
  | .b18 => widen BF16 B18 x

/-- The store conversion (R200): Round under MODE, or saturation whatever IWRAP holds. -/
def VFmt.ofLane (f : VFmt) (v : REnv) (i x : Nat) : FR := match f with
  | .f32 => cvtV v FP32 i (F36.decIn v x)
  | .f16 => cvtV v FP16 i (F36.decIn v x)
  | .bf16 => cvtV v BF16 i (F36.decIn v x)
  | .i8 => satR (decI 36 x) 8
  | .i8n => satR (decI 9 x) 8
  | .b18 => cvtV v BF16 i (B18.decIn v x)

/-- Whether a store of the format counts for RSEQ (R80). -/
def VFmt.counts (f : VFmt) : Bool := match f with
  | .i8 => false
  | .i8n => false
  | _ => true

/-- FMT codes of vlds, vgath and vscat (R201). -/
def vfmtOf (c : BitVec 4) : VFmt :=
  match c.toNat with
  | 0 => .f32
  | 1 => .f16
  | 2 => .bf16
  | 3 => .i8
  | 4 => .i8n
  | _ => .b18

/-- The active lanes with the addresses that `f` gives them. -/
def laneAddrs (act : List Bool) (f : Nat → Word) : List (Nat × Word) :=
  (List.range act.length).filterMap (fun i => if act.getD i false then some (i, f i) else none)

/-- The 64-byte granules that a list of addresses touches (R195). -/
def granuleCount (as : List (Nat × Word)) : Nat := ((as.map (fun x => x.2.toNat / 64)).eraseDups).length

/-- Checks every lane at issue, in lane order. -/
def State.checkLanes (s : State) (k : Acc) (al : Nat) : List (Nat × Word) → SlotR Unit
  | [] => .ok ()
  | (_, a) :: r => do
    s.issueCheck k a al
    s.checkLanes k al r

/-- The holds of every lane. -/
def State.holdLanes (s : State) (n : Nat) (st : Bool) : List (Nat × Word) → SlotR Unit
  | [] => .ok ()
  | (_, a) :: r => do
    if st then s.storeHold a n else s.elemHold a n
    s.holdLanes n st r

/-- What the lanes of a load have read: the state, the values so far, and the first fault. -/
structure LaneLd where
  s : State
  vals : List (Nat × Nat)
  fault : Option DFault

/-- Reads the lanes in order; the lowest faulting lane gives the whole row's fault (R203). -/
def readLanes (n : Nat) (as : List (Nat × Word)) (s : State) : LaneLd :=
  as.foldl (fun l x =>
    let (t, r) := l.s.loadElem x.2 n
    match r with
    | .ok bs => { l with s := t, vals := l.vals ++ [(x.1, leNat bs)] }
    | .error f => { l with s := t, fault := l.fault.or (some (s.dfault f x.2)) }) ⟨s, [], none⟩

/-- The first watch match among lanes, with the mask of all (R157). -/
def State.watchLanes (s : State) (isLd : Bool) (n : Nat) (as : List (Nat × Word)) : Option (Word × Nat) :=
  let ms := as.filterMap (fun x =>
    let m := s.ctx.watchMask isLd (!isLd) x.2 n none none
    if m = 0 then none else some (x.2, m))
  match ms with
  | [] => none
  | (a, _) :: _ => some (a, (ms.map Prod.snd).foldl Nat.lor 0)

/-- A vector load of the lanes given: the whole result, pending or local (R193, R199, R203). -/
def State.loadLanes (s : State) (d : BitVec 6) (pol : Bool) (long : Bool) (base : Word) (f : VFmt) (as : List (Nat × Word)) : SlotR State := do
  let w := f.view
  s.holdLanes f.size false as
  await (s.room (if long then granuleCount as else 0)) .queue
  let l := readLanes f.size as s
  let rs := (List.range (4608 / w)).map (fun i => (l.vals.find? (fun x => x.1 == i)).map (fun x => f.toLane x.2))
  let msk := laneMask w ((List.range (4608 / w)).map (fun i => as.any (fun x => x.1 == i)))
  let fl := l.fault.or ((s.watchLanes true f.size as).map (fun x => s.dfault { cause := 0x11, code := x.2 } x.1))
  let r := physV s.ctx d.toNat
  pure (if long then l.s.pendLoad ⟨3, r⟩ pol base (as.map Prod.snd) (laneRow w rs) msk (laneFlags rs) fl (granuleCount as)
    else l.s.postLocal ⟨3, r⟩ (laneRow w rs) msk (laneFlags rs) fl false)

/-- vld of a converting form (R199). The address itself is checked whatever the mask. -/
def loadV (s : State) (d b : BitVec 6) (x : MIdx) (f : VFmt) : Res :=
  finish s (do
    let r ← both (both (s.rdS b) (s.mdisp x)) (both s.rdMask (s.dstV d))
    let a := r.1.1 + r.1.2
    let as := laneAddrs (actives f.view r.2.1) (fun i => a + BitVec.ofNat 64 (i * f.size))
    s.issueCheck .vld a f.size
    s.checkLanes .vld f.size as
    let t ← s.loadLanes d (32 ≤ b.toNat) (longPath a) a f as
    pure (t.baseUpd (midxExt x).u b a))

/-- The 72 units of a raw row at an address. -/
def rawUnits (a : Word) : List (Nat × Word) := (List.range 72).map (fun i => (i, a + BitVec.ofNat 64 (8 * i)))

/-- The checks of a raw access: a row of path 0x12 or 0x16 as one, the units of any other path one by one. -/
def State.rawCheck (s : State) (k : Acc) (a : Word) : SlotR Unit := do
  s.issueCheck k a 8
  if selOf a = 0x12 ∨ selOf a = 0x16 then pure () else s.checkLanes k 8 (rawUnits a)

/-- vld, raw (R199): all 576 bytes, whatever MSEL. A row of path 0x12 is read like any Z row. -/
def execVld (d b : BitVec 6) (x : MIdx) (s : State) : Res :=
  finish s (do
    let r ← both (both (s.rdS b) (s.mdisp x)) (s.dstV d)
    let a := r.1.1 + r.1.2
    s.rawCheck .rawLd a
    let row := physV s.ctx d.toNat
    let wf := (s.watchLanes true 576 [(0, a)]).map (fun x => s.dfault { cause := 0x11, code := x.2 } x.1)
    let t ← (if selOf a = 0x12 then
        match tilePlace s.ctx (lowOf a) with
        | .row _ q _ => do
          let v ← s.rdRow q
          pure (s.postLocal ⟨3, row⟩ v allRow 0 wf false)
        | _ => pure s
      else do
        let us := rawUnits a
        s.holdLanes 8 false us
        await (s.room (if longPath a then granuleCount us else 0)) .queue
        let l := readLanes 8 us s
        let v : Row := BitVec.ofNat 4608 (packW 64 (l.vals.map Prod.snd))
        let f := l.fault.or wf
        pure (if longPath a then l.s.pendLoad ⟨3, row⟩ (32 ≤ b.toNat) a (us.map Prod.snd) v allRow 0 f (granuleCount us)
          else l.s.postLocal ⟨3, row⟩ v allRow 0 f false))
    pure (t.baseUpd (midxExt x).u b a))

/-- Translates every lane of a store at issue; the lowest faulting lane traps (R203). Every lane has passed its path, address, align and bounds
checks by then: one that fails those is reported before a lower one that fails translation (DESIGN CHOICE, log 125). -/
def State.placeLanes (s : State) : List (Nat × Word) → SlotR (State × List (Nat × Word × Place))
  | [] => .ok (s, [])
  | (i, a) :: r =>
    match s.storePlace a with
    | .error f => trapS (fltTrap f a)
    | .ok (t, p) => do
      let q ← t.placeLanes r
      pure (q.1, (i, a, p) :: q.2)

/-- Clears the marks of the lines and units that elements of n bytes, which do not overlap, cover whole (R348). -/
def State.clearCovered (s : State) (n : Nat) (ps : List Place) : State :=
  let dev := ps.filterMap (fun p => match p with
    | .dev pa => some pa
    | _ => none)
  let buf := ps.filterMap (fun p => match p with
    | .buf b k => some (unitKey b k)
    | .span b k lo len base => (spanSegs k n lo len base).head?.map (fun x => unitKey b x.1)
    | _ => none)
  let s1 := (dev.map (fun pa => pa / 64)).eraseDups.foldl (fun t l =>
    if (dev.filter (fun pa => pa / 64 == l)).length * n = 64 then
      match t.shadow? t.ctx.arr (64 * l) with
      | some h => { t with shadows := t.shadows.map (fun x => if x = h then { x with bad := x.bad.filter (fun y => y ≠ l % 1024) } else x) }
      | none => t.markLine (64 * l) false
    else t) s
  buf.eraseDups.foldl (fun t u =>
    if (buf.filter (fun v => v == u)).length * n = 8 then { t with pbuf := tabSet false t.pbuf u false } else t) s1

/-- Performs the element stores in lane order. -/
def State.putLanes (s : State) (n : Nat) (vs : Nat → Nat) : List (Nat × Word × Place) → SlotR State
  | [] => .ok s
  | (i, a, p) :: r => do
    let t ← s.storeElem a p (leBytes n (vs i)) false
    t.putLanes n vs r

/-- A vector store of the lanes given: flags and enabled traps at the boundary after its bundle (R200, R203). -/
def State.storeLanes (s : State) (f : VFmt) (row : Row) (as : List (Nat × Word)) (whole : Bool) : SlotR State := do
  await (s.room (granuleCount (as.filter (fun x => longPath x.2)))) .queue
  s.holdLanes f.size true as
  let q ← s.placeLanes as
  let xs := lanes f.view row
  let v := s.renv
  let rs := as.map (fun x => (x.1, f.ofLane v x.1 (xs.getD x.1 0)))
  let t ← q.1.putLanes f.size (fun i => ((rs.find? (fun x => x.1 == i)).map (fun x => x.2.bits)).getD 0) q.2
  let t1 := if whole then t.clearCovered f.size (q.2.map (fun x => x.2.2)) else t
  let t2 := t1.postF (orFlags (rs.map (fun x => x.2.flags)))
  pure (if f.counts then t2.count else t2)

/-- vst of a converting form (R199). -/
def storeV (s : State) (v b : BitVec 6) (x : MIdx) (f : VFmt) : Res :=
  finish s (do
    let r ← both (both (s.rdV v) s.rdMask) (both (s.rdS b) (s.mdisp x))
    let a := r.2.1 + r.2.2
    let as := laneAddrs (actives f.view r.1.2) (fun i => a + BitVec.ofNat 64 (i * f.size))
    s.issueCheck .vst a f.size
    s.checkLanes .vst f.size as
    let t ← s.storeLanes f r.1.1 as true
    pure (t.baseUpd (midxExt x).u b a))

/-- vst, raw (R199). The first address that a watchpoint matches is that of the first of its 8-byte units that does, as an element's is its lane's
(DESIGN CHOICE, log 121). -/
def execVst (v b : BitVec 6) (x : MIdx) (s : State) : Res :=
  finish s (do
    let r ← both (s.rdV v) (both (s.rdS b) (s.mdisp x))
    let a := r.2.1 + r.2.2
    s.rawCheck .rawSt a
    let us := rawUnits a
    await (s.room (if longPath a then granuleCount us else 0)) .queue
    s.holdLanes 8 true us
    let q ← s.placeLanes us
    let t ← q.1.putLanes 8 (fun i => r.1.toNat / 2 ^ (64 * i) % 2 ^ 64) q.2
    pure ((t.clearCovered 8 (q.2.map (fun x => x.2.2))).baseUpd (midxExt x).u b a))

def execVldF32 (d b : BitVec 6) (x : MIdx) (s : State) : Res := loadV s d b x .f32
def execVldF16 (d b : BitVec 6) (x : MIdx) (s : State) : Res := loadV s d b x .f16
def execVldBf16 (d b : BitVec 6) (x : MIdx) (s : State) : Res := loadV s d b x .bf16
def execVldI8 (d b : BitVec 6) (x : MIdx) (s : State) : Res := loadV s d b x .i8
def execVldI8n (d b : BitVec 6) (x : MIdx) (s : State) : Res := loadV s d b x .i8n
def execVldB18 (d b : BitVec 6) (x : MIdx) (s : State) : Res := loadV s d b x .b18
def execVstF32 (v b : BitVec 6) (x : MIdx) (s : State) : Res := storeV s v b x .f32
def execVstF16 (v b : BitVec 6) (x : MIdx) (s : State) : Res := storeV s v b x .f16
def execVstBf16 (v b : BitVec 6) (x : MIdx) (s : State) : Res := storeV s v b x .bf16
def execVstI8 (v b : BitVec 6) (x : MIdx) (s : State) : Res := storeV s v b x .i8
def execVstI8n (v b : BitVec 6) (x : MIdx) (s : State) : Res := storeV s v b x .i8n
def execVstB18 (v b : BitVec 6) (x : MIdx) (s : State) : Res := storeV s v b x .b18

/-- vlds (R201): the stride is the signed value of a scalar. -/
def execVlds (d b o : BitVec 6) (x : VIdx) (s : State) : Res :=
  finish s (do
    let r ← both (both (s.rdS b) (s.rdS o)) (both s.rdMask (s.dstV d))
    let a := r.1.1 + vidxDisp x
    let f := vfmtOf x.x.fmt
    let as := laneAddrs (actives f.view r.2.1) (fun i => a + BitVec.ofNat 64 i * r.1.2)
    s.checkLanes .vld f.size as
    let t ← s.loadLanes d (32 ≤ b.toNat) (longPath a || as.any (fun y => longPath y.2)) a f as
    pure (t.baseUpd x.x.u b a))

/-- The offset of lane i of an offset vector, sign-extended. -/
def laneOff (o : Row) (i : Nat) : Word := BitVec.ofInt 64 (decI 36 (o.toNat / 2 ^ (36 * i) % 2 ^ 36))

/-- vgath (R202). -/
def execVgath (d b o : BitVec 6) (x : VIdx) (s : State) : Res :=
  finish s (do
    let r ← both (both (s.rdS b) (s.rdV o)) (both s.rdMask (s.dstV d))
    let a := r.1.1 + vidxDisp x
    let f := vfmtOf x.x.fmt
    let as := laneAddrs (actives 36 r.2.1) (fun i => a + laneOff r.1.2 i)
    s.checkLanes .vld f.size as
    let t ← s.loadLanes d (32 ≤ b.toNat) (longPath a || as.any (fun y => longPath y.2)) a f as
    pure (t.baseUpd x.x.u b a))

/-- vscat (R202): lanes are stored in increasing order. The checks of R163 come for every lane before any lane's translation (R203; DESIGN CHOICE,
log 125). -/
def execVscat (v b o : BitVec 6) (x : VIdx) (s : State) : Res :=
  finish s (do
    let r ← both (both (s.rdV v) (s.rdV o)) (both s.rdMask (s.rdS b))
    let a := r.2.2 + vidxDisp x
    let f := vfmtOf x.x.fmt
    let as := laneAddrs (actives 36 r.2.1) (fun i => a + laneOff r.1.2 i)
    s.checkLanes .vst f.size as
    let t ← s.storeLanes f r.1.1 as false
    pure (t.baseUpd x.x.u b a))

/-! Atomics (R182, R204 to R206). -/

/-- The new value of an amo on n bits (Table 13.4). -/
def amoNew (op n x y : Nat) : Nat :=
  let sg (v : Nat) : Int := decI n v
  match op with
  | 0 => y
  | 1 => (x + y) % 2 ^ n
  | 2 => Nat.land x y
  | 3 => Nat.lor x y
  | 4 => Nat.xor x y
  | 5 => if sg x ≤ sg y then x else y
  | 6 => if sg x ≤ sg y then y else x
  | 7 => min x y
  | _ => max x y

/-- What an atomic meets at its location: the state with its translation made, the place and the old bytes, or the fault. -/
def State.atomRead (s : State) (a : Word) (n : Nat) : SlotR (State × Place × Except Flt Nat) :=
  match s.storePlace a with
  | .error f => trapS (fltTrap f a)
  | .ok (t, p) => match t.readPlace s.ctx.arr p n with
    | .ok bs => .ok (t, p, .ok (leNat bs))
    | .error f => .ok (t, p, .error f)

/-- The result of an atomic for d, at group 18. -/
def State.postAtom (s : State) (d : BitVec 5) (v : Nat) (f : Option DFault) : State :=
  s.post { s.pend ⟨0, d.toNat⟩ (s.ctx.latOf 18) (BitVec.ofNat 4608 v) allRow 0 with fault := f }

/-- amo (R204, R206). One that meets poison, or that its far side refuses, has written and read no value: no watchpoint matches it (DESIGN CHOICE,
log 120). -/
def execAmo (d : BitVec 5) (b o : BitVec 6) (x : AmoX) (s : State) : Res :=
  finish s (do
    let r ← both (both (s.rdS b) (s.rdS o)) (s.dstS d.toNat)
    let a := r.1.1
    let n := if x.size.toNat = 0 then 4 else 8
    s.issueCheck (.amo (x.aop.toNat ≤ 1)) a n
    await (s.room 1) .queue
    s.storeHold a n
    let q ← s.atomRead a n
    let t := q.1
    if t.farFails s.ctx.arr q.2.1 true then pure ((t.farUse q.2.1).complTrap (fltTrap (aflt 0) a))
    else match q.2.2 with
      | .error f => pure ((t.farUse q.2.1).postAtom d 0 (some (s.dfault f a)))
      | .ok old =>
        let new := amoNew x.aop.toNat (8 * n) old (r.1.2.toNat % 2 ^ (8 * n))
        let t1 := (t.farUse q.2.1).writePlace s.ctx.arr q.2.1 (leBytes n new)
        let m := s.ctx.watchMask true true a n (some (BitVec.ofNat 64 new)) (some (BitVec.ofNat 64 old))
        pure ((t1.postAtom d old none).watchTrap a m))

/-- cas (R205, R206): the comparand is d on entry. Watchpoints match it as they do an amo. -/
def execCas (d : BitVec 5) (b o : BitVec 6) (x : AmoX) (s : State) : Res :=
  finish s (do
    let r ← both (both (s.rdS b) (s.rdS o)) (s.rdSn d.toNat false)
    let a := r.1.1
    let n := if x.size.toNat = 0 then 4 else 8
    s.issueCheck (.amo true) a n
    await (s.room 1) .queue
    s.storeHold a n
    let q ← s.atomRead a n
    let t := q.1
    let lat := s.ctx.latOf 18
    if t.farFails s.ctx.arr q.2.1 true then pure ((t.farUse q.2.1).complTrap (fltTrap (aflt 0) a))
    else match q.2.2 with
      | .error f => pure (((t.farUse q.2.1).postAtom d 0 (some (s.dfault f a))).postP x.ps.toNat lat false)
      | .ok old =>
        let ok := old == r.2.toNat % 2 ^ (8 * n)
        let new := r.1.2.toNat % 2 ^ (8 * n)
        let t0 := t.farUse q.2.1
        let t1 := if ok then t0.writePlace s.ctx.arr q.2.1 (leBytes n new) else t0
        let m := s.ctx.watchMask true true a n (some (BitVec.ofNat 64 (if ok then new else old)))
          (if ok then some (BitVec.ofNat 64 old) else none)
        pure (((t1.postAtom d old none).postP x.ps.toNat lat ok).watchTrap a m))

/-! Ordering and prefetch (R174 to R176, R207 to R209). -/

/-- fence (R207): every access performs in one order already (log 1); one behind a `tcvt` in flight waits for its write
(R260). -/
def execFence (_sc : BitVec 3) (s : State) : Res :=
  finish s (do
    await (!s.tcvtOut) .order
    pure s)

/-- fence.ro (R176): path 0x01 reads return the value in memory, so none is older than a fence.ro allows. -/
def execFenceRo (_sc : BitVec 3) (s : State) : Res :=
  finish s (do
    await (!s.tcvtOut) .order
    pure s)

/-- drain (R175, R208): the next bundle waits until every earlier load of the context has replied; every earlier write of its slots
but a tcvt's has performed already. -/
def execDrain (s : State) : Res :=
  finish s (do
    await (!s.tcvtOut) .order
    pure { s with iss := { s.iss with drains := true } })

/-- pref (R209): no effect but a base update. -/
def execPref (b : BitVec 6) (x : MIdx) (s : State) : Res :=
  finish s (do
    let a ← s.maddr b x
    pure (s.baseUpd (midxExt x).u b a))

end Sys2Proof.Machine
end

