-- ==== Sys2Proof/Machine/Pool.lean ====
section
/-! DEFINITION. Pending-launch pools (R221, R222, R295), join counters (R223), and the order and the reservation of the deadline heap (R288,
R291). -/

namespace Sys2Proof.Machine

/-- A pool's header, at a device physical address (R295). -/
structure PoolHead where
  at_ : Nat
  cap : Nat
  head : Nat
  tail : Nat
  ocap : Nat
  deriving DecidableEq, Repr

/-- Whether an address holds no pool header that can be read: it is 0, outside memory, or in a poisoned line (R26). -/
def State.poolLost (s : State) (a : Nat) : Bool := a == 0 || s.devSize < a + 64 || s.poisoned a

/-- Reads a pool's header; an address outside memory, or a poisoned one (R26), has no room. -/
def State.poolAt (s : State) (a : Nat) : PoolHead :=
  if s.poolLost a then ⟨a, 0, 0, 0, 0⟩
  else ⟨a, memNat s.mem a 4, memNat s.mem (a + 8) 8, memNat s.mem (a + 0x10) 8, memNat s.mem (a + 0x18) 8⟩

/-- The address of entry i. -/
def PoolHead.slot (p : PoolHead) (i : Nat) : Nat := p.at_ + 64 + 192 * (i % p.cap)

/-- Whether a pool of capacity `cap` has room for n entries. -/
def PoolHead.fits (p : PoolHead) (n : Nat) : Bool := p.tail - p.head + n ≤ p.cap

/-- Whether a line of entry i is poisoned, so that it cannot be read (R26, R348). -/
def State.entryLost (s : State) (p : PoolHead) (i : Nat) : Bool := (List.range 192).any (fun k => s.poisoned (p.slot i + k))

/-- Appends an entry. -/
def State.poolPush (s : State) (p : PoolHead) (e : List Byte) : State :=
  (s.devPut (p.slot p.tail) e).devNat (p.at_ + 0x10) 8 (p.tail + 1)

/-- Appends a record's entry to the pool of its RCB. -/
def State.poolAdd (s : State) (p : PoolHead) (e : List Byte) : State :=
  let rcb := leNat ((e.drop 8).take 8)
  let t := s.poolPush p e
  { t with pools := if t.pools.contains rcb then t.pools else t.pools ++ [rcb] }

/-- The name of a pool among the places that packets come by: above those of the queues. -/
def poolKey (a : Nat) : Nat := 4096 + a

/-- The overflow area of an RCB: the layout of a pool at SPILLA, with the capacity that the pool's header gives; one that cannot be used has no
room (R222). -/
def State.overflowAt (s : State) (r : Rcb) : PoolHead :=
  let o := s.poolAt r.spilla
  if s.poolLost r.spilla then o else { o with cap := (s.poolAt r.pool).ocap }

/-- The Milliner moves every pool entry, oldest first, into the overflow area (R222, R295), `n` entries at most; it moves
none where they do not fit or MBUDGET would be exceeded. Poison moves with an entry (R348). -/
def State.moveEntries (s : State) (pool : Nat) (spill cap : Nat) : Nat → State
  | 0 => s
  | n + 1 =>
    let p := s.poolAt pool
    if p.head < p.tail then
      let e := memRead s.mem (p.slot p.head) 192
      let o : PoolHead := { s.poolAt spill with cap := cap }
      let v := s.poolPush o e
      let w := if s.entryLost p p.head then (List.range 3).foldl (fun t i => t.markLine (o.slot o.tail + 64 * i) true) v else v
      let t := w.devNat (pool + 8) 8 (p.head + 1)
      let u : State := { t with depSeen := t.depSeen.map (fun d =>
        if d.1 = poolKey pool ∧ d.2.1 = p.head then (poolKey spill, o.tail, d.2.2) else d) }
      State.moveEntries u pool spill cap n
    else s

/-- Whether the overflow area can take every entry of the pool. -/
def State.canSpill (s : State) (rcb : Nat) : Bool :=
  let r := s.rcb rcb
  let p := s.poolAt r.pool
  let n := p.tail - p.head
  (s.overflowAt r).fits n && (match s.chain rcb with
    | some ch => canCharge 2 Rcb.mused Rcb.mbudget (192 * n) ch
    | none => false)

/-- The spill that a launcht waits for. -/
def State.spillPool (s : State) (rcb : Nat) : State :=
  if s.canSpill rcb then
    let r := s.rcb rcb
    let p := s.poolAt r.pool
    let n := p.tail - p.head
    let t := (s.chargeMem rcb (192 * n)).getD s
    { t.moveEntries r.pool r.spilla p.ocap n with spills := s.spills.filter (fun x => x ≠ rcb) }
  else { s with spills := s.spills.filter (fun x => x ≠ rcb) }

/-- What placing a launch record comes to. -/
inductive Placed where
  | accepted (s : State)
  | full
  | badRec
  | budget
  | overflow

/-- Whether placing a record keeps every budget of its chain (R221): its cost estimate against CBUDGET and its run queue's 32 bytes
against MBUDGET (log 21). A chain that is no chain is left to admission. -/
def State.budgetOk (s : State) (rec128 : List Byte) : Bool :=
  match s.chain (numAt rec128 8 8) with
  | none => true
  | some ch => canCharge 1 Rcb.cused Rcb.cbudget (numAt rec128 0x28 4) ch && canCharge 2 Rcb.mused Rcb.mbudget 32 ch

/-- The pool entry of a record: the record, the launching context's identity (its leaf RCB, launch, task and rank) and its timeline
values (R295). -/
def poolEntry (c : Ctx) (rcb : Nat) (rec128 : List Byte) : List Byte :=
  rec128.take 128 ++ leBytes 5 rcb ++ leBytes 6 c.arr ++ leBytes 4 c.task ++ leBytes 1 c.rank
    ++ (List.range 6).flatMap (fun i => leBytes 8 (c.tls.getD i {}).done)

/-- The leaf RCB of a launch. -/
def State.leafOf (s : State) (arr : Nat) : Nat :=
  match s.launch? arr with
  | some l => l.rcb
  | none => 0

/-- Places a launch record (R221): a BADREC first, then the budgets, then the pool's room. -/
def State.placeRec (s : State) (c : Ctx) (rec128 : List Byte) : Placed :=
  let rcb := numAt rec128 8 8
  if rcb = 0 ∨ rcb / 2 ^ 56 ≠ 0 then .badRec
  else if !s.budgetOk rec128 then .budget
  else
    let p := s.poolAt (s.rcb rcb).pool
    if p.fits 1 then .accepted (s.poolAdd p (poolEntry c (s.leafOf c.arr) rec128))
    else if s.canSpill rcb then .full
    else .overflow

/-- For whom a join is done: the launch, 0 for none, its RCB and the RCB's error route. -/
structure Joiner where
  arr : Nat
  rcb : Nat
  route : Option Nat

/-- A task's launch as a joiner. -/
def State.joiner (s : State) (arr : Nat) : Joiner :=
  match s.launch? arr with
  | some l => ⟨arr, l.rcb, some l.eroute⟩
  | none => ⟨arr, 0, none⟩

/-- The record of kind 9 of a join (R223). -/
def State.joinRec (s : State) (j : Joiner) (a : Word) (synd : Nat) : State :=
  s.sendRec { kind := 9, synd := synd, addr := a.toNat, launch := j.arr, rcb := j.rcb } j.route

/-- Decrements a join counter at a physical address (R223). -/
def State.joinAt (s : State) (j : Joiner) (a : Word) (pa : Nat) : State :=
  if s.poisoned pa then s.joinRec j a 1
  else
    let v := memNat s.mem pa 8
    if v = 0 then s.joinRec j a 0 else s.devNat pa 8 (v - 1)

/-! The deadline heap (R288). -/

/-- DEADL of a packet (Table 19.2). -/
def pkDeadl (p : List Byte) : Nat := numAt p 0x20 8

/-- The launches in the heap. -/
def State.heap (s : State) : List Launch := s.launches.filter (fun l => l.inHeap)

/-- The order of the heap (R288). -/
def keyBelow (a b : Launch) : Bool :=
  a.prio < b.prio || (a.prio == b.prio && (pkDeadl a.packet < pkDeadl b.packet || (pkDeadl a.packet == pkDeadl b.packet && a.arr < b.arr)))
def insertKey (x : Launch) : List Launch → List Launch
  | [] => [x]
  | y :: ys => if keyBelow x y then x :: y :: ys else y :: insertKey x ys
/-- An entry that follows its producer's in the heap leaves it with that one (R335), as long as the producer still places tasks. -/
def State.follows (s : State) (l : Launch) : Bool :=
  match l.fuse with
  | some f => f.origin == 2 && (match s.launch? f.mate with
    | some p => !p.stopped
    | none => false)
  | none => false
def State.ordered (s : State) : List Launch := (s.heap.filter (fun l => !s.follows l)).foldl (fun acc l => insertKey l acc) []

/-- The cores reserved for the heap's top entry: a reservation ends when another entry is the top (R291). -/
def State.resv (s : State) : List Nat :=
  match s.ordered with
  | l :: _ => if l.arr = s.resvFor then s.reserved else []
  | [] => []

/-- After a change of the heap a reservation for an entry that is not the top is over. -/
def State.endReserve (s : State) : State := if s.resv.isEmpty then { s with reserved := [], resvFor := 0 } else s

end Sys2Proof.Machine
end

