-- ==== Sys2Proof/Machine/Engine.lean ====
section
/-! DEFINITION. Class E: handing work to the engines, waiting for it, launches, joins, barriers and signals (R210 to R225). -/

namespace Sys2Proof.Machine

/-- The lead of a gang: its lowest rank that has not taken its exit, in whose name rules speak of rank 0 (R37, R144). -/
def State.lead (s : State) (g : Nat) : Nat :=
  match ((s.members g).filter Ctx.active).head? with
  | some c => c.rank
  | none => 0

/-- Whether the current context leads its gang. -/
def State.isLead (s : State) : Bool := s.lead s.ctx.gang == s.ctx.rank

/-- Whether the gang of the current context has more than one rank that takes part. -/
def State.wide (s : State) : Bool := 1 < ((s.members s.ctx.gang).filter Ctx.active).length

/-- A gang operation (R212): it waits, by the hold `h`, until every rank has it as its next bundle and is otherwise ready. -/
def State.gangGate (s : State) (h : Hold := .gate) : SlotR State := do
  await (!s.wide || (match s.gang? s.ctx.gang with
    | some g => g.opened.contains s.ctx.rank
    | none => true)) h
  pure { s with iss := { s.iss with gangOp := true } }

/-- The result that the lead's slot of this bundle left for the other ranks, by the slot's class: 0 for E and 1 for Y. -/
def State.sharedWord (s : State) (k : Nat) : Word :=
  match s.gang? s.ctx.gang with
  | some g => ((g.shared.find? (fun x => x.1 == 2 * s.ctx.bseq + k)).map Prod.snd).getD 0
  | none => 0

/-- Whether the lead's slot of this bundle has left it. -/
def State.hasShared (s : State) (k : Nat) : Bool :=
  match s.gang? s.ctx.gang with
  | some g => g.shared.any (fun x => x.1 == 2 * s.ctx.bseq + k)
  | none => true

/-- The lowest bundle number to which a context may return. -/
def Ctx.base (c : Ctx) : Nat := if c.inh then min c.resumeSeq c.bseq else c.bseq

/-- The lowest bundle number to which a rank of the current gang may return: what belongs to lower ones is not needed any more. -/
def State.lowSeq (s : State) : Nat := (((s.members s.ctx.gang).filter Ctx.active).map Ctx.base).foldl Nat.min s.ctx.base

/-- Leaves a result of the lead's slot for the other ranks. -/
def State.share (s : State) (k : Nat) (w : Word) : State :=
  match s.gang? s.ctx.gang with
  | some g => s.setGang { g with shared := (g.shared.filter (fun x => 2 * s.lowSeq ≤ x.1)) ++ [(2 * s.ctx.bseq + k, w)] }
  | none => s

/-- Reads n bytes at an S offset of a context, n a multiple of 64 (R211): through the window, or through SPOVF beyond it; the state holds
what the walker has set. -/
def State.readS (s : State) (c : Ctx) (a : Word) (n : Nat) : Except Flt (State × List Byte) :=
  (List.range (n / 8)).foldl (fun acc i => match acc with
    | .error f => .error f
    | .ok (t, bs) => match t.place c (a + BitVec.ofNat 64 (8 * i)) false with
      | .error f => .error f
      | .ok (p, e) => match t.readPlace c.arr p 8 with
        | .error f => .error f
        | .ok b => .ok (t.touched c e false, bs ++ b)) (.ok (s, []))

/-- Whether an S access of a context lies in its window or its overflow area. -/
def descBounds (c : Ctx) (a : Word) (n : Nat) : Bool := c.inBounds a && c.inBounds (a + BitVec.ofNat 64 (n - 1))

/-- Reads a descriptor or record of a context at its address (R211): the path, align and bounds checks, then the bytes, where a
failure is an address or poison trap of the bundle and meeting poison is a consumption. -/
def State.readDesc (s : State) (c : Ctx) (a : Word) (n : Nat) : SlotR (State × List Byte) := do
  need (selOf a == 0x13) { cause := 0x08, addr := a }
  need (wfld a 0 6 == 0) { cause := 0x09, addr := a }
  need (descBounds c a n) { cause := 0x0A, addr := a }
  match s.place c a false with
  | .ok (p, _) => await (!s.tcvtHits 3 (p.segs n)) .busy
  | _ => pure ()
  match s.readS c a n with
  | .ok x => pure x
  | .error f => trapS { fltTrap f a with cause := if f.cause = 0x0F then 0x0F else 0x07, cons := f.cause == 0x0F }

/-- The watch for a full engine queue: at most 64 unfinished operations on a timeline (R183). -/
def State.tlRoom (s : State) (tl : Nat) : SlotR Unit :=
  await ((s.engs.filter (fun e => e.gang == s.ctx.gang && e.rank == s.ctx.rank && e.tl == tl)).length < 64) .queue

/-- Timeline i of a context. -/
def Ctx.tl (c : Ctx) (i : Nat) : TLine := c.tls.getD i {}

/-- Replaces timeline i. -/
def Ctx.setTl (c : Ctx) (i : Nat) (t : TLine) : Ctx := { c with tls := (List.range 6).map (fun j => if j = i then t else c.tl j) }

/-- Replaces write pointer ch. -/
def Ctx.setWp (c : Ctx) (ch : Nat) (w : WPtr) : Ctx := { c with wps := (List.range 4).map (fun j => if j = ch then w else c.wps.getD j {}) }

/-- Hands an operation to an engine (R183, R211): the next number of its timeline and a leaf index. -/
def State.enqueue (s : State) (tl : Nat) (words : List Nat) (desc : List Byte) (blk : Option XDrain) (dst : Word) : State :=
  let c := s.ctx
  let n := (c.tl tl).issued + 1
  let e : EngOp :=
    { core := c.core, cid := c.cid, gang := c.gang, arr := c.arr, task := c.task, rank := c.rank, ord := s.iss.ord,
      words := words, tl := tl, num := n, desc := desc, lidx := s.nextLeaf, pc := c.pc, text := c.text, step := c.step,
      mode := c.mode, depth := c.regions.length, block := blk, dst := dst, delivered := 0, srcBytes := [], dropped := false, port := none, iter := c.fz.turn }
  let s1 := s.takeLeaf
  { s1 with engs := s1.engs ++ [e], ctx := s1.ctx.setTl tl { c.tl tl with issued := n } }

/-- A field of a descriptor, as a signed 64-bit number. -/
def sgnAt (bs : List Byte) (o : Nat) : Int := (BitVec.ofNat 64 (numAt bs o 8)).toInt

/-- Whether an address selects a W, A or S window. -/
def inWindow (a : Nat) : Bool := a / 2 ^ 56 == 0x10 || a / 2 ^ 56 == 0x11 || a / 2 ^ 56 == 0x13

/-- The first field of a copy descriptor outside its limits (R211, R213). -/
def copyBad (d : List Byte) : Option Nat :=
  let len := numAt d 0x10 4
  let rows := numAt d 0x14 4
  if 2 ^ 24 < len then some len
  else if 65536 < rows then some rows
  else if 2 ^ 32 < len * rows then some (len * rows)
  else if numAt d 0x28 4 / 2 ≠ 0 then some (numAt d 0x28 4)
  else if numAt d 0x2C 20 ≠ 0 then some (numAt d 0x2C 8)
  else if inWindow (numAt d 8 8) ∧ 1 < rows ∧ sgnAt d 0x20 < len then some (numAt d 0x20 8)
  else none

/-- In a fused task the copy just enqueued may be a port copy (R343): descriptors that do not pair raise an operand trap of the bundle that
holds C's copy. -/
def State.asPort (s : State) (d : List Byte) : SlotR State :=
  match s.portOf s.ctx with
  | none => .ok s
  | some i => match s.portIssue i d with
    | .error x => trapS { opTrap (BitVec.ofNat 64 (numAt x 0 8)) with ofC := (s.fuseOf s.ctx).any (fun f => f.origin == 1) }
    | .ok t =>
      let n := t.engs.length - 1
      .ok { t with engs := (List.range t.engs.length).zip t.engs |>.map (fun x => if x.1 = n then { x.2 with port := some i } else x.2)
                   ctx := { t.ctx with fz := { t.ctx.fz with issued := i + 1 } } }

/-- copy (R213). -/
def execCopy (d : BitVec 5) (a : BitVec 6) (ch : BitVec 2) (s : State) : Res :=
  finish s (do
    need (!s.ctx.inh) { cause := 0x04 }
    let r ← both (s.rdS a) (s.dstS d.toNat)
    let x ← s.readDesc s.ctx r.1 64
    let ds := x.2
    match copyBad ds with
    | some v => trapS (opTrap (BitVec.ofNat 64 v))
    | none => do
      s.leafGate
      s.tlRoom ch.toNat
      let t := x.1.enqueue ch.toNat [s.iss.word] ds none 0
      let n := (t.ctx.tl ch.toNat).issued
      let t0 ← t.asPort ds
      let t1 : State := { t0 with ctx := t0.ctx.setWp ch.toNat ⟨0, numAt ds 0x10 4 * numAt ds 0x14 4, n⟩ }
      pure (t1.postS d.toNat (s.ctx.latOf 16) (BitVec.ofNat 64 n)))

/-- The first field of a collective descriptor outside its limits (Table 13.7). -/
def collBad (d : List Byte) : Option Nat :=
  let n := numAt d 0x1C 4
  if 32768 < numAt d 0x10 4 then some (numAt d 0x10 4)
  else if 3 < numAt d 0x14 1 then some (numAt d 0x14 1)
  else if 4 < numAt d 0x15 1 then some (numAt d 0x15 1)
  else if 4 < numAt d 0x16 1 then some (numAt d 0x16 1)
  else if 80 < numAt d 0x17 1 then some (numAt d 0x17 1)
  else if n = 0 ∨ 2 ^ 29 < n then some n
  else if n ≤ numAt d 0x20 4 then some (numAt d 0x20 4)
  else if n ≤ numAt d 0x24 4 then some (numAt d 0x24 4)
  else if numAt d 0x28 24 ≠ 0 then some (numAt d 0x28 8)
  else none

/-- coll (R215). -/
def execColl (d : BitVec 5) (a : BitVec 6) (s : State) : Res :=
  finish s (do
    need (!s.ctx.inh) { cause := 0x04 }
    let r ← both (s.rdS a) (s.dstS d.toNat)
    let x ← s.readDesc s.ctx r.1 64
    let ds := x.2
    match collBad ds with
    | some v => trapS (opTrap (BitVec.ofNat 64 v))
    | none => do
      s.leafGate
      s.tlRoom 5
      let t := x.1.enqueue 5 [s.iss.word] ds none 0
      pure (t.postS d.toNat (s.ctx.latOf 16) (BitVec.ofNat 64 (t.ctx.tl 5).issued)))

/-- waittl (R184, R218): the wait, then the first failure not yet reported. -/
def execWaittl (tl : BitVec 4) (a : BitVec 6) (s : State) : Res :=
  finish s (do
    let n ← s.rdS a
    let t : TLine := if tl.toNat < 6 then s.ctx.tl tl.toNat else {}
    need (n.toNat ≤ t.issued) (opTrap n)
    await (n.toNat ≤ t.done) .wait
    match leastOf (t.fails.filter (fun k => k ≤ n.toNat)) with
    | some k => trapS { cause := 0x0E, info1 := tl.zeroExtend 64, info2 := BitVec.ofNat 64 k }
    | none => pure s)

/-- tlrd (R219). -/
def execTlrd (d : BitVec 5) (tl : BitVec 4) (s : State) : Res :=
  finish s (do
    let _ ← s.dstS d.toNat
    let v := if tl.toNat < 6 then (s.ctx.tl tl.toNat).done else 0
    pure (s.postS d.toNat (s.ctx.latOf 16) (BitVec.ofNat 64 v)))

/-- waitwp (R186, R220). -/
def execWaitwp (ch : BitVec 2) (a : BitVec 6) (s : State) : Res :=
  finish s (do
    let n ← s.rdS a
    let w := s.ctx.wps.getD ch.toNat {}
    let t := s.ctx.tl ch.toNat
    let fin := w.num ≤ t.done || t.fins.contains w.num
    need (n == 0 || w.num != 0) (opTrap n)
    if n = 0 ∨ n.toNat ≤ w.val.toNat then pure s
    else do
      await fin .wait
      if t.fails.contains w.num then trapS { cause := 0x0E, info1 := ch.zeroExtend 64, info2 := BitVec.ofNat 64 w.num } else pure s)

/-- What a launch or launcht of the lead does with its record (R221, R222): the status to share, or the trap. A shadowed launch
holds the record until its commit, and launch still returns ACCEPTED (R312). -/
def State.doLaunch (s : State) (a : Word) (wait : Bool) : SlotR (State × Word) := do
  let x ← s.readDesc s.ctx a 128
  let bs := x.2
  let u := x.1
  let rcb := numAt bs 8 8
  if s.shadowed s.ctx.arr ∧ ¬ (rcb = 0 ∨ rcb / 2 ^ 56 ≠ 0) then
    match u.launch? s.ctx.arr with
    | some l => pure (u.setLaunch { l with held := l.held ++ [(if wait then 1 else 0, poolEntry s.ctx l.rcb bs, a)] }, 0)
    | none => pure (u, 0)
  else match u.placeRec s.ctx bs with
    | .accepted t => pure (t, 0)
    | .badRec => if wait then trapS (opTrap (BitVec.ofNat 64 rcb)) else pure (u, 2)
    | .budget => pure (u, 3)
    | .overflow => pure (u, if wait then 3 else 1)
    | .full => if wait then .error (.hold (.poolSpill rcb)) else pure (u, 1)

/-- launch (R221): the status at group 17; a pool trap is due at the status's step, and d is not written. The ranks of a gang
receive the lead's status (R212). -/
def execLaunch (d : BitVec 5) (a : BitVec 6) (s : State) : Res :=
  finish s (do
    need (!s.ctx.inh) { cause := 0x04 }
    let r ← both (s.rdS a) (s.dstS d.toNat)
    await (!s.tcvtOut) .order
    let g ← s.gangGate
    let q ← (if s.isLead then do
        let x ← g.doLaunch r.1 false
        pure (x.1.share 0 x.2, x.2)
      else pure (g, g.sharedWord 0))
    let p := q.1.pend ⟨0, d.toNat⟩ (s.ctx.latOf 17) (q.2.zeroExtend 4608) allRow 0
    pure (q.1.post (if q.2 = 3 then { p with pool := some r.1 } else p)))

/-- launcht (R222): a pool trap comes at the boundary after its bundle. -/
def execLauncht (a : BitVec 6) (s : State) : Res :=
  finish s (do
    need (!s.ctx.inh) { cause := 0x04 }
    let r ← s.rdS a
    await (!s.tcvtOut) .order
    let g ← s.gangGate
    let q ← (if s.isLead then do
        let x ← g.doLaunch r true
        pure (x.1.share 0 x.2, x.2)
      else pure (g, g.sharedWord 0))
    pure (if q.2 = 3 then q.1.complTrap { cause := 0x14, addr := r } else q.1))

/-- join (R223): the counter is the lead's; a shadowed launch holds the join until its commit. -/
def execJoin (a : BitVec 6) (s : State) : Res :=
  finish s (do
    need (!s.ctx.inh) { cause := 0x04 }
    let r ← s.rdS a
    await (!s.tcvtOut) .order
    let g ← s.gangGate
    if s.isLead then do
      s.issueCheck .join r 8
      await (s.room 1) .queue
      if s.shadowed s.ctx.arr then
        match s.launch? s.ctx.arr with
        | some l => pure (g.setLaunch { l with held := l.held ++ [(2, [], r)] })
        | none => pure g
      else do
        s.storeHold r 8
        match g.storePlace r with
        | .error f => trapS (fltTrap f r)
        | .ok (t, .dev pa) => pure (t.joinAt (t.joiner s.ctx.arr) r pa)
        | .ok (t, _) => pure t
    else pure g)

/-- bar (R224): its orders hold already (log 1). -/
def execBar (_cl : Bool) (s : State) : Res :=
  finish s (do
    await (!s.tcvtOut) .order
    s.gangGate)

/-- signal (R225). -/
def execSignal (a b : BitVec 6) (s : State) : Res :=
  finish s (do
    let r ← both (s.rdS a) (s.rdS b)
    s.issueCheck .sig r.1 8
    await (s.room 1) .queue
    await (!s.tcvtOut) .order
    s.storeHold r.1 8
    match s.storePlace r.1 with
    | .error f => trapS (fltTrap f r.1)
    | .ok (t, p) =>
      if t.farFails s.ctx.arr p false then pure ((t.farUse p).complTrap (fltTrap (aflt 0) r.1))
      else pure ((t.farUse p).writePlace s.ctx.arr p (leBytes 8 r.2.toNat)))

end Sys2Proof.Machine
end

