-- ==== Sys2Proof/Machine/System.lean ====
section
/-! DEFINITION. Class Y but for rft: traps, containment regions, MODE and window writes, instruction-cache locks and watchpoints
(R146 to R157), and the hints, which have no effect (R100). -/

namespace Sys2Proof.Machine

/-- trap (R146): cause 0x13 at the boundary after its bundle. -/
def execTrap (c : BitVec 8) (s : State) : Res := finish s (.ok (s.complTrap { cause := 0x13, code := c.toNat }))

/-- brk (R147): cause 0x12 at the boundary after its bundle. -/
def execBrk (c : BitVec 8) (s : State) : Res := finish s (.ok (s.complTrap { cause := 0x12, code := c.toNat }))

/-- The state of the rank-tree builder of the current rank (R149, R325). -/
def State.builder (s : State) : Nat × Nat × Bool :=
  match s.tree? s.ctx.arr s.ctx.task s.ctx.rank with
  | some t => (t.gran, t.base, t.stalled)
  | none => (0, 0, false)

/-- The checkpoint of the current context (R149). -/
def State.checkpoint (s : State) (handler : Word) : Region :=
  let c := s.ctx
  { handler := handler, s := c.s, p := c.p, lc := c.lc, rrb := c.rrb, prb := c.prb, leafn := c.leafn, rseq := c.rseq, rows := [],
    tree := s.builder }

/-- Whether a result to a scalar or predicate is pending (R149). -/
def Ctx.scalarPending (c : Ctx) : Bool := c.dq.any (fun p => (p.dest.kind == 0 || p.dest.kind == 1) && 0 < p.rem)

/-- Whether every scalar register is full. -/
def Ctx.scalarsFull (c : Ctx) : Bool := (List.range 32).all (fun n => (c.sreg n).full)

/-- cropen (R149, R302). At depth 4 with a result also pending, the operand trap comes first: the order of R149's list
(DEDUCED, log 87). -/
def execCropen (o : Off) (s : State) : Res :=
  finish s (do
    need (!s.ctx.inh) { cause := 0x04 }
    need (decide (s.ctx.regions.length < 4)) (opTrap (BitVec.ofNat 64 s.ctx.regions.length))
    need (!s.ctx.scalarPending) { cause := 0x02 }
    await s.ctx.scalarsFull .empty
    pure { s with ctx := { s.ctx with regions := s.checkpoint (offTarget o s.ctx.pc) :: s.ctx.regions } })

/-- Whether an X-class operation or a load that the context issued in its innermost region is still out. -/
def State.regionBusy (s : State) : Bool :=
  let c := s.ctx
  s.xq.any (fun x => x.core == c.core && x.cid == c.cid && c.regions.length ≤ x.depth)
    || s.loads.any (fun l => l.gang == c.gang && l.core == c.core && c.regions.length ≤ l.depth)
    || c.dq.any (fun p => !p.arrived && c.regions.length ≤ p.depth)

/-- crclose (R151, R302): it waits for the region's X-class operations and loads, then discards the checkpoint. -/
def execCrclose (s : State) : Res :=
  finish s (do
    need (!s.ctx.inh) { cause := 0x04 }
    need (!s.ctx.regions.isEmpty) (opTrap 0)
    await (!s.regionBusy) .order
    pure { s with ctx := { s.ctx with regions := s.ctx.regions.drop 1 } })

/-- modew (R152): an mts to MODE. -/
def execModew (a : BitVec 6) (s : State) : Res :=
  finish s (do
    let v ← s.rdS a
    need (modeOk v) { cause := 0x03, info1 := BitVec.ofNat 64 s.iss.word }
    pure (s.postX 0x008 1 v))

/-- vwin (R153): VWB and RRB. -/
def execVwin (a : BitVec 6) (s : State) : Res :=
  finish s (do
    let v ← s.rdS a
    need (wfld v 11 53 == 0) (opTrap v)
    need (windowOk s.ownSet v.toNat) { cause := 0x0A, addr := v }
    pure ((s.postX 0x00B 1 v).postX 0x00C 1 0))

/-! Locks on cluster instruction-cache lines (R154, R155, R374). A line is named by its address space and virtual address (log 18). -/

/-- The distinct locked lines of a cluster. -/
def State.lockedLines (s : State) (cl : Nat) : List (Word × Nat) :=
  ((s.locks.filter (fun l => l.cluster == cl)).map (fun l => (l.root, l.va))).eraseDups

/-- The gang in whose name the current context's task holds locks: a fused task holds them as one (R374). -/
def State.lockGang (s : State) : Nat :=
  match s.gang? s.ctx.gang with
  | some g => if g.mate = 0 then s.ctx.gang else min s.ctx.gang g.mate
  | none => s.ctx.gang

/-- Locks lines upward from `va` below `top`, at most `n` of them. -/
def State.lockGo (s : State) (top : Nat) : Nat → Nat → State
  | 0, _ => s
  | n + 1, va =>
    let c := s.ctx
    let cl := c.core / 16
    if top ≤ va ∨ 2 ^ 48 ≤ va then s
    else match s.walk c.ptroot 0 va false true with
      | .error _ => s
      | .ok (_, ea) =>
        let ls := s.lockedLines cl
        if ls.contains (c.ptroot, va) ∨ ls.length < 1024 then
          let e : ILock := ⟨cl, s.lockGang, c.ptroot, va⟩
          let t : State := if s.locks.contains e then s else { s with locks := s.locks ++ [e] }
          State.lockGo (t.touch ea false) top n (va + 128)
        else s

/-- Whether a line lies in the lines that cover n bytes from a. -/
def inLines (a n va : Nat) : Bool := a / 128 * 128 ≤ va && va < a + n

/-- How many lines of a range any task of the cluster has locked. -/
def State.lockCount (s : State) (a n : Nat) : Nat :=
  ((s.lockedLines (s.ctx.core / 16)).filter (fun l => l.1 == s.ctx.ptroot && inLines a n l.2)).length

/-- ilock (R154, Table 31.2): the lead locks, and every rank receives the count, which is 0 where locks are not accepted. -/
def execIlock (d : BitVec 5) (a b : BitVec 6) (s : State) : Res :=
  finish s (do
    let r ← both (both (s.rdS a) (s.rdS b)) (s.dstS d.toNat)
    let x := r.1.1.toNat
    let n := r.1.2.toNat
    let q : State × Word :=
      if s.isLead then
        let t := if n = 0 ∨ ¬ s.feat 9 then s else s.lockGo (x + n) 1025 (x / 128 * 128)
        let w : Word := BitVec.ofNat 64 (if n = 0 ∨ ¬ s.feat 9 then 0 else t.lockCount x n)
        (t.share 1 w, w)
      else (s, s.sharedWord 1)
    await (s.isLead || s.hasShared 1) .wait
    pure (q.1.postS d.toNat (s.ctx.latOf 18) q.2))

/-- iunlk (R155): the lead releases the task's own locks. -/
def execIunlk (a b : BitVec 6) (s : State) : Res :=
  finish s (do
    let r ← both (s.rdS a) (s.rdS b)
    let own (l : ILock) : Bool := l.gang == s.lockGang && l.root == s.ctx.ptroot && inLines r.1.toNat r.2.toNat l.va
    pure (if s.isLead ∧ r.2 ≠ 0 then { s with locks := s.locks.filter (fun l => !own l) } else s))

/-- A watchpoint descriptor (Table 9.7). -/
def watchAt (bs : List Byte) : Watch :=
  let w (o : Nat) : Word := BitVec.ofNat 64 (numAt bs o 8)
  ⟨w 0, w 8, w 0x10, w 0x18, w 0x20⟩

/-- The field of a watchpoint descriptor that wpset turns away (R156). -/
def watchBad (bs : List Byte) : Option Word :=
  let w := watchAt bs
  if wfld w.ctl 4 60 ≠ 0 then some w.ctl
  else if numAt bs 0x28 24 ≠ 0 then some (BitVec.ofNat 64 (numAt bs 0x28 8))
  else if w.kind ≠ 0 ∧ w.hi.toNat < w.lo.toNat then some w.lo
  else none

/-- wpset (R156): the watchpoint applies from the next bundle onward. A descriptor that is poisoned is consumed, and one in the overflow area
that does not translate raises the address trap, as a descriptor of R211 would be and would do (DESIGN CHOICE, log 127). -/
def execWpset (w : BitVec 2) (a : BitVec 6) (s : State) : Res :=
  finish s (do
    let x ← s.rdS a
    let q ← s.readDesc s.ctx x 64
    match watchBad q.2 with
    | some v => trapS (opTrap v)
    | none => pure { q.1 with iss := { q.1.iss with wpt := q.1.iss.wpt ++ [(w.toNat, watchAt q.2)] } })

/-! Hints (R100). -/

def execHintNone (_kind : BitVec 4) (_p : BitVec 20) (s : State) : Res := .next s
def execSuccPrefetch (_p : BitVec 20) (s : State) : Res := .next s
def execBranchLikely (_p : BitVec 20) (s : State) : Res := .next s
def execLocality (_p : BitVec 20) (s : State) : Res := .next s

end Sys2Proof.Machine
end

