-- ==== Sys2Proof/Machine/Vector.lean ====
section
/-! DEFINITION. Classes V and N: float and integer arithmetic, compares and moves on the lanes of Z rows (R226 to R236). -/

namespace Sys2Proof.Machine

/-- The results of the active lanes, from lane i on. -/
def laneMap (f : Nat → Nat → Nat → Nat → FR) : Nat → List Bool → List Nat → List Nat → List Nat → List (Option FR)
  | i, b :: bs, x :: xs, y :: ys, z :: zs => (if b then some (f i x y z) else none) :: laneMap f (i + 1) bs xs ys zs
  | _, _, _, _, _ => []

/-- A masked operation on the lanes of a, b and d, w bits wide: sources and mask read, d not empty (R226, R227). With `cnt`
the slot counts for RSEQ (R80). -/
def vec3 (s : State) (w g : Nat) (cnt : Bool) (d a b : BitVec 6) (f : REnv → Nat → Nat → Nat → FR) : Res :=
  finish s (do
    let r ← both (both (s.rdV a) (s.rdV b)) (both s.rdMask (s.dstV d))
    let xs := lanes w r.1.1
    let rs := laneMap (fun i x y _ => f s.renv i x y) 0 (actives w r.2.1) xs (lanes w r.1.2) xs
    pure ((if cnt then s.count else s).postLanes d (s.ctx.latOf g) w rs))

/-- The same with d as a third source; an empty d holds the bundle as a destination does (R52). -/
def vec4 (s : State) (w g : Nat) (cnt : Bool) (d a b : BitVec 6) (f : REnv → Nat → Nat → Nat → Nat → FR) : Res :=
  finish s (do
    let r ← both (both (s.rdV a) (s.rdV b)) (both s.rdMask (both (s.rdV d) (s.dstV d)))
    let rs := laneMap (f s.renv) 0 (actives w r.2.1) (lanes w r.1.1) (lanes w r.1.2) (lanes w r.2.2.1)
    pure ((if cnt then s.count else s).postLanes d (s.ctx.latOf g) w rs))

/-- The same with the source a alone. -/
def vec2 (s : State) (w g : Nat) (cnt : Bool) (d a : BitVec 6) (f : REnv → Nat → Nat → FR) : Res :=
  finish s (do
    let r ← both (s.rdV a) (both s.rdMask (s.dstV d))
    let xs := lanes w r.1
    let rs := laneMap (fun i x _ _ => f s.renv i x) 0 (actives w r.2.1) xs xs xs
    pure ((if cnt then s.count else s).postLanes d (s.ctx.latOf g) w rs))

/-- A compare: an active lane writes its relation to its whole group, an inactive one writes 0 (R232). The result of the
relation is bit 0 of the lane result. -/
def vecCmp (s : State) (w g : Nat) (m : BitVec 4) (a b : BitVec 6) (f : REnv → Nat → Nat → FR) : Res :=
  finish s (do
    let r ← both (both (s.rdV a) (s.rdV b)) s.rdMask
    let xs := lanes w r.1.1
    let rs := laneMap (fun _ x y _ => f s.renv x y) 0 (actives w r.2) xs (lanes w r.1.2) xs
    pure (s.postM m.toNat (s.ctx.latOf g) (groupMask w (rs.map (fun o => (o.map (fun q => q.bits == 1)).getD false))) (laneFlags rs)))

/-- A bitwise operation in the 512 × 9 view (R233). -/
def vecBit (s : State) (d a b : BitVec 6) (f : Row → Row → Row) : Res :=
  finish s (do
    let r ← both (both (s.rdV a) (s.rdV b)) (both s.rdMask (s.dstV d))
    pure (s.postV d (s.ctx.latOf 6) (f r.1.1 r.1.2) (laneMask 9 (actives 9 r.2.1)) 0))

/-- The float operations of R230 on one format. -/
def fmt2 (f : Fmt) (op : REnv → Fmt → Nat → FV → FV → FR) (v : REnv) (i x y : Nat) : FR := op v f i (f.decIn v x) (f.decIn v y)
def fmt3 (f : Fmt) (sub : Bool) (v : REnv) (i x y z : Nat) : FR := ffma v f i sub (f.decIn v x) (f.decIn v y) (f.decIn v z)

/-- The float compares of R232: `lt` and `le` set INV for any NaN, `eq` and `un` only for a signalling one. -/
def fcmp (f : Fmt) (anyInv isUn : Bool) (rel : Int → Bool) (v : REnv) (x y : Nat) : FR :=
  let a := f.decIn v x
  let b := f.decIn v y
  if a.isNan || b.isNan then ⟨isUn.toNat, if anyInv || a.isSnan || b.isSnan then fINV else 0⟩
  else ⟨(!isUn && rel (cmpV a b)).toNat, 0⟩

/-- Integer add, subtract and multiply under IWRAP (R67, R233). -/
def intOp (w : Nat) (op : Int → Int → Int) (v : REnv) (_ x y : Nat) : FR := narrow v (op (decI w x) (decI w y)) w
/-- An integer operation that neither rounds nor flags. -/
def intPlain (w : Nat) (op : Int → Int → Int) (_ : REnv) (_ x y : Nat) : FR := ⟨encI w (op (decI w x) (decI w y)), 0⟩
/-- A saturating add, whatever IWRAP holds. -/
def intSat (w : Nat) (_ : REnv) (_ x y : Nat) : FR := satR (decI w x + decI w y) w

/-- The lane shifts: the amount is y[5:0] (R233). -/
def shl36 (_ : REnv) (_ x y : Nat) : FR := ⟨if 36 ≤ y % 64 then 0 else x * 2 ^ (y % 64) % 2 ^ 36, 0⟩
def shr36 (_ : REnv) (_ x y : Nat) : FR := ⟨if 36 ≤ y % 64 then 0 else x / 2 ^ (y % 64), 0⟩
def sar36 (_ : REnv) (_ x y : Nat) : FR := ⟨encI 36 (decI 36 x / 2 ^ (min (y % 64) 36)), 0⟩

def execVaddf (d a b : BitVec 6) (s : State) : Res := vec3 s 36 4 true d a b (fmt2 F36 fadd)
def execVsubf (d a b : BitVec 6) (s : State) : Res := vec3 s 36 4 true d a b (fmt2 F36 fsub)
def execVmulf (d a b : BitVec 6) (s : State) : Res := vec3 s 36 5 true d a b (fmt2 F36 fmul)
def execVfmaf (d a b : BitVec 6) (s : State) : Res := vec4 s 36 5 true d a b (fmt3 F36 false)
def execVfmsf (d a b : BitVec 6) (s : State) : Res := vec4 s 36 5 true d a b (fmt3 F36 true)
def execVminf (d a b : BitVec 6) (s : State) : Res := vec3 s 36 6 false d a b (fun v _ x y => fminmax v F36 false x y)
def execVmaxf (d a b : BitVec 6) (s : State) : Res := vec3 s 36 6 false d a b (fun v _ x y => fminmax v F36 true x y)
def execVabsf (d a : BitVec 6) (s : State) : Res := vec2 s 36 6 false d a (fun _ _ x => ⟨x % 2 ^ 35, 0⟩)
def execVnegf (d a : BitVec 6) (s : State) : Res := vec2 s 36 6 false d a (fun _ _ x => ⟨(x + 2 ^ 35) % 2 ^ 36, 0⟩)
def execVceqf (m : BitVec 4) (a b : BitVec 6) (s : State) : Res := vecCmp s 36 6 m a b (fcmp F36 false false (fun c => c == 0))
def execVcltf (m : BitVec 4) (a b : BitVec 6) (s : State) : Res := vecCmp s 36 6 m a b (fcmp F36 true false (fun c => c < 0))
def execVclef (m : BitVec 4) (a b : BitVec 6) (s : State) : Res := vecCmp s 36 6 m a b (fcmp F36 true false (fun c => c ≤ 0))
def execVcunf (m : BitVec 4) (a b : BitVec 6) (s : State) : Res := vecCmp s 36 6 m a b (fcmp F36 false true (fun _ => false))
def execVaddi (d a b : BitVec 6) (s : State) : Res := vec3 s 36 6 false d a b (intOp 36 (fun x y => x + y))
def execVsubi (d a b : BitVec 6) (s : State) : Res := vec3 s 36 6 false d a b (intOp 36 (fun x y => x - y))
def execVmuli (d a b : BitVec 6) (s : State) : Res := vec3 s 36 5 false d a b (intOp 36 (fun x y => x * y))
def execVmulhi (d a b : BitVec 6) (s : State) : Res := vec3 s 36 5 false d a b (intPlain 36 (fun x y => x * y / 2 ^ 36))
def execVmini (d a b : BitVec 6) (s : State) : Res := vec3 s 36 6 false d a b (intPlain 36 min)
def execVmaxi (d a b : BitVec 6) (s : State) : Res := vec3 s 36 6 false d a b (intPlain 36 max)
def execVand (d a b : BitVec 6) (s : State) : Res := vecBit s d a b (fun x y => x &&& y)
def execVor (d a b : BitVec 6) (s : State) : Res := vecBit s d a b (fun x y => x ||| y)
def execVxor (d a b : BitVec 6) (s : State) : Res := vecBit s d a b (fun x y => x ^^^ y)
def execVshl (d a b : BitVec 6) (s : State) : Res := vec3 s 36 6 false d a b shl36
def execVshr (d a b : BitVec 6) (s : State) : Res := vec3 s 36 6 false d a b shr36
def execVsar (d a b : BitVec 6) (s : State) : Res := vec3 s 36 6 false d a b sar36
def execVceqi (m : BitVec 4) (a b : BitVec 6) (s : State) : Res := vecCmp s 36 6 m a b (fun _ x y => ⟨(x == y).toNat, 0⟩)
def execVclti (m : BitVec 4) (a b : BitVec 6) (s : State) : Res := vecCmp s 36 6 m a b (fun _ x y => ⟨(decide (decI 36 x < decI 36 y)).toNat, 0⟩)
def execVcltu (m : BitVec 4) (a b : BitVec 6) (s : State) : Res := vecCmp s 36 6 m a b (fun _ x y => ⟨(decide (x < y)).toNat, 0⟩)
def execVaddsi (d a b : BitVec 6) (s : State) : Res := vec3 s 36 6 false d a b (intSat 36)

/-- vsel writes every 9-bit lane, from a where the mask bit is set and else from b (R234). -/
def execVsel (d a b : BitVec 6) (s : State) : Res :=
  finish s (do
    let r ← both (both (s.rdV a) (s.rdV b)) (both s.rdMask (s.dstV d))
    let m := laneMask 9 (actives 9 r.2.1)
    pure (s.postV d (s.ctx.latOf 6) ((r.1.1 &&& m) ||| (r.1.2 &&& ~~~m)) allRow 0))

/-- vbc: a[35:0] of the scalar to each active 36-bit lane (R234). -/
def execVbc (d a : BitVec 6) (s : State) : Res :=
  finish s (do
    let r ← both (s.rdS a) (both s.rdMask (s.dstV d))
    let act := actives 36 r.2.1
    pure (s.postV d (s.ctx.latOf 6) (packRow 36 (act.map (fun _ => r.1.toNat % 2 ^ 36))) (laneMask 36 act) 0))

/-- vmov: each 9-bit lane whose mask bit is set (R234). -/
def execVmov (d a : BitVec 6) (s : State) : Res :=
  finish s (do
    let r ← both (s.rdV a) (both s.rdMask (s.dstV d))
    pure (s.postV d (s.ctx.latOf 6) r.1 (laneMask 9 (actives 9 r.2.1)) 0))

/-! Class N (R236). -/

def execNaddB (d a b : BitVec 6) (s : State) : Res := vec3 s 18 7 true d a b (fmt2 B18 fadd)
def execNsubB (d a b : BitVec 6) (s : State) : Res := vec3 s 18 7 true d a b (fmt2 B18 fsub)
def execNmulB (d a b : BitVec 6) (s : State) : Res := vec3 s 18 7 true d a b (fmt2 B18 fmul)
def execNfmaB (d a b : BitVec 6) (s : State) : Res := vec4 s 18 7 true d a b (fmt3 B18 false)
def execNminB (d a b : BitVec 6) (s : State) : Res := vec3 s 18 7 false d a b (fun v _ x y => fminmax v B18 false x y)
def execNmaxB (d a b : BitVec 6) (s : State) : Res := vec3 s 18 7 false d a b (fun v _ x y => fminmax v B18 true x y)
def execNceqB (m : BitVec 4) (a b : BitVec 6) (s : State) : Res := vecCmp s 18 7 m a b (fcmp B18 false false (fun c => c == 0))
def execNcltB (m : BitVec 4) (a b : BitVec 6) (s : State) : Res := vecCmp s 18 7 m a b (fcmp B18 true false (fun c => c < 0))
def execNaddH (d a b : BitVec 6) (s : State) : Res := vec3 s 18 7 false d a b (intOp 18 (fun x y => x + y))
def execNsubH (d a b : BitVec 6) (s : State) : Res := vec3 s 18 7 false d a b (intOp 18 (fun x y => x - y))
def execNmulH (d a b : BitVec 6) (s : State) : Res := vec3 s 18 7 false d a b (intOp 18 (fun x y => x * y))
def execNminH (d a b : BitVec 6) (s : State) : Res := vec3 s 18 7 false d a b (intPlain 18 min)
def execNmaxH (d a b : BitVec 6) (s : State) : Res := vec3 s 18 7 false d a b (intPlain 18 max)
def execNaddQ (d a b : BitVec 6) (s : State) : Res := vec3 s 9 7 false d a b (intOp 9 (fun x y => x + y))
def execNsubQ (d a b : BitVec 6) (s : State) : Res := vec3 s 9 7 false d a b (intOp 9 (fun x y => x - y))
def execNminQ (d a b : BitVec 6) (s : State) : Res := vec3 s 9 7 false d a b (intPlain 9 min)
def execNmaxQ (d a b : BitVec 6) (s : State) : Res := vec3 s 9 7 false d a b (intPlain 9 max)
def execNaddsQ (d a b : BitVec 6) (s : State) : Res := vec3 s 9 7 false d a b (intSat 9)

end Sys2Proof.Machine
end

