-- ==== Sys2Proof/Machine/VecMisc.lean ====
section
/-! DEFINITION. Class Q: conversions, reductions and scans, permutations, histograms, lane access and masks (R237 to R247). -/

namespace Sys2Proof.Machine

/-! Conversions (R238, Table 15.5). -/

/-- The shapes of Table 15.5. -/
inductive CvtShape where
  | same (w : Nat)
  | narrowing (src dst : Nat)
  | widening (src dst : Nat)
  deriving DecidableEq, Repr

/-- The shape of a conversion code. -/
def cvtShape (c : Nat) : CvtShape :=
  match c with
  | 0x00 => .same 36
  | 0x01 => .same 36
  | 0x02 => .narrowing 36 18
  | 0x03 => .widening 18 36
  | 0x04 => .narrowing 36 18
  | 0x05 => .widening 18 36
  | 0x06 => .narrowing 18 9
  | 0x07 => .widening 9 18
  | 0x08 => .narrowing 36 18
  | 0x09 => .narrowing 36 18
  | 0x0A => .widening 18 36
  | 0x0B => .widening 18 36
  | _ => .same 18

/-- Whether a code counts for RSEQ (R80). -/
def cvtCounts (c : Nat) : Bool := [0x00, 0x01, 0x02, 0x08, 0x09, 0x0C, 0x0D].contains c

/-- A widening under FZ = 2: the input is flushed first (R79, R238). -/
def widenIn (v : REnv) (src dst : Fmt) (x : Nat) : FR :=
  if v.fz = 2 ∧ src.subnormal x then ⟨dst.pack (x / 2 ^ (src.ew + src.fw) % 2 == 1) 0 0, 0⟩ else widen src dst x

/-- An 8-bit float code as the I18 lane that holds it. -/
def codeLane (r : FR) : FR := { r with bits := encI 18 (decI 8 r.bits) }

/-- One lane of a conversion; `i` is the destination lane. -/
def cvtLane (c : Nat) (v : REnv) (i x : Nat) : FR :=
  match c with
  | 0x00 => cvtI v i 36 (F36.decIn v x)
  | 0x01 => ofInt v F36 i (decI 36 x)
  | 0x02 => cvtV v B18 i (F36.decIn v x)
  | 0x03 => widenIn v B18 F36 x
  | 0x04 => satR (decI 36 x) 18
  | 0x05 => ⟨encI 36 (decI 18 x), 0⟩
  | 0x06 => satR (decI 18 x) 9
  | 0x07 => ⟨encI 18 (decI 9 x), 0⟩
  | 0x08 => codeLane (cvtV v E4M3 i (F36.decIn v x))
  | 0x09 => codeLane (cvtV v E5M2 i (F36.decIn v x))
  | 0x0A => widenIn v E4M3 F36 (x % 256)
  | 0x0B => widenIn v E5M2 F36 (x % 256)
  | 0x0C => cvtI v i 18 (B18.decIn v x)
  | _ => ofInt v B18 i (decI 18 x)

/-- The next logical register. -/
def nextV (a : BitVec 6) : BitVec 6 := a + 1

/-- Lane results of a widening for one of its two rows: source lanes `off` on, the destination lane index restarting at 0. -/
def cvtRow (c : Nat) (v : REnv) (act : List Bool) (xs : List Nat) : List (Option FR) :=
  laneMap (fun i x _ _ => cvtLane c v i x) 0 act xs xs xs

/-- vcvt: its operand trap, for a row pair that register 63 would begin, comes before a hold of its operands (DESIGN CHOICE, log 128). -/
def execVcvt (d a c : BitVec 6) (s : State) : Res :=
  finish s (do
    let code := c.toNat
    let s' := if cvtCounts code then s.count else s
    let lat := s.ctx.latOf 8
    match cvtShape code with
    | .same w => do
      let r ← both (s.rdV a) (both s.rdMask (s.dstV d))
      pure (s'.postLanes d lat w (cvtRow code s.renv (actives w r.2.1) (lanes w r.1)))
    | .narrowing sw dw => do
      need (a != 63) (opTrap 63)
      let r ← both (both (s.rdV a) (s.rdV (nextV a))) (both s.rdMask (s.dstV d))
      pure (s'.postLanes d lat dw (cvtRow code s.renv (actives dw r.2.1) (lanes sw r.1.1 ++ lanes sw r.1.2)))
    | .widening sw dw => do
      need (d != 63) (opTrap 63)
      let r ← both (s.rdV a) (both s.rdMask (both (s.dstV d) (s.dstV (nextV d))))
      -- the mask is read in the narrower view, at the source lane
      let act := actives sw r.2.1
      let xs := lanes sw r.1
      let n := 4608 / dw
      let s1 := s'.postLanes d lat dw (cvtRow code s.renv (act.take n) (xs.take n))
      pure (s1.postLanes (nextV d) lat dw (cvtRow code s.renv (act.drop n) (xs.drop n))))

/-! Reductions and scans (R88, R239, Table 15.6). -/

/-- The view of an operation code. -/
def redW (o : Nat) : Nat := if o < 0x10 then 36 else if o < 0x18 then 18 else 9

/-- One combining step. -/
def redStep (o : Nat) (v : REnv) (i acc x : Nat) : FR :=
  match o with
  | 0x00 => fadd v F36 i (F36.decIn v acc) (F36.decIn v x)
  | 0x01 => fminmax v F36 false acc x
  | 0x02 => fminmax v F36 true acc x
  | 0x03 => narrow v (decI 36 acc + decI 36 x) 36
  | 0x04 => ⟨encI 36 (min (decI 36 acc) (decI 36 x)), 0⟩
  | 0x05 => ⟨encI 36 (max (decI 36 acc) (decI 36 x)), 0⟩
  | 0x06 => ⟨Nat.land acc x, 0⟩
  | 0x07 => ⟨Nat.lor acc x, 0⟩
  | 0x08 => ⟨Nat.xor acc x, 0⟩
  | 0x10 => fadd v B18 i (B18.decIn v acc) (B18.decIn v x)
  | 0x11 => fminmax v B18 false acc x
  | 0x12 => fminmax v B18 true acc x
  | 0x13 => narrow v (decI 18 acc + decI 18 x) 18
  | 0x14 => ⟨encI 18 (min (decI 18 acc) (decI 18 x)), 0⟩
  | 0x15 => ⟨encI 18 (max (decI 18 acc) (decI 18 x)), 0⟩
  | 0x18 => narrow v (decI 9 acc + decI 9 x) 9
  | 0x19 => ⟨encI 9 (min (decI 9 acc) (decI 9 x)), 0⟩
  | _ => ⟨encI 9 (max (decI 9 acc) (decI 9 x)), 0⟩

/-- The start value: the first active lane, its subnormal flushed under FZ = 2 where the operation is a float one. -/
def redFirst (o : Nat) (v : REnv) (x : Nat) : Nat :=
  let fl (f : Fmt) : Nat := if v.fz = 2 ∧ f.subnormal x then f.pack ((f.dec x).sign) 0 0 else x
  if o ≤ 2 then fl F36 else if 0x10 ≤ o ∧ o ≤ 0x12 then fl B18 else x

/-- The running values from lane i on; `acc` is none before the first active lane. -/
def scanGo (o : Nat) (v : REnv) : Nat → Option Nat → List Bool → List Nat → List (Option FR)
  | i, acc, b :: bs, x :: xs =>
    if b then
      let r : FR := match acc with
        | none => ⟨redFirst o v x, 0⟩
        | some a => redStep o v i a x
      some r :: scanGo o v (i + 1) (some r.bits) bs xs
    else none :: scanGo o v (i + 1) acc bs xs
  | _, _, _, _ => []

/-- The value of a reduction without an active lane (R239): −0 for a float addition under RDN. -/
def redEmpty (o : Nat) (v : REnv) : Nat :=
  if o = 0 ∧ v.rm = 2 then 2 ^ 35 else if o = 0x10 ∧ v.rm = 2 then 2 ^ 17 else 0

/-- The codes that round, which count for RSEQ (R80). -/
def redCounts (o : Nat) : Bool := o == 0 || o == 0x10

def execVred (d a o : BitVec 6) (s : State) : Res :=
  finish s (do
    let w := redW o.toNat
    let r ← both (s.rdV a) (both s.rdMask (s.dstV d))
    let rs := scanGo o.toNat s.renv 0 none (actives w r.2.1) (lanes w r.1)
    let x := match (rs.filterMap id).getLast? with
      | some q => q.bits
      | none => redEmpty o.toNat s.renv
    pure ((if redCounts o.toNat then s.count else s).postV d (s.ctx.latOf 9) (BitVec.ofNat 4608 x) (BitVec.ofNat 4608 (2 ^ w - 1)) (laneFlags rs)))

def execVscan (d a o : BitVec 6) (s : State) : Res :=
  finish s (do
    let w := redW o.toNat
    let r ← both (s.rdV a) (both s.rdMask (s.dstV d))
    let rs := scanGo o.toNat s.renv 0 none (actives w r.2.1) (lanes w r.1)
    pure ((if redCounts o.toNat then s.count else s).postLanes d (s.ctx.latOf 9) w rs))

/-! Permutations (R240, R241). -/

/-- Lane i of a row in the view of width w. -/
def laneAt (w : Nat) (r : Row) (i : Nat) : Nat := r.toNat / 2 ^ (w * i) % 2 ^ w

def execVshuf (d a b : BitVec 6) (s : State) : Res :=
  finish s (do
    let r ← both (both (s.rdV a) (s.rdV b)) (both s.rdMask (s.dstV d))
    let act := actives 36 r.2.1
    let ys := lanes 36 r.1.2
    pure (s.postV d (s.ctx.latOf 8) (packRow 36 (ys.map (fun y => laneAt 36 r.1.1 (y % 128)))) (laneMask 36 act) 0))

/-- vrot: b is a scalar source (Table 15.4). -/
def execVrot (d a b : BitVec 6) (s : State) : Res :=
  finish s (do
    let r ← both (both (s.rdV a) (s.rdS b)) (both s.rdMask (s.dstV d))
    let k := r.1.2.toNat % 512
    pure (s.postV d (s.ctx.latOf 8) (packRow 9 ((List.range 512).map (fun q => laneAt 9 r.1.1 ((q + k) % 512))))
      (laneMask 9 (actives 9 r.2.1)) 0))

/-- Sort key of an F36 encoding under the totalOrder predicate: negative encodings in reverse, below the positive ones. -/
def totalKey (x : Nat) : Int := if 2 ^ 35 ≤ x then -((x % 2 ^ 35 : Nat) : Int) - 1 else (x : Int)

/-- Whether y goes before x: totalOrder of F36 encodings for TYPE 0, signed less-than for TYPE 1 (R241). -/
def before (ty : Bool) (y x : Nat) : Bool := if ty then decI 36 y < decI 36 x else totalKey y < totalKey x

def execVcx (d a : BitVec 6) (dir ty : Bool) (k : BitVec 3) (s : State) : Res :=
  finish s (do
    let r ← both (s.rdV a) (both s.rdMask (s.dstV d))
    let dist := 2 ^ k.toNat
    let rs := (List.range 128).map (fun i =>
      let l := if i / dist % 2 = 0 then i else i - dist
      let x := laneAt 36 r.1 l
      let y := laneAt 36 r.1 (l + dist)
      if maskBit 36 r.2.1 l then
        let lo := if before ty y x then y else x
        let hi := if before ty y x then x else y
        some (⟨if (i == l) != dir then lo else hi, 0⟩ : FR)
      else none)
    pure (s.postLanes d (s.ctx.latOf 8) 36 rs))

/-! Histograms (R242, R243). -/

/-- Reads vector registers a, a + 1, …, n of them. -/
def rdVs (s : State) (a : Nat) : Nat → SlotR (List Row)
  | 0 => .ok []
  | n + 1 => do
    let r ← both (s.rdV (BitVec.ofNat 6 a)) (rdVs s (a + 1) n)
    pure (r.1 :: r.2)

/-- n consecutive registers as destinations: one that is empty holds the bundle (R226). -/
def State.dstVs (s : State) (a : Nat) : Nat → SlotR Unit
  | 0 => .ok ()
  | n + 1 => do
    s.dstV (BitVec.ofNat 6 a)
    s.dstVs (a + 1) n

/-- Posts the bin rows with their counted lanes. -/
def postBins (s : State) (d : Nat) (idx : List (Option Nat)) : Nat → List Row → State
  | _, [] => s
  | j, r :: rs =>
    let xs := lanes 36 r
    let out := List.zipWith (fun o x => if o = some j then some (satR (decI 36 x + 1) 36) else none) idx xs
    postBins (s.postLanes (BitVec.ofNat 6 (d + j)) (s.ctx.latOf 8) 36 out) d idx (j + 1) rs

/-- vhist (R242). INFO1 of its operand trap is n, whether n itself or d + n offends (log 37); that trap and those of vmerge and vcvt come before a
hold of their operands (DESIGN CHOICE, log 128). -/
def execVhist (d a n : BitVec 6) (s : State) : Res :=
  finish s (do
    need (n != 0 && d.toNat + n.toNat ≤ 64) (opTrap (n.zeroExtend 64))
    s.dstVs d.toNat n.toNat
    let r ← both (both (s.rdV a) s.rdMask) (rdVs s d.toNat n.toNat)
    let idx := List.zipWith (fun b x =>
      let v := decI 36 x
      if b && 0 ≤ v && v < n.toNat then some v.toNat else none) (actives 36 r.1.2) (lanes 36 r.1.1)
    pure (postBins s d.toNat idx 0 r.2))

/-- vmerge: the exact sum of each bin row, saturated; lanes n and above are written zero (R243). INFO1 of its operand trap is n (log 37), which
comes before a hold (DESIGN CHOICE, log 128). -/
def execVmerge (d a n : BitVec 6) (s : State) : Res :=
  finish s (do
    need (n != 0 && a.toNat + n.toNat ≤ 64) (opTrap (n.zeroExtend 64))
    let r ← both (rdVs s a.toNat n.toNat) (s.dstV d)
    let rs := r.1.map (fun q => satR ((lanes 36 q).foldl (fun t x => t + decI 36 x) 0) 36)
    pure (s.postV d (s.ctx.latOf 10) (packRow 36 (rs.map FR.bits)) allRow (orFlags (rs.map FR.flags))))

/-! Lane access (R244). -/

def execVfind (d : BitVec 5) (m : BitVec 4) (w : BitVec 2) (s : State) : Res :=
  finish s (do
    let r ← both (s.rdM m.toNat) (s.dstS d.toNat)
    let n := ((actives (viewW w) r.1).takeWhile (fun b => !b)).length
    pure (s.postS d.toNat (s.ctx.latOf 8) (BitVec.ofNat 64 n)))

/-- The index scalar of vlane and vins: lane k = sb[8:0] of view sb[10:9], checked; INFO1 of the operand trap is the whole scalar (log 37). -/
def laneIdx (b : Word) : SlotR (Nat × Nat) := do
  let v := wfld b 9 2
  let w := viewW (BitVec.ofNat 2 v)
  let k := wfld b 0 9
  need (v != 3 && k < 4608 / w) (opTrap b)
  pure (w, k)

def execVlane (d : BitVec 5) (a b : BitVec 6) (s : State) : Res :=
  finish s (do
    let r ← both (both (s.rdV a) (s.rdS b)) (s.dstS d.toNat)
    let i ← laneIdx r.1.2
    pure (s.postS d.toNat (s.ctx.latOf 8) (BitVec.ofInt 64 (decI i.1 (laneAt i.1 r.1.1 i.2)))))

/-- vins: d is written in one lane and not read (R244). -/
def execVins (d a b : BitVec 6) (s : State) : Res :=
  finish s (do
    let r ← both (both (s.rdS a) (s.rdS b)) (s.dstV d)
    let i ← laneIdx r.1.2
    pure (s.postV d (s.ctx.latOf 8) (BitVec.ofNat 4608 (r.1.1.toNat % 2 ^ i.1 * 2 ^ (i.1 * i.2)))
      (BitVec.ofNat 4608 ((2 ^ i.1 - 1) * 2 ^ (i.1 * i.2))) 0))

/-! Masks (R245 to R247). -/

def execMsel (n : BitVec 4) (s : State) : Res :=
  finish s (.ok (s.postX 0x00A (s.ctx.latOf 8) (n.zeroExtend 64)))

def execMlog (d f x y : BitVec 4) (s : State) : Res :=
  finish s (do
    let r ← both (s.rdM x.toNat) (s.rdM y.toNat)
    let t (i : Nat) : Mask := if f.getLsbD i then BitVec.allOnes 512 else 0
    pure (s.postM d.toNat (s.ctx.latOf 8)
      ((t 3 &&& r.1 &&& r.2) ||| (t 2 &&& r.1 &&& ~~~r.2) ||| (t 1 &&& ~~~r.1 &&& r.2) ||| (t 0 &&& ~~~r.1 &&& ~~~r.2)) 0))

def execMsetn (m : BitVec 4) (a : BitVec 6) (w : BitVec 2) (s : State) : Res :=
  finish s (do
    let x ← s.rdS a
    let k := viewW w
    pure (s.postM m.toNat (s.ctx.latOf 8) (BitVec.ofNat 512 (2 ^ (min x.toNat (4608 / k) * (k / 9)) - 1)) 0))

def execMpop (d : BitVec 5) (w : BitVec 2) (m : BitVec 4) (s : State) : Res :=
  finish s (do
    let r ← both (s.rdM m.toNat) (s.dstS d.toNat)
    pure (s.postS d.toNat (s.ctx.latOf 8) (BitVec.ofNat 64 ((actives (viewW w) r.1).filter id).length)))

/-- vcmpt: the lowest differing active 9-bit lane raises a compare trap with its number and both values (R247). -/
def execVcmpt (a b : BitVec 6) (s : State) : Res :=
  finish s (do
    let r ← both (both (s.rdV a) (s.rdV b)) s.rdMask
    match (List.range 512).find? (fun q => maskBit 9 r.2 q && laneAt 9 r.1.1 q != laneAt 9 r.1.2 q) with
    | some q => trapS { cause := 0x0C, addr := BitVec.ofNat 64 q, info1 := BitVec.ofNat 64 (laneAt 9 r.1.1 q),
                        info2 := BitVec.ofNat 64 (laneAt 9 r.1.2 q) }
    | none => pure s)

end Sys2Proof.Machine
end

