-- ==== Sys2Proof/Machine/Matrix.lean ====
section
/-! DEFINITION. Class X, its issue and completion: clip, tile and operand checks (R59, R256, R261, R263), the results that the
operands fix at issue (R187, R257), multicast (R264), completion and failure (R259), leaves (R277). -/

namespace Sys2Proof.Machine

/-! Clip registers (Table 3.4). -/

def clM (v : Word) : Nat := wfld v 0 8
def clN (v : Word) : Nat := wfld v 8 8
def clK (v : Word) : Nat := wfld v 16 8
def clPlanes (v : Word) : Nat := wfld v 24 4
def clAS (v : Word) : Nat := wfld v 32 16
def clBS (v : Word) : Nat := wfld v 48 16

/-- Whether the counts that an instruction uses are within a limit. -/
def clWithin (v : Word) (useN useK : Bool) (lim : Nat) : Bool := clM v ≤ lim && (!useN || clN v ≤ lim) && (!useK || clK v ≤ lim)

/-- The clip checks in the order of R59, with the limit of R256 after them: the counts in use, the reserved field, PLANES of a BPN operand,
and the limit of `mma64`. -/
def State.clipCheck (s : State) (v : Word) (useN useK bpn : Bool) (lim : Nat) : SlotR Unit := do
  need (clWithin v useN useK 128) (opTrap v)
  need (wfld v 28 4 == 0) { cause := 0x03, info1 := BitVec.ofNat 64 s.iss.word }
  need (!bpn || (2 ≤ clPlanes v && clPlanes v ≤ 8)) (opTrap v)
  need (clWithin v useN useK lim) (opTrap v)

/-- A named tile lies below TCNT (R58). -/
def State.tileCheck (s : State) (n : Nat) : SlotR Nat := do
  need (n < tcnt s.ctx) { cause := 0x0A, addr := BitVec.ofNat 64 n }
  pure (tileOf s.ctx n)

/-- The path check of a buffer operand (R261): 0x10 or 0x11. -/
def bufPath (a : Word) : SlotR Unit := need (selOf a == 0x10 || selOf a == 0x11) { cause := 0x08, addr := a }

/-- The alignment check of a buffer operand: its address and its stride. -/
def bufAlign (a : Word) (al stride : Nat) : SlotR Unit := need (a.toNat % al == 0 && stride % al == 0) { cause := 0x09, addr := a }

/-- Both for an instruction with one such operand. -/
def bufCheck (a : Word) (al stride : Nat) : SlotR Unit := do
  bufPath a
  bufAlign a al stride

/-- Both for a product, in the order of R261: the paths of A and B, then their alignments. -/
def bufCheck2 (a b : Word) (al stride al' stride' : Nat) : SlotR Unit := do
  bufPath a
  bufPath b
  bufAlign a al stride
  bufAlign b al' stride'

/-- The window check of a local operand of a non-empty operation (R261). -/
def State.windowCheck (s : State) (a : Word) (span : Nat) (live : Bool) : SlotR Unit :=
  need (!live || lowOf a + span ≤ winSize (s.ctx.win (selOf a - 0x10))) { cause := 0x0A, addr := a }

/-- Check 4 of R256: no result pending to a row of the tile set. -/
def State.pendCheck (s : State) (tiles : List Nat) : SlotR Unit :=
  need (!s.ctx.dq.any (fun p => p.dest.kind == 3 && 0 < p.rem && tiles.contains (p.dest.num / 128))) { cause := 0x02 }

/-! Z rows as the operations in flight leave them (R257). -/

/-- A row after a write. -/
def XWrite.onto (w : XWrite) (z : ZRow) : ZRow :=
  z.written (((if z.valid then z.bits else 0) &&& ~~~w.msk) ||| w.bits) w.msk

/-- The fault that a failed operation leaves in the rows it would have written (R259): for an operand fault its word is the offending
value, for the others the address (R298). -/
def XOp.fault (x : XOp) (f : Nat × Word) : DFault :=
  let op : Bool := f.1 == 0x0B
  { cause := f.1, addr := if op then 0 else f.2, info1 := if op then f.2 else 0, code := 0, srcpc := x.pc, srcstep := x.step }

/-- What an operation leaves in a row. -/
def XOp.leaves (x : XOp) (r : Nat) (z : ZRow) : ZRow :=
  (x.writes.filter (fun w => w.row == r)).foldl (fun y w =>
    match x.fail, x.m64 with
    | some f, none => { y with valid := true, full := true, fault := some (x.fault f), mark := false }
    | _, _ => w.onto y) z

/-- A row as every earlier operation of the core leaves it. -/
def State.xrow (s : State) (r : Nat) : ZRow :=
  (s.xq.filter (fun x => x.core == s.ctx.core && !x.dropped)).foldl (fun z x => x.leaves r z) (s.row s.ctx.core r)

/-- Reads a row (check 5 of R256). -/
def State.xread (s : State) (r : Nat) : SlotR Row :=
  let z := s.xrow r
  readBits z.bits z.valid z.full z.pol z.fault (regInfo 3 r)

/-- Reads rows 0 to n − 1 of a physical tile. -/
def State.xreads (s : State) (tile : Nat) : Nat → SlotR (List Row)
  | 0 => .ok []
  | n + 1 => do
    let rs ← s.xreads tile n
    let r ← s.xread (128 * tile + n)
    pure (rs ++ [r])

/-- Holds while a row that is only written is empty (check 6). -/
def State.xdest (s : State) (r : Nat) : SlotR Unit := await (s.xrow r).full .empty

/-- The same for rows 0 to n − 1 of a tile. -/
def State.xdests (s : State) (tile n : Nat) : SlotR Unit :=
  await ((List.range n).all (fun i => (s.xrow (128 * tile + i)).full)) .empty

/-! Buffer operands (R261, R263). -/

/-- Where an operand is read: the issuing context, or the gang member of a rank. -/
def State.rankCtx (s : State) (r : Nat) : Option Ctx :=
  s.ctxs.find? (fun c => c.live && c.gang == s.ctx.gang && c.rank == r)

/-- The buffers that an operand read sees: W, A and their poison marks. -/
abbrev BufView := Memory × Memory × Tab Bool

/-- The buffers as they stand. -/
def State.bufView (s : State) : BufView := (s.wbuf, s.abuf, s.pbuf)

/-- Reads n bytes at an offset of an operand's window: the failure is poison with the address of its byte, or bounds. -/
def bufRead (w : BufView) (c : Ctx) (a : Word) (o n : Nat) : Except (Nat × Word) (List Byte) :=
  let b := selOf a - 0x10
  let segs := c.bufSegs b (lowOf a + o) n
  let keys := segs.flatMap (fun x => (List.range x.2).map (fun i => x.1 + i))
  match (List.range n).find? (fun i => tabGet false w.2.2 (unitKey b (keys.getD i 0))) with
  | some i => .error (0x0F, a + BitVec.ofNat 64 (o + i))
  | none => .ok (segs.flatMap (fun x => memRead (if b = 0 then w.1 else w.2.1) x.1 x.2))

/-- Reads pieces of n bytes at the offsets given, within a window that must hold `span` bytes from the operand's address. -/
def bufReads (w : BufView) (src : Option Ctx) (a : Word) (span n : Nat) (os : List Nat) : Except (Nat × Word) (List (List Byte)) :=
  match src with
  | none => .error (0x0A, a)
  | some c =>
    if winSize (c.win (selOf a - 0x10)) < lowOf a + span then .error (0x0A, a)
    else os.foldr (fun o acc => match bufRead w c a o n, acc with
      | .error f, _ => .error f
      | .ok _, .error f => .error f
      | .ok b, .ok bs => .ok (b :: bs)) (.ok [])

/-- Little-endian elements of e bytes. -/
def elems (e : Nat) (n : Nat) (bs : List Byte) : List Nat := (List.range n).map (fun j => leNat ((bs.drop (e * j)).take e))

/-! Serialisation (R89, R277). -/

/-- The container of a lane width in bytes. -/
def contOf (w : Nat) : Nat := if w = 36 then 5 else if w = 18 then 3 else 2

/-- One row of which the first n lanes are given, the others zero. -/
def serRow (w n : Nat) (xs : List Nat) : List Byte :=
  padTo (contOf w * (4608 / w)) ((xs.take n).flatMap (leBytes (contOf w)))

/-- A tile of 128 rows, the given ones first. -/
def serTile (w n : Nat) (rows : List (List Nat)) : List Byte := padTo (128 * contOf w * (4608 / w)) (rows.flatMap (serRow w n))

/-- A buffer region of 128 × 128 elements of e bytes. -/
def serBuf (e : Nat) (rows : List (List Byte)) : List Byte := padTo (16384 * e) (rows.flatMap (padTo (128 * e)))

/-! Issue. -/

/-- What an operation's issue fixes. -/
structure XJob where
  tiles : List Nat
  tgt : List Nat := []
  cost : Nat
  iw : List Nat := []
  clip : Word
  scal : Word := 0
  lflags : Nat := 0
  da : List Byte
  db : List Byte
  dc : List Byte
  dr : List Byte
  writes : List XWrite := []
  bufs : List (Nat × Nat × List Byte) := []
  flags : Nat := 0
  fail : Option (Nat × Word) := none
  win : Nat × Nat := (0, 0)
  m64 : Option M64 := none

/-- The holds of an X-class slot: the leaf's, the occupancy of R257, and a `tcvt` of the context that writes an operand's bytes. -/
def State.xgate (s : State) (cost : Nat) (ops : List (Word × Nat)) : SlotR Unit := do
  let q := s.xq.filter (fun x => x.core == s.ctx.core)
  await (q.isEmpty || ((q.map XOp.cost).foldl Nat.add 0) + cost ≤ 2048) .queue
  await (ops.all (fun o => !s.tcvtHits (selOf o.1 - 0x10) (s.ctx.bufSegs (selOf o.1 - 0x10) (lowOf o.1) o.2))) .order
  s.leafGate

/-- The record of a failed operation: FAIL, and the result digest of the empty string (R259, Table 17.7). -/
def failLeaf (bs dr : List Byte) : List Byte :=
  bs.take 0x1D ++ [bs.getD 0x1D 0 ||| 1] ++ (bs.drop 0x1E).take 0x42 ++ dr ++ bs.drop 0x70

/-- Turns an operation into a failed one (R259). -/
def XOp.failed (x : XOp) (f : Nat × Word) (dr : List Byte) : XOp :=
  { x with fail := some f, flags := 0, bufs := [], leaf := failLeaf x.leaf dr }

/-- The leaf record of a job of the current slot. -/
def State.xleaf (s : State) (j : XJob) : LeafRec :=
  let c := s.ctx
  let dig (bs : List Byte) : List Byte := s.digestOf c.arr c.task bs
  { lidx := s.nextLeaf, words := s.iss.word :: j.iw, opc := s.opcOf c.arr c.text c.pc, mode := c.mode.toNat % 2 ^ 32,
    rank := c.rank, lflags := j.lflags, clip := j.clip.toNat, scal := j.scal.toNat, da := dig j.da, db := dig j.db, dc := dig j.dc,
    dr := dig j.dr }

/-- Hands the operation to X0 (R257, R277). -/
def State.startX (s : State) (j : XJob) : State :=
  let c := s.ctx
  let x : XOp :=
    { core := c.core, cid := c.cid, gang := c.gang, arr := c.arr, task := c.task, rank := c.rank, pc := c.pc, step := c.step,
      ftrap := modeFTRAP c.mode, lidx := s.nextLeaf, depth := c.regions.length, tiles := j.tiles, tgt := j.tgt, cost := j.cost,
      writes := j.writes, bufs := j.bufs, flags := j.flags, leaf := (s.xleaf j).bytes, fail := none, win := j.win,
      m64 := j.m64, dropped := false }
  let y := match j.fail with
    | some f => if j.m64.isSome then { x with fail := some f } else x.failed f (s.digestOf c.arr c.task [])
    | none => x
  let t := (s.note c.arr c.task c.rank s.nextLeaf j.da j.db (some j.dc)).takeLeaf
  { t with xq := t.xq ++ [y] }

/-- The digest bytes of an operand whose read failed: the manual gives no value, so they are free. -/
def State.lostBytes (s : State) : List Byte := leBytes 8 (Config.freeWord s.free).toNat ++ leBytes 8 (Config.freeWord (s.free + 1)).toNat

/-- A row write of lanes 0 to n − 1, 36 bits each. -/
def lanesWrite (row n : Nat) (xs : List Nat) : XWrite := ⟨row, packRow 36 (xs.take n), BitVec.ofNat 4608 (2 ^ (36 * n) - 1)⟩

/-- The writes of rows 0, 1, … of a tile. -/
def tileWrites (tile n : Nat) (rows : List (List Nat)) : List XWrite :=
  (List.range rows.length).map (fun i => lanesWrite (128 * tile + i) n (rows.getD i []))

/-! Completion (R259). -/

/-- A Z row filled with a deferred fault; what its bits then hold is free. -/
def State.faultRow (s : State) (core r : Nat) (pol : Bool) (f : DFault) : State :=
  { s.setRow core r { bits := Config.freeRow s.free, valid := true, full := true, pol := pol, fault := some f } with free := s.free + 1 }

/-- ORs flags into FLAGS, and into what an mts to FLAGS that has issued will write (R75). -/
def Ctx.orFlags (c : Ctx) (flags : Nat) : Ctx :=
  { c with
    flags := c.flags ||| BitVec.ofNat 64 (flags % 64)
    dq := c.dq.map (fun p => if p.dest = ⟨4, 0x009⟩ then { p with val := p.val ||| BitVec.ofNat 4608 (flags % 64) } else p) }

/-- Raises flags of a context, with a completion trap for the enabled ones (R75, R76); `x` for those of an X-class operation. -/
def Ctx.raise (c : Ctx) (flags ftrap : Nat) (pc step vis : Word) (x : Bool) : Ctx :=
  let k := trapping ftrap flags
  let d := c.orFlags flags
  if k = 0 then d
  else { d with compl := d.compl ++ [{ cause := 0x10, code := k, srcpc := pc, srcstep := step, inRegion := !c.regions.isEmpty, ofX := x, vis := vis }] }

/-- The trap or consumption that a failure of the operation brings (R259, R265, R349). -/
def XOp.failTrap (x : XOp) : Option Trap :=
  match x.fail, x.m64 with
  | some f, some m => some { cause := f.1, ordn := m.ord, addr := f.2, mstep := m.micro, srcpc := x.pc, srcstep := x.step, cons := f.1 == 0x0F && 0 < x.depth,
                             inRegion := 0 < x.depth }
  | some f, none =>
    if f.1 = 0x0F then some { cause := 0x0F, addr := f.2, srcpc := x.pc, srcstep := x.step, cons := 0 < x.depth, inRegion := 0 < x.depth }
    else none
  | none, _ => none

/-- The rows of an operation that completes. -/
def State.xrows (s : State) (x : XOp) : State :=
  x.writes.foldl (fun t w =>
    match x.fail, x.m64 with
    | some f, none => t.faultRow x.core w.row false (x.fault f)
    | _, _ => t.setRow x.core w.row (w.onto (t.row x.core w.row))) s

/-- Completes an operation taken off the queue. -/
def State.completeX (s : State) (x : XOp) : State :=
  if x.dropped then (if x.leaf.isEmpty then s else s.retire x.arr x.task x.rank x.lidx x.leaf)
  else
    let s1 := s.xrows x
    let s2 := x.bufs.foldl (fun t b => t.putBuf b.1 b.2.1 b.2.2) s1
    let s3 := s2.updCtx x.core x.cid (fun c =>
      let d := (c.raise x.flags x.ftrap x.pc x.step 0 true).wrote (x.writes.map XWrite.row)
      let e : Ctx := match x.failTrap with
        | some t => { d with compl := d.compl ++ [t] }
        | none => d
      match x.m64, x.fail with
      | some m, some _ => { e with susp := some m }
      | _, _ => e)
    if x.m64.isSome ∧ x.fail.isSome then s3 else s3.retire x.arr x.task x.rank x.lidx x.leaf

/-- The next operation of a core, which completes in issue order (R257). -/
def State.nextX (s : State) (core : Nat) : Option XOp := s.xq.find? (fun x => x.core == core)

/-- X_OPERATION_COMPLETE. -/
def State.xDone (s : State) (core : Nat) : State :=
  match s.nextX core with
  | none => s
  | some x => { s with xq := s.xq.erase x }.completeX x

end Sys2Proof.Machine
end

