-- ==== Sys2Proof/Machine/Mma.lean ====
section
/-! DEFINITION. The matrix products of class X: mma, mmaz and mma64, with cluster-remote and multicast operands (R82, R83, R261 to R265). -/

namespace Sys2Proof.Machine

/-- The format pairs of Table 17.4. -/
inductive MPair where
  | i8 | i8p | bf16 | f16 | bf16p
  deriving DecidableEq, Repr

/-- Whether B is a BPN tile, whether the pair is a float one, and the bytes of an element of A. -/
def MPair.bpn (p : MPair) : Bool := p == .i8p || p == .bf16p
def MPair.float (p : MPair) : Bool := p == .bf16 || p == .f16 || p == .bf16p
def MPair.esz (p : MPair) : Nat := if p.float then 2 else 1

/-- The occupancy of a product (Table 17.3). -/
def MPair.cost (p : MPair) (planes : Nat) : Nat :=
  match p with
  | .i8 => 128
  | .i8p => if 5 ≤ planes then 128 else if 3 ≤ planes then 64 else 32
  | _ => 256

/-- The value of an element of A or of a B that is no BPN tile: an I8 integer, or a float after FZ = 2 flushing. -/
def MPair.val (p : MPair) (v : REnv) (x : Nat) : FV :=
  match p with
  | .i8 => intV (decI 8 x)
  | .i8p => intV (decI 8 x)
  | .f16 => FP16.decIn v x
  | _ => BF16.decIn v x

/-! BPN tiles (R71): pieces of (n + 7) / 8 bytes, plane by plane and row by row. -/

/-- The offsets of the pieces that rows 0 to k − 1 of p planes take. -/
def bpnOffs (p k : Nat) : List Nat := (List.range p).flatMap (fun q => (List.range k).map (fun j => 2048 * q + 16 * j))

/-- The p-plane integer of element (j, n). -/
def bpnVal (p k : Nat) (ps : List (List Byte)) (j n : Nat) : Int :=
  let bit (q : Nat) : Bool := ((ps.getD (q * k + j) []).getD (n / 8) 0).getLsbD (n % 8)
  decI p ((List.range p).foldl (fun a q => 2 * a + (bit q).toNat) 0)

/-- The planes with every element outside the counts zero (R277). -/
def serBpn (p k n : Nat) (ps : List (List Byte)) : List Byte :=
  (List.range p).flatMap (fun q => padTo 2048 ((List.range k).flatMap (fun j =>
    padTo 16 ((List.range ((n + 7) / 8)).map (fun i =>
      ((ps.getD (q * k + j) []).getD i 0) &&& BitVec.ofNat 8 (2 ^ (min 8 (n - 8 * i)) - 1))))))

/-! One output element (R82, R83, R262). -/

/-- An integer pair's element. -/
def mmaInt (v : REnv) (acc : Bool) (ps : List (FV × FV)) (z : Nat) : FR :=
  let k (x : FV) : Int := match x with
    | .fin s m _ => if s then -(m : Int) else m
    | _ => 0
  let s := ps.foldl (fun a p => a + k p.1 * k p.2) 0
  if acc then narrow v (decI 36 z + s) 36 else ⟨encI 36 s, 0⟩

/-- A float pair's element: stage 0 rounds the block sum, stage 1 the addition, with z its first operand (DESIGN CHOICE, log 117: R82 gives
R69's operand order inside the block sum alone). -/
def mmaFloat (v : REnv) (acc : Bool) (ps : List (FV × FV)) (z idx : Nat) : FR :=
  let b := blockSum v F36 ps
  let q := roundV v F36 idx b.1
  if acc then
    let r := fadd v F36 (32768 + idx) (F36.decIn v z) (F36.dec q.bits)
    ⟨r.bits, orFlags [b.2, q.flags, r.flags]⟩
  else ⟨q.bits, Nat.lor b.2 q.flags⟩

/-- The product of operands given as rows of A and columns of B over accumulator rows. -/
def mmaRows (v : REnv) (float acc : Bool) (as bs zs : List (List Nat)) (va vb : Nat → FV) (n : Nat) : List (List FR) :=
  (List.range as.length).map (fun i =>
    let a := (as.getD i []).map va
    (List.range n).map (fun c =>
      let ps := a.zip ((bs.getD c []).map vb)
      let z := (zs.getD i []).getD c 0
      if float then mmaFloat v acc ps z (128 * i + c) else mmaInt v acc ps z))

/-- The flags and the encodings of rows of results. -/
def rowFlags (rs : List (List FR)) : Nat := orFlags (rs.flatMap (fun r => r.map FR.flags))
def rowBits (rs : List (List FR)) : List (List Nat) := rs.map (fun r => r.map FR.bits)

/-! The cluster-remote I slot (R112, R263, R264). -/

/-- Its word with bits [31:28] zero. -/
def remWord (x : RemX) : Nat :=
  0x0F000000 + x.ra.toNat * 2 ^ 23 + x.rb.toNat * 2 ^ 22 + x.mc.toNat * 2 ^ 21 + x.off.toNat * 2 ^ 17

def remA (r : Option RemX) : Bool := match r with
  | some x => x.ra
  | none => false
def remB (r : Option RemX) : Bool := match r with
  | some x => x.rb
  | none => false
def remMc (r : Option RemX) : Bool := match r with
  | some x => x.mc
  | none => false
def remOff (r : Option RemX) : Nat := match r with
  | some x => x.off.toNat
  | none => 0

/-- REMOTE and MCAST of the leaf. -/
def remFlags (r : Option RemX) : Nat := 2 * (remA r || remB r).toNat + 4 * (remMc r).toNat

/-- The sources of A and B. -/
def State.srcA (s : State) (r : Option RemX) : Option Ctx :=
  if remA r then s.rankCtx ((s.ctx.rank + remOff r) % s.ctx.nrank) else some s.ctx
def State.srcB (s : State) (r : Option RemX) : Option Ctx :=
  if remMc r then s.rankCtx (remOff r % s.ctx.nrank)
  else if remB r then s.rankCtx ((s.ctx.rank + remOff r) % s.ctx.nrank) else some s.ctx

/-- The operands whose bytes lie in the context's own windows, one of its own rank's read by the cluster-remote path included (R260). -/
def State.ownOps (s : State) (r : Option RemX) (a : Word) (na : Nat) (b : Word) (nb : Nat) : List (Word × Nat) :=
  let own (c : Option Ctx) : Bool := (c.map Ctx.rank) == some s.ctx.rank
  (if own (s.srcA r) then [(a, na)] else []) ++ (if own (s.srcB r) then [(b, nb)] else [])

/-- The buffers that a multicast reads: as its last rank came to the gate (R264). -/
def State.mcView (s : State) : BufView :=
  match s.gang? s.ctx.gang with
  | some g => g.snap.getD s.bufView
  | none => s.bufView

/-- The ranks whose parameters of the current bundle's multicast differ from the lead's (R264). -/
def State.mcastBad (s : State) : List Nat :=
  match s.gang? s.ctx.gang with
  | none => []
  | some g =>
    let mine := (g.mcast.filter (fun x => x.1 == s.ctx.bseq)).map Prod.snd
    match mine.find? (fun x => x.rank == s.lead g.id) with
    | none => []
    | some l => (mine.filter (fun x => x.addr != l.addr || x.par != l.par)).map McastArg.rank

/-- The offending value of a rank's failed multicast (R298): its address of B where the ranks' addresses differ, else its BSTRIDE or PLANES
(DESIGN CHOICE, log 124). -/
def State.mcastValue (s : State) (b : Word) (par : Nat) : Word :=
  match s.gang? s.ctx.gang with
  | some g => if g.mcast.any (fun x => x.1 == s.ctx.bseq && x.2.addr != b) then b else BitVec.ofNat 64 par
  | none => b

/-- What a disagreement does to the multicast that the current slot has handed to X0 (R264): it fails, and a rank whose values differ
raises the gang-divergence trap. -/
def State.mcastSettle (s : State) (b : Word) (par : Nat) : State :=
  let bad := s.mcastBad
  if bad.isEmpty then s
  else
    let c := s.ctx
    let t : Trap := { cause := 0x0D, info1 := BitVec.ofNat 64 ((bad.map (fun r => 2 ^ r)).foldl Nat.lor 0), srcpc := c.pc, srcstep := c.step,
                      inRegion := !c.regions.isEmpty }
    { s with xq := s.xq.map (fun x => if s.sameBundle x then { x.failed (0x0B, s.mcastValue b par) (s.digestOf x.arr x.task []) with m64 := none } else x)
             ctx := if bad.contains c.rank then { c with async := c.async ++ [t] } else c }

/-- mma and mmaz (R261 to R264). Where the reads of both operands fail, A's failure is the operation's (DESIGN CHOICE, log 124). -/
def xMma (p : MPair) (acc : Bool) (t : BitVec 4) (fa fb : BitVec 6) (k : BitVec 2) (r : Option RemX) (s : State) : Res :=
  finish s (do
    need (!s.ctx.inh) { cause := 0x04 }
    let q ← both (s.rdK k.toNat) (both (s.rdS fa) (s.rdS fb))
    let v := q.1
    let a := q.2.1
    let b := q.2.2
    s.clipCheck v true true p.bpn 128
    let td ← s.tileCheck t.toNat
    let (m, n, kd, pl) := (clM v, clN v, clK v, clPlanes v)
    let live : Bool := m != 0 && n != 0 && kd != 0
    let e := p.esz
    bufCheck2 a b e (clAS v) (if p.bpn then 2048 else e) (if p.bpn then 0 else clBS v)
    let spanA := (m - 1) * clAS v + kd * e
    let spanB := if p.bpn then 2048 * pl else (kd - 1) * clBS v + n * e
    s.windowCheck a spanA (live && !remA r)
    s.windowCheck b spanB (live && !remB r)
    s.pendCheck [td]
    let zs ← if acc && live then s.xreads td m else pure []
    s.xdests td (if live then m else 0)
    let cost := if live then p.cost pl else 1
    s.xgate cost (if live then s.ownOps r a spanA b spanB else [])
    let par := if p.bpn then pl else clBS v
    let g ← (if remMc r then s.gangGate (.mcast b par) else pure s)
    let view := if remMc r then s.mcView else s.bufView
    let env := renvLeaf s.ctx.mode (s.nonce s.ctx.arr) s.ctx.task s.ctx.rank s.nextLeaf s.iss.ord
    let ra := if live then bufReads s.bufView (s.srcA r) a spanA (kd * e) ((List.range m).map (fun i => i * clAS v)) else .ok []
    let rb := if !live then .ok []
      else if p.bpn then bufReads view (s.srcB r) b spanB ((n + 7) / 8) (bpnOffs pl kd)
      else bufReads view (s.srcB r) b spanB (n * e) ((List.range kd).map (fun j => j * clBS v))
    let zn := zs.map (lanes 36)
    let da := match ra with
      | .ok x => serBuf e x
      | .error _ => s.lostBytes
    let db := match rb with
      | .ok x => if p.bpn then serBpn pl kd n x else serBuf e x
      | .error _ => s.lostBytes
    let fail : Option (Nat × Word) := match ra, rb with
      | .error f, _ => some f
      | .ok _, .error f => some f
      | .ok _, .ok _ => none
    let rs : List (List FR) := match ra, rb with
      | .ok x, .ok y =>
        let cols : List (List Nat) :=
          if p.bpn then (List.range n).map (fun c => (List.range kd).map (fun j => encI 8 (bpnVal pl kd y j c)))
          else (List.range n).map (fun c => y.map (fun row => (elems e n row).getD c 0))
        let vb (w : Nat) : FV := if p.bpn then intV (decI 8 w) else p.val env w
        if live then mmaRows env p.float acc (x.map (elems e kd)) cols zn (p.val env) vb n else []
      | _, _ => (List.range m).map (fun _ => [])
    let j : XJob :=
      { tiles := [td], tgt := if live then [td] else [], cost := cost, iw := (r.map remWord).toList, clip := v, lflags := remFlags r, da := da,
        db := db, dc := if acc then serTile 36 n zn else [], dr := serTile 36 n (rowBits rs), writes := if live then tileWrites td n (rowBits rs) else [],
        flags := rowFlags rs, fail := fail }
    let u := g.startX j
    pure (if remMc r then u.mcastSettle b par else u))

def execMmaI8 (t : BitVec 4) (a b : BitVec 6) (k : BitVec 2) (r : Option RemX) (s : State) : Res := xMma .i8 true t a b k r s
def execMmaI8p (t : BitVec 4) (a b : BitVec 6) (k : BitVec 2) (r : Option RemX) (s : State) : Res := xMma .i8p true t a b k r s
def execMmaBf16 (t : BitVec 4) (a b : BitVec 6) (k : BitVec 2) (r : Option RemX) (s : State) : Res := xMma .bf16 true t a b k r s
def execMmaF16 (t : BitVec 4) (a b : BitVec 6) (k : BitVec 2) (r : Option RemX) (s : State) : Res := xMma .f16 true t a b k r s
def execMmaBf16p (t : BitVec 4) (a b : BitVec 6) (k : BitVec 2) (r : Option RemX) (s : State) : Res := xMma .bf16p true t a b k r s
def execMmazI8 (t : BitVec 4) (a b : BitVec 6) (k : BitVec 2) (r : Option RemX) (s : State) : Res := xMma .i8 false t a b k r s
def execMmazI8p (t : BitVec 4) (a b : BitVec 6) (k : BitVec 2) (r : Option RemX) (s : State) : Res := xMma .i8p false t a b k r s
def execMmazBf16 (t : BitVec 4) (a b : BitVec 6) (k : BitVec 2) (r : Option RemX) (s : State) : Res := xMma .bf16 false t a b k r s
def execMmazF16 (t : BitVec 4) (a b : BitVec 6) (k : BitVec 2) (r : Option RemX) (s : State) : Res := xMma .f16 false t a b k r s
def execMmazBf16p (t : BitVec 4) (a b : BitVec 6) (k : BitVec 2) (r : Option RemX) (s : State) : Res := xMma .bf16p false t a b k r s

/-! mma64 (R265). -/

/-- Micro-step q of an mma64 on accumulator rows: the operand bytes it read and the new rows with their flags, or its failure, that of A where
the reads of both operands fail (DESIGN CHOICE, log 124). -/
def State.micro (s : State) (j : M64) (q : Nat) (zs : List (List Nat)) :
    Except (Nat × Word) (List Byte × List Byte × List (List FR)) :=
  let m := clM j.clip
  let n := clN j.clip
  let top := min (clK j.clip) (16 * q + 16)
  let w := top - 16 * q
  let v := renvLeaf j.mode [] 0 0 0 0
  let ra := if w = 0 then .ok [] else
    bufReads s.bufView (s.srcA j.x) j.a ((m - 1) * clAS j.clip + top) w ((List.range m).map (fun i => i * clAS j.clip + 16 * q))
  let rb := if w = 0 then .ok [] else
    bufReads (if remMc j.x then s.mcView else s.bufView) (s.srcB j.x) j.b ((top - 1) * clBS j.clip + n) n ((List.range w).map (fun i => (16 * q + i) * clBS j.clip))
  match ra, rb with
  | .error f, _ => .error f
  | .ok _, .error f => .error f
  | .ok x, .ok y =>
    let cols := (List.range n).map (fun c => y.map (fun row => (row.getD c 0).toNat))
    let as := (List.range m).map (fun i => elems 1 w (x.getD i []))
    .ok (x.flatMap id, y.flatMap id, mmaRows v false true as cols zs (MPair.i8.val v) (MPair.i8.val v) n)

/-- The micro-steps from `q` on, `k` of them: the rows and flags of those that succeed, the job with what they read, and the failure
of the one that does not. -/
def State.micros (s : State) : Nat → M64 → List (List Nat) → Nat → M64 × List (List Nat) × Nat × Option (Nat × Word)
  | 0, j, zs, fl => (j, zs, fl, none)
  | k + 1, j, zs, fl =>
    match s.micro j j.micro zs with
    | .error f => (j, zs, fl, some f)
    | .ok (x, y, rs) =>
      s.micros k { j with micro := j.micro + 1, opa := j.opa ++ [x], opb := j.opb ++ [y] } (rowBits rs) (Nat.lor fl (rowFlags rs))

/-- The operand A as its micro-steps read it: rows of K bytes, from blocks of 16 columns. -/
def M64.rowsA (j : M64) : List (List Byte) :=
  (List.range (clM j.clip)).map (fun i => (List.range 4).flatMap (fun q =>
    let w := min (clK j.clip) (16 * q + 16) - 16 * q
    ((j.opa.getD q []).drop (i * w)).take w))

/-- The operand B likewise: K rows of N bytes. -/
def M64.rowsB (j : M64) : List (List Byte) :=
  (List.range (clK j.clip)).map (fun r => ((j.opb.getD (r / 16) []).drop (r % 16 * clN j.clip)).take (clN j.clip))

/-- The record with the digests of the operands and the result in place. -/
def M64.record (j : M64) (da db dr : List Byte) : List Byte :=
  j.base.take 0x30 ++ da ++ db ++ (j.base.drop 0x50).take 16 ++ dr ++ j.base.drop 0x70

/-- Hands an mma64's remaining micro-steps to X0; `zs` are the accumulator rows they start from. -/
def State.runM64 (s : State) (j : M64) (tile : Nat) (zs : List (List Nat)) (live : Bool) : State :=
  let c := s.ctx
  let dig (bs : List Byte) : List Byte := s.digestOf c.arr c.task bs
  let (j1, rows, fl, fail) := if live then s.micros (4 - j.micro) j zs 0 else (j, [], 0, none)
  let n := clN j.clip
  let x : XOp :=
    { core := c.core, cid := c.cid, gang := c.gang, arr := c.arr, task := c.task, rank := c.rank, pc := j.pc, step := j.step,
      ftrap := 0, lidx := j.lidx, depth := j.depth, tiles := [tile], tgt := if live then [tile] else [], cost := if live then 256 else 1,
      writes := if live then tileWrites tile n rows else [], bufs := [], flags := fl,
      leaf := j1.record (dig (serBuf 1 j1.rowsA)) (dig (serBuf 1 j1.rowsB)) (dig (serTile 36 n rows)),
      fail := fail, win := (0, 0), m64 := some j1, dropped := false }
  let t := s.note c.arr c.task c.rank j.lidx (serBuf 1 j1.rowsA) (serBuf 1 j1.rowsB) none
  { t with xq := t.xq ++ [x] }

/-- mma64 (R265): four micro-steps; the context's next bundle waits for them. -/
def execMma64 (t : BitVec 4) (fa fb : BitVec 6) (k : BitVec 2) (r : Option RemX) (s : State) : Res :=
  finish s (do
    need (!s.ctx.inh) { cause := 0x04 }
    let q ← both (s.rdK k.toNat) (both (s.rdS fa) (s.rdS fb))
    let v := q.1
    let a := q.2.1
    let b := q.2.2
    s.clipCheck v true true false 64
    let td ← s.tileCheck t.toNat
    let (m, n, kd) := (clM v, clN v, clK v)
    let live : Bool := m != 0 && n != 0 && kd != 0
    bufCheck2 a b 1 0 1 0
    let spanA := (m - 1) * clAS v + kd
    let spanB := (kd - 1) * clBS v + n
    s.windowCheck a spanA (live && !remA r)
    s.windowCheck b spanB (live && !remB r)
    s.pendCheck [td]
    let zs ← if live then s.xreads td m else pure []
    s.xgate (if live then 256 else 1)
      (if live then s.ownOps r a spanA b spanB else [])
    let g ← (if remMc r then s.gangGate (.mcast b (clBS v)) else pure s)
    let zn := (zs.map (lanes 36)).map (fun z => z.take n)
    let j0 : XJob := { tiles := [td], cost := 0, iw := (r.map remWord).toList, clip := v, lflags := remFlags r, da := [], db := [], dc := serTile 36 n zn, dr := [] }
    let job : M64 :=
      { micro := 0, t := t.toNat, a := a, b := b, clip := v, mode := s.ctx.mode, x := r, opa := [], opb := [], base := (s.xleaf j0).bytes,
        lidx := s.nextLeaf, ord := s.iss.ord, depth := s.ctx.regions.length, pc := s.ctx.pc, step := s.ctx.step }
    let g1 := g.note s.ctx.arr s.ctx.task s.ctx.rank s.nextLeaf [] [] (some j0.dc)
    let u := g1.takeLeaf.runM64 job td zn live
    pure (if remMc r then u.mcastSettle b (clBS v) else u))

/-! rft (R148, R303). -/

/-- A nested trap of rft's read of the frame (R401). -/
def frameTrap (a : Word) (f : Flt) : Trap := { fltTrap f a with cause := if f.cause = 0x0F then 0x0F else 0x07 }

/-- The micro-steps of an mma64 that rft takes up, from the number in the frame on (R265). -/
def State.resumeM64 (s : State) (mstep : Nat) : State :=
  match s.ctx.susp with
  | none => s
  | some j =>
    if mstep = 0xFF then s
    else
      let tile := tileOf s.ctx j.t
      let zs := (List.range (clM j.clip)).map (fun i => (lanes 36 (s.xrow (128 * tile + i)).bits).take (clN j.clip))
      let t : State := { s with ctx := { s.ctx with susp := none } }
      t.runM64 { j with micro := min mstep 4, opa := j.opa.take mstep, opb := j.opb.take mstep } tile zs true

/-- rft: in a handler, the flow of the frame is taken up again; elsewhere it is privileged. -/
def execRft (s : State) : Res :=
  finish s (do
    need s.ctx.inh { cause := 0x04 }
    match s.readArea s.ctx 0 0 10 with
    | .error f => trapS (frameTrap s.ctx.area f)
    | .ok (u, bs) => match restoreFrame s.ctx s.ctx.keptF s.ctx.keptQ bs s.iss.word with
      | .error t => trapS t
      | .ok c =>
        let c1 : Ctx := { c with inh := false, bseq := s.ctx.resumeSeq }
        let t : State := { u with ctx := c1, iss := { s.iss with rft := true } }
        pure (t.resumeM64 (numAt bs 0x14 1)))

end Sys2Proof.Machine
end

