-- ==== Sys2Proof/Machine/Tile.lean ====
section
/-! DEFINITION. The other instructions of class X: scaling, tile movement, conversion, reductions and digests (R84, R266 to R273), and
the state-space scan (R274 to R276). -/

namespace Sys2Proof.Machine

/-- The rounding of the current slot's leaf. -/
def State.xenv (s : State) : REnv := renvLeaf s.ctx.mode (s.nonce s.ctx.arr) s.ctx.task s.ctx.rank s.nextLeaf s.iss.ord

/-- Rows of lane values. -/
def laneRows (rs : List Row) : List (List Nat) := rs.map (lanes 36)

/-- The n first lanes of each of rows. -/
def cut (n : Nat) (rs : List (List Nat)) : List (List Nat) := rs.map (fun r => r.take n)

/-! sacc (R84, R266). -/

/-- z + part × sa × sb, rounded once. Where z and part are both NaNs, z is the first operand (DESIGN CHOICE, log 116: R84 gives an order for
part and the scales alone). -/
def saccElem (v : REnv) (idx : Nat) (z part sa sb : FV) : FR :=
  if sa.isNan || sb.isNan then invRes v F36 [part, sa, sb]
  else
    let p : Option FV := if part.isNan then some part else (mulV part sa).bind (fun q => mulV q sb)
    match p with
    | none => invRes v F36 [z, part]
    | some q => if z.isNan || part.isNan then nanRes v F36 [z, part] else addV v F36 idx [z, part] z q

/-- A partial sum: F36, or I36 where T is set. -/
def partVal (v : REnv) (i : Bool) (x : Nat) : FV := if i then intV (decI 36 x) else F36.decIn v x

/-- sacc (R266): ADDR of its path, align and bounds traps is the whole scale word (DESIGN CHOICE, log 130). -/
def execSacc (t ts : BitVec 4) (i : Bool) (fa : BitVec 6) (k : BitVec 2) (s : State) : Res :=
  finish s (do
    need (!s.ctx.inh) { cause := 0x04 }
    let q ← both (s.rdK k.toNat) (s.rdS fa)
    let v := q.1
    let w := q.2
    s.clipCheck v true false false 128
    let td ← s.tileCheck t.toNat
    let te ← s.tileCheck ts.toNat
    let m := clM v
    let n := clN v
    let live : Bool := m != 0 && n != 0
    let a : Word := BitVec.ofNat 64 (selOf w * 2 ^ 56 + wfld w 0 20)
    need (selOf w == 0x10 || selOf w == 0x11) { cause := 0x08, addr := w }
    need (wfld w 0 1 == 0) { cause := 0x09, addr := w }
    need (!live || lowOf a + 2 * m ≤ winSize (s.ctx.win (selOf a - 0x10))) { cause := 0x0A, addr := w }
    need (wfld w 52 4 == 0 && wfld w 20 20 == 0) (opTrap w)
    s.pendCheck [td, te]
    let zs ← if live then s.xreads td m else pure []
    let ps ← if live then s.xreads te m else pure []
    s.xgate (if live then 32 else 1) (if live then [(a, 2 * m)] else [])
    let r := if live then bufReads s.bufView (some s.ctx) a (2 * m) (2 * m) [0] else .ok []
    let env := s.xenv
    let zn := cut n (laneRows zs)
    let pn := cut n (laneRows ps)
    let sb := s12 (wfld w 40 12)
    let rs : List (List FR) := match r with
      | .ok bs =>
        let sc := elems 2 m (bs.flatMap id)
        (List.range zn.length).map (fun x =>
          let sa := s12 (sc.getD x 0)
          (List.range n).map (fun c =>
            saccElem env (128 * x + c) (F36.decIn env ((zn.getD x []).getD c 0)) (partVal env i ((pn.getD x []).getD c 0)) sa sb))
      | .error _ => (List.range zn.length).map (fun _ => [])
    let j : XJob :=
      { tiles := [td, te], tgt := if live then [td] else [], cost := if live then 32 else 1, clip := v, scal := w, da := serTile 36 n pn,
        db := match r with
          | .ok bs => padTo 256 (bs.flatMap id)
          | .error _ => s.lostBytes
        dc := serTile 36 n zn, dr := serTile 36 n (rowBits rs), writes := tileWrites td n (rowBits rs), flags := rowFlags rs,
        fail := match r with
          | .ok _ => none
          | .error f => some f }
    pure (s.startX j))

/-! tclr and tcopy (R267, R268). -/

def execTclr (t : BitVec 4) (k : BitVec 2) (s : State) : Res :=
  finish s (do
    need (!s.ctx.inh) { cause := 0x04 }
    let v ← s.rdK k.toNat
    s.clipCheck v false false false 128
    let td ← s.tileCheck t.toNat
    let m := clM v
    s.pendCheck [td]
    s.xdests td m
    s.xgate (if m = 0 then 1 else 8) []
    let ws : List XWrite := (List.range m).map (fun i => ⟨128 * td + i, 0, allRow⟩)
    pure (s.startX { tiles := [td], tgt := if m = 0 then [] else [td], cost := if m = 0 then 1 else 8, clip := v, da := [], db := [], dc := [],
                     dr := serTile 36 128 [], writes := ws }))

def execTcopy (t ts : BitVec 4) (k : BitVec 2) (s : State) : Res :=
  finish s (do
    need (!s.ctx.inh) { cause := 0x04 }
    let v ← s.rdK k.toNat
    s.clipCheck v false false false 128
    let td ← s.tileCheck t.toNat
    let te ← s.tileCheck ts.toNat
    let m := clM v
    s.pendCheck [td, te]
    let rs ← s.xreads te m
    s.xdests td m
    s.xgate (if m = 0 then 1 else 32) []
    let ws : List XWrite := (List.range m).map (fun i => ⟨128 * td + i, rs.getD i 0, allRow⟩)
    let ser := serTile 36 128 (laneRows rs)
    pure (s.startX { tiles := [td, te], tgt := if m = 0 then [] else [td], cost := if m = 0 then 1 else 32, clip := v, da := ser, db := [], dc := [],
                     dr := ser, writes := ws }))

/-! tld (R269). -/

/-- The element size of a tld format, and the lane that an element gives. -/
def tldSize (f : Nat) : Nat := if f = 0 then 4 else if f = 3 then 1 else 2
def tldLane (f x : Nat) : FR :=
  match f with
  | 0 => widen FP32 F36 x
  | 1 => widen BF16 F36 x
  | 2 => widen FP16 F36 x
  | _ => ⟨encI 36 (decI 8 x), 0⟩

def execTld (t : BitVec 4) (f : BitVec 2) (fa : BitVec 6) (k : BitVec 2) (s : State) : Res :=
  finish s (do
    need (!s.ctx.inh) { cause := 0x04 }
    let q ← both (s.rdK k.toNat) (s.rdS fa)
    let v := q.1
    let a := q.2
    s.clipCheck v true false false 128
    let td ← s.tileCheck t.toNat
    let m := clM v
    let n := clN v
    let live : Bool := m != 0 && n != 0
    let e := tldSize f.toNat
    bufCheck a e (clAS v)
    let span := (m - 1) * clAS v + n * e
    s.windowCheck a span live
    s.pendCheck [td]
    s.xdests td (if live then m else 0)
    s.xgate (if live then 32 else 1) (if live then [(a, span)] else [])
    let r := if live then bufReads s.bufView (some s.ctx) a span (n * e) ((List.range m).map (fun i => i * clAS v)) else .ok []
    let rs : List (List FR) := match r with
      | .ok rows => rows.map (fun b => (elems e n b).map (tldLane f.toNat))
      | .error _ => (List.range m).map (fun _ => [])
    let j : XJob :=
      { tiles := [td], tgt := if live then [td] else [], cost := if live then 32 else 1, clip := v, scal := a,
        da := match r with
          | .ok rows => serBuf e rows
          | .error _ => s.lostBytes
        db := [], dc := [], dr := serTile 36 n (rowBits rs), writes := tileWrites td n (rowBits rs), flags := rowFlags rs,
        fail := match r with
          | .ok _ => none
          | .error g => some g }
    pure (s.startX j))

/-! tcvt (R270, R271). -/

/-- The smallest S12 scale at or above n / d, as its container, with its value's numerator and denominator. -/
def s12Above (n d : Nat) : Nat × Nat × Nat :=
  let e := ilog2 n d
  let sc : Nat × Nat := if 0 ≤ e then (16 * n, d * 2 ^ e.toNat) else (16 * n * 2 ^ (-e).toNat, d)
  let c := (sc.1 + sc.2 - 1) / sc.2
  let (e', c') : Int × Nat := if c = 32 then (e + 1, 16) else (e, c)
  ((e' + 127).toNat * 16 + (c' - 16), numOf c' (e' - 4), denOf (e' - 4))

/-- The i8 quantisation of one row (R271): the scale's container and the elements. -/
def quantRow (v : REnv) (i : Nat) (xs : List FV) : Nat × List FR :=
  if xs.any (fun x => x.isNan || x.isInf) then (0x0FF0, xs.map (fun _ => ⟨0, fINV⟩))
  else
    let mags := xs.map (fun x => match x with
      | .fin _ m e => (numOf m e, denOf e)
      | _ => (0, 1))
    let mx := mags.foldl (fun a b => if a.1 * b.2 < b.1 * a.2 then b else a) (0, 1)
    if mx.1 = 0 then (0, xs.map (fun _ => ⟨0, 0⟩))
    else
      let t : Nat × Nat := if mx.1 * 2 ^ 126 < 127 * mx.2 then (1, 2 ^ 126) else (mx.1, 127 * mx.2)
      let (c, sn, sd) := s12Above t.1 t.2
      (c, (List.range xs.length).map (fun x =>
        let b := mags.getD x (0, 1)
        roundInt v (128 * i + x) 8 ((xs.getD x (.fin false 0 0)).sign) (b.1 * sd) (b.2 * sn)))

/-- The plane q of a BPN tile (R71) from p-bit encodings, row by row. -/
def bpnPlane (p q : Nat) (rows : List (List Nat)) : List Byte :=
  padTo 2048 (rows.flatMap (fun r => (List.range 16).map (fun b =>
    BitVec.ofNat 8 ((List.range 8).foldl (fun a c => a + ((r.getD (8 * b + c) 0).testBit (p - 1 - q)).toNat * 2 ^ c) 0))))

/-- What a tcvt writes: pieces at offsets from its address, the serialised destination and the flags. -/
structure Cvt where
  pieces : List (Nat × List Byte)
  region : List Byte
  flags : Nat

/-- The conversion of rows of values: pieces that overlap, where ASTRIDE is less than a row, are written in rising row order, the scales last
(DESIGN CHOICE, log 131). -/
def cvtTile (v : REnv) (f p as : Nat) (rows : List (List FV)) : Cvt :=
  if f < 2 then
    let rs := (List.range rows.length).map (fun i => (List.range (rows.getD i []).length).map (fun n =>
      cvtV v (if f = 0 then BF16 else FP16) (128 * i + n) ((rows.getD i []).getD n (.fin false 0 0))))
    let bs := rs.map (fun r => r.flatMap (fun x => leBytes 2 x.bits))
    ⟨(List.range bs.length).map (fun i => (i * as, bs.getD i [])), serBuf 2 bs, rowFlags rs⟩
  else if f = 2 then
    let qs := (List.range rows.length).map (fun i => quantRow v i (rows.getD i []))
    let bs := qs.map (fun r => r.2.map (fun x => BitVec.ofNat 8 x.bits))
    let sc := qs.map (fun r => leBytes 2 r.1)
    ⟨(List.range bs.length).map (fun i => (i * as, bs.getD i [])) ++ (List.range sc.length).map (fun i => (128 * as + 2 * i, sc.getD i [])),
      serBuf 1 bs ++ padTo 256 (sc.flatMap id), rowFlags (qs.map Prod.snd)⟩
  else
    let rs := (List.range rows.length).map (fun i => (List.range (rows.getD i []).length).map (fun n =>
      cvtI v (128 * i + n) p ((rows.getD i []).getD n (.fin false 0 0))))
    let bs := (List.range p).flatMap (fun q => bpnPlane p q (rowBits rs))
    ⟨if rows.isEmpty then [] else [(0, bs)], bs, rowFlags rs⟩

def execTcvt (t : BitVec 4) (f : BitVec 2) (fa : BitVec 6) (i : Bool) (k : BitVec 2) (s : State) : Res :=
  finish s (do
    need (!s.ctx.inh) { cause := 0x04 }
    let q ← both (s.rdK k.toNat) (s.rdS fa)
    let v := q.1
    let a := q.2
    let bpn : Bool := f.toNat == 3
    s.clipCheck v true false bpn 128
    let td ← s.tileCheck t.toNat
    let m := clM v
    let n := clN v
    let live : Bool := m != 0 && n != 0
    bufCheck a (if bpn then 2048 else if f.toNat < 2 then 2 else 1) (if f.toNat < 2 then clAS v else 0)
    let e := if f.toNat < 2 then 2 else 1
    let rowsTop := (m - 1) * clAS v + n * e
    let span := if bpn then 2048 * clPlanes v else if f.toNat = 2 then max rowsTop (128 * clAS v + 2 * m) else rowsTop
    s.windowCheck a span live
    s.pendCheck [td]
    let zs ← if live then s.xreads td m else pure []
    s.xgate (if live then 64 else 1) []
    let env := s.xenv
    let zn := cut n (laneRows zs)
    let c := cvtTile env f.toNat (clPlanes v) (clAS v) (zn.map (fun r => r.map (partVal env i)))
    let b := selOf a - 0x10
    let segs := s.ctx.bufSegs b (lowOf a) span
    await (!s.aliasBusy s.ctx b segs) .order
    let j : XJob :=
      { tiles := [td], cost := if live then 64 else 1, clip := v, scal := a, da := serTile 36 n zn, db := [], dc := [], dr := c.region,
        bufs := c.pieces.flatMap (fun x => cutSegs b x.2 (s.ctx.bufSegs b (lowOf a + x.1) x.2.length)), flags := c.flags,
        win := if live then winOf b segs else (0, 0) }
    pure (s.startX j))

/-! tred and tdig (R272, R273). -/

/-- The reduction code of tred as one of class Q (R88). -/
def tredOp (o : Nat) : Nat := match o with
  | 0 => 0x00
  | 1 => 0x03
  | 2 => 0x02
  | _ => 0x05

/-- The reduction of column n: the running value with its flags. -/
def tredCol (v : REnv) (o n : Nat) (rows : List (List Nat)) : FR :=
  match rows with
  | [] => ⟨0, 0⟩
  | r :: rs =>
    (List.range rs.length).foldl (fun a i =>
      let x := redStep o v (128 * (i + 1) + n) a.bits ((rs.getD i []).getD n 0)
      ⟨x.bits, Nat.lor a.flags x.flags⟩) ⟨redFirst o v (r.getD n 0), 0⟩

/-- A vector row as a leaf serialises it at issue: zero where it is invalid. -/
def oldLanes (z : ZRow) (n : Nat) : List Nat := if z.valid then (lanes 36 z.bits).take n else []

/-- tred (R272). Its vector row is a destination that waits while the row is empty, also for an empty operation, and whose deferred fault goes: it
is read for its kept lanes and valid bit alone, and check 5 of R256 is not made on it (DESIGN CHOICE, log 129). -/
def execTred (t : BitVec 4) (o : BitVec 2) (d : BitVec 6) (k : BitVec 2) (s : State) : Res :=
  finish s (do
    need (!s.ctx.inh) { cause := 0x04 }
    let v ← s.rdK k.toNat
    s.clipCheck v true false false 128
    let td ← s.tileCheck t.toNat
    let m := clM v
    let n := clN v
    let live : Bool := m != 0 && n != 0
    let r := physV s.ctx d.toNat
    s.pendCheck [td, r / 128]
    let zs ← if live then s.xreads td m else pure []
    s.xdest r
    s.xgate (if live then 64 else 1) []
    let env := s.xenv
    let zn := cut n (laneRows zs)
    let old := oldLanes (s.xrow r) n
    let rs := if live then (List.range n).map (fun c => tredCol env (tredOp o.toNat) c zn) else []
    let j : XJob :=
      { tiles := [td, r / 128], cost := if live then 64 else 1, clip := v, da := serTile 36 n zn, db := [], dc := serRow 36 n old,
        dr := serRow 36 n (if live then rs.map FR.bits else old), writes := if live then [lanesWrite r n (rs.map FR.bits)] else [],
        flags := orFlags (rs.map FR.flags) }
    pure (s.startX j))

/-- tdig (R273): its vector row is one like tred's (DESIGN CHOICE, log 129). -/
def execTdig (t : BitVec 4) (w : BitVec 2) (d : BitVec 6) (k : BitVec 2) (s : State) : Res :=
  finish s (do
    need (!s.ctx.inh) { cause := 0x04 }
    let v ← s.rdK k.toNat
    s.clipCheck v true false false 128
    let td ← s.tileCheck t.toNat
    let m := clM v
    let n := clN v
    let live : Bool := m != 0 && n != 0
    let r := physV s.ctx d.toNat
    s.pendCheck [td, r / 128]
    let zs ← if live then s.xreads td m else pure []
    s.xdest r
    s.xgate (if live then 64 else 1) []
    let wd := viewW w
    let ser := serTile wd (n * (36 / wd)) (zs.map (lanes wd))
    let dg := s.digestOf s.ctx.arr s.ctx.task ser
    let ls := (List.range 4).map (fun i => leNat ((dg.drop (4 * i)).take 4))
    let j : XJob :=
      { tiles := [td, r / 128], cost := if live then 64 else 1, clip := v, da := ser, db := [], dc := [],
        dr := serRow 36 4 (if live then ls else oldLanes (s.xrow r) 4), writes := if live then [lanesWrite r 4 ls] else [] }
    pure (s.startX j))

/-! sscan (R274 to R276). -/

/-- The rounding of a scan: MODE.RM, but RNE for RSR. -/
def scanEnv (v : REnv) : REnv := if v.rm = 5 then { v with rm := 0 } else v

/-- Results with the flags raised so far. -/
abbrev Acc1 (α : Type) := α × Nat

/-- A list computed in order with its flags. -/
def mapF {α β : Type} (f : α → Acc1 β) : List α → Acc1 (List β)
  | [] => ([], 0)
  | x :: xs =>
    let y := f x
    let r := mapF f xs
    (y.1 :: r.1, Nat.lor y.2 r.2)

/-- A rounded result as an operand with its flags. -/
def frV (r : FR) : Acc1 FV := (F36.dec r.bits, r.flags)

/-- RoundF36 of a block sum. -/
def blockV (v : REnv) (ps : List (FV × FV)) : Acc1 FV :=
  let b := blockSum v F36 ps
  let r := frV (roundV v F36 0 b.1)
  (r.1, Nat.lor b.2 r.2)

/-- RoundF36(a × h + b × x): two exact products and one rounding. -/
def twoProd (v : REnv) (a h b x : FV) : Acc1 FV :=
  let ops := [a, h, b, x]
  let p : Option FV := if a.isNan || h.isNan then some (.fin false 0 0) else mulV a h
  let q : Option FV := if b.isNan || x.isNan then some (.fin false 0 0) else mulV b x
  match p, q with
  | some y, some z => if ops.any FV.isNan then frV (nanRes v F36 ops) else frV (addV v F36 0 ops y z)
  | _, _ => frV (invRes v F36 ops)

/-- RoundF36 of the exact product of a list, 1 where it is empty. -/
def prodV (v : REnv) (xs : List FV) : Acc1 FV :=
  if xs.any FV.isZero && xs.any FV.isInf then frV (invRes v F36 xs)
  else if xs.any FV.isNan then frV (nanRes v F36 xs)
  else frV (roundV v F36 0 (xs.foldl (fun a x => (mulV a x).getD a) (.fin false 1 0)))

/-- g(t) for each t: RoundF36(g(t − 1) × a(t)) from g(−1) = 1. -/
def decays (v : REnv) : FV → List FV → Acc1 (List FV)
  | _, [] => ([], 0)
  | g, a :: as =>
    let r := frV (fmul v F36 0 g a)
    let t := decays v r.1 as
    (r.1 :: t.1, Nat.lor r.2 t.2)

/-- Column j of rows. -/
def colOf (rows : List (List FV)) (j : Nat) : List FV := rows.map (fun r => r.getD j (.fin false 0 0))

/-- The operands of a scan, decoded. -/
structure ScanIn where
  p : Nat
  d : Nat
  a : List FV
  x : List (List FV)
  b : List (List FV)
  c : List (List FV)
  h : List (List FV)

/-- The recurrent form (R275): y(t) for each t, the end state and the flags. -/
def recurrent (v : REnv) (i : ScanIn) : List Nat → List (List FV) → Acc1 (List (List FV) × List (List FV))
  | [], h => (([], h), 0)
  | t :: ts, h =>
    let z : FV := .fin false 0 0
    let a := i.a.getD t z
    let b := i.b.getD t []
    let x := i.x.getD t []
    let h1 := mapF (fun r => mapF (fun j => twoProd v a ((h.getD r []).getD j z) (b.getD r z) (x.getD j z)) (List.range i.p)) (List.range i.d)
    let y := mapF (fun j => blockV v ((i.c.getD t []).zip (colOf h1.1 j))) (List.range i.p)
    let r := recurrent v i ts h1.1
    ((y.1 :: r.1.1, r.1.2), orFlags [h1.2, y.2, r.2])

/-- The chunked form (R276). -/
def chunked (v : REnv) (i : ScanIn) (g : List FV) : Acc1 (List (List FV) × List (List FV)) :=
  let n := i.a.length
  let z : FV := .fin false 0 0
  let xc (j : Nat) : List FV := colOf i.x j
  let part (t s : Nat) : List FV := (i.a.drop (s + 1)).take (t - s)
  let mul (x y : FV) : Acc1 FV := frV (fmul v F36 0 x y)
  let add (x y : FV) : Acc1 FV := frV (fadd v F36 0 x y)
  let y := mapF (fun t =>
    let c := i.c.getD t []
    let w := mapF (fun s =>
      if s ≤ t then
        let k := blockV v (c.zip (i.b.getD s []))
        let l := prodV v (part t s)
        let m := mul l.1 k.1
        (m.1, orFlags [k.2, l.2, m.2])
      else (z, 0)) (List.range n)
    let r := mapF (fun j =>
      let u := blockV v (w.1.zip (xc j))
      let q := blockV v (c.zip (colOf i.h j))
      let m := mul (g.getD t z) q.1
      let o := add u.1 m.1
      (o.1, orFlags [u.2, q.2, m.2, o.2])) (List.range i.p)
    (r.1, Nat.lor w.2 r.2)) (List.range n)
  let h := mapF (fun r =>
    let e := mapF (fun s =>
      let l := prodV v (part (n - 1) s)
      let m := mul l.1 ((i.b.getD s []).getD r z)
      (m.1, Nat.lor l.2 m.2)) (List.range n)
    let o := mapF (fun j =>
      let u := blockV v (e.1.zip (xc j))
      let m := mul (g.getD (n - 1) z) ((i.h.getD r []).getD j z)
      let q := add u.1 m.1
      (q.1, orFlags [u.2, m.2, q.2])) (List.range i.p)
    (o.1, Nat.lor e.2 o.2)) (List.range i.d)
  ((y.1, h.1), Nat.lor y.2 h.2)

/-- An operand's encoding in F36; a NaN keeps what its decoding shows, an operand of R69 its payload. -/
def encF (x : FV) : Nat :=
  match x with
  | .nan _ s f w => F36.nanOf s f w
  | .inf s => F36.pack s F36.emax 0
  | .fin s m e => (roundDy ⟨0, 0, true, false, fun _ => 0⟩ F36 0 s m e).bits

/-- Encodings of rows. -/
def encRows (rs : List (List FV)) : List (List Nat) := rs.map (fun r => r.map encF)

def execSscan (t : BitVec 4) (va : BitVec 6) (k : BitVec 2) (s : State) : Res :=
  finish s (do
    need (!s.ctx.inh) { cause := 0x04 }
    let v ← s.rdK k.toNat
    s.clipCheck v true true false 128
    let _ ← s.tileCheck t.toNat
    need (t.toNat ≤ 12) (opTrap (t.zeroExtend 64))
    let _ ← s.tileCheck (t.toNat + 3)
    let ts := (List.range 4).map (fun i => tileOf s.ctx (t.toNat + i))
    let r := physV s.ctx va.toNat
    need (!ts.contains (r / 128)) (opTrap (BitVec.ofNat 64 r))
    let set := ts ++ [r / 128]
    s.pendCheck set
    let (n, p, d) := (clM v, clN v, clK v)
    let live : Bool := n != 0 && p != 0 && d != 0
    let tile (i : Nat) : Nat := ts.getD i 0
    let xs ← s.xreads (tile 0) (if live then n else 0)
    let bs ← s.xreads (tile 1) (if live then n else 0)
    let cs ← s.xreads (tile 2) (if live then n else 0)
    let hs ← s.xreads (tile 3) (if live then d else 0)
    let ra ← if live then s.xread r else pure 0
    let chunk : Bool := modeSSTH s.ctx.mode ≤ n
    let cost := if !live then 1 else if chunk then 512 + 8 * n else 8 * n
    s.xgate cost []
    let env := scanEnv s.xenv
    let dec (m : Nat) (rs : List Row) : List (List FV) := (cut m (laneRows rs)).map (fun q => q.map (F36.decIn env))
    let al := if live then (lanes 36 ra).take n else []
    let inp : ScanIn := ⟨p, d, al.map (F36.decIn env), dec p xs, dec d bs, dec d cs, dec p hs⟩
    let g := decays env (.fin false 1 0) inp.a
    let res : Acc1 (List (List FV) × List (List FV)) :=
      if !live then (([], []), 0) else if chunk then chunked env inp g.1 else recurrent env inp (List.range n) inp.h
    let y := encRows res.1.1
    let h := encRows res.1.2
    let gl := g.1.map encF
    let j : XJob :=
      { tiles := set, tgt := if live then [tile 0, tile 3] else [], cost := cost, clip := v, da := serTile 36 p (cut p (laneRows xs)),
        db := serTile 36 d (cut d (laneRows bs)) ++ serTile 36 d (cut d (laneRows cs)) ++ serRow 36 n al,
        dc := serTile 36 p (cut p (laneRows hs)), dr := serTile 36 p y ++ serTile 36 p h ++ serRow 36 n gl,
        writes := if live then tileWrites (tile 0) p y ++ tileWrites (tile 3) p h ++ [lanesWrite r n gl] else [],
        flags := if live then Nat.lor g.2 res.2 else 0 }
    pure (s.startX j))

end Sys2Proof.Machine
end

