-- ==== Sys2Proof/Machine/Transposer.lean ====
section
/-! DEFINITION. Class T: the transposer's fill and drain blocks (R249 to R253). -/

namespace Sys2Proof.Machine

/-- The rows that a pushed Z row gives in width w: g = 36 / w rows of 128 elements. -/
def pushRows (w : Nat) (r : Row) : List (List (BitVec 36)) :=
  let xs := (lanes w r).map (BitVec.ofNat 36)
  (List.range (36 / w)).map (fun k => (xs.drop (128 * k)).take 128)

/-- A block of 128 rows, the ones not pushed zero. -/
def fullBlock (rows : List (List (BitVec 36))) : List (List (BitVec 36)) :=
  rows ++ List.replicate (128 - rows.length) (List.replicate 128 0)

/-- xpush (R250): a block completes at its last push; RDY is the step plus the group-14 latency. INFO1 of its operand trap is the fill block's
width (log 37). -/
def xpush (w : Nat) (l : Bool) (a : BitVec 6) (s : State) : Res :=
  finish s (do
    let r ← s.rdV a
    let f := s.ctx.fill
    need (f.w == 0 || f.w == w) (opTrap (BitVec.ofNat 64 f.w))
    let rows := (if f.w = 0 then [] else f.rows) ++ pushRows w r
    let c := s.ctx
    pure (if 128 ≤ rows.length || l then
        { s with ctx := { c with fill := {}, drain := some ⟨w, fullBlock rows, 0, c.step + BitVec.ofNat 64 (c.latOf 14)⟩ } }
      else { s with ctx := { c with fill := ⟨w, rows⟩ } }))

def execXpush36 (l : Bool) (a : BitVec 6) (s : State) : Res := xpush 36 l a s
def execXpush18 (l : Bool) (a : BitVec 6) (s : State) : Res := xpush 18 l a s
def execXpush9 (l : Bool) (a : BitVec 6) (s : State) : Res := xpush 9 l a s

/-- The drain block where it may be taken at column c. INFO1 of the operand trap is 0 where there is none, else the column that is out of place,
else RDY (log 37). -/
def Ctx.drainReady (c : Ctx) (ok : Nat → Bool) : SlotR XDrain :=
  match c.drain with
  | none => trapS (opTrap 0)
  | some d => do
    need (ok d.c) (opTrap (BitVec.ofNat 64 d.c))
    need (d.rdy.toNat ≤ c.step.toNat) (opTrap d.rdy)
    pure d

/-- Column j of a block. -/
def XDrain.col (d : XDrain) (j : Nat) : List Nat := d.rows.map (fun r => (r.getD j 0).toNat)

/-- xpop (R251): the next columns, not masked. -/
def execXpop (v : BitVec 6) (s : State) : Res :=
  finish s (do
    s.dstV v
    let d ← s.ctx.drainReady (fun c => c < 128)
    let g := 36 / d.w
    let xs := (List.range g).flatMap (fun k => d.col (d.c + k))
    let t : State := { s with ctx := { s.ctx with drain := some { d with c := d.c + g } } }
    pure (t.postV v (s.ctx.latOf 15) (packRow d.w xs) allRow 0))

/-- xplane (R252): the block is captured at issue and the drain block is then empty. -/
def execXplane (d : BitVec 5) (a : BitVec 6) (tr : Bool) (s : State) : Res :=
  finish s (do
    need (!s.ctx.inh) { cause := 0x04 }
    let r ← both (s.rdS a) (s.dstS d.toNat)
    let x := r.1
    need (selOf x == 0x10 || selOf x == 0x11) { cause := 0x08, addr := x }
    need (x.toNat % 2048 == 0) { cause := 0x09, addr := x }
    need (lowOf x + 16384 ≤ winSize (s.ctx.win (selOf x - 0x10))) { cause := 0x0A, addr := x }
    let b ← s.ctx.drainReady (fun c => c == 0)
    s.leafGate
    s.tlRoom 4
    let t := s.enqueue 4 [s.iss.word] [BitVec.ofNat 8 tr.toNat] (some b) x
    let u : State := { t with ctx := { t.ctx with drain := none } }
    pure (u.postS d.toNat 1 (BitVec.ofNat 64 (t.ctx.tl 4).issued)))

/-- xrst (R253). -/
def execXrst (s : State) : Res := finish s (.ok { s with ctx := { s.ctx with fill := {}, drain := none } })

end Sys2Proof.Machine
end

