-- ==== Sys2Proof/Machine/Boundary.lean ====
section
/-! DEFINITION. The end of a bundle and the boundary after it: results that become visible (R45, R46, R48), the step counter (R44),
the exit taken (R96, R142 to R145), the gang's decisions (R37), the bank-conflict snapshot (R364), and the fetch of the next
bundle (R90, R101). -/

namespace Sys2Proof.Machine

/-! Results becoming visible. -/

/-- Puts a result behind those that become visible no later (R46). -/
def insertPend (p : Pend) : List Pend → List Pend
  | [] => [p]
  | q :: qs => if q.rem ≤ p.rem then q :: insertPend p qs else p :: q :: qs

/-- Results in order of visibility, in issue order where that is equal. -/
def sortPend : List Pend → List Pend → List Pend
  | acc, [] => acc
  | acc, p :: ps => sortPend (insertPend p acc) ps

/-- Puts a result of a bundle behind those of slots up to its own. -/
def insertOut (x : Nat × Pend) : List (Nat × Pend) → List (Nat × Pend)
  | [] => [x]
  | y :: ys => if y.1 ≤ x.1 then y :: insertOut x ys else x :: y :: ys

/-- The results of a bundle in slot order. -/
def sortOut (xs : List (Nat × Pend)) : List Pend := (xs.foldl (fun acc x => insertOut x acc) []).map Prod.snd

/-- Writes a special register; the values that MTS and the branches leave are within their ranges (R60, R61). -/
def Ctx.setSpecial (c : Ctx) (n : Nat) (v : Word) : Ctx :=
  match n with
  | 0x008 => { c with mode := v }
  | 0x009 => { c with flags := v }
  | 0x00A => { c with msel := v.toNat % 16 }
  | 0x00B => { c with vwb := v.toNat }
  | 0x00C => { c with rrb := v.toNat % 48 }
  | 0x00D => { c with prb := v.toNat % 8 }
  | 0x00E => { c with lc := v }
  | 0x100 => { c with tmap := v }
  | 0x101 => { c with zown := v }
  | 0x102 => { c with wwin := v }
  | 0x103 => { c with awin := v }
  | 0x104 => { c with swin := v }
  | 0x105 => { c with spovf := v }
  | 0x106 => { c with tvec := v }
  | 0x107 => { c with area := v }
  | 0x108 => { c with dbg := v }
  | _ => if 0x020 ≤ n ∧ n ≤ 0x027 then c.setK (n - 0x020) ⟨v, true⟩ else c

/-- A Z row as a result leaves it: the lanes it does not write keep their contents, or 0 in a row that was invalid (R227). -/
def ZRow.result (z : ZRow) (val msk : Row) : ZRow := z.written (((if z.valid then z.bits else 0) &&& ~~~msk) ||| (val &&& msk)) msk

/-- The register write of a result of the current context: its register or row is then valid and full (R227). A deferred fault fills its
destination (R52); the value beside it is free. -/
def State.writeDest (s : State) (p : Pend) : State :=
  let n := p.dest.num
  let w : Word := p.val.truncate 64
  match p.dest.kind with
  | 0 =>
    match p.fault with
    | some f => { s with ctx := s.ctx.setS n { val := Config.freeWord s.free, valid := true, full := true, fault := some f }, free := s.free + 1 }
    | none => { s with ctx := s.ctx.setS n { val := w, valid := true, full := true, fault := none } }
  | 1 => { s with ctx := s.ctx.setP n ⟨w.getLsbD 0, true⟩ }
  | 2 => { s with ctx := s.ctx.setM n ⟨p.val.truncate 512, true⟩ }
  | 3 =>
    let z := s.row s.ctx.core n
    let t : State := { s with ctx := s.ctx.wrote [n] }
    match p.fault with
    | some f => { t.setRow s.ctx.core n { z with bits := Config.freeRow s.free, valid := true, full := true, fault := some f, mark := false } with free := s.free + 1 }
    | none => t.setRow s.ctx.core n (z.result p.val p.msk)
  | 4 => { s with ctx := s.ctx.setSpecial n w }
  | 5 => { s with ctx := s.ctx.setK n ⟨w, true⟩ }
  | _ => s

/-- A result becomes visible: its register and its flags (R75, R76), but none of a row whose lanes a fault discards (R203), or the pool trap that stands for it (R221). -/
def State.visible (s : State) (p : Pend) : State :=
  match p.pool with
  | some a => { s with ctx := { s.ctx with compl := s.ctx.compl ++ [{ cause := 0x14, addr := a, inRegion := !s.ctx.regions.isEmpty }] } }
  | none =>
    let t := s.writeDest p
    if p.fault.isSome then t else { t with ctx := t.ctx.raise p.flags.toNat p.ftrap p.srcpc p.srcstep p.vis false }

/-- The results that are due: a write of FLAGS replaces it before the flags of the others are ORed in (R75). -/
def dueOrder (ps : List Pend) : List Pend :=
  let isF (p : Pend) : Bool := p.dest.kind == 4 && p.dest.num == 0x009
  ps.filter isF ++ ps.filter (fun p => !isF p)

/-- Where a window register of the first origin of a fused task is among results that became visible, the second's port region follows it
(R342). -/
def State.windowsMoved (s : State) (ps : List Pend) : State :=
  if ps.any (fun p => p.dest.kind == 4 && 0x102 ≤ p.dest.num && p.dest.num ≤ 0x104) then s.fixRegions else s

/-- Makes the due results visible once every one of them has arrived (R48). -/
def State.settle (s : State) : State :=
  let due := s.ctx.dq.filter (fun p => p.rem == 0)
  if due.all Pend.arrived then
    ((dueOrder due).foldl State.visible { s with ctx := { s.ctx with dq := s.ctx.dq.filter (fun p => p.rem != 0) } }).windowsMoved due
  else s

/-- Whether a due result has not arrived, which holds the next bundle (R48). -/
def Ctx.late (c : Ctx) : Bool := c.dq.any (fun p => p.rem == 0 && !p.arrived)

/-- Moves STEP by k: what becomes visible by then comes first, in order (R44 to R46). -/
def Ctx.advance (c : Ctx) (k : Nat) (new : List Pend) : Ctx :=
  let all := c.dq ++ new
  let due := sortPend [] (all.filter (fun p => p.rem ≤ k))
  { c with step := c.step + BitVec.ofNat 64 k
           dq := due.map (fun p => { p with rem := 0, vis := if p.rem = 0 then p.vis else c.step + BitVec.ofNat 64 p.rem })
             ++ (all.filter (fun p => k < p.rem)).map (fun p => { p with rem := p.rem - k }) }

/-- How many results are pending at the step to which a bundle moves STEP (R47). -/
def Ctx.pendingAt (c : Ctx) (k : Nat) (new : List Pend) : Nat := ((c.dq ++ new).filter (fun p => k < p.rem)).length

/-- A register that a long-latency load marks empty, with the policy that a row's readers obey (R51). -/
def State.markEmpty (s : State) (x : Dest × Bool) : State :=
  match x.1.kind with
  | 0 => { s with ctx := s.ctx.setS x.1.num { s.ctx.sreg x.1.num with full := false, fault := none } }
  | 3 => s.setRow s.ctx.core x.1.num ((s.row s.ctx.core x.1.num).emptied x.2)
  | _ => s

/-! Decisions of a gang (R35, R37, R144). -/

/-- The exit taken, as a decision: its number, 0 for none, and the address of the next bundle. -/
def Iss.decision (i : Iss) : Nat × Word :=
  match i.taken with
  | none => (0, i.npc)
  | some (j, .branch t) => (j, t)
  | some (j, _) => (j, i.npc)

/-- The ranks of a gang that take part. -/
def State.actives (s : State) (g : Nat) : List Ctx := (s.members g).filter Ctx.active

/-- The decision of a bundle of the gang, once rank 0 or the rank in its place has made it. -/
def Gang.decided (g : Gang) (k : Nat) : Option (Nat × Word) := (g.dec.find? (fun x => x.1 == k)).map Prod.snd

/-- Records the lead's decision of its current bundle; decisions that no rank needs any more go. -/
def State.record (s : State) : State :=
  match s.gang? s.ctx.gang with
  | none => s
  | some g => s.setGang { g with dec := (g.dec.filter (fun x => s.lowSeq ≤ x.1 && x.1 != s.ctx.bseq)) ++ [(s.ctx.bseq, s.iss.decision)] }

/-- Whether a rank holds as many presented bundles as it can, so that the current rank's next one is not fetched (R35). -/
def State.farAhead (s : State) : Bool :=
  (s.actives s.ctx.gang).any (fun c => c.inh == s.ctx.inh && c.bseq + 32 ≤ s.ctx.bseq)

/-- Whether no rank takes the exit that the gang decided on for the current bundle (R144). -/
def Gang.voids (g : Gang) (k : Nat) : Bool :=
  match g.void with
  | some v => v.seq == k
  | none => false

/-- Whether a divergence stop of the gang waits for a rank that has not yet issued the bundle of the exit (R144). -/
def State.voidWait (s : State) (g : Gang) : Bool :=
  match g.void with
  | some v => v.due && (s.actives g.id).any (fun c => c.bseq ≤ v.seq)
  | none => false

/-- The bits of the ranks that have dissented at a bundle: the mask that their traps carry (R37). Dissents that wait at two executions of one PC
count as one bundle's (DESIGN CHOICE, log 113). -/
def State.dissented (s : State) (pc : Word) : Word :=
  ((s.actives s.ctx.gang).flatMap Ctx.async).foldl (fun a t => if t.cause = 0x0D ∧ t.srcpc = pc then a ||| t.info1 else a) 0

/-- A rank dissents (R37): it follows the decision made for it with none of the effects of its own exit, and holds the divergence
trap at the boundary after its bundle; the masks of all that dissented there are one. Where the gang's decision was an exit, no rank
takes it: those that did are taken back to the bundle after, and the stop waits for the others (R144). -/
def State.dissent (s : State) (d : Nat × Word) : State :=
  let c := s.ctx
  let m := s.dissented c.pc ||| BitVec.ofNat 64 (2 ^ c.rank)
  let t : Trap := { cause := 0x0D, info1 := m, srcpc := c.pc, srcstep := c.step, inRegion := !c.regions.isEmpty }
  let i : Iss := { s.iss with taken := if d.1 = 0 then none else some (d.1, .branch d.2), out := [], traps := [], loopFalls := 0 }
  let gone (x : Ctx) : Bool := x.live && x.gang == c.gang && x.stat == .exited && x.bseq == c.bseq + 1
  let exits := s.ctxs.any gone
  let s1 := s.mapGang c.gang (fun x =>
    let y : Ctx := { x with async := x.async.map (fun a => if a.cause = 0x0D ∧ a.srcpc = c.pc then { a with info1 := m } else a) }
    if gone x then { y with stat := .run, left := none, blocked := none } else y)
  let s2 := match s1.gang? c.gang with
    | some g => if exits || g.voids c.bseq then s1.setGang { g with void := some ⟨c.bseq, true⟩ } else s1
    | none => s1
  { s2 with iss := i, ctx := { s2.ctx with async := s2.ctx.async ++ [t] } }

/-- A rank agrees with the decision made for it; an exit that the gang does not take ends it no more than the others (R144). -/
def State.agree (s : State) : State :=
  match s.gang? s.ctx.gang, s.iss.taken with
  | some g, some (j, .exit) => if g.voids s.ctx.bseq then { s with iss := { s.iss with taken := some (j, .branch s.iss.npc) } } else s
  | _, _ => s

/-- The ranks that wait at a gang operation: none is left once a rank stops. -/
def State.clearGate (s : State) (g : Nat) : State :=
  match s.gang? g with
  | some x => s.setGang { x with gate := [], opened := [], mcast := [], snap := none }
  | none => s

/-- A rank brings its parameters to the gate of a multicast (R264). -/
def State.bring (s : State) (addr : Word) (par : Nat) : State :=
  match s.gang? s.ctx.gang with
  | some g => s.setGang { g with mcast := g.mcast.filter (fun x => !(x.1 == s.ctx.bseq && x.2.rank == s.ctx.rank)) ++ [(s.ctx.bseq, ⟨s.ctx.rank, addr, par⟩)] }
  | none => s

/-- A rank comes to a gang operation, otherwise ready (R212): the last one to come lets every rank through, and fixes what a multicast
reads (R264). -/
def State.atGate (s : State) : State :=
  match s.gang? s.ctx.gang with
  | none => s
  | some g =>
    let all := (s.actives g.id).map Ctx.rank
    let at_ := if g.gate.contains s.ctx.rank then g.gate else g.gate ++ [s.ctx.rank]
    if all.all (fun r => at_.contains r) then
      s.setGang { g with gate := [], opened := all, snap := if g.mcast.any (fun x => x.1 == s.ctx.bseq) then some s.bufView else none }
    else s.setGang { g with gate := at_ }

/-- A rank is through a gang operation, and with the last one the operation is over. -/
def State.passGate (s : State) : State :=
  match s.gang? s.ctx.gang with
  | some g =>
    let left := g.opened.filter (fun r => r != s.ctx.rank)
    s.setGang (if left.isEmpty then { g with opened := [], mcast := [], snap := none } else { g with opened := left })
  | none => s

/-! Bank-conflict snapshots (R364). -/

/-- The offset of a core's bank counters. -/
def cntOff (core : Nat) : Nat := 0x800000 + 0x2000 * core

/-- Latches the counters of a context's core, as they stand, at a loop fall-through. -/
def State.latch (s : State) (c : Ctx) : State :=
  if 4 ≤ (s.snaps.filter (fun x => x.core == c.core)).length then s.bump (cntOff c.core + 0x1318)
  else
    let mine (k : Nat) : Bool := k / 1152 == c.core
    let n : Snap := ⟨c.core, s.tb, c.pc, c.arr, c.task, c.cid % 4, c.rank, c.step,
      (s.conflicts.filter (fun x => mine x.1)).map (fun x => (x.1 % 1152, x.2)),
      (s.confOvf.filter (fun x => mine x.1)).map (fun x => (x.1 % 1152, x.2))⟩
    { s with snaps := s.snaps ++ [n] }

/-- The loop fall-throughs of one cycle on the current context's core, each at the context given, latched with equal counts; none while BCRB
is zero. -/
def State.snapshots (s : State) (cs : List Ctx) : State :=
  let n := s.ctx.core
  if cs.isEmpty ∨ s.reg (cntOff n + 0x1300) = 0 then s
  else cs.foldl State.latch (if (s.snaps.filter (fun x => x.core == n)).length < 4 then (List.range 1152).foldl (fun u i => u.syncCount n i) s else s)

/-- The 4,864 bytes of snapshot number k. -/
def Snap.bytes (n : Snap) (k : Nat) : List Byte :=
  padTo 0x40 (leBytes 8 n.tb.toNat ++ leBytes 8 n.pc.toNat ++ leBytes 8 n.arr ++ leBytes 4 n.task ++ leBytes 1 n.cid ++ leBytes 1 n.rank
      ++ leBytes 2 0 ++ leBytes 8 n.step.toNat ++ leBytes 8 k)
    ++ padTo 0xC0 (leBytes 144 (bitsOf 1152 (fun c => tabGet false n.ovf c)))
    ++ (List.range 1152).flatMap (fun c => leBytes 4 (tabGet 0 n.counts c).toNat)

/-- The oldest latched snapshot goes to its ring. -/
def State.writeSnap (s : State) : Option State :=
  match s.snaps with
  | [] => none
  | n :: r =>
    let b := cntOff n.core
    let k := (s.reg (b + 0x1310)).toNat
    let size := (s.reg (b + 0x1308)).toNat
    let base := (s.reg (b + 0x1300)).toNat
    let t : State := { s with snaps := r }
    some ((if base = 0 ∨ size = 0 then t else t.devPut (base + 4864 * (k % size)) (n.bytes k)).setReg (b + 0x1310) (BitVec.ofNat 64 (k + 1)))

/-! The end of a bundle. -/

/-- The core time of a rank up to its exit, or up to now while it runs (R30). -/
def State.rankTime (s : State) (g : Gang) (c : Ctx) : Nat :=
  match g.began with
  | some b => (c.left.getD s.tb).toNat - b.toNat
  | none => 0

/-- The first bundle of a gang, or of its resumption, starts its core time, and the first of a launch its START (R30, Table 19.3). -/
def State.firstBundle (s : State) : State :=
  match s.gang? s.ctx.gang with
  | some g =>
    if g.began.isSome then s
    else
      let t := s.setGang { g with began := some s.tb }
      match t.launch? g.arr with
      | some l => if l.start.isSome then t else t.setLaunch { l with start := some s.tb }
      | none => t
  | none => s

/-- The step advance of a bundle: the largest k of its nops, or 1 (R118). -/
def Iss.advance (i : Iss) : Nat := max 1 i.nk

/-- The context after its bundle: the exit taken, the leaf and draw counts (R60, R80), the watchpoints set (R156) and the traps of
its slots. A break beside a taken exit is never delivered, since the rank takes no further part (DEDUCED, log 89); the frame of one beside a taken
branch has the target as its PC, the bundle that Table 21.1 calls the next (DEDUCED, log 118). -/
def Ctx.finishBundle (c : Ctx) (i : Iss) (tb : Word) : Ctx :=
  let w := i.wpt.foldl (fun ws x => (List.range 4).map (fun j => if j = x.1 then x.2 else ws.getD j {})) c.watch
  { c with
    pc := i.decision.2
    stat := match i.taken with
      | some (_, .exit) => .exited
      | _ => c.stat
    left := match i.taken with
      | some (_, .exit) => some tb
      | _ => c.left
    drains := i.drains
    yielded := match i.taken with
      | some (_, .yield) => true
      | _ => false
    leafn := c.leafn + i.leafs
    rseq := if i.leafs = 0 then c.rseq + BitVec.ofNat 16 i.counted else 0
    watch := w
    bseq := c.bseq + 1
    compl := c.compl ++ i.compl
    age := 0
    blocked := none }

/-- What a bundle of one origin of a fused task brings about for the other: the state that the task holds once (R337), without the transposer's
where it took an exit (R249); C's exit ends the task, and after P's exit before its loop C goes on at its own (R338, DEDUCED, log 46). -/
def State.mateFollows (s : State) : State :=
  match s.gang? s.ctx.gang, s.fuseOf s.ctx with
  | some g, some f =>
    let c := s.ctx
    s.mapGang g.mate (fun m =>
      if m.rank ≠ c.rank then m
      else
        let x : Ctx := { m with spovf := c.spovf, tvec := c.tvec, area := c.area, dbg := c.dbg, watch := c.watch,
                                fill := if c.stat = .exited then {} else c.fill, drain := if c.stat = .exited then none else c.drain, age := 0, yielded := c.yielded, blocked := none }
        if c.stat ≠ .exited ∨ m.stat ≠ .run then x
        else if f.origin = 2 then { x with stat := .exited, left := c.left }
        else if c.fz.part = 0 ∧ m.fz.part = 0 then { x with pc := m.text + BitVec.ofNat 64 (snLtop f.other), fz := { m.fz with part := 1 } }
        else x)
  | _, _ => s

/-- The end of a bundle that took effect, with its cycle's loop fall-throughs, and the results visible at the boundary after it. -/
def State.endBundleWith (falls : List Ctx) (s0 : State) : State :=
  let s := s0.firstBundle
  let i := s.iss
  if i.rft then { s.settle with iss := {} }
  else
    let s1 := if s.isLead && 1 < s.ctx.nrank && i.bslots != 0 then s.record else s
    let s2 := s1.snapshots falls
    let s3 := if i.gangOp then s2.passGate else s2
    let c1 := (s3.ctx.finishBundle i s.tb).advance i.advance (sortOut i.out)
    let c2 := match s.fuseOf s.ctx with
      | some f => c1.fzStep f s.ctx.offset i.taken.isNone
      | none => c1
    let s4 : State := { s3 with ctx := c2 }
    let s5 := i.empt.foldl State.markEmpty s4
    { s5.settle.mateFollows with iss := {} }

/-- The contexts at which a bundle's loop fall-throughs are latched: its own, once for each. -/
def State.loopFalls (s : State) : List Ctx := List.replicate s.iss.loopFalls s.ctx

/-- The end of a bundle that issued by itself. -/
def State.endBundle (s : State) : State := s.endBundleWith s.loopFalls

/-! Fetch (R90, R101). -/

/-- Reads a slot word through translation for instruction fetch: the address or path trap of a fetch that fails, and the poison trap
of a poisoned line. INFO1 of a fetch beyond the virtual addresses is kind 1 (DESIGN CHOICE, log 90). -/
def State.fetchWord (s : State) (a : Word) : Except Trap (State × Nat) :=
  if selOf a ≠ 0 then .error { cause := 0x08, addr := a }
  else if wfld a 48 8 ≠ 0 then .error (fltTrap (aflt 1) a)
  else match s.translate s.ctx 0 a.toNat false true with
    | .error f => .error (fltTrap f a)
    | .ok (pa, e) =>
      let t := s.touched s.ctx (some e) false
      if t.devBad s.ctx.arr pa then .error { cause := 0x0F, addr := a }
      else .ok (t, leNat ((List.range 4).map (fun i => t.devByte s.ctx.arr (pa + i))))

/-- Fetches the words of a bundle: up to the stop slot, or up to the eighth word, where the second answer is false. -/
def State.fetchGo (s : State) (k : Nat) (a : Word) : Nat → Except Trap (State × List Nat × Bool)
  | 0 => .ok (s, [], false)
  | n + 1 => match s.fetchWord a with
    | .error t => .error { t with ordn := k }
    | .ok (t, w) =>
      if bitAt w 31 then .ok (t, [w], true)
      else match State.fetchGo t (k + 1) (a + 4) n with
        | .error e => .error e
        | .ok (u, ws, b) => .ok (u, w :: ws, b)

/-- The words of the current context's next bundle as the cluster sequencer fetched them for the gang (R35). -/
def State.presented (s : State) : Option (List Nat) :=
  match s.gang? s.ctx.gang with
  | some g => (g.shown.find? (fun x => x.seq == s.ctx.bseq && x.pc == s.ctx.pc)).map Shown.words
  | none => none

/-- The sequencer keeps a bundle that it has fetched for the other ranks of the gang; those that every rank has issued go. -/
def State.show (s : State) (ws : List Nat) : State :=
  match s.gang? s.ctx.gang with
  | some g => if s.ctx.nrank ≤ 1 then s
    else s.setGang { g with shown := g.shown.filter (fun x => s.lowSeq ≤ x.seq) ++ [⟨s.ctx.bseq, s.ctx.pc, ws⟩] }
  | none => s

/-- A bundle from its words, or the decode trap (R101). -/
def decodeTrap (ws : List Nat) : Except Trap Bundle :=
  match decodeBundle ws with
  | .error e => .error { cause := e.cause, ordn := e.ord, info1 := BitVec.ofNat 64 e.info }
  | .ok b => .ok b

/-- The words of a bundle of fused code, as the Fuller wrote them before the task was placed (R189, R345). -/
def State.fusedWords (s : State) : Option (List Nat) :=
  match s.fuseOf s.ctx with
  | some f => (f.code.find? (fun x => x.1 == s.ctx.offset)).map Prod.snd
  | none => none

/-- The next bundle of the current context, or the class 3 trap that it raises (R101): fetched once for all ranks of a gang (R35,
R36); a fused task's stands in the Fuller's code area. -/
def State.fetch (s : State) : Except Trap (State × Bundle) :=
  match s.presented.or s.fusedWords with
  | some ws => match decodeTrap ws with
    | .error e => .error e
    | .ok b => .ok (s, b)
  | none => match s.fetchGo 0 s.ctx.pc 8 with
    | .error t => .error t
    | .ok (_, _, false) => .error { cause := 0x02, ordn := 0 }
    | .ok (t, ws, true) => match decodeTrap ws with
      | .error e => .error e
      | .ok b => .ok (t.show ws, b)

end Sys2Proof.Machine
end

