-- ==== Sys2Proof/Machine/Stop.lean ====
section
/-! DEFINITION. The stop of a gang at its ranks' boundaries: what is brought to an end before it (R49, R265), the ranks that stop (R305),
the traps that a boundary holds (R297), debug stops (R307, R365) and consumptions of poison in a region (R150, R349). -/

namespace Sys2Proof.Machine

/-- The context of a number. -/
def State.ctxKey (s : State) (k : Nat) : Option Ctx := s.ctxAt (k / 8) (k % 8)

/-- Makes a context the current one. -/
def State.focus (s : State) (core cid : Nat) : Option State :=
  if s.ctx.live && s.ctx.core == core && s.ctx.cid == cid then some s
  else match s.parked.find? (fun c => c.live && c.core == core && c.cid == cid) with
    | none => none
    | some c => some { s with ctx := c, parked := s.parked.erase c ++ (if s.ctx.live then [s.ctx] else []) }

/-- Changes the context of a rank, on its core or saved. -/
def State.updRank (s : State) (g rank : Nat) (f : Ctx → Ctx) : State := s.mapGang g (fun c => if c.rank = rank then f c else c)

/-- The context of a rank, on its core or saved. -/
def State.ownerOf (s : State) (g rank : Nat) : Option Ctx :=
  (s.ctxs ++ s.saved).find? (fun c => c.live && c.gang == g && c.rank == rank)

/-- Every rank may be tried again: something has changed. -/
def State.unblock (s : State) : State := s.mapCtx (fun c => { c with blocked := none })

/-- The due results of a context become visible if every one of them has arrived (R48). -/
def State.settleAt (s : State) (core cid : Nat) : State := ((s.focus core cid).map State.settle).getD s

/-- The operations of a core's X0 complete up to the last one of a gang (R49). -/
def State.drainX (s : State) (g core : Nat) : Nat → State
  | 0 => s
  | n + 1 => if s.xq.any (fun x => x.core == core && x.gang == g) then State.drainX (s.xDone core) g core n else s

/-- Whether a context has an mma64 in the pipe, which its next boundary waits for (R265). -/
def State.m64Out (s : State) (c : Ctx) : Bool :=
  s.xq.any (fun x => x.core == c.core && x.cid == c.cid && x.gang == c.gang && x.m64.isSome && !x.dropped)

/-- The operations of a rank's X0 complete up to its mma64, whose boundary a stop waits for (R265, R305). -/
def State.endM64 (s : State) (c : Ctx) : Nat → State
  | 0 => s
  | n + 1 => if s.m64Out c then State.endM64 (s.xDone c.core) c n else s

/-- The same for every rank of a gang. -/
def State.endM64s (s : State) (g : Nat) : State := ((s.members g).filter Ctx.active).foldl (fun t c => t.endM64 c (t.xq.length + 1)) s

/-- What comes before an image of a gang's ranks is written (R49): its X-class operations complete and its results arrive. -/
def State.quiet (s : State) (g : Nat) : State :=
  let cs := s.members g
  let s1 := cs.foldl (fun t c => t.drainX g c.core (t.xq.length + 1)) s
  cs.foldl (fun t c => t.settleAt c.core c.cid)
    (s1.mapGang g (fun c => { c with dq := c.dq.map (fun p => { p with arrived := true }), blocked := none }))

/-- Whether a cause is one that an agent takes instead of the handler (R307). -/
def Ctx.forAgent (c : Ctx) (k : Nat) : Bool := c.dbg.getLsbD 0 && (k == 0x11 || k == 0x12)

/-- The trap that a boundary reports without what is its agent's, which stays (R297, R307). -/
def Ctx.ownTrap (c : Ctx) : Option (Trap × Ctx) :=
  let keep := c.compl.filter (fun t => c.forAgent t.cause)
  match { c with compl := c.compl.filter (fun t => !c.forAgent t.cause) }.arbitrate with
  | some (t, d) => some (t, { d with compl := d.compl ++ keep })
  | none => none

/-- Stops one rank at its boundary: it reports a trap of its own if it holds one there. -/
def Ctx.stopNow (c : Ctx) : Ctx :=
  match c.stat with
  | .run => match c.ownTrap with
    | some (t, d) => if t.cause = 0 then { c with stat := .stopped none } else { d with stat := .stopped (some t) }
    | none => { c with stat := .stopped none }
  | _ => c

/-! Debug stops (R307, R365). -/

/-- The gangs of a task: its own, or those of both origins of a fused task, P's first. -/
def State.party (s : State) (g : Gang) : List Gang :=
  match (if g.mate = 0 then none else s.gang? g.mate) with
  | none => [g]
  | some m => if g.id < m.id then [g, m] else [m, g]

/-- Every rank's save image: a fused task's has both origins' state (R308, R346). -/
def State.images (s : State) (g : Gang) : Option State :=
  let ps := (s.members g.id).filter Ctx.active
  let cs := ps ++ (if g.mate = 0 then [] else (s.members g.mate).filter (fun c => c.active && !ps.any (fun p => p.rank == c.rank)))
  cs.foldl (fun o c => o.bind (fun (u : State) =>
    if (u.mateOf c).isSome then u.writeFused c true { cause := 0 } 0 else u.writeFrame c true { cause := 0 } 0)) (some s)

/-- A gang stopped for its agent as by pre-emption, with no handler entry: each rank's save image is written 40 KiB above AREA, or the
task ends as unhandled with cause 0x07 (R307, R308, R401). The record of kind 14 goes to the queue in DAGQ. -/
def State.debugStop (s0 : State) (g : Nat) (o : Ctx) (t : Trap) : State :=
  match s0.gang? g with
  | none => s0
  | some x =>
    let ps := s0.party x
    let s := ps.foldl (fun u y => (u.gangStopped y.id).quiet y.id) s0
    match s.images (ps.headD x) with
    | none => s.endTaskAll o 0x07
    | some u =>
      let v := ps.foldl (fun w y => w.mapGang y.id (fun c => if c.active then { c.keepImage with stat := .debug, blocked := none } else c)) u
      let q := wfld (v.reg 0x251800) 0 12
      let r : ErrRec := ({ kind := 14, cause := t.cause, pc := o.pc.toNat } : ErrRec).atCtx v o
      let w := match v.sendTo q (r.bytes v.tb) with
        | some x => x
        | none => v.sendMgt (r.bytes v.tb)
      if t = dumpStop then w.dumpStopped g else w

/-- A failed engine operation is reported once: an engine trap takes its number out (R184, R186). -/
def Ctx.reported (c : Ctx) (t : Trap) : Ctx :=
  if t.cause = 0x0E then
    { c with tls := (List.range 6).map (fun i =>
        let l := c.tls.getD i {}
        if i = t.info1.toNat then { l with fails := l.fails.filter (fun n => n ≠ t.info2.toNat) } else l) }
  else c

/-- The consumptions that the boundaries of a gang's ranks hold. -/
def State.consumptions (s : State) (g : Nat) : List (Nat × Trap) :=
  ((s.members g).filter (fun c => c.active && c.consumes)).filterMap (fun c => (c.compl.find? Trap.consumed).map (fun t => (c.rank, t)))

/-- Takes a trap of the current context at its boundary: a consumption in an open region of any rank unwinds the gang (R150), a debug
stop is the agent's (R307), and any other trap stops the gang (R305). -/
def State.takeTrap (s0 : State) (t : Trap) : State :=
  let s := s0.endM64s s0.ctx.gang
  let c := s.ctx
  let mine : Bool := t.consumed && !c.regions.isEmpty && !c.inh
  let hit := (s.consumptions c.gang).filter (fun x => !(mine && x.1 == c.rank)) ++ (if mine then [(c.rank, t)] else [])
  if !hit.isEmpty then s.unwindGang c.gang c hit
  else if t.cause = 0 ∨ c.forAgent t.cause then s.debugStop c.gang c t
  else
    let s1 : State := { s with ctx := { c.reported t with stat := .stopped (some t) } }
    (s1.mapGang c.gang Ctx.stopNow).deliverGang c.gang

/-- The traps that a boundary of the current context holds (R297): one is taken. A consumption of poison in an open region of its gang
unwinds first, then what is its agent's comes, in one stop; the other traps stay for the next boundary. -/
def State.boundaryTrap (s : State) : State :=
  let c := s.ctx
  match s.consumptions c.gang, ({ c with compl := c.compl.filter (fun t => c.forAgent t.cause), async := [] } : Ctx).arbitrate with
  | x :: xs, _ => s.unwindGang c.gang c (x :: xs)
  | [], some (t, _) => ({ s with ctx := { c with compl := c.compl.filter (fun t => !c.forAgent t.cause) } } : State).takeTrap t
  | [], none => match c.ownTrap with
    | some (t, d) => ({ s with ctx := d } : State).takeTrap t
    | none => s

/-! Boundaries. -/

/-- Whether a context stands at a boundary where a trap can be taken: its due results have arrived (R48), its mma64 is complete (R265),
its gang is not in the middle of a gang operation, no rank has still to come to the exit that the gang does not take (R144), and it is
neither stopped nor ended. -/
def State.atBoundary (s : State) : Bool :=
  s.ctx.live && s.ctx.stat == .run && !s.ctx.late && !s.m64Out s.ctx
    && (match s.gang? s.ctx.gang with
      | some g => g.opened.isEmpty && !s.voidWait g
      | none => true)

/-- Whether the boundary holds a trap. -/
def Ctx.trapped (c : Ctx) : Bool := !c.compl.isEmpty || !c.async.isEmpty

/-- Takes what the current context's boundary holds. -/
def State.takeBoundary (s : State) : State :=
  if s.atBoundary && s.ctx.trapped then ((s.clearGate s.ctx.gang).boundaryTrap).unblock else s

end Sys2Proof.Machine
end

