-- ==== Sys2Proof/Machine/Progress.lean ====
section
/-! DEFINITION. What goes on beside issue: replies and arrivals (R48, R51, R310), X-class completion (R259), the engines (R183 to
R186, R213 to R217, R252, R391), leaves (R318) and the end of a rank (R144). A context is named by 4 × core + context number. An
event that is not due leaves the state as it is (log 13). -/

namespace Sys2Proof.Machine

/-! Arrivals and replies. -/

/-- RESULT_ARRIVAL (R48): entry i of a delivery queue has arrived; the last one to come makes the due results visible. -/
def execResultArrival (c i : Nat) (s : State) : Res :=
  .next (((s.updCtx (c / 8) (c % 8) (fun x =>
    { x with dq := (List.range x.dq.length).zip x.dq |>.map (fun y => if y.1 = i then { y.2 with arrived := true } else y.2) })).unblock).settleAt
      (c / 8) (c % 8))

/-- The loads that a context has out. -/
def State.loadsOf (s : State) (k : Nat) : List PLoad := s.loads.filter (fun l => 8 * l.core + l.cid == k)

/-- A walk is complete: what it came to is cached for the clusters of the loads that wait on it, and they go on (R310). -/
def State.walkDone (s : State) (w : WalkEnt) : State :=
  let waits (x : PLoad) : Bool := x.core / 96 == w.die && x.root == w.root && x.pages.contains w.page
  let cls := ((s.loads.filter waits).map (fun x => x.core / 16)).eraseDups
  let t : State := { s with
    walks := s.walks.filter (fun x => !(x.die == w.die && x.root == w.root && x.page == w.page))
    loads := s.loads.map (fun x => if waits x then { x with pages := x.pages.filter (fun p => p != w.page) } else x) }
  match w.out with
  | some e => cls.foldl (fun u cl => u.cache { e with cluster := cl }) t
  | none => t

/-- PAGE_WALK_COMPLETE (R310): the walk of a page that load i waits for is complete. -/
def execPageWalk (c i : Nat) (s : State) : Res :=
  match (s.loadsOf c)[i]? with
  | none => .next s
  | some l => match s.walks.find? (fun w => w.die == l.core / 96 && w.root == l.root && l.pages.contains w.page) with
    | some w => .next (s.walkDone w)
    | none => .next { s with loads := s.loads.map (fun x => if x = l then { x with pages := [] } else x) }

/-- Whether no walk keeps a load from its reply. -/
def PLoad.walked (l : PLoad) : Bool := l.pages.isEmpty

/-- A row that a reply fills, wherever its tile's rows are (R49, R308). -/
def State.fillRow (s : State) (l : PLoad) (fault : Option DFault) : State :=
  let n := l.dest.num
  let fill (z : ZRow) : ZRow :=
    match fault with
    | some f => { z with bits := Config.freeRow s.free, valid := true, full := true, fault := some f, mark := false }
    | none => z.result l.val l.msk
  let t : State := { s with free := s.free + 1 }
  match s.saved.find? (fun c => c.live && c.gang == l.gang && c.core == l.core) with
  | some c =>
    if c.keptZ.any (fun x => x.1 == n / 128) then
      t.updRank l.gang c.rank (fun d => { d with keptZ := d.keptZ.map (fun x =>
        if x.1 = n / 128 then (x.1, (List.range 128).zip x.2 |>.map (fun y => if y.1 = n % 128 then fill y.2 else y.2)) else x) })
    else t.setRow l.core n (fill (s.row l.core n))
  | none => t.setRow l.core n (fill (s.row l.core n))

/-- The context of a gang on a core that stands in a save image: pre-empted, or stopped for its agent. -/
def State.imaged (s : State) (g core : Nat) : Option Ctx :=
  (s.ctxs ++ s.saved).find? (fun c => c.live && c.gang == g && c.core == core && (c.stat == .debug || s.saved.contains c))

/-- Flags raised for a context that stands in a save image land there too (R308). -/
def State.landFlags (s : State) (g core flags : Nat) : State :=
  if flags = 0 then s
  else match s.imaged g core with
    | some c => s.imageFlags c flags
    | none => s

/-- The deferred fault of a load at its reply: that of its accesses, else an error that the far side reports for an element in host or peer
memory (R179, R180), else a watchpoint's match. -/
def PLoad.fails (l : PLoad) (err : Bool) : Option DFault :=
  match (if err then l.far else none) with
  | some a => if l.fault.any (fun f => f.cause != 0x11) then l.fault else some ⟨0x07, a, 0, 0, l.srcpc, l.srcstep⟩
  | none => l.fault

/-- The reply of a load (R51, R52): its destination fills, valid and full, with its value or a deferred fault, and its flags are raised
(R200). Where a save image holds the context, the reply lands there too (R308). -/
def State.reply (s : State) (l : PLoad) (err : Bool) : State :=
  let f : Option DFault := l.fails err
  let g (h : Ctx → Ctx) (t : State) : State := t.mapGang l.gang (fun c => if c.core = l.core then h c else c)
  if l.discard then s
  else if l.dest.kind = 0 then
    let v : Word := if f.isSome then Config.freeWord s.free else l.val.truncate 64
    let t : State := { s with free := s.free + 1 }
    let u := g (fun c => c.setS l.dest.num { val := v, valid := true, full := true, fault := f }) t
    match u.imaged l.gang l.core with
    | some c =>
      let x := u.imagePos c
      (u.updRank c.gang c.rank Ctx.keepFault).imageReply x.home (x.scalar l.dest.num) (c.sreg l.dest.num)
    | none => u
  else
    let t := s.fillRow l f
    g (fun c =>
      let d := c.wrote [l.dest.num]
      if f.isSome then d else d.raise l.flags.toNat l.ftrap l.srcpc l.srcstep c.step false)
      (if f.isSome then t else t.landFlags l.gang l.core l.flags.toNat)

/-- LOAD_REPLY (R51): the reply to load i of a context, once its page walk is over; `err` is an error of the far side (R179,
R180). -/
def execLoadReply (c i : Nat) (err : Bool) (s : State) : Res :=
  match (s.loadsOf c)[i]? with
  | none => .next s
  | some l => .next (if l.walked then ({ s with loads := s.loads.erase l }.reply l err).unblock else s)

/-- X_OPERATION_COMPLETE (R259). -/
def execXComplete (core : Nat) (s : State) : Res := .next (s.xDone core).unblock

/-! The engines. -/

/-- The highest n for which operations 1 to n have all finished (R183). -/
def finishedUpTo : Nat → Nat → List Nat → Nat
  | 0, d, _ => d
  | n + 1, d, fs => if fs.contains (d + 1) then finishedUpTo n (d + 1) fs else d

/-- An operation of a timeline finishes, or fails (R183, R184). -/
def TLine.finish (t : TLine) (n : Nat) (bad : Bool) : TLine :=
  let fs := t.fins ++ [n]
  let d := finishedUpTo fs.length t.done fs
  { t with done := d, fins := fs.filter (fun k => d < k), fails := if bad then t.fails ++ [n] else t.fails }

/-- The leaf record of an engine operation (Table 23.2). -/
def State.engLeaf (s : State) (e : EngOp) (lflags scal : Nat) (da dr : List Byte) : List Byte :=
  let dig (bs : List Byte) : List Byte := s.digestOf e.arr e.task bs
  LeafRec.bytes { lidx := e.lidx, words := e.words, opc := s.opcOf e.arr e.text e.pc, mode := e.mode.toNat % 2 ^ 32, rank := e.rank,
                  lflags := lflags, scal := scal, da := dig da, db := dig [], dc := dig [], dr := dig dr }

/-- An operation leaves its engine: its timeline, its write pointer, the flags it ORs in, and its leaf. -/
def State.endEng (s : State) (e : EngOp) (bad : Bool) (flags : Nat) (da record : List Byte) : State :=
  let t : State := { s with engs := s.engs.filter (fun x => !(x.gang == e.gang && x.rank == e.rank && x.tl == e.tl && x.num == e.num)) }
  let u := (t.landFlags e.gang e.core flags).updRank e.gang e.rank (fun c =>
    let d := c.setTl e.tl ((c.tl e.tl).finish e.num bad)
    let w := d.wps.getD e.tl {}
    let d1 := if e.tl < 4 ∧ w.num = e.num ∧ ¬ bad then d.setWp e.tl { w with val := BitVec.ofNat 64 w.len } else d
    d1.orFlags flags)
  if e.dropped then u else (u.note e.arr e.task e.rank e.lidx da [] (some [])).retire e.arr e.task e.rank e.lidx record

/-- Whether an engine operation can go on: not over a `tcvt` of its context whose write is still to come (R260), and not into bytes that
the other origin of a fused task has still to read (R342). -/
def State.engReady (s : State) (e : EngOp) : Bool :=
  !s.xq.any (fun x => x.core == e.core && x.gang == e.gang && x.win.1 < x.win.2)
    && (match s.ownerOf e.gang e.rank with
      | some c => (match e.port with
        | some i => s.portReady c e i
        | none => (s.mateOf c).isNone || !([0, 1, 3].any (fun b =>
          s.aliasHeld c (s.engs.takeWhile (fun x => x != e)) b (e.puts.flatMap (s.piecesOf c b)) e.iter)))
      | none => false)

/-- The first operation of each context's timeline, among the operations of the contexts of a number (a saved context may have been one
of them), that can go on; else the first of them. -/
def firstEngs : List (Nat × Nat) → List EngOp → List EngOp
  | _, [] => []
  | seen, e :: es => if seen.contains (e.gang, e.rank) then firstEngs seen es else e :: firstEngs ((e.gang, e.rank) :: seen) es

/-- The next operation of a context's timeline. -/
def State.nextEng (s : State) (k tl : Nat) : Option EngOp :=
  let es := firstEngs [] (s.engs.filter (fun e => 8 * e.core + e.cid == k && e.tl == tl))
  (es.find? s.engReady).or es.head?

/-- Reads a byte of an engine operation's source; none where it fails: an error that a host or peer reports is an access error
(R214). -/
def State.engByte (s : State) (c : Ctx) (a : Word) : State × Option Byte :=
  match ({ s with ctx := c } : State).issueCheck .copySrc a 1 with
  | .error _ => (s, none)
  | .ok _ => match s.place c a false with
    | .error _ => (s, none)
    | .ok (p, e) =>
      let t := (s.touched c e false).farUse p
      if s.farFails c.arr p true then (t, none)
      else match s.readPlace c.arr p 1 with
        | .ok [b] => (t, some b)
        | _ => (t, none)

/-- Reads n bytes upward; the state, the bytes, and whether all of them could be read. -/
def State.engBytes (s : State) (c : Ctx) : Nat → Word → State × List Byte × Bool
  | 0, _ => (s, [], true)
  | n + 1, a => match s.engByte c a with
    | (t, none) => (t, [], false)
    | (t, some b) =>
      let r := t.engBytes c n (a + 1)
      (r.1, b :: r.2.1, r.2.2)

/-- Where an engine operation writes: the state with its translation and shadow made; none where it fails. -/
def State.engPlace (s : State) (c : Ctx) (a : Word) : Option (State × Place) :=
  match ({ s with ctx := c } : State).issueCheck .copyDst a 1 with
  | .error _ => none
  | .ok _ => match s.place c a true with
    | .error _ => none
    | .ok (p, e) => ((s.touched c e true).shadowFor c.arr p).map (fun u => (u, p))

/-- Writes bytes that lie in one 64-byte line; none where it fails. -/
def State.engWrite (s : State) (c : Ctx) (a : Word) (bs : List Byte) : Option State :=
  match s.engPlace c a with
  | none => none
  | some (t, p) =>
    if ¬ c.inBounds (a + BitVec.ofNat 64 (bs.length - 1)) then none
    else if t.farFails c.arr p false then none
    else some ((t.farUse p).writePlace c.arr p bs)

/-- The addresses of a copy's byte k in copy order (R213). -/
def copyAddr (d : List Byte) (k : Nat) : Word × Word :=
  let len := numAt d 0x10 4
  let j : Int := k / len
  let o := BitVec.ofNat 64 (k % len)
  (BitVec.ofNat 64 (numAt d 0 8) + BitVec.ofInt 64 (j * sgnAt d 0x18) + o, BitVec.ofNat 64 (numAt d 8 8) + BitVec.ofInt 64 (j * sgnAt d 0x20) + o)

/-- How far a copy comes: the operation with what it has delivered, or its failure after the bytes it has read. -/
inductive CopyEnd where
  | more (e : EngOp)
  | failed (e : EngOp)

/-- The length of a copy's next piece when it is to deliver up to n bytes: it stays in one row and one destination line. -/
def EngOp.piece (e : EngOp) (n : Nat) : Nat :=
  let len := numAt e.desc 0x10 4
  min (min n (len - e.delivered % len)) (64 - (copyAddr e.desc e.delivered).2.toNat % 64)

/-- Whether a dump holds a write of a copy's next n bytes (R366); `fuel` bounds the pieces. -/
def State.copyHeld (s : State) (c : Ctx) : Nat → Nat → EngOp → Bool
  | 0, _, _ => false
  | fuel + 1, n, e =>
    if n = 0 ∨ numAt e.desc 0x10 4 * numAt e.desc 0x14 4 ≤ e.delivered then false
    else
      let m := e.piece n
      s.writeHeld c (copyAddr e.desc e.delivered).2 m || State.copyHeld s c fuel (n - m) { e with delivered := e.delivered + m }

/-- Delivers up to n bytes of a copy in its pieces; `fuel` bounds them. -/
def State.copyGo (s : State) (c : Ctx) : Nat → Nat → EngOp → State × CopyEnd
  | 0, _, e => (s, .more e)
  | fuel + 1, n, e =>
    let len := numAt e.desc 0x10 4
    let total := len * numAt e.desc 0x14 4
    if n = 0 ∨ total ≤ e.delivered then (s, .more e)
    else
      let a := copyAddr e.desc e.delivered
      let m := e.piece n
      let r := s.engBytes c m a.1
      let bs := r.2.1
      let e1 : EngOp := { e with srcBytes := e.srcBytes ++ bs, delivered := e.delivered + bs.length }
      match (if bs.isEmpty then some r.1 else r.1.engWrite c a.2 bs) with
      | none =>
        -- the bytes before the first one of the piece that cannot be written; a far side's refusal is used up
        let k := ((List.range bs.length).takeWhile (fun i => (r.1.engWrite c (a.2 + BitVec.ofNat 64 i) [0]).isSome)).length
        match (if k = 0 then none else r.1.engWrite c a.2 (bs.take k)) with
        | some t => (t, .failed { e with srcBytes := e.srcBytes ++ bs.take k, delivered := e.delivered + k })
        | none => ({ r.1 with free := r.1.free + 1 }, .failed e)
      | some t => if r.2.2 then State.copyGo t c fuel (n - m) e1 else (t, .failed e1)

/-- Whether a copy's destination is a window, whose write pointer follows the bytes delivered (R186). -/
def EngOp.toWindow (e : EngOp) : Bool := inWindow (numAt e.desc 8 8)

/-- Notes how far a copy has come. -/
def State.copyNote (s : State) (e : EngOp) : State :=
  let t : State := { s with engs := s.engs.map (fun x => if x.gang = e.gang ∧ x.rank = e.rank ∧ x.tl = e.tl ∧ x.num = e.num then e else x) }
  if e.toWindow then
    t.updRank e.gang e.rank (fun c =>
      let w := c.wps.getD e.tl {}
      if w.num = e.num then c.setWp e.tl { w with val := BitVec.ofNat 64 e.delivered } else c)
  else t

/-- LFLAGS of a copy (Table 23.1): PEER where its source or destination lies on path 0x03, REMOTE where its source is cluster-remote. -/
def copyFlags (d : List Byte) : Nat :=
  let src := numAt d 7 1
  16 * (src == 3 || numAt d 0x0F 1 == 3).toNat + 2 * (src == 0x14 || src == 0x15).toNat

/-- Whether a copy's paths are allowed for their roles, which one without a byte to move must have too (R165, R214). -/
def State.copyPaths (s : State) (c : Ctx) (d : List Byte) : Bool :=
  let t : State := { s with ctx := c }
  t.pathPass .copySrc (numAt d 7 1) && t.pathPass .copyDst (numAt d 0x0F 1)

/-- Whether two byte ranges, as address and length, have bytes of one aligned 8-byte unit. -/
def meetUnits (x y : Int × Nat) : Bool := x.2 != 0 && y.2 != 0 && x.1 / 8 * 8 < y.1 + y.2 && y.1 / 8 * 8 < x.1 + x.2

/-- Whether rows of `len` bytes, `stride` apart from `base` on, may be seen handled up to byte k in copy order: no aligned 8-byte unit has
bytes of both sides. Neighbouring rows tell for all; rows that lie on one another are whole accesses of their own. -/
def cutOk (base stride : Int) (len k : Nat) : Bool :=
  let j : Int := k / len
  let r := k % len
  let row (i : Int) : Int := base + i * stride
  let other (i : Int) : List (Int × Nat) := if i < 0 ∨ stride = 0 then [] else [(row i, len)]
  let done := other (j - 1) ++ [(row j, r)]
  let todo := (row j + r, len - r) :: other (j + 1)
  !done.any (fun x => todo.any (meetUnits x))

/-- Whether a copy may be seen stopped at byte k: each aligned 8-byte unit of its destination is written, and each of its source read, at once
(R168, R185, R213; DEDUCED, log 122). -/
def cutsAt (d : List Byte) (k : Nat) : Bool :=
  cutOk (numAt d 8 8) (sgnAt d 0x20) (numAt d 0x10 4) k && cutOk (numAt d 0 8) (sgnAt d 0x18) (numAt d 0x10 4) k

/-- The last row at or before row j, and behind byte `from`, at whose start a copy may stop; else `from`. -/
def rowCut (d : List Byte) (start : Nat) : Nat → Nat
  | 0 => start
  | j + 1 =>
    let k := (j + 1) * numAt d 0x10 4
    if k ≤ start then start else if cutsAt d k then k else rowCut d start j

/-- How many more bytes a copy delivers when it is to deliver up to n: it stops where it may be seen stopped. -/
def EngOp.stopAt (e : EngOp) (n : Nat) : Nat :=
  let len := numAt e.desc 0x10 4
  let total := len * numAt e.desc 0x14 4
  let k := e.delivered + n
  if total ≤ k then total - e.delivered
  else
    let u := k - min ((copyAddr e.desc k).2.toNat % 8) (k % len)
    (if e.delivered < u ∧ cutsAt e.desc u then u else rowCut e.desc e.delivered (k / len)) - e.delivered

/-- A copy goes on by n bytes at most, and finishes when they are all delivered or one fails (R214); without `close` one that is
all delivered stays, to finish later. -/
def State.runCopy (s : State) (c : Ctx) (e : EngOp) (n : Nat) (close : Bool) : State :=
  let total := numAt e.desc 0x10 4 * numAt e.desc 0x14 4
  let scal := numAt e.desc 0x10 8
  let m := e.stopAt n
  let ok := s.copyPaths c e.desc
  if ok ∧ s.copyHeld c (m + 1) m e then s
  else match (if ok then s.copyGo c (m + 1) m e else (s, .failed e)) with
  | (t, .failed x) => (t.copyNote x).endEng x true 0 x.srcBytes (s.engLeaf x (copyFlags e.desc + 1) scal x.srcBytes [])
  | (t, .more x) =>
    if close ∧ total ≤ x.delivered then t.endEng x false 0 x.srcBytes (s.engLeaf x (copyFlags e.desc) scal x.srcBytes x.srcBytes) else t.copyNote x

/-- Whether an operation is a port copy that moves no byte. -/
def State.elided (s : State) (c : Ctx) (e : EngOp) : Bool :=
  e.port.isSome && (match s.fuseOf c with
    | some f => f.elides e.desc
    | none => false)

/-- A port copy counts as finished on its origin. -/
def State.portDone (s : State) (e : EngOp) : State :=
  match e.port with
  | some i => s.updRank e.gang e.rank (fun c => { c with fz := { c.fz with finished := i + 1 } })
  | none => s

/-- The bytes of rows that are read one after another, up to the first that fails, and whether none does (R315). -/
def rowsRead : List (List Byte × Bool) → List Byte × Bool
  | [] => ([], true)
  | (bs, true) :: rs => let r := rowsRead rs; (bs ++ r.1, r.2)
  | (bs, false) :: _ => (bs, false)

/-- An elided copy finishes (R343, R344): its leaf digests the region bytes that it would have moved, read now. -/
def State.runElided (s : State) (c : Ctx) (e : EngOp) : State :=
  let d := e.desc
  let isC := match s.fuseOf c with
    | some f => f.origin == 2
    | none => false
  let at_ (j : Nat) : Word :=
    if isC then BitVec.ofNat 64 (numAt d 8 8) + BitVec.ofInt 64 (j * sgnAt d 0x20) else BitVec.ofNat 64 (numAt d 0 8) + BitVec.ofInt 64 (j * sgnAt d 0x18)
  let x := rowsRead ((List.range (numAt d 0x14 4)).map (fun j => (s.engBytes c (numAt d 0x10 4) (at_ j)).2))
  let bs := x.1
  let scal := numAt d 0x10 8
  let fl := Nat.lor (copyFlags d) 8
  (if x.2 then s.endEng e false 0 bs (s.engLeaf e fl scal bs bs) else s.endEng e true 0 bs (s.engLeaf e (fl + 1) scal bs [])).portDone e

/-- WRITE_POINTER_ADVANCE (R186): the copy under way on channel ch delivers n bytes. -/
def execWpAdvance (c ch n : Nat) (s : State) : Res :=
  match s.nextEng c ch with
  | none => .next s
  | some e => match s.ownerOf e.gang e.rank with
    | none => .next s
    | some o => .next (if ch < 4 ∧ s.engReady e ∧ ¬ s.elided o e then (s.runCopy o e n false).unblock else s)

/-! Collectives (R73, R215 to R217, R391). -/

/-- The format of a format code. -/
def collFmt (f : Nat) : Fmt := if f = 0 then FP32 else if f = 1 then FP16 else BF16

/-- A W96 partial sum: the number, and whether a +Inf, a −Inf and a NaN are in it (R73). -/
structure W96 where
  n : Int := 0
  pinf : Bool := false
  ninf : Bool := false
  nan : Bool := false

/-- A contributor's element as W96 at fraction count F, with its flags: SAT and INV, as R73 names them, and not INX where the rounding at 2^(−F)
is inexact (DESIGN CHOICE, log 115). -/
def toW96 (fmt fr x : Nat) : W96 × Nat :=
  if fmt = 3 ∨ fmt = 4 then
    let r := satI (decI (8 * collSize fmt) x * 2 ^ fr) 96
    ({ n := r.1 }, r.2)
  else
    let v := (collFmt fmt).dec x
    match v with
    | .fin s m e =>
      let q := roundInt ⟨0, 0, false, false, fun _ => 0⟩ 0 96 s (numOf m (e + fr)) (denOf (e + fr))
      ({ n := decI 96 q.bits }, Nat.land q.flags fSAT)
    | .inf s => (if s then { ninf := true } else { pinf := true }, 0)
    | .nan .. => ({ nan := true }, if v.isSnan then fINV else 0)

/-- A partial sum as its 16-byte container holds it (R73): a NaN class no longer tells whether +Inf and −Inf made it (log 106). -/
def W96.ofContainer (v : Nat) : W96 :=
  let k := v / 2 ^ 126 % 4
  { n := decI 126 (v % 2 ^ 126), pinf := k == 1, ninf := k == 2, nan := k == 3 }

/-- The sum of two. -/
def W96.add (a b : W96) : W96 := ⟨a.n + b.n, a.pinf || b.pinf, a.ninf || b.ninf, a.nan || b.nan⟩

/-- The root conversion (R73). Where a NaN is in the sum beside both infinities, whether the NaN class is one from +Inf and −Inf would depend on
the order of combination, on which no result depends: INV is not set (DESIGN CHOICE, log 106). -/
def W96.out (w : W96) (v : REnv) (fmt fr elem : Nat) : FR :=
  let f := collFmt fmt
  if fmt = 3 ∨ fmt = 4 then
    let b := 8 * collSize fmt
    if w.nan then cvtI v elem b (.nan true false 0 0)
    else if w.pinf && w.ninf then cvtI v elem b (.nan true false 0 0)
    else if w.pinf then cvtI v elem b (.inf false)
    else if w.ninf then cvtI v elem b (.inf true)
    else roundInt v elem b (w.n < 0) w.n.natAbs (2 ^ fr)
  else if w.nan then ⟨f.canon, 0⟩
  else if w.pinf && w.ninf then ⟨f.canon, fINV⟩
  else if w.pinf then infRes f false
  else if w.ninf then infRes f true
  else if w.n = 0 then ⟨0, 0⟩
  else roundTo v f elem (w.n < 0) w.n.natAbs (2 ^ fr)

/-- Whether a group's routes reach a root (R391): this package holds it, or a port of UPMASK is up. A group that names a Brim port fails
while collectives over Brim are not accepted (Table 31.2). -/
def State.collRooted (s : State) (g : Nat) : Bool :=
  let w0 := s.reg (0x604000 + 16 * g)
  g < 1024 && (s.feat 4 || wfld w0 0 48 == 0) && ((s.reg (0x604008 + 16 * g)).getLsbD 0
    || (s.feat 4 && (List.range 24).any (fun i => w0.getLsbD i && s.brimUp i)))

/-! Partial sums from other packages (R391). -/

/-- A field of a flit: n bytes from byte o on. -/
def flitFld (f : BitVec 512) (o n : Nat) : Nat := f.toNat / 2 ^ (8 * o) % 2 ^ (8 * n)

/-- Whether a flit is of collective k of group g (Table 31.5). -/
def flitOf (g k : Nat) (f : BitVec 512) : Bool := flitFld f 8 4 == g && flitFld f 4 4 == k

/-- The ports of a group toward contributors. -/
def State.downPorts (s : State) (g : Nat) : List Nat := (List.range 24).filter (fun i => (s.reg (0x604000 + 16 * g)).getLsbD (24 + i))

/-- The flit that a port has brought for three elements of collective k of group g. -/
def State.collFlit (s : State) (g k i p : Nat) : Option (BitVec 512) :=
  (s.collRx.find? (fun x => x.1 == p && flitOf g k x.2 && flitFld x.2 12 4 == i)).map Prod.snd

/-- Whether every port toward contributors has brought its flit for the three elements from i on. -/
def State.flitCame (s : State) (g k i : Nat) : Bool := (s.downPorts g).all (fun p => (s.collFlit g k i p).isSome)

/-- The sum of what those ports brought for element i. -/
def State.farSum (s : State) (g k i : Nat) : W96 :=
  (s.downPorts g).foldl (fun (a : W96) p => match s.collFlit g k (i / 3 * 3) p with
    | some f => a.add (W96.ofContainer (flitFld f (16 + 16 * (i % 3)) 16))
    | none => a) {}

/-- The flits of a collective are in its sum. -/
def State.flitsUsed (s : State) (g k : Nat) : State := { s with collRx := s.collRx.filter (fun x => !flitOf g k x.2) }

/-- Whether other packages may contribute to a group: it has routes beyond the package. -/
def State.collWide (s : State) (g : Nat) : Bool := s.feat 4 && wfld (s.reg (0x604000 + 16 * g)) 0 48 != 0

/-- The first waiting contribution of each member of a group (R215). -/
def firstOf : List Nat → List EngOp → List EngOp
  | _, [] => []
  | seen, e :: es =>
    let m := numAt e.desc 0x20 4
    if seen.contains m then firstOf seen es else e :: firstOf (m :: seen) es

/-- Fields on which the contributors of a collective agree (R217). -/
def collKey (e : EngOp) : List Byte := ((e.desc.drop 0x10).take 8) ++ (e.desc.drop 0x1C).take 4 ++ (e.desc.drop 0x24).take 4

/-- A contributor with its context and the bytes of its source, none where they cannot be read. -/
structure Contrib where
  e : EngOp
  c : Ctx
  src : Option (List Byte)

/-- Whether a contribution by itself fails (R217, R312). Its paths are those of R215, not of Table 11.1 (DEDUCED, log 93). -/
def State.collBad (s : State) (e : EngOp) : Bool :=
  let ok (a : Nat) : Bool := a == 0 || a == 0x10 || a == 0x11 || a == 0x13
  !ok (numAt e.desc 7 1) || !ok (numAt e.desc 0x0F 1) || s.shadowed e.arr || (2 ≤ numAt e.desc 0x14 1 && numAt e.desc 0x15 1 != numAt e.desc 0x16 1)

/-- Gathers the sources of contributors. -/
def State.collRead (s : State) : List EngOp → State × List Contrib
  | [] => (s, [])
  | e :: es => match s.ownerOf e.gang e.rank with
    | none => s.collRead es
    | some c =>
      let r := s.engBytes c (numAt e.desc 0x10 4 * collSize (numAt e.desc 0x15 1)) (BitVec.ofNat 64 (numAt e.desc 0 8))
      let q := r.1.collRead es
      (q.1, ⟨e, c, if r.2.2 then some r.2.1 else none⟩ :: q.2)

/-- Writes bytes upward in pieces that stay in one 64-byte line. -/
def State.engWrites (s : State) (c : Ctx) : Nat → Word → List Byte → Option State
  | 0, _, _ => some s
  | fuel + 1, a, bs =>
    if bs.isEmpty then some s
    else
      let m := min bs.length (64 - a.toNat % 64)
      match s.engWrite c a (bs.take m) with
      | none => none
      | some t => State.engWrites t c fuel (a + BitVec.ofNat 64 m) (bs.drop m)

/-- What a collective leaves in a contributor's destination; none for nothing. `far` is the sum of an element's contributors elsewhere: the
exact sum is that of the contributors here and of theirs. What a root elsewhere, or a member elsewhere, leaves here is free (log 52). -/
def State.collOut (s : State) (cs : List Contrib) (far : Nat → W96) (x : Contrib) : Option (List Byte) × Nat :=
  let d := x.e.desc
  let n := numAt d 0x10 4
  let sz := collSize (numAt d 0x16 1)
  let root := numAt d 0x24 4
  let mem (y : Contrib) : Nat := numAt y.e.desc 0x20 4
  let el (y : Contrib) : List Nat := elems (collSize (numAt d 0x15 1)) n (y.src.getD [])
  let free (k : Nat) : List Byte := (List.range k).map (Config.collByte s.free)
  let con := (el x).map (fun v => toW96 (numAt d 0x15 1) (numAt d 0x17 1) v)
  let fl := orFlags (con.map Prod.snd)
  let isRoot := mem x == root
  match numAt d 0x14 1 with
  | 2 => match cs.find? (fun y => mem y == root) with
    | some y => (some (y.src.getD []), 0)
    | none => (some (free (n * sz)), 0)
  | 3 =>
    let nm := numAt d 0x1C 4
    (some ((List.range nm).flatMap (fun j => match cs.find? (fun y => mem y == j) with
      | some y => y.src.getD []
      | none => (List.range (n * sz)).map (fun i => Config.collByte s.free (j * n * sz + i)))), 0)
  | op =>
    if op = 1 ∧ ¬ isRoot then (none, fl)
    else match cs.find? (fun y => mem y == root) with
      | none => (some (free (n * sz)), fl)
      | some r =>
        let v := renvLeaf r.e.mode (s.nonce r.e.arr) r.e.task r.e.rank r.e.lidx r.e.ord
        let ws := cs.map (fun y => (el y).map (fun z => (toW96 (numAt d 0x15 1) (numAt d 0x17 1) z).1))
        let rs := (List.range n).map (fun i => (ws.foldl (fun (a : W96) w => a.add (w.getD i {})) (far i)).out v (numAt d 0x16 1) (numAt d 0x17 1) i)
        (some (rs.flatMap (fun q => leBytes sz q.bits)), if isRoot then Nat.lor fl (orFlags (rs.map FR.flags)) else fl)

/-- The 16-byte container of a partial sum (R73): the sum in [125:0] and the class in [127:126]. -/
def W96.container (w : W96) : Nat :=
  let k := if w.nan || (w.pinf && w.ninf) then 3 else if w.pinf then 1 else if w.ninf then 2 else 0
  (w.n % 2 ^ 126).toNat + k * 2 ^ 126

/-- A TYPE 4 flit for three elements from i on (Table 31.5): this package's peer number as source and the root's package, which nothing here
names, as destination. -/
def State.sumFlit (s : State) (g k i : Nat) (c : Nat → Nat) : BitVec 512 :=
  BitVec.ofNat 512 (leNat (leBytes 1 4 ++ leBytes 1 (wfld (s.reg 0x600030) 0 8) ++ leBytes 1 (Config.rootPeer g).toNat ++ leBytes 1 0
    ++ leBytes 4 k ++ leBytes 4 g ++ leBytes 4 i ++ leBytes 16 (c i) ++ leBytes 16 (c (i + 1)) ++ leBytes 16 (c (i + 2))))

/-- The TYPE 4 flits of a package that does not hold a reduction's root (R391): one for each three elements of the sum of its own contributors
and of what its ports toward others brought. -/
def State.sumFlits (s : State) (cs : List Contrib) (far : Nat → W96) (g k : Nat) : List (BitVec 512) :=
  match cs with
  | [] => []
  | x :: _ =>
    let d := x.e.desc
    let n := numAt d 0x10 4
    let ws := cs.map (fun y => (elems (collSize (numAt d 0x15 1)) n (y.src.getD [])).map (fun z => (toW96 (numAt d 0x15 1) (numAt d 0x17 1) z).1))
    let sum (i : Nat) : W96 := ws.foldl (fun (a : W96) w => a.add (w.getD i {})) (far i)
    (List.range ((n + 2) / 3)).map (fun j => s.sumFlit g k (3 * j) (fun i => if i < n then (sum i).container else 0))

/-- The first port of UPMASK that is up (log 105). -/
def State.upPort (s : State) (g : Nat) : Option Nat := (List.range 24).find? (fun i => (s.reg (0x604000 + 16 * g)).getLsbD i && s.brimUp i)

/-- A reduction whose root is elsewhere sends the sum of its contributors here up the first port of UPMASK that is up (R391). -/
def State.sendUp (s : State) (cs : List Contrib) (far : Nat → W96) (g k : Nat) : State :=
  let here := cs.any (fun x => numAt x.e.desc 0x20 4 == numAt x.e.desc 0x24 4)
  match s.upPort g, cs.head? with
  | some p, some x => if here || 2 ≤ numAt x.e.desc 0x14 1 then s else { s with txq := s.txq ++ (s.sumFlits cs far g k).map (fun f => (p, f)) }
  | _, _ => s

/-- A TYPE 4 flit that comes by a port toward contributors of its group waits for the sum (R391), unless its collective is over. A package
without contributors of its own only adds what its ports bring, three elements at a time, and forwards the sum (log 105). -/
def State.flitIn (s : State) (p : Nat) (f : BitVec 512) : State :=
  let g := flitFld f 8 4
  let k := flitFld f 4 4
  let i := flitFld f 12 4
  if !s.feat 4 || 1024 ≤ g || !(s.downPorts g).contains p || k < tabGet 0 s.collSeq g || (s.collFlit g k i p).isSome then s
  else
    let t : State := { s with collRx := s.collRx ++ [(p, f)] }
    if Config.collOwn g k || !t.flitCame g k i then t
    else match t.upPort g with
      | none => t
      | some q => { t with txq := t.txq ++ [(q, t.sumFlit g k i (fun j => (t.farSum g k j).container))]
                           collRx := t.collRx.filter (fun x => !(flitOf g k x.2 && flitFld x.2 12 4 == i)) }

/-- A collective fails on every contributor here (R217). -/
def State.collFail (s : State) (cs : List Contrib) : State :=
  cs.foldl (fun t x => { t.endEng x.e true 0 (x.src.getD []) (t.engLeaf x.e 1 (numAt x.e.desc 0x10 8) (x.src.getD t.lostBytes) []) with free := t.free + 2 }) s

/-- Writes every contributor's result; none where one of them fails. -/
def State.collPut (s : State) (cs : List Contrib) (far : Nat → W96) : List Contrib → Option State
  | [] => some s
  | x :: xs => match (s.collOut cs far x).1 with
    | none => s.collPut cs far xs
    | some bs => match s.engWrites x.c bs.length (BitVec.ofNat 64 (numAt x.e.desc 8 8)) bs with
      | none => none
      | some t => State.collPut t cs far xs

/-- The first waiting contribution of each context to a group. -/
def contextFirst : List (Nat × Nat) → List EngOp → List EngOp
  | _, [] => []
  | seen, e :: es => if seen.contains (e.gang, e.rank) then contextFirst seen es else e :: contextFirst ((e.gang, e.rank) :: seen) es

/-- Whether two contributors give one MEMBER (R217): as many contexts contribute as a collective has members here, and two of them name the
same one (DEDUCED, log 94). -/
def collClash (n : Nat) (all : List EngOp) : Bool :=
  let hs := contextFirst [] all
  let ms := hs.map (fun e => numAt e.desc 0x20 4)
  n ≤ hs.length && ms.eraseDups.length < min n ms.length

/-- A collective finishes on every contributor of the package at once (R216, R217): the one that the first operation waiting on a
context's TL5 belongs to, once all its contributors have issued; a member's later operations belong to later collectives of the
group (R215). A reduction with contributors elsewhere also awaits the flits of every port toward them (R391). -/
def State.runColl (s : State) (e : EngOp) : State :=
  let g := numAt e.desc 0x18 4
  let all := s.engs.filter (fun x => x.tl == 5 && numAt x.desc 0x18 4 == g)
  let fs := firstOf [] all
  let nm := numAt e.desc 0x1C 4
  let k := tabGet 0 s.collSeq g
  let wide := s.collWide g && fs.length != nm
  let here := if wide then nm - Config.collElse g k else nm
  let whole := here ≤ fs.length
  let clash := !whole && collClash here all
  let mine := if clash then contextFirst [] all else fs
  let inOrder (x : EngOp) : Bool := s.engs.all (fun y => !(y.gang == x.gang && y.rank == x.rank && y.tl == 5 && y.num < x.num) || mine.contains y)
  let far (i : Nat) : W96 := if wide then s.farSum g k i else {}
  let came := !wide || 2 ≤ numAt e.desc 0x14 1 || (List.range ((numAt e.desc 0x10 4 + 2) / 3)).all (fun j => s.flitCame g k (3 * j))
  let finished (t : State) : State := { t.flitsUsed g k with collSeq := tabSet 0 t.collSeq g (k + 1) }
  if !s.collRooted g then
    let r := s.collRead [e]
    r.1.collFail r.2
  else if !(whole || clash) || !mine.contains e || !mine.all (fun x => inOrder x && s.engReady x) then s
  else if mine.any (fun x => match s.ownerOf x.gang x.rank with
      | some c => x.puts.any (fun y => s.writeHeld c y.1 y.2)
      | none => true) then s
  else
    let r := s.collRead mine
    let cs := r.2
    let t := finished r.1
    if clash || cs.any (fun x => x.src.isNone || collKey x.e != collKey e || s.collBad x.e) || (wide && Config.collFails s.free) then
      { t with free := t.free + 1 }.collFail cs
    else if !came then s
    else match t.collPut cs far cs with
      | none => t.collFail cs
      | some u =>
        let v := cs.foldl (fun w x =>
          let o := t.collOut cs far x
          w.endEng x.e false o.2 (x.src.getD []) (w.engLeaf x.e 0 (numAt x.e.desc 0x10 8) (x.src.getD []) (o.1.getD []))) u
        ({ v with free := v.free + 1 } : State).sendUp (if wide then cs else []) far g k

/-- A drain block as its digest takes it: 128 × 128 elements in the containers of their width (R89, R315). -/
def XDrain.bytes (b : XDrain) : List Byte :=
  b.rows.flatMap (fun r => padTo (128 * contOf b.w) ((r.take 128).flatMap (fun x => leBytes (contOf b.w) x.toNat)))

/-- The tile of an xplane: eight planes of 128 rows of 16 bytes, plane 7 first (R71, R252). -/
def XDrain.tile (b : XDrain) (tr : Bool) : List Byte × Nat :=
  let e (r c : Nat) : Nat := ((b.rows.getD r []).getD c 0).toNat
  let v (r c : Nat) : Int × Nat := satI (decI b.w (if tr then e c r else e r c)) 8
  let q := (List.range 128).map (fun r => (List.range 128).map (fun c => v r c))
  let at_ (r c : Nat) : Nat := encI 8 ((q.getD r []).getD c (0, 0)).1
  let plane (p : Nat) : List Byte := (List.range 128).flatMap (fun r =>
    (List.range 16).map (fun k => BitVec.ofNat 8 (bitsOf 8 (fun i => (at_ r (8 * k + i)).testBit p))))
  ((List.range 8).flatMap (fun j => plane (7 - j)), orFlags (q.flatMap (fun row => row.map Prod.snd)))

/-- An xplane finishes (R252). -/
def State.runXplane (s : State) (c : Ctx) (e : EngOp) : State :=
  match e.block with
  | none => s
  | some b =>
    let tr := numAt e.desc 0 1
    let o := b.tile (tr == 1)
    let t := s.writePlace e.arr (c.bufPlace (selOf e.dst - 0x10) (lowOf e.dst)) o.1
    let da := b.bytes
    t.endEng e false o.2 da (t.engLeaf e 0 tr da o.1)

/-- The next collective of the contexts of a number: the first operation of a context's TL5 whose collective is due, else the first of them
(R183, R215). -/
def State.nextColl (s : State) (k : Nat) : Option EngOp :=
  let es := firstEngs [] (s.engs.filter (fun e => 8 * e.core + e.cid == k && e.tl == 5))
  (es.find? (fun e => s.engReady e && (s.runColl e).engs.length < s.engs.length)).or es.head?

/-- ENGINE_OPERATION_FINISH (R183): the next operation of a timeline finishes, or fails. -/
def execEngineFinish (c tl : Nat) (s : State) : Res :=
  match (if tl = 5 then s.nextColl c else s.nextEng c tl) with
  | none => .next s
  | some e => match s.ownerOf e.gang e.rank with
    | none => .next s
    | some o =>
      if !s.engReady e then .next s
      else if tl = 4 then .next (s.runXplane o e).unblock
      else if tl = 5 then .next (s.runColl e).unblock
      else if s.elided o e then .next (s.runElided o e).unblock
      else .next ((s.runCopy o e (numAt e.desc 0x10 4 * numAt e.desc 0x14 4) true).portDone e).unblock

/-! Traps at a boundary. -/

/-- TRAP_DELIVERY (R301): the trap that a context's boundary holds is taken. -/
def execTrapDelivery (c : Nat) (s : State) : Res :=
  match s.focus (c / 8) (c % 8) with
  | none => .next s
  | some t => .next (if t.atBoundary && t.ctx.trapped then t.takeBoundary else s)

/-- GANG_STOP (R305): the same trap, where it stops a gang. -/
def execGangStop (c : Nat) (s : State) : Res :=
  match s.focus (c / 8) (c % 8) with
  | none => .next s
  | some t => .next (if t.atBoundary && t.ctx.trapped && 1 < t.ctx.nrank then t.takeBoundary else s)

/-- CONTAINMENT_UNWIND (R150): a consumption of poison in an open region that a context's boundary holds. -/
def execUnwind (c : Nat) (s : State) : Res :=
  match s.focus (c / 8) (c % 8) with
  | none => .next s
  | some t =>
    let d := t.ctx
    .next (if t.atBoundary && d.compl.any (fun x => x.cause == 0x0F && x.cons) && !d.regions.isEmpty && !d.inh then t.takeBoundary else s)

/-! Leaves (R19, R313, R318). -/

/-- LEAF_HASH (R19): a tree engine hashes the next retired leaf of a core. -/
def execLeafHash (c : Nat) (s : State) : Res :=
  match s.nextHash c with
  | some (e, r) => .next (if s.anyTree then (s.hashLeaf e r).unblock else s)
  | none => .next s

/-! The end of a rank (R144). -/

/-- Whether a rank that has taken its exit has nothing left to wait for, its gang included: a rank may be called back as long as
another has still to make the decision (R144). -/
def State.rankDone (s : State) (c : Ctx) : Bool :=
  c.stat == .exited && (s.everyone c.gang).all (fun x => !x.active)
    && !s.xq.any (fun x => x.gang == c.gang && x.rank == c.rank)
    && !s.engs.any (fun e => e.gang == c.gang && e.rank == c.rank)
    && !s.loads.any (fun l => l.gang == c.gang && l.core == c.core) && c.dq.all Pend.arrived
    && !s.leaves.any (fun l => l.arr == c.arr && l.task == c.task && l.rank == c.rank)

/-- A rank ends: its unreported engine failures are counted, its tree closes, and its core time up to its exit is the gang's (R30, R144,
R318). -/
def State.endRank (s : State) (c : Ctx) : State :=
  let n := ((List.range 6).map (fun i => (c.tl i).fails.length)).foldl Nat.add 0
  let s1 := match s.launch? c.arr with
    | some l => s.setLaunch { l with faults := l.faults + n, fin := s.tb }
    | none => s
  let s2 := s1.closeTree c.arr c.task c.rank
  let s3 := match s2.gang? c.gang with
    | some g => s2.setGang { g with acc := g.acc + s2.rankTime g c }
    | none => s2
  s3.updRank c.gang c.rank (fun x => { x with stat := .ended, dq := [], fill := {}, drain := none, compl := [], async := [] })

/-- The share of a launch's reservation that its task t holds (R293). -/
def Launch.share (l : Launch) (t : Nat) : Nat :=
  let cost := leNat ((l.packet.drop 0x28).take 4)
  let n := leNat ((l.packet.drop 4).take 4) + 1
  cost * (t + 1) / n - cost * t / n

/-- The task of a gang ends with its last rank: its root enters the launch, and its charge is corrected to what it used (R293,
R318); its locks go, those of a fused task with its second origin (R374). -/
def State.endTaskOf (s : State) (g : Gang) : State :=
  match s.launch? g.arr with
  | none => s
  | some l =>
    let root := s.taskRoot g.arr g.task g.cores.length
    let used := g.acc / 1000
    let t := s.setLaunch { l with tasks := l.tasks ++ [(g.task, root)], ended := l.ended + 1, used := l.used + used }
    let u := (t.logLow g.arr (logHead 7 0 0 g.task g.arr 0 0 root)).addCused l ((used : Int) - l.share g.task)
    { u.setGang { g with acc := 0, began := none, dec := [], gate := [], opened := [], shared := [], mcast := [], snap := none } with
      locks := if g.mate = 0 then u.locks.filter (fun k => k.gang != g.id)
        else if (s.everyone g.mate).all (fun c => c.stat == .ended) then u.locks.filter (fun k => k.gang != min g.id g.mate) else u.locks
      trees := u.trees.filter (fun k => !(k.arr == g.arr && k.task == g.task)) }

/-- RANK_END (R144): a rank that took its exit ends once its operations and loads are done and its leaves are in its tree. -/
def execRankEnd (c : Nat) (s : State) : Res :=
  match (s.ctxs ++ s.saved).find? (fun x => x.live && x.core == c / 8 && x.cid == c % 8 && s.rankDone x) with
  | none => .next s
  | some x =>
    let t := s.endRank x
    match t.gang? x.gang with
    | some g => .next (if (t.everyone g.id).all (fun y => y.stat == .ended) then t.endTaskOf g else t)
    | none => .next t

end Sys2Proof.Machine
end

