-- ==== Sys2Proof/Machine/SysEvents.lean ====
section
/-! DEFINITION. Start-up, host link, control-space and cooling events (R16, R20, R177, R178, R280, R311, R321, R330, R368, R377 to R397).
An event that is not due leaves the state as it is (log 13). -/

namespace Sys2Proof.Machine

/-! Stores to control space (R178). -/

/-- CONTROL_REGISTER_WRITE (R178). -/
def execCtlWrite (off : Nat) (v : BitVec 64) (s : State) : Res := .next (if off % 8 = 0 ∧ off < 2 ^ 28 then (s.ctlPut off v).unblock else s)

/-- QDESC_WRITE (R278, R280). -/
def execQdescWrite (q : Nat) (v : BitVec 64) (s : State) : Res := .next (if q < 4096 then s.ctlPut (0x100000 + 8 * q) v else s)

/-- CHAIN_BIND (R321). -/
def execChainBind (n : Nat) (v : BitVec 64) (s : State) : Res := .next (if n < 64 then s.ctlPut (0x200000 + 128 * n) v else s)

/-- LOGRD (R321, R325): ranks that stall for log space try again. -/
def execLogrd (n : Nat) (v : BitVec 64) (s : State) : Res := .next (if n < 64 then (s.ctlPut (0x200018 + 128 * n) v).unblock else s)

/-- LINKH (R330): the store of the subkey's upper word. -/
def execLinkh (p : Nat) (v : BitVec 64) (s : State) : Res := .next (if p < 24 then s.ctlPut (0x210038 + 64 * p) v else s)

/-- TLB_INVALIDATE (R311). -/
def execTlbInvalidate (v : BitVec 64) (s : State) : Res := .next (s.ctlPut 0x3008 v)

/-- Whether an invalidation of a space, a scope and a stored value takes a TLB entry (R311). -/
def TlbEnt.struck (e : TlbEnt) (root : Word) (scope : Nat) (v : Word) : Bool :=
  scope == 2 || (e.root == root && (scope == 1 || wfld v 16 32 * 65536 / 2 ^ e.sh == e.page))

/-- TLB_INVALIDATE_COMPLETE (R311): the oldest invalidation completes once no walk begun before it is outstanding: no TLB holds a matching
entry any more, and TLBIS reads its number. -/
def execTlbInvComplete (s : State) : Res :=
  match s.tlbq with
  | [] => .next s
  | (n, root, scope, v) :: r =>
    .next (if s.walks.any (fun w => w.inv < n) then s
      else ({ s with tlbq := r, tlb := s.tlb.filter (fun e => !e.struck root scope v) }.setReg 0x3010 (BitVec.ofNat 64 n)))

/-- LOADREQ (R368). -/
def execLoadreq (v : BitVec 64) (s : State) : Res := .next (s.ctlPut 0x270000 v)

/-- DEBUG_STOP and DEBUG_RESUME (R365). -/
def execDebugStop (n : Nat) (v : BitVec 64) (s : State) : Res := .next (if n < 384 then s.ctlPut (0x250000 + 8 * n) v else s)
def execDebugResume (n : Nat) (v : BitVec 64) (s : State) : Res := .next (if n < 384 then (s.ctlPut (0x250C00 + 8 * n) v).unblock else s)

/-- DUMPREQ and DUMP_GRANULE_COPY (R366). -/
def execDumpreq (v : BitVec 64) (s : State) : Res := .next (s.ctlPut 0x252000 v)
def execDumpGranule (s : State) : Res := .next s.dumpStep.unblock

/-- FEATLOCK (R380). -/
def execFeatlock (v : BitVec 64) (s : State) : Res := .next (s.ctlPut 0x600140 v)

/-- A virtual function is enabled when VF Enable is set and its VFCFG has been written (R379, log 104). -/
def State.vfLive (s : State) (v : Nat) : Bool :=
  s.vfOn && 1 ≤ v && v ≤ 63 && (s.reg (0x600800 + 16 * v) != 0 || s.reg (0x600808 + 16 * v) != 0)

/-- Whether BAR2 of a function, 0 for the PF, has the wake register of a queue (R378, R386): a VF's has those of its own queues, and none
responds in RECOVERY. -/
def State.bar2Has (s : State) (vf q : Nat) : Bool :=
  let w := s.reg (0x600808 + 16 * vf)
  s.sysstate != 4 && q < 4096 && (vf == 0 || (s.vfLive vf && wfld w 0 12 ≤ q && q < wfld w 0 12 + wfld w 16 12))

/-- WAKE_WRITE (R177, R281, R378): a store to a queue's wake register through BAR2 of a function. -/
def execWakeWrite (w : WakeReg) (v : BitVec 64) (s : State) : Res := .next (if s.bar2Has w.fn w.q then s.wakePut w.q v else s)

/-! Starts (R382, R384). No step of a start that follows HOLD runs in RECOVERY, where HOLD was not entered. -/

/-- COLD_START: a store of 2 to SYSCTL. -/
def execColdStart (s : State) : Res := .next s.coldStart
/-- POWER_ON and FUNDAMENTAL_RESET (R381). -/
def execPowerOn (s : State) : Res := .next s.coldStart
def execFundReset (s : State) : Res := .next s.coldStart

/-- WARM_START (R384): a store of 1 to SYSCTL, unless one has been accepted already, and, when accepted, the warm start; `changed`
gives images with their digests and whether they verify. -/
def execWarmStart (changed : List (Nat × BitVec 384 × Bool)) (s : State) : Res :=
  let t := if s.sysstate = 5 then s else s.warmRequest
  .next (if t.sysstate = 5 then t.warmFinish changed else t)

/-- STACK_TRAINED (R26, R382). -/
def execStackTrained (k : Nat) (ok : Bool) (s : State) : Res :=
  .next (if k < 16 ∧ s.sysstate ≠ 4 ∧ s.devSize = 0 ∧ ¬ (s.reg 0x60).getLsbD k ∧ ¬ s.trained k then
    (if ok then s.setBit 0x600010 k true else s.fenceStack k).publishMem else s)

/-- CLUSTER_READY (R383): the cores of `bad` failed their start-up self-test and are fenced. -/
def execClusterReady (cl : Nat) (bad : List Nat) (s : State) : Res :=
  .next (if cl < 24 ∧ s.sysstate ≠ 4 ∧ ¬ (s.reg 0x600018).getLsbD cl ∧ ¬ (s.sysstate = 5 ∧ s.wasReady.2.getLsbD cl) then
    ((bad.filter (fun i => i < 16)).foldl (fun t i => t.fenceCore (16 * cl + i)) s).setBit 0x600018 cl true else s)

/-- MILLINER_LOADED (R382, R383). -/
def execMillinerLoaded (m : Nat) (ok : Bool) (s : State) : Res :=
  .next (if m < 8 ∧ s.sysstate ≠ 4 ∧ ¬ (s.reg 0x50).getLsbD (48 + m) then
    (if ok then (s.updMilli m (fun x => { x with loaded := true, missed := 0, beat := true })).setBit 0x600010 (16 + m) true else s.fenceMilliner m) else s)

/-- Training leaves the eye margins of a port's lanes (R360). -/
def State.trainEyes (s : State) (p : Nat) : State :=
  let t := (List.range 8).foldl (fun u l =>
    let o := 0x242000 + 8 * (8 * p + l)
    u.setReg o (putFld (u.reg o) 48 16 (Config.eyeTrained s.free l).toNat)) s
  { t with free := t.free + 1 }

/-- BRIM_PORT_TRAINED (R330, R360, R382): training sets the port's digests and counts to zero. -/
def execBrimTrained (p : Nat) (ok : Bool) (s : State) : Res :=
  .next (if p < 24 ∧ s.sysstate ≠ 4 ∧ ¬ (s.reg 0x58).getLsbD p ∧ ¬ s.trained (24 + p) then
    (if ok then ((List.range 6).foldl (fun t i => t.setReg (0x210000 + 64 * p + 8 * i) 0) (s.setBit 0x600010 (24 + p) true)).trainEyes p
      else s.portDown p)
    else s)

/-! Virtual functions and the aperture (R378, R379). -/

/-- VF_ENABLE (R379, Table 31.2): VF Enable takes effect for the VFs whose VFCFG has been written, and for none while SR-IOV is not
accepted. -/
def execVfEnable (on : Bool) (s : State) : Res := .next { s with vfOn := on && s.feat 0 }

/-- Ends every task of a launch as an unhandled trap without a record, and lets it complete as FAULTED (R379). -/
def State.flrLaunch (s : State) (l : Launch) : State :=
  let gs := s.gangs.filter (fun g => g.arr == l.arr && (s.everyone g.id).any Ctx.active)
  let t := gs.foldl (fun u g => u.discardGang g.id) s
  match t.launch? l.arr with
  | some m => t.setLaunch { m with status := 6, faults := m.faults + gs.length, stopped := true, replay := false, inHeap := false }
  | none => t

/-- VF_FUNCTION_LEVEL_RESET (R379). -/
def execVfFlr (v : Nat) (s : State) : Res :=
  if s.vfLive v then
    let root := (s.reg (0x600800 + 16 * v)).toNat
    let w := s.reg (0x600808 + 16 * v)
    let t := if root = 0 then s else (s.launches.filter (fun l => l.below root)).foldl State.flrLaunch s
    .next ((List.range (wfld w 16 12)).foldl (fun u i => u.ctlPut (0x100000 + 8 * ((wfld w 0 12 + i) % 4096)) 0) t).unblock
  else .next s

/-- Where the aperture of a function maps byte `off` (R378): the state with the walk's bits set, and the physical address. -/
def State.aperturePlace (s : State) (vf off : Nat) (wr : Bool) : Option (State × Nat) :=
  if s.devSize = 0 ∨ 2 ^ 32 ≤ off ∨ s.sysstate = 4 then none
  else if vf = 0 then
    let pa := wfld (s.reg 0x600038) 32 8 * 2 ^ 32 + off
    if pa < s.devSize then some (s, pa) else none
  else if s.vfLive vf then
    match s.spaceOf (s.reg (0x600800 + 16 * vf)).toNat with
    | none => none
    | some root => match s.walk root 0 off wr false with
      | .error _ => none
      | .ok (pa, ea) => some (s.touch ea wr, pa)
  else none

/-- APERTURE_ACCESS (R378): a write of bytes, or a read, whose data go to the host; an access that reaches no memory is discarded. -/
def State.apertureGo (s : State) (vf off : Nat) : List Byte → State
  | [] => s
  | b :: bs =>
    let t := match s.aperturePlace vf off true with
      | some (u, pa) => u.devPut pa [b]
      | none => s
    t.apertureGo vf (off + 1) bs

/-- The lines that a write of the PF's aperture covers whole lose their marks (R348). -/
def execAperture (vf off : Nat) (w : Option (List (BitVec 8))) (s : State) : Res :=
  match w with
  | some bs =>
    let t := s.apertureGo vf off bs
    let ls := (List.range (bs.length / 64 + 1)).map (fun i => 64 * ((off + 63) / 64 + i))
    .next ((ls.filter (fun o => o + 64 ≤ off + bs.length)).foldl (fun u o => match u.aperturePlace vf o true with
      | some (x, pa) => if x.dead pa then x else x.clearLines pa 64
      | none => u) t)
  | none => .next (match s.aperturePlace vf off false with
    | some (u, _) => u
    | none => s)

/-! Clocks and cooling (R16, R20, R392 to R396). The settings 800, 600, 400 and 200 MHz are 0 to 3. -/

/-- Sets a cluster's clock. -/
def State.setClock (s : State) (cl v : Nat) : State := { s with clock := tabSet 0 s.clock cl v }

/-- CLOCK_SETTING_CHANGE (R16). -/
def execClockChange (cl set : Nat) (s : State) : Res := .next (if cl < 24 ∧ set < 4 then s.setClock cl set else s)

/-- The next lower setting. -/
def State.slower (s : State) (cl : Nat) : State := s.setClock cl (min 3 (tabGet 0 s.clock cl + 1))

/-- POWER_THROTTLE (R20). -/
def execPowerThrottle (cl : Nat) (s : State) : Res := .next (if cl < 24 then s.slower cl else s)

/-- The zones of a cluster are free of trips. -/
def State.coolCluster (s : State) (cl : Nat) : Bool := (List.range 4).all (fun j => tabGet 0 s.trips (4 * cl + j) == 0)

/-- CLOCK_RESTORE (R394): one setting up, once no trip of the cluster's zones stands. -/
def execClockRestore (cl : Nat) (s : State) : Res :=
  .next (if cl < 24 && s.coolCluster cl then s.setClock cl (tabGet 0 s.clock cl - 1) else s)

/-- A thermal trap on every gang with a member in a zone whose launch lets it through (R306): a member that has taken its exit counts. -/
def State.thermal (s : State) (n kind : Nat) : State :=
  let hot (c : Ctx) : Bool := n < 96 && zoneOfCore c.core == n && (match s.launch? c.arr with
    | some l => l.fdfl.testBit 1
    | none => false)
  let gs := ((s.live.filter hot).map Ctx.gang).eraseDups
  s.mapCtx (fun c => if gs.contains c.gang && c.active then
    { c with async := c.async ++ [{ cause := 0x15, info1 := BitVec.ofNat 64 n, info2 := BitVec.ofNat 64 kind, inRegion := !c.regions.isEmpty }] } else c)

/-- ZONE_TRIP (R394). -/
def execZoneTrip (n kind : Nat) (s : State) : Res :=
  if 120 ≤ n ∨ 2 < kind then .next s
  else
    let t := s.zoneRec n kind
    if zState (s.zone n) ≠ 0 then .next t
    else
      let u : State := { t with trips := tabSet 0 t.trips n (Nat.lor (tabGet 0 t.trips n) (2 ^ kind)) }
      .next (((if n < 96 then u.slower (n / 4) else u).thermal n kind).unblock)

/-- ZONE_TRIP_CLEAR (R394): placement resumes. -/
def execZoneTripClear (n : Nat) (s : State) : Res := .next { s with trips := tabSet 0 s.trips n 0 }

/-- ZONE_WORD_WRITE (R393). -/
def execZoneWordWrite (n : Nat) (v : BitVec 64) (s : State) : Res := .next (if n < 120 then s.ctlPut (zoneOff n) v else s)

/-- EVAC and REFILL (R395, R396), and what their sequences come to. -/
def execEvac (v : BitVec 64) (s : State) : Res := .next (s.ctlPut 0x612000 v)
def execEvacDrainDone (n : Nat) (s : State) : Res := .next (if n < 120 then s.evacDrained n else s)
def execEvacValveClosed (n : Nat) (s : State) : Res := .next (if n < 120 then s.evacClosed n else s)
def execEvacDry (n : Nat) (s : State) : Res :=
  .next (if n < 120 then (if s.sysstate = 4 then s.evacDry n else (s.evacDry n).publishMem) else s)
def execEvacTimeout (n : Nat) (s : State) : Res := .next (if n < 120 then s.evacLate n else s)
def execRefill (v : BitVec 64) (s : State) : Res := .next (s.ctlPut 0x612008 v)
def execRefillComplete (n : Nat) (s : State) : Res := .next (if n < 120 then s.refillDone n else s)
def execRefillTimeout (n : Nat) (s : State) : Res := .next (if n < 120 then s.refillLate n else s)

end Sys2Proof.Machine
end

