-- ==== Sys2Proof/Machine/Rel.lean ====
section
/-! DEFINITION. Reliability events (R25, R26, R285, R330, R348, R352, R357 to R361, R389). -/

namespace Sys2Proof.Machine

/-! Poison (R348). -/

/-- Launches with a gang on a core, under shadowing and CPOL 2, have an uncontained error after a record of kind 2 that names a
unit of classes 1 to 7 of that core (R352). -/
def State.coreError (s : State) (n : Nat) : State :=
  let hit (l : Launch) : Bool := l.fdfl.testBit 0 && l.cpol == 2 && s.live.any (fun c => c.arr == l.arr && c.core == n && c.stat != .ended)
  ((s.launches.filter hit).map Launch.arr).foldl (fun t a => t.uncontainedErr a (some n)) s

/-- A record of kind 2 for a unit of a core, with what follows from it. -/
def State.coreRec (s : State) (n uclass inst synd : Nat) : State :=
  (s.sendRec (({ kind := 2, uclass := uclass, inst := inst, synd := synd } : ErrRec).atCore n) none).coreError n

/-- The deferred poison fault of a mark that no load brought: neither address nor bundle applies. -/
def bareFault : DFault := ⟨0x0F, 0, 0, 0, 0, 0⟩

/-- Whether Table 27.2 has a unit: its class and its instance. -/
def unitOk (uclass inst : Nat) : Bool := inst < [1, 1, 3, 1, 2, 2, 1, 4, 16, 24, 4, 2, 12, 8, 2, 4, 120, 1].getD uclass 0

/-- Whether a unit is the scalar register file of a context (Table 27.2). -/
def sregUnit (uclass inst : Nat) : Bool := uclass == 4 && inst == 2

/-- What SYND may hold for a unit (Table 27.2): a value is taken within the range that its class has. -/
def unitSynd (uclass inst v : Nat) : Nat :=
  if sregUnit uclass inst then v % 32 else v % [1, 65536, 128, 1, 1, 1, 1, 72, 64, 8, 1, 1, 1, 1, 1, 1, 3, 1].getD uclass 1

/-- CTX of a record that names a unit: for the scalar register file its context, which a value holds above the register number. -/
def unitCtx (uclass inst v : Nat) : Nat := if sregUnit uclass inst then v / 32 % 4 else 0xFF

/-- DIE of a record that names a unit (Table 27.1): the die the unit is on, `place` the cluster of a cluster cache and the compute die of a
tree engine or walker; the package as a whole is on none. -/
def unitDie (uclass inst place : Nat) : Nat :=
  match uclass with
  | 9 => 4 + inst / 12
  | 11 => place / 6
  | 12 | 15 => place
  | 13 => 4 + inst / 4
  | 14 => 4 + inst
  | 16 => zoneDie inst
  | 17 => 4
  | _ => 0xFF

/-- The places that the units of a class have. -/
def unitPlaces (uclass : Nat) : Nat := if 1 ≤ uclass ∧ uclass ≤ 7 then 384 else if uclass = 11 then 24 else 4

/-- The bank of a byte of W, A or S in the numbering of R159. -/
def bankOf (b o : Nat) : Nat := if b = 0 then o / 128 % 16 else if b = 1 then 16 + o / 128 % 16 else 64 + o / 32 % 8

/-- Stops Milliner m for a takeover (R25, R285): its fence bit is set, with a record of kind 10. The standby takes its slot table,
if there is one. -/
def State.takeover (s : State) (m : Nat) : State :=
  let x := s.millis.getD m {}
  let sb := s.millis.getD 7 {}
  if 7 < m ∨ x.stopped then s
  else
    let t := (s.fenceMilliner m).updMilli m (fun y => { y with stopped := true })
    let u := if m < 7 ∧ sb.loaded ∧ ¬ sb.stopped ∧ sb.takes = none then t.updMilli 7 (fun y => { y with takes := some m, due := false, serving := false }) else t
    u.sendRec { kind := 10, uclass := 13, inst := m, die := 4 + m / 4 } none

/-- UNCORRECTABLE_ERROR (R25, R285, R348, R352). -/
def execUncorrectable (e : ErrSite) (s : State) : Res :=
  .next (match e with
    | .line pa fab bg =>
      if s.devSize ≤ pa ∨ s.poisoned pa then s
      else
        let k := s.stackOf pa
        (s.markLine pa true).sendRec (if fab then { kind := 2, uclass := 10, inst := k / 4, die := k / 4, addr := pa }
          else { kind := 2, uclass := 8, inst := k, die := k / 4, addr := pa, synd := bg % 64 }) none
    | .buf core b off =>
      let k := unitKey b (bufKey core off)
      if 384 ≤ core ∨ ¬ (b = 0 ∨ b = 1 ∨ b = 3) ∨ (if b = 0 then 2 ^ 20 else if b = 1 then 786432 else 262144) ≤ off ∨ tabGet false s.pbuf k then s
      else { s with pbuf := tabSet false s.pbuf k true }.coreRec core 7 (if b = 3 then 3 else b) (bankOf b off)
    | .row core r =>
      let z := s.row core r
      if 384 ≤ core ∨ 2048 ≤ r ∨ z.mark then s
      else (s.setRow core r { z with fault := some bareFault, mark := true }).coreRec core 7 2 (32 + r % 32)
    | .sreg core cid n =>
      match s.ctxAt core cid with
      | none => s
      | some c =>
        let r := c.sreg n
        if n = 0 ∨ 32 ≤ n ∨ r.fault = some bareFault then s
        else
          let t := s.updCtx core cid (fun x => x.setS n { r with fault := some bareFault })
          (t.ctxRec c { kind := 2, uclass := 4, inst := 2, synd := n }).coreError core
    | .cache _ _ => s
    | .unit uclass inst place synd =>
      let v := unitSynd uclass inst synd.toNat
      if !unitOk uclass inst ∨ uclass = 7 ∨ uclass = 8 ∨ uclass = 10 ∨ sregUnit uclass inst ∨ unitPlaces uclass ≤ place then s
      else if 1 ≤ uclass ∧ uclass ≤ 7 then s.coreRec place uclass inst v
      else
        let t := s.sendRec { kind := 2, uclass := uclass, inst := inst, die := unitDie uclass inst place,
                             cluster := if uclass = 11 then place else 0xFF, synd := v } none
        if uclass = 12 then t.fenceTree place inst
        else if uclass = 13 then t.takeover inst
        else if uclass = 14 then t.fenceReferee inst
        else t).unblock

/-- STACK_FENCE (R26). -/
def execStackFence (k : Nat) (s : State) : Res := .next (if k < 16 ∧ s.devSize ≠ 0 then s.fenceStack k else s)

/-- TREE_ENGINE_FENCE (R25). -/
def execTreeFence (d e : Nat) (s : State) : Res := .next (if d < 4 ∧ e < 12 then s.fenceTree d e else s)

/-! Predictive counters (R360, R361). -/

/-- Increments a count with its OVF bit; a record of kind 1 at a nonzero multiple of the threshold. -/
def State.countUp (s : State) (o thr : Nat) (r : ErrRec) : State :=
  let w := s.reg o
  let n := wfld w 0 32 + 1
  let t := s.setReg o (putFld (if n = 2 ^ 32 then putFld w 32 1 1 else w) 0 32 n)
  let k := n % 2 ^ 32
  if thr ≠ 0 ∧ k ≠ 0 ∧ k % thr = 0 then t.sendRec { r with kind := 1, synd := k } none else t

/-- CORRECTED_ERROR (R360). -/
def execCorrected (k bg : Nat) (s : State) : Res :=
  .next (if k < 16 ∧ bg < 64 then
    s.countUp (0x240000 + 8 * (64 * k + bg)) (wfld (s.reg 0x243000) 0 32) { kind := 1, uclass := 8, inst := k, die := k / 4 } else s)

/-- EYE_MARGIN_MEASURE (R360). -/
def execEyeMargin (p l w h : Nat) (s : State) : Res :=
  .next (if p < 24 ∧ l < 8 then
    let o := 0x242000 + 8 * (8 * p + l)
    s.setReg o (putFld (putFld (s.reg o) 56 8 w) 48 8 h) else s)

/-- Whether the trailer of a flit checks: bytes 4 to 7 are the CRC-32C of the flit and the link sequence number in bytes 0 to 3 (R389). -/
def trailerOk (f : Flit) : Bool := crc32c (leBytes 64 f.body.toNat ++ leBytes 4 f.trailer.toNat) == f.trailer.toNat / 2 ^ 32

/-- FLIT_REPLAY (R389): a lane error of a flit whose CRC is bad and which the port replays; after its eighth failure the port goes down. A flit
whose trailer checks is not replayed. -/
def execFlitReplay (p l : Nat) (flit : Flit) (s : State) : Res :=
  .next (if p < 24 ∧ l < 8 ∧ s.brimUp p ∧ ¬ trailerOk flit then
    let t := s.countUp (0x242000 + 8 * (8 * p + l)) (wfld (s.reg 0x243000) 32 32) { kind := 1, uclass := 9, inst := p, die := 4 + p / 12 }
    let n := tabGet 0 t.retries p + 1
    if 8 ≤ n then ({ t with retries := tabSet 0 t.retries p 0 } : State).portDown p else { t with retries := tabSet 0 t.retries p n }
    else s)

/-! Links (R330). -/

/-- A 16-byte register pair as one GHASH block, and back. -/
def State.regBlock (s : State) (o : Nat) : Nat := beNat (leBytes 8 (s.reg o).toNat ++ leBytes 8 (s.reg (o + 8)).toNat)
def State.setBlock (s : State) (o v : Nat) : State :=
  let b := beBytes 16 v
  (s.setReg o (BitVec.ofNat 64 (leNat (b.take 8)))).setReg (o + 8) (BitVec.ofNat 64 (leNat (b.drop 8)))

/-- What a flit for this package asks of it (Table 31.5): a wake write merges into a wake register (R390), and a memory request writes as
much of its payload as its flags say (log 102); a W96 reduction brings partial sums of its group's collective, whichever package is its
destination (R391). -/
def State.flitActs (s : State) (p : Nat) (flit : List Byte) : State :=
  let a := numAt flit 8 8
  let n := min 48 (Config.requestWrites (flit.getD 3 0))
  if numAt flit 0 1 = 4 then s.flitIn p (BitVec.ofNat 512 (leNat flit))
  else if !s.feat 3 ∨ numAt flit 2 1 ≠ wfld (s.reg 0x600030) 0 8 then s
  else match numAt flit 0 1 with
    | 1 => if a + n ≤ s.devSize then s.devPut a ((flit.drop 16).take n) else s
    | 3 => s.wakePut (a / 8 % 4096) (BitVec.ofNat 64 (numAt flit 16 8))
    | _ => s

/-- The flit that a port sends next: the oldest one that waits for it, or what the event gives (log 105). -/
def State.flitOut (s : State) (p : Nat) (flit : List Byte) : State × List Byte :=
  match s.txq.find? (fun x => x.1 == p) with
  | some x => ({ s with txq := s.txq.erase x }, leBytes 64 x.2.toNat)
  | none => (s, flit)

/-- FLIT_RECEIVE (R330, R389): an accepted flit enters the running digest of its direction; a received one whose trailer does not check is
not accepted, and an accepted one ends the replay. -/
def execFlitReceive (p : Nat) (tx : Bool) (flit : Flit) (s : State) : Res :=
  let f := leBytes 64 flit.body.toNat
  .next (if p < 24 ∧ s.brimUp p ∧ (tx ∨ trailerOk flit) then
    let x := if tx then s.flitOut p f else (s, f)
    let o := 0x210000 + 64 * p
    let d := if tx then o else o + 0x10
    let n := if tx then o + 0x20 else o + 0x28
    let t := (x.1.setBlock d (linkDigest (s.regBlock d) (s.regBlock (o + 0x30)) x.2)).setReg n (s.reg n + 1)
    if tx then t else ({ t with retries := tabSet 0 t.retries p 0 }.flitActs p f).unblock
    else s)

/-- The bytes that a peer's copy reads from this package, piece by piece, up to the first that lies in a poisoned line, where the copy fails
(R26, R214, R348). -/
def State.servedBytes (s : State) (segs : List (Nat × Nat)) : List Byte :=
  ((segs.flatMap (fun x => (List.range x.2).map (fun i => x.1 + i))).takeWhile (fun a => !s.poisoned a)).map (memByte s.mem)

/-- The bytes that it writes there. -/
def State.serve (s : State) : List (Nat × Nat) → List Byte → State
  | [], _ => s
  | x :: xs, bs => (s.devPut x.1 (bs.take x.2)).serve xs (bs.drop x.2)

/-- The peer entry of a copy (R330): a leaf entry of the issuer's LAUNCH and TASK with PEER in LFLAGS and the digest, under the request's key, of
the bytes sent or received. The record's other fields do not apply. -/
def peerRecord (arr task : Nat) (h mask : Nat) (sent : Bool) (bs : List Byte) : List Byte :=
  let z := List.replicate 16 (0 : Byte)
  let d := digest h mask bs
  let r := LeafRec.bytes { lidx := 0, words := [], opc := 0, mode := 0, rank := 0, lflags := 0x10, da := if sent then d else z, db := z, dc := z,
                           dr := if sent then z else d }
  logHead 3 0 0 task arr 0 1 (leafHashOf r) ++ r

/-- PEER_ENTRY (R330): the package serves a peer's copy, whose bytes it reads from memory or writes there, and logs its 192-byte entry in the
peer ring, over the oldest. -/
def execPeerEntry (copy : PeerCopy) (data : Option (List (BitVec 8))) (s : State) : Res :=
  let u := match data with
    | some bs => s.serve copy.segs bs
    | none => s
  let bs := data.getD (s.servedBytes copy.segs)
  let base := (s.reg 0x211000).toNat
  let n := (s.reg 0x211008).toNat / 192
  .next (if n = 0 then u.unblock
    else { u.devPut (base + 192 * (s.plog % n)) (peerRecord copy.arr copy.task copy.h.toNat copy.mask.toNat data.isNone bs) with plog := s.plog + 1 }.unblock)

/-! Self-tests and scans (R357 to R359). -/

/-- ATCTLn. -/
def atOff (n : Nat) : Nat := 0x230000 + 8 * n

/-- The end of a self-test or scan: BUSY clears, RES takes the result, and RUNS counts one that has completed (R357). -/
def State.testOver (s : State) (n res : Nat) (ran : Bool) : State :=
  let w := s.reg (atOff n)
  let w1 := putFld (putFld w 0 1 0) 32 8 res
  s.setReg (atOff n) (if ran then putFld w1 16 16 (wfld w 16 16 + 1) else w1)

/-- The end of a self-test: STIV counts from here (R358). -/
def State.testEnds (s : State) (n res : Nat) (ran : Bool) : State :=
  let t := s.testOver n res ran
  { t with testEnd := tabSet 0 t.testEnd n (s.tb + 1) }

/-- The end of a scan: SCAN clears (R357, R359). -/
def State.scanEnds (s : State) (n res : Nat) : State :=
  let t := (s.testOver n res true).setBit (atOff n) 2 false
  { t with scans := tabSet false t.scans n false }

/-- Whether no context is allocated on a core, and no tile or window byte of a pre-empted task is resident there (R358). -/
def State.idleCore (s : State) (n : Nat) : Bool :=
  (s.liveOn n).isEmpty && (s.left n).all (fun c => c.stays.isEmpty && [0, 1, 3].all (fun b => !c.winHere b || winSize (c.win b) == 0))

/-- SELF_TEST_START (R358). -/
def execSelfTestStart (n : Nat) (s : State) : Res :=
  let w := s.reg (atOff n)
  .next (if n < 384 ∧ w.getLsbD 1 ∧ ¬ w.getLsbD 0 ∧ ¬ w.getLsbD 2 ∧ ¬ s.coreFenced n ∧ s.idleCore n ∧ ¬ s.resv.contains n
      ∧ (tabGet 0 s.testEnd n = 0 ∨ (tabGet 0 s.testEnd n).toNat - 1 + (s.reg 0x230C00).toNat ≤ s.tb.toNat) then
    s.setBit (atOff n) 0 true else s)

/-- Whether a unit is one of a core's (Table 27.2). -/
def coreUnit (uclass inst : Nat) : Bool := 1 ≤ uclass && uclass ≤ 7 && unitOk uclass inst

/-- A core that failed a test or scan: a record of kind 6 or 7 names the unit, and the core is fenced (R25) with a record that names it too. -/
def State.failCore (s : State) (n kind uclass inst synd : Nat) : State :=
  let r : ErrRec := { kind := kind, uclass := uclass, inst := inst, synd := unitSynd uclass inst synd, cid := unitCtx uclass inst synd }
  (s.sendRec (r.atCore n) none).fenceCoreFor n r

/-- A replay may use a core again once it has passed an array self-test (R353). -/
def State.unban (s : State) (n : Nat) : State :=
  { s with launches := s.launches.map (fun l => { l with banned := l.banned.filter (fun k => k ≠ n) }) }

/-- SELF_TEST_COMPLETE (R358): a failure names a unit of the core. -/
def execSelfTestComplete (n : Nat) (ok : Bool) (uclass inst synd : Nat) (s : State) : Res :=
  .next (if n < 384 ∧ (s.reg (atOff n)).getLsbD 0 ∧ ¬ tabGet false s.scans n then
    if ok then (s.testEnds n 1 true).unban n
    else if coreUnit uclass inst then (s.testEnds n 2 true).failCore n 6 uclass inst synd else s
    else s)

/-- SELF_TEST_ABANDON (R358): the dispatcher has reserved the core. -/
def execSelfTestAbandon (n : Nat) (s : State) : Res :=
  .next (if n < 384 ∧ (s.reg (atOff n)).getLsbD 0 ∧ ¬ tabGet false s.scans n ∧ s.resv.contains n then s.testEnds n 3 false else s)

/-- SCAN (R359): a write of 1 to SCAN. -/
def execScan (n : Nat) (s : State) : Res := .next (if n < 384 then s.ctlPut (atOff n) (s.reg (atOff n) ||| 4) else s)

/-- A pending scan of an idle core begins (R359). -/
def State.beginScan (s : State) (n : Nat) : State :=
  let w := s.reg (atOff n)
  if w.getLsbD 2 ∧ ¬ w.getLsbD 0 ∧ s.idleCore n then { s.setBit (atOff n) 0 true with scans := tabSet false s.scans n true } else s

/-- A scan destroys the buffers of its core: their bytes are as if never written (log 7). -/
def State.wipeCore (s : State) (n : Nat) : State :=
  { s with wbuf := memClear s.wbuf (bufKey n 0) (2 ^ 20), abuf := memClear s.abuf (bufKey n 0) (2 ^ 20)
           sbuf := memClear s.sbuf (bufKey n 0) (2 ^ 20), rows := s.rows.filter (fun x => x.1 / 2048 ≠ n)
           pbuf := s.pbuf.filter (fun x => x.1 % 2 ^ 80 / 2 ^ 17 ≠ n) }

/-- SCAN_COMPLETE (R359): a failure names a unit of the core. -/
def execScanComplete (n : Nat) (ok : Bool) (uclass inst synd : Nat) (s : State) : Res :=
  let t := s.beginScan n
  .next (if n < 384 ∧ tabGet false t.scans n then
    let u := t.wipeCore n
    if ok then u.scanEnds n 1
    else if coreUnit uclass inst then (u.scanEnds n 2).failCore n 7 uclass inst synd else t
    else s)

/-- UNCONTAINED_ERROR (R352), which is due while a rank of the launch holds a cause of R350 outside every region; a record of kind 2 that
names a core makes its own (`State.coreError`). -/
def execUncontained (arr : Nat) (s : State) : Res :=
  .next (match s.launch? arr with
    | some l => if l.fdfl.testBit 0 ∧ l.cpol = 2 ∧ s.uncontainedCause arr then (s.uncontainedErr arr none).unblock else s
    | none => s)

end Sys2Proof.Machine
end

