-- ==== Sys2Proof/Machine/Admit.lean ====
section
/-! DEFINITION. Launch packets and records: their checks, admission, the deadline heap, completion at once, and the Milliner's slot
(R278 to R289, R293, R295, R296, R322, R326, R400). -/

namespace Sys2Proof.Machine

/-! Memory that the device uses on behalf of a launch or queue (R400). -/

/-- Reads n bytes at a virtual address of a space, line by line; none where the address is unusable or the bytes are poisoned. -/
def State.useRead (s : State) (root : Word) : Nat → Word → Nat → Option (State × List Byte)
  | 0, _, _ => some (s, [])
  | fuel + 1, a, n =>
    if n = 0 then some (s, [])
    else
      let m := min n (64 - a.toNat % 64)
      match s.useAddr root a false with
      | none => none
      | some (p, ea) => match (s.touch ea false).readPlace 0 p m with
        | .error _ => none
        | .ok bs => match State.useRead (s.touch ea false) root fuel (a + BitVec.ofNat 64 m) (n - m) with
          | none => none
          | some (t, r) => some (t, bs ++ r)

/-- A dump copies the granule of a virtual address of a space before n bytes are written there (R366). -/
def State.dumpUse (s : State) (root : Word) (a : Word) (n : Nat) : State := if selOf a = 0 then s.dumpVa root (lowOf a) n else s

/-- Writes bytes at a virtual address of a space; none where the address is unusable. -/
def State.useWrite (s0 : State) (root : Word) : Nat → Word → List Byte → Option State
  | 0, _, _ => some s0
  | fuel + 1, a, bs =>
    if bs.isEmpty then some s0
    else
      let m := min bs.length (64 - a.toNat % 64)
      let s := s0.dumpUse root a m
      match s.useAddr root a true with
      | none => none
      | some (p, ea) =>
        if s.farFails 0 p false then none
        else State.useWrite (((s.touch ea true).farUse p).writePlace 0 p (bs.take m)) root fuel (a + BitVec.ofNat 64 m) (bs.drop m)

/-- The pieces that a range of n bytes needs at most. -/
def pieces (n : Nat) : Nat := n / 64 + 2

/-! Fields of a packet (Table 19.2). -/

def pkGW (p : List Byte) : Nat := numAt p 1 1
def pkTasks (p : List Byte) : Nat := numAt p 4 4 + 1
def pkRcb (p : List Byte) : Nat := numAt p 8 8
def pkCode (p : List Byte) : Word := BitVec.ofNat 64 (numAt p 0x10 8)
def pkCost (p : List Byte) : Nat := numAt p 0x28 4
def pkDeps (p : List Byte) : Word := BitVec.ofNat 64 (numAt p 0x38 8)
def pkNdep (p : List Byte) : Nat := numAt p 0x34 2
def pkCrec (p : List Byte) : Word := BitVec.ofNat 64 (numAt p 0x60 8)
def pkSiga (p : List Byte) : Word := BitVec.ofNat 64 (numAt p 0x68 8)
def pkJctr (p : List Byte) : Word := BitVec.ofNat 64 (numAt p 0x78 8)

/-- Where a packet comes from: the queue whose slot serves it, the RCB whose subtree may launch, the launching context of a record
(launch, task and rank), and its place for dependences found to hold. -/
structure Source where
  queue : Nat
  owner : Nat
  ident : Option (Nat × Nat × Nat)
  key : Nat × Nat

/-- CREC, SIGA and JCTR have the forms that check 1 asks for. -/
def crecForm (a : Word) : Bool := a.toNat % 64 == 0 && selOf a == 0
def sigaForm (a : Word) : Bool := a == 0 || (a.toNat % 8 == 0 && (selOf a == 0 || selOf a == 2 || selOf a == 3 || selOf a == 0x20))
def jctrForm (a : Word) : Bool := a == 0 || (a.toNat % 8 == 0 && selOf a == 0)
def tailForm (p : List Byte) : Bool := crecForm (pkCrec p) && sigaForm (pkSiga p) && jctrForm (pkJctr p)

/-- The dependence entries of a packet; none where the list does not translate. -/
def State.depsOf (s : State) (root : Word) (p : List Byte) : Option (State × List (List Byte)) :=
  if pkNdep p = 0 then some (s, [])
  else (s.useRead root (pieces (16 * pkNdep p)) (pkDeps p) (16 * pkNdep p)).map (fun x =>
    (x.1, (List.range (pkNdep p)).map (fun i => (x.2.drop (16 * i)).take 16)))

/-- Whether a dependence entry has a legal form (R287): KIND 1 in a record only, whatever its TL (one that the context does not have has the
completed value 0, R219), KIND 2 on a counter that translates. -/
def State.depForm (s : State) (root : Word) (isRec : Bool) (d : List Byte) : Bool :=
  let a : Word := BitVec.ofNat 64 (numAt d 8 8)
  numAt d 2 6 == 0 && (if numAt d 0 1 = 1 then isRec
    else numAt d 0 1 == 2 && a.toNat % 8 == 0 && (s.useAddr root a false).isSome)

/-- Check 1 of R286 for a launch packet. -/
def State.check1 (s : State) (src : Source) (p : List Byte) : Bool :=
  numAt p 0 1 == 1 && numAt p 3 1 / 8 == 0 && numAt p 0x36 2 == 0 && numAt p 0x32 2 / 4 == 0
    && [1, 2, 4, 8, 16].contains (pkGW p) && numAt p 2 1 ≤ 40 && 1 ≤ pkCost p && numAt p 0x18 8 % 64 == 0 && pkNdep p ≤ 16
    && tailForm p && s.under src.owner (pkRcb p)
    && (pkNdep p == 0 || ((pkDeps p).toNat % 16 == 0 && selOf (pkDeps p) == 0 && (match s.spaceOf (pkRcb p) with
      | none => false
      | some root => match s.depsOf root p with
        | none => false
        | some (t, ds) => ds.all (t.depForm root src.ident.isSome))))

/-- Check 2 (R28, R321): the chain of RCBs, and a chain record with a log pool for its root. -/
def State.check2 (s : State) (p : List Byte) : Option (List Rcb × Nat) :=
  match s.chain (pkRcb p) with
  | none => none
  | some ch =>
    if chainOk (pkGW p) ch then
      match s.chainOf (rootOf ch) with
      | some n => if s.reg (chainOff n + 0x10) = 0 then none else some (ch, n)
      | none => none
    else none

/-- The registered object of a CODE under a space (R371). -/
def State.codeAt (s : State) (root code : Word) : Option CodeObj := s.registry.find? (fun k => k.ptroot == root && k.text == code)

/-- Whether a launch's width and windows agree with its code object (R33, R124, R160). That tiles with an unnamed window, SKEW and spill bytes
beyond their limits count too is the model's reading (DEDUCED, log 110). -/
def codeFits (p : List Byte) (k : CodeObj) : Bool :=
  k.gw == pkGW p && k.tiles ≤ 16 && (k.win == 0xFF || k.win / 2 < k.tiles) && k.tiles + (k.win == 0xFF).toNat ≤ 16
    && k.skew < 32 && numAt p 0x2C 2 ≤ 1024 && numAt p 0x2E 2 ≤ 768 && 1 ≤ numAt p 0x30 2 && numAt p 0x30 2 ≤ 256
    && k.spill ≤ 1024 * numAt p 0x30 2

/-- Whether a dependence holds (R287): the launching context's timeline, or a counter at 0; a context that has ended waits for
nothing. A poisoned counter does not read 0. -/
def State.depHolds (s : State) (src : Source) (root : Word) (d : List Byte) : Bool :=
  let v := numAt d 8 8
  if numAt d 0 1 = 1 then
    match src.ident with
    | none => false
    | some (arr, task, rank) =>
      (s.ctxs ++ s.saved).all (fun c => !(c.live && c.arr == arr && c.task == task && c.rank == rank && c.stat != .ended)
        || v ≤ (c.tls.getD (numAt d 1 1) {}).done)
  else match s.useRead root 2 (BitVec.ofNat 64 v) 8 with
    | some (_, bs) => leNat bs == 0
    | none => false

/-- Tests the dependences not yet found to hold, and notes those that do now: the state, and how many are still open. -/
def State.depTest (s : State) (src : Source) (root : Word) : Nat → List (List Byte) → State × List Nat
  | _, [] => (s, [])
  | i, d :: ds =>
    let k := (src.key.1, src.key.2, i)
    let r := s.depTest src root (i + 1) ds
    if s.depSeen.contains k then r
    else if s.depHolds src root d then ({ r.1 with depSeen := r.1.depSeen ++ [k] }, r.2)
    else (r.1, i :: r.2)

/-- Check 4: the state with what has been found, and whether every dependence holds. -/
def State.check4 (s : State) (src : Source) (root : Word) (p : List Byte) : State × Bool :=
  match s.depsOf root p with
  | none => (s, false)
  | some (t, ds) =>
    let r := t.depTest src root 0 ds
    (r.1, r.2.isEmpty)

/-- A packet that has been handled leaves no dependence behind. -/
def State.depDone (s : State) (src : Source) : State :=
  { s with depSeen := s.depSeen.filter (fun x => !(x.1 == src.key.1 && x.2.1 == src.key.2))
           noSplice := s.noSplice.filter (fun x => x.2.1 != src.key) }

/-! The admission test (R288). -/

/-- Tasks of a launch, and those not yet placed. A capture runs one task (R328). -/
def Launch.ntasks (l : Launch) : Nat := if l.capture.isSome then 1 else pkTasks l.packet
def Launch.unplaced (l : Launch) : Nat := l.ntasks - l.placed

/-- REM of an entry: COST × unplaced ÷ tasks, rounded up. -/
def Launch.rem (l : Launch) : Nat := (pkCost l.packet * l.unplaced + l.ntasks - 1) / l.ntasks

/-- The admission test of a newcomer of priority b with its deadline and cost. -/
def State.admits (s : State) (b deadl cost : Nat) : Bool :=
  if 47 ≤ b then true
  else
    let es := ((s.heap.filter (fun l => l.prio == b)).map (fun l => (pkDeadl l.packet, l.rem))) ++ [(deadl, cost)]
    let cap := wfld (s.reg (0x2000 + 8 * b)) 0 9
    let now := s.tb.toNat
    now < deadl && (es.filter (fun j => deadl ≤ j.1)).all (fun j =>
      decide (1000 * ((es.filter (fun k => k.1 ≤ j.1)).map Prod.snd).foldl Nat.add 0 ≤ (j.1 - now) * cap) && now ≤ j.1)

/-- Budgets (R293): the cost against CBUDGET, the run queue's 32 bytes against MBUDGET, and a log budget not yet used up. -/
def State.budgets (s : State) (ch : List Rcb) (cost : Nat) : Bool :=
  canCharge 1 Rcb.cused Rcb.cbudget cost ch && canCharge 2 Rcb.mused Rcb.mbudget 32 ch
    && ch.all (fun r => !r.ovr.testBit 4 || tabGet 0 s.lused r.addr < r.lbudget)

/-! Completion (R296). -/

/-- A completion record (Table 19.3). -/
def crecBytes (status faults : Nat) (start fin : Word) (root : BitVec 256) (cflags tasks : Nat) : List Byte :=
  leBytes 4 status ++ leBytes 4 faults ++ leBytes 8 start.toNat ++ leBytes 8 fin.toNat ++ hashBytes root ++ leBytes 4 cflags ++ leBytes 4 tasks

/-- A record of kind 12 to a route. -/
def State.rec12 (s : State) (a : Word) (arr rcb : Nat) (route : Option Nat) : State :=
  s.sendRec { kind := 12, addr := a.toNat, launch := arr, rcb := rcb } route

/-- Step 2: the record at CREC; none where CREC is unusable. -/
def State.putCrec (s : State) (root : Option Word) (p : List Byte) (bs : List Byte) : Option State :=
  if crecForm (pkCrec p) then root.bind (fun r => s.useWrite r 3 (pkCrec p) bs) else none

/-- Step 3: the signal; none where the store cannot be performed. -/
def State.putSignal (s : State) (root : Option Word) (p : List Byte) : Option State :=
  let a := pkSiga p
  if a = 0 then some s
  else if !sigaForm a then none
  else if selOf a = 0x20 then (if lowOf a / 8 < 4096 then some (s.wakePut (lowOf a / 8) (BitVec.ofNat 64 (numAt p 0x70 8))) else none)
  else match root.bind (fun r => s.useAddr r a true) with
    | none => none
    | some (.dev pa, _) => if s.poisoned pa then none else root.bind (fun r => s.useWrite r 3 a ((p.drop 0x70).take 8))
    | some _ => root.bind (fun r => s.useWrite r 3 a ((p.drop 0x70).take 8))

/-- Step 4: the join counter; none where it cannot be written. -/
def State.putJoin (s : State) (root : Option Word) (j : Joiner) (a : Word) : Option State :=
  if a = 0 then some s
  else if !jctrForm a then none
  else match root.bind (fun r => (s.useAddr r a true).map (fun x => (r, x))) with
    | some (r, .dev pa, ea) => some (((s.dumpUse r a 8).touch ea true).joinAt j a pa)
    | _ => none

/-- Steps 2 to 4 for a packet: its record, its signal and its join counter. Where CREC is unusable a record of kind 12 is sent; a
packet that fails a check is then consumed without more. -/
def State.tellEnd (s : State) (root : Option Word) (arr : Nat) (p bs : List Byte) (route : Option Nat) (ran : Bool) : State :=
  let rcb := pkRcb p
  let step34 (t : State) : State :=
    let u := (t.putSignal root p).getD (t.rec12 (pkSiga p) arr rcb route)
    (u.putJoin root ⟨arr, rcb, route⟩ (pkJctr p)).getD (u.rec12 (pkJctr p) arr rcb route)
  match s.putCrec root p bs with
  | some t => step34 t
  | none =>
    let t := s.rec12 (pkCrec p) arr rcb route
    if ran then step34 t else t

/-- CFLAGS with bit 11 for an end above the deadline. -/
def withLate (cflags : Nat) (fin : Word) (p : List Byte) : Nat := if pkDeadl p < fin.toNat then Nat.lor cflags 0x800 else cflags

/-- Task entries in increasing task order. -/
def insertTask (x : Nat × BitVec 256) : List (Nat × BitVec 256) → List (Nat × BitVec 256)
  | [] => [x]
  | y :: ys => if y.1 ≤ x.1 then y :: insertTask x ys else x :: y :: ys
def sortTasks (xs : List (Nat × BitVec 256)) : List (Nat × BitVec 256) := xs.foldl (fun acc x => insertTask x acc) []

/-- The launch root (R318). -/
def Launch.rootHash (l : Launch) : BitVec 256 := treeRoot ((sortTasks l.tasks).map (fun x => taskEntry x.1 x.2))

/-- Whether every rank of every task of a launch has ended and no task is still to be placed; for C of a fused pair, whether the fused
tasks have ended, P's part included (R347). -/
def State.allEnded (s : State) (l : Launch) : Bool :=
  !l.fuse.any (fun f => f.origin == 2 && (s.ctxs ++ s.saved).any (fun c => c.live && c.arr == f.mate && c.stat != .ended)) &&
  !(s.ctxs ++ s.saved).any (fun c => c.live && c.arr == l.arr && c.stat != .ended) && (l.stopped || l.unplaced == 0) && !l.replay

/-- Commits the shadows of a launch line by line (R312): a line that still holds a mark hands it on. -/
def State.commitLines (s : State) (h : Shadow) : List Nat → State
  | [] => s
  | k :: ks =>
    let pa := 65536 * h.granule + 64 * k
    let bs := memRead h.bytes (64 * k) 64
    if peerBase ≤ pa then State.commitLines { s with peer := memWrite s.peer (pa - peerBase) bs } h ks
    else
      let t := s.devPut pa bs
      (if h.bad.contains k && !s.dead pa then t.markLine pa true else t).commitLines h ks

/-- Releases the shadows of a launch and what they were charged. -/
def State.releaseShadows (s : State) (l : Launch) : State :=
  let n := (s.shadows.filter (fun h => h.arr == l.arr)).length
  let t : State := { s with shadows := s.shadows.filter (fun h => h.arr != l.arr) }
  t.freeOwn l (65536 * n)

/-- A held launch or launcht joins its pool, or its overflow area when the pool is full; none where neither has room. -/
def State.pushHeld (s : State) (e : List Byte) : Option State :=
  let rcb := numAt e 8 8
  let p := s.poolAt (s.rcb rcb).pool
  if p.fits 1 then some (s.poolAdd p e)
  else if s.canSpill rcb then
    let t := s.spillPool rcb
    let q := t.poolAt (t.rcb rcb).pool
    if q.fits 1 then some (t.poolAdd q e) else none
  else none

/-- The held operations of a launch, in issue order (R312). -/
def State.performHeld (s : State) (l : Launch) : List (Nat × List Byte × Word) → Option State
  | [] => some s
  | (k, e, a) :: r =>
    if k = 2 then State.performHeld ((s.putJoin (some l.ptroot) ⟨l.arr, l.rcb, some l.eroute⟩ a).getD (s.rec12 a l.arr l.rcb (some l.eroute))) l r
    else match s.pushHeld e with
      | some t => State.performHeld t l r
      | none => none

/-- Commits a shadowed launch: its lines, its held operations, its shadows; none where a held launch finds no room yet. A dump of its space
copies a granule before its lines are committed (R366). -/
def State.commit (s : State) (l : Launch) : Option State :=
  let t := (s.shadows.filter (fun h => h.arr == l.arr)).foldl (fun u h =>
    (u.dumpFirst (fun v => v.granHeld l.ptroot (65536 * h.granule))).commitLines h h.lines) s
  (t.releaseShadows l).performHeld l l.held

/-- The storage that a context holds. -/
def Ctx.stored (c : Ctx) : Nat := 73728 * c.keptZ.length + (c.keptW.map (fun b => winSize (c.win b))).foldl Nat.add 0

/-- What a gang's contexts are charged: the areas of a fused task are those of its first origin. -/
def State.gangMem (s : State) (g : Gang) : Nat :=
  let cs := s.everyone g.id
  (if g.mate ≠ 0 ∧ g.mate < g.id then 0 else 81920 * cs.length) + (cs.map Ctx.stored).foldl Nat.add 0

/-- Everything about a launch goes: its trees and leaves, and the charges of its run queue and of the gangs that have not left yet. -/
def State.forget (s : State) (l : Launch) : State :=
  let n := ((s.gangs.filter (fun g => g.arr == l.arr)).map s.gangMem).foldl Nat.add 32
  let t : State := { s with
    launches := s.launches.filter (fun x => x.arr != l.arr)
    trees := s.trees.filter (fun x => x.arr != l.arr)
    leaves := s.leaves.filter (fun x => x.arr != l.arr) }
  t.freeOwn l n

/-- Step 5, with the launch root entry: the chain link of a launch that is chained. -/
def State.chainLaunch (s : State) (l : Launch) (root : BitVec 256) : State :=
  (s.logEntry l true (logHead 8 0 0 0 l.arr 0 0 root)).chainAppend l.chain root l.descDigest

/-- Completes a launch that ran (R296): step 1, then its record, signal, join counter and chain link. None where a step must wait. -/
def State.endLaunch (s : State) (l : Launch) : Option State :=
  let shadowed := l.fdfl.testBit 0
  let good := l.status = 0
  let first : Option (State × Nat × Nat) :=
    if !shadowed then some (s, l.status, l.cflags)
    else if good then (s.commit l).map (fun t => (t, 0, Nat.lor l.cflags 0x100))
    else
      let t := s.releaseShadows l
      some (if l.status = 7 then t else t.sendRec { kind := 11, launch := l.arr, rcb := l.rcb } (some l.eroute), 7, l.cflags)
  first.map (fun x =>
    let root := l.rootHash
    let bs := crecBytes x.2.1 l.faults (l.start.getD l.fin) l.fin root (withLate x.2.2 l.fin l.packet) l.ended
    let t := x.1.tellEnd (some l.ptroot) l.arr l.packet bs (some l.eroute) true
    (t.chainLaunch l root).forget l)

/-- The launches of a chain that wait to complete, in order of END and ARR (R322). -/
def insertEnd (x : Launch) : List Launch → List Launch
  | [] => [x]
  | y :: ys => if y.fin.toNat < x.fin.toNat ∨ (y.fin = x.fin ∧ y.arr < x.arr) then y :: insertEnd x ys else x :: y :: ys
def State.waiting (s : State) (chain : Nat) : List Launch :=
  (s.launches.filter (fun l => l.chain == chain && l.capture.isNone && s.allEnded l)).foldl (fun acc l => insertEnd l acc) []

/-- Completes what waits on a chain, in order, as far as it can. -/
def State.endWaiting (s : State) : List Launch → State
  | [] => s
  | l :: r => match s.endLaunch l with
    | some t => t.endWaiting r
    | none => s

/-! Packets that a check completes at once (R286). -/

/-- CFLAGS of a packet that the Fuller has refused to pair (R336): bit 1 and the reason. -/
def State.refusedFlags (s : State) (key : Nat × Nat) : Nat :=
  match s.noSplice.find? (fun x => x.2.1 == key) with
  | some x => 2 + 16 * x.2.2
  | none => 0

/-- The continuation record of all tasks of a launch packet (R294), with the kernel entry of its object (R371). -/
def wholeRun (p : List Byte) (k : CodeObj) : Cont := ⟨k.text + BitVec.ofNat 64 k.entry, BitVec.ofNat 64 (numAt p 0x18 8), pkJctr p, 0, pkTasks p - 1⟩

/-- The launch that a packet would make, with what its chain resolves at admission (R28). -/
def State.newLaunch (s : State) (src : Source) (p : List Byte) (ch : List Rcb) (chain arr : Nat) (k : CodeObj) : Launch :=
  { arr := arr, packet := p, queue := src.queue, prio := effR 0 Rcb.prio ch, root := BitVec.ofNat 64 (rootOf ch),
    ptroot := BitVec.ofNat 64 (effR 8 Rcb.ptroot ch), priv := s.privChain ch, cpol := effR 5 Rcb.cpol ch, fdfl := s.fdflOf ch,
    eroute := effR 7 Rcb.eroute ch, cabase := BitVec.ofNat 64 (effR 8 Rcb.cabase ch), casize := BitVec.ofNat 64 (effR 8 Rcb.casize ch),
    own := grantsOf ch, cool := effR 3 Rcb.cool ch, runq := [wholeRun p k],
    chain := chain, code := k, placed := 0, ended := 0, status := 0, faults := 0, start := none, fin := s.tb, used := 0, cflags := s.refusedFlags src.key,
    attempt := 0, inHeap := false, tasks := [], held := [], stopped := false, replay := false, banned := [], fuse := none,
    capture := none }

/-- The error route of an RCB, or of the queue's owner when none can be read for the RCB. -/
def State.routeOf (s : State) (rcb owner : Nat) : Option Nat := (s.nearest? 7 Rcb.eroute rcb).or (s.nearest? 7 Rcb.eroute owner)

/-- The 64 bytes of a launch that runs no task. -/
def State.atOnce (s : State) (p : List Byte) (status cflags : Nat) : List Byte :=
  crecBytes status 0 s.tb s.tb (treeRoot []) (withLate cflags s.tb p) 0

/-- A packet completed by check 1 or 2: neither chained nor logged. -/
def State.refuse (s : State) (src : Source) (p : List Byte) (status : Nat) : State :=
  (s.tellEnd (s.spaceOf (pkRcb p)) 0 p (s.atOnce p status 0) (s.routeOf (pkRcb p) src.owner) false).depDone src

/-- A packet completed by a later check: its header and root are logged and its root is chained, in the order of END and ARR (R322): after
the launches of the chain that ended before. None where one of those cannot complete yet: the packet waits. -/
def State.refuseLogged (s : State) (src : Source) (p : List Byte) (ch : List Rcb) (chain : Nat) (k : CodeObj) (status : Nat) : Option State :=
  let before (t : State) : List Launch := (t.waiting chain).filter (fun l => l.fin.toNat < t.tb.toNat)
  let s0 := s.endWaiting (before s)
  if !(before s0).isEmpty then none
  else
    let l := s0.newLaunch src p ch chain 0 k
    let s1 := s0.logEntry l false l.header
    let s2 := s1.tellEnd (some l.ptroot) 0 p (s1.atOnce p status l.cflags) (some l.eroute) false
    some ((s2.chainLaunch l (treeRoot [])).depDone src)

/-- DEPTH of the RCBs of a chain, the root's being 1 (Table 3.1). -/
def State.setDepths (s : State) : List Rcb → State
  | [] => s
  | r :: rs => (s.devNat (r.addr + 0x19) 1 (rs.length + 1)).setDepths rs

/-- The budget periods of the RCBs of a chain, as an admission finds them (R28, R293). PERIOD goes with the core budget of OVR bit 1 (DESIGN
CHOICE, log 112). -/
def periodsOf : List Rcb → Tab Nat → Tab Nat
  | [], t => t
  | r :: rs, t => periodsOf rs (tabSet 0 t r.addr (effR 1 Rcb.period (r :: rs)))

/-- Admission (R288, R293): the next ARR value, the charges, the heap entry and the launch header. -/
def State.takeIn (s : State) (src : Source) (p : List Byte) (ch : List Rcb) (chain : Nat) (k : CodeObj) (demoted : Bool) : State :=
  let l0 := s.newLaunch src p ch chain s.nextArr k
  let l : Launch := { l0 with inHeap := true, prio := if demoted then 47 else l0.prio,
                              cflags := Nat.lor l0.cflags (if demoted then 0x400 else 0) }
  let s1 := ((s.setDepths ch).addAll 0x58 (pkCost p) ch).addAll 0x60 32 ch
  let s2 : State := { s1 with nextArr := s1.nextArr + 1, launches := s1.launches ++ [l], charged := periodsOf ch s1.charged }
  ((s2.logEntry l false l.header).depDone src).endReserve

/-- Checks 5 to 7 of a packet whose dependences hold; none where it is blocked. -/
def State.checks567 (s : State) (src : Source) (p : List Byte) (ch : List Rcb) (chain : Nat) (k : CodeObj) : Option State :=
  let b := effR 0 Rcb.prio ch
  if 256 ≤ s.heap.length then none
  else if !s.budgets ch (pkCost p) then s.refuseLogged src p ch chain k 5
  else if s.admits b (pkDeadl p) (pkCost p) then some (s.takeIn src p ch chain k false)
  else if (s.fdflOf ch).testBit 2 then some (s.takeIn src p ch chain k true)
  else s.refuseLogged src p ch chain k 1

/-- What a check answers: the state with the packet handled, or the packet blocked. -/
def orBlocked (s : State) : Option State → State × Bool
  | none => (s, false)
  | some t => (t, true)

/-- Handles a launch packet or record (R286): the state, and whether it was handled or is blocked. -/
def State.handleLaunch (s : State) (src : Source) (p : List Byte) : State × Bool :=
  if !s.check1 src p then (s.refuse src p 4, true)
  else match s.check2 p with
    | none => (s.refuse src p 2, true)
    | some (ch, n) =>
      let root := BitVec.ofNat 64 (effR 8 Rcb.ptroot ch)
      match s.codeAt root (pkCode p) with
      | none => orBlocked s (s.refuseLogged src p ch n {} 3)
      | some k =>
        if !codeFits p k then orBlocked s (s.refuseLogged src p ch n k 3)
        else
          let r := s.check4 src root p
          if !r.2 then (r.1, false)
          else orBlocked r.1 (r.1.checks567 src p ch n k)

end Sys2Proof.Machine
end

