-- ==== Sys2Proof/Machine/Place.lean ====
section
/-! DEFINITION. The dispatcher (R30, R34, R38, R62, R290 to R294, R401), pre-emption and resumption (R49, R145, R308, R374). -/

namespace Sys2Proof.Machine

/-- The lowest free base for a window of `size` KiB in a buffer of `total`. -/
def fitBase (total size : Nat) (used : List (Nat × Nat)) : Option Nat :=
  if size = 0 then some 0
  else
    let ok (b : Nat) : Bool := b + size ≤ total && used.all (fun u => u.2 == 0 || b + size ≤ u.1 || u.1 + u.2 ≤ b)
    match (0 :: used.map (fun u => u.1 + u.2)).filter ok with
    | [] => none
    | x :: xs => some (xs.foldl Nat.min x)

/-- The sizes of W, A and S in KiB. -/
def bufKiB (b : Nat) : Nat := if b = 0 then 1024 else if b = 1 then 768 else 256

/-- A base for a window on a core, beside those of `also` and beside what pre-emption left there if possible. -/
def State.baseOn (s : State) (n b size : Nat) (also : List (Nat × Nat)) : Option Nat :=
  let used := also ++ (s.liveOn n).map (fun c => winPair (c.win b))
  let kept := ((s.left n).filter (fun c => c.winHere b)).map (fun c => winPair (c.win b))
  match fitBase (bufKiB b) size (used ++ kept) with
  | some x => some x
  | none => fitBase (bufKiB b) size used

/-- `k` tiles of a core that no context there owns: first those that hold nothing of a saved context. -/
def State.tilesOn (s : State) (n k : Nat) : Option (List Nat) :=
  let own := (s.liveOn n).flatMap Ctx.owned
  let kept := (s.left n).flatMap Ctx.stays
  let free := (List.range 16).filter (fun t => !own.contains t)
  let ts := free.filter (fun t => !kept.contains t) ++ free.filter (fun t => kept.contains t)
  if k ≤ ts.length then some (ts.take k) else none

/-- The lowest free context number. -/
def State.cidOn (s : State) (n : Nat) : Option Nat := (List.range 4).find? (fun i => !(s.liveOn n).any (fun c => c.cid == i))

/-- A place for one rank: its context, its tiles, the unnamed one last, and its window bases. -/
structure Seat where
  core : Nat
  cid : Nat
  tiles : List Nat
  wb : Nat
  ab : Nat
  sb : Nat
  deriving DecidableEq, Repr

/-- Tiles that a launch needs on each core. -/
def Launch.ntiles (l : Launch) : Nat := l.code.tiles + (l.code.win == 0xFF).toNat

/-- The launch whose tasks run fused with a launch's own, as C with P (R335). -/
def State.mateLaunch (s : State) (l : Launch) : Option (Launch × Fuse) :=
  match l.fuse with
  | some f => if f.origin = 1 then (s.launch? f.mate).map (fun m => (m, f)) else none
  | none => none

/-- The windows that a launch needs, by buffer, in KiB. -/
def Launch.winKiB (l : Launch) (b : Nat) : Nat := numAt l.packet (if b = 0 then 0x2C else if b = 1 then 0x2E else 0x30) 2

/-- The places of one rank on a core: that of its task, and for a fused task that of the second origin in the same context, whose
numbers stand 4 above the context's (R337, log 46). -/
def State.seatOn (s : State) (l : Launch) (n : Nat) : Option (List Seat) := do
  let cid ← s.cidOn n
  let m := (s.mateLaunch l).map Prod.fst
  let ts ← s.tilesOn n (l.ntiles + (m.map Launch.ntiles).getD 0)
  let wb ← s.baseOn n 0 (l.winKiB 0) []
  let ab ← s.baseOn n 1 (l.winKiB 1) []
  let sb ← s.baseOn n 3 (l.winKiB 3) []
  let x : Seat := ⟨n, cid, ts.take l.ntiles, wb, ab, sb⟩
  match m with
  | none => pure [x]
  | some k =>
    let wb2 ← s.baseOn n 0 (k.winKiB 0) [(wb, l.winKiB 0)]
    let ab2 ← s.baseOn n 1 (k.winKiB 1) [(ab, l.winKiB 1)]
    let sb2 ← s.baseOn n 3 (k.winKiB 3) [(sb, l.winKiB 3)]
    pure [x, ⟨n, cid + 4, ts.drop l.ntiles, wb2, ab2, sb2⟩]

/-! Coolant and other conditions on a core (R292, R353, R357 to R359, R383, R393 to R395). -/

/-- The valve units that a launch's power class demands of a core. -/
def Launch.demand (l : Launch) : Nat := 8 * (numAt l.packet 3 1 / 2 % 4 + 1)

/-- The demand of a core: the largest of its contexts'; a fused task is one of P's (R292, R335). -/
def State.demandOf (s : State) (n : Nat) : Nat :=
  (((s.liveOn n).filter (fun c => c.cid < 4)).map (fun c => match s.launch? c.arr with
    | some l => l.demand
    | none => 0)).foldl Nat.max 0

/-- What a new task of demand d adds to a core's demand. -/
def State.addsTo (s : State) (d n : Nat) : Nat := max d (s.demandOf n) - s.demandOf n

/-- Of cores of one zone, those that it can take while its demand is `used`, in turn. -/
def State.coolGo (s : State) (d set : Nat) : Nat → List Nat → List Nat
  | _, [] => []
  | used, n :: ns =>
    if used + s.addsTo d n ≤ set then n :: s.coolGo d set (used + s.addsTo d n) ns else s.coolGo d set used ns

/-- Of some cores as many as their zones can take together (R292): those that add the least come first. -/
def State.coolSet (s : State) (d : Nat) (cores : List Nat) : List Nat :=
  let ok := (cores.map zoneOfCore).eraseDups.flatMap (fun z =>
    let mine := cores.filter (fun n => zoneOfCore n == z)
    let base := ((List.range 4).map (fun i => s.demandOf (mine.headD 0 / 4 * 4 + i))).foldl Nat.add 0
    s.coolGo d (zSet (s.zone z)) base ((List.range 33).flatMap (fun e => mine.filter (fun n => s.addsTo d n == e))))
  cores.filter (fun n => ok.contains n)

/-- Whether placement may use a core for a launch. -/
def State.coreOpen (s : State) (l : Launch) (n : Nat) : Bool :=
  let z := zoneOfCore n
  let w := s.reg (atOff n)
  let owner := s.reg (zoneOff z - 8)
  !s.coreFenced n && (s.reg 0x600018).getLsbD (n / 16) && !w.getLsbD 0 && !w.getLsbD 2 && !l.banned.contains n
    && zState (s.zone z) == 0 && tabGet 0 s.trips z == 0 && (owner == 0 || l.below owner.toNat)

/-- Gives ranks their places on cores in turn. -/
def takeSeats {α : Type} (w : Nat) (seat : Nat → Nat → Option α) : List Nat → List α → List α
  | [], acc => acc
  | n :: ns, acc =>
    if acc.length = w then acc
    else match seat acc.length n with
      | some x => takeSeats w seat ns (acc ++ [x])
      | none => takeSeats w seat ns acc

/-- Up to w places on cores whose zones can take them. -/
def State.pick {α : Type} (s : State) (l : Launch) (w : Nat) (seat : Nat → Nat → Option α) (cores : List Nat) : List α :=
  let ok := cores.filter (fun n => s.coreOpen l n && (List.range w).any (fun i => (seat i n).isSome))
  takeSeats w seat (s.coolSet l.demand ok) []

/-- The cores of a cluster that are not held for another entry. -/
def clusterCores (held : List Nat) (cl : Nat) : List Nat := ((List.range 16).map (fun i => 16 * cl + i)).filter (fun n => !held.contains n)

/-- The places that a cluster offers a launch. -/
def State.seats (s : State) (l : Launch) (held : List Nat) (cl : Nat) : List (List Seat) :=
  s.pick l (pkGW l.packet) (fun _ n => s.seatOn l n) (clusterCores held cl)

/-- Free context areas of a launch's space (R401). -/
def State.areas (s : State) (l : Launch) : List Word :=
  let used := ((s.ctxs ++ s.saved).filter (fun c => c.live && c.ptroot == l.ptroot)).map Ctx.area
  let all := (List.range (min (l.casize.toNat / 81920) (used.length + pkGW l.packet))).map (fun i => l.cabase + BitVec.ofNat 64 (81920 * i))
  all.filter (fun a => !used.contains a)

/-! Storage for what an incoming task displaces (R308). -/

/-- The rows of a tile. -/
def State.tileRows (s : State) (n t : Nat) : List ZRow := (List.range 128).map (fun i => s.row n (128 * t + i))

/-- The rows of tiles become invalid and full; the marks of poisoned granules stay (R348). -/
def State.clearTiles (s : State) (n : Nat) (ts : List Nat) : State :=
  { s with rows := s.rows.filterMap (fun x =>
      if x.1 / 2048 == n && ts.contains (x.1 % 2048 / 128) then (if x.2.mark then some (x.1, x.2.invalid) else none) else some x) }

/-- Changes a saved context. -/
def State.updSaved (s : State) (c : Ctx) (f : Ctx → Ctx) : State :=
  { s with saved := s.saved.map (fun x => if x.live ∧ x.gang = c.gang ∧ x.rank = c.rank then f x else x) }

/-- Moves n bytes of a buffer with the poison marks of their units. -/
def State.moveBuf (s : State) (b src dst n : Nat) : State :=
  let t := s.setBuf b (memWrite (memClear (s.bufMem b) dst n) dst (memRead (s.bufMem b) src n))
  let marks := (List.range (n / 8)).filter (fun i => tabGet false s.pbuf (unitKey b (src + 8 * i)))
  let p := t.pbuf.filter (fun y => !(unitKey b dst ≤ y.1 && y.1 < unitKey b dst + n / 8))
  { t with pbuf := marks.foldl (fun q i => tabSet false q (unitKey b (dst + 8 * i)) true) p }

/-- Tiles and windows of a saved context go to storage, charged to MUSED; none where a budget has no room (R30, R308). -/
def State.putAway (s : State) (c : Ctx) (ts bs : List Nat) : Option State :=
  let mine := c.stays.filter (fun t => ts.contains t)
  let ws := bs.filter (fun b => c.winHere b && winSize (c.win b) != 0)
  let n := 73728 * mine.length + (ws.map (fun b => winSize (c.win b))).foldl Nat.add 0
  let go (t : State) : State :=
    (ws.foldl (fun u b => u.moveBuf b (bufKey c.core (winBase (c.win b))) (storeKey c.gang c.rank 0) (winSize (c.win b))) t).updSaved c
      (fun x => { x with keptZ := x.keptZ ++ mine.map (fun k => (k, s.tileRows c.core k)), keptW := x.keptW ++ ws })
  if n = 0 then some s
  else match s.launch? c.arr with
    | none => some (go s)
    | some l => (s.chargeOwn l n).map go

/-- Whether two windows overlap. -/
def overlaps (u v : Nat × Nat) : Bool := u.1 < v.1 + v.2 && v.1 < u.1 + u.2

/-- What pre-emption left on a core makes way for tiles and windows that are taken there; none where it cannot be stored. -/
def State.makeWay (s : State) (n : Nat) (ts : List Nat) (ws : List (Nat × Nat × Nat)) : Option State :=
  (s.left n).foldl (fun o c => o.bind (fun t =>
    t.putAway c ts ((ws.filter (fun w => overlaps (winPair (c.win w.1)) w.2)).map Prod.fst))) (some s)

/-! Placing a gang (R34, R62, R291, R294). -/

/-- The physical row of a context's register window. -/
def vwbOf (k : CodeObj) (ts : List Nat) : Nat :=
  if k.win = 0xFF then 128 * ts.getD k.tiles 0 else 128 * ts.getD (k.win / 2) 0 + 64 * (k.win % 2)

/-- A window register. -/
def winReg (base size : Nat) : Word := BitVec.ofNat 64 (size * 65536 + base)

/-- TMAP and ZOWN of tiles, the first `n` of them named; the fields of TMAP behind those are 0 (DESIGN CHOICE, log 114). -/
def tmapOf (ts : List Nat) (n : Nat) : Word := BitVec.ofNat 64 (((List.range n).map (fun i => ts.getD i 0 * 16 ^ i)).foldl Nat.add 0)
def zownOf (ts : List Nat) (n : Nat) : Word := BitVec.ofNat 64 (n * 65536 + bitsOf 16 (fun i => ts.contains i))

/-- A context with the tiles and windows that its allocation gave. -/
def Ctx.asAlloc (c : Ctx) (k : CodeObj) : Ctx :=
  let ts := c.alloc.1
  { c with vwb := vwbOf k ts, tmap := tmapOf ts k.tiles, zown := zownOf ts k.tiles, wwin := c.alloc.2.1, awin := c.alloc.2.2.1, swin := c.alloc.2.2.2 }

/-- A context at its task's first bundle (R62, Table 3.5): what is not named here is invalid, empty or 0. -/
def newCtx (l : Launch) (g task rank core cid : Nat) (alloc : List Nat × Word × Word × Word) (area : Word) : Ctx :=
  let k := l.code
  let c : Ctx :=
    { live := true, core := core, cid := cid, gang := g, rank := rank, nrank := pkGW l.packet, skew := k.skew, arr := l.arr,
      task := task, prio := l.prio, priv := l.priv, ptroot := l.ptroot, text := k.text, lat := k.lat, pc := k.text + BitVec.ofNat 64 k.entry,
      mode := 0x1000, tvec := k.trap, area := area, alloc := alloc }
  (c.asAlloc k).setS 1 { val := BitVec.ofNat 64 (numAt l.packet 0x18 8), valid := true }

/-- What a seat gives a context of a launch. -/
def Seat.alloc (x : Seat) (l : Launch) : List Nat × Word × Word × Word :=
  (x.tiles, winReg x.wb (l.winKiB 0), winReg x.ab (l.winKiB 1), winReg x.sb (l.winKiB 3))

/-- The task that a launch places next: the first of its run queue's head record (R294). -/
def Launch.nextTask (l : Launch) : Nat := ((l.runq.head?).map Cont.first).getD 0

/-- Takes a task from the head record of a run queue; a record whose last task is taken leaves it. -/
def popCont : List Cont → List Cont
  | [] => []
  | r :: rs => if r.cnt = 0 then rs else { r with first := r.first + 1, cnt := r.cnt - 1 } :: rs

/-- Notes that a launch's next task is placed: the launch leaves the heap with its last one (R290). -/
def Launch.takeTask (l : Launch) : Launch := { l with placed := l.placed + 1, runq := popCont l.runq, inHeap := l.placed + 1 < l.ntasks && l.inHeap }

/-- The rank trees of a task (R318). -/
def newTrees (l : Launch) (task : Nat) : List RankTree :=
  (List.range (pkGW l.packet)).map (fun r => ⟨l.arr, task, r, [], numAt l.packet 2 1, 0, false, 0, none⟩)

/-- How far an origin has come at its first bundle: in the loop where that is the kernel's entry. -/
def Launch.fz0 (l : Launch) : Fz :=
  match l.fuse with
  | some f =>
    { part := if snLtop f.note = l.code.entry then 1 else 0
      region := if f.origin = 2 then some (snPath f.note - 0x10, snOff f.note, snLen f.note, 0) else none }
  | none => {}

/-- The priority of a launch's contexts: a fused task is one of P's (R335). -/
def State.ctxPrio (s : State) (l : Launch) : Nat :=
  match l.fuse with
  | some f => if f.origin = 2 then ((s.launch? f.mate).map Launch.prio).getD l.prio else l.prio
  | none => l.prio

/-- A gang takes its places for its launch's next task, with the areas given: what stood there makes way, and its tiles become invalid. -/
def State.seatGang (s : State) (l : Launch) (xs : List Seat) (as : List Word) (mate : Nat) : Option State :=
  let g := s.nextGang
  let cs := (List.range (pkGW l.packet)).filterMap (fun r => match xs[r]?, as[r]? with
    | some x, some a => some { newCtx l g l.nextTask r x.core x.cid (x.alloc l) a with fz := l.fz0, prio := s.ctxPrio l }
    | _, _ => none)
  (xs.foldl (fun o x => o.bind (fun u =>
    (u.makeWay x.core x.tiles [(0, x.wb, l.winKiB 0), (1, x.ab, l.winKiB 1), (3, x.sb, l.winKiB 3)]).map (fun v =>
      v.clearTiles x.core x.tiles))) (some s)).map (fun u =>
    let gang : Gang := { id := g, arr := l.arr, task := l.nextTask, cores := xs.map Seat.core, dec := [], gate := [], opened := [], shared := [],
                         mcast := [], snap := none, began := none, acc := 0, saved := false, drained := false, relock := [], mate := mate }
    let v : State := { u with nextGang := g + 1, gangs := u.gangs ++ [gang], trees := u.trees ++ newTrees l l.nextTask }
    let v1 : State := if v.ctx.live then { v with parked := v.parked ++ cs } else
      { v with ctx := cs.headD v.ctx, parked := v.parked ++ cs.drop 1 }
    v1.setLaunch l.takeTask)

/-- Seats a task of a launch; none where the context-area region or MBUDGET has no room. A fused task is one of P, with P's areas; C's gang
takes its places beside P's (R335, R337). -/
def State.seat (s : State) (l : Launch) (rows : List (List Seat)) : Option State :=
  let w := pkGW l.packet
  let as := s.areas l
  let xs := rows.filterMap (fun r => r[0]?)
  let ys := rows.filterMap (fun r => r[1]?)
  if as.length < w then none
  else (s.chargeOwn l (81920 * w)).bind (fun t =>
    match t.mateLaunch l with
    | none => (t.seatGang l xs as 0).map State.fixRegions
    | some (m, _) => ((t.seatGang l xs as (t.nextGang + 1)).bind (fun u => u.seatGang m ys as (u.nextGang - 1))).map State.fixRegions)

/-- Places a gang for a launch in the first cluster that has room on cores not held. -/
def State.placeGo (s : State) (l : Launch) (held : List Nat) : List Nat → Option State
  | [] => none
  | cl :: cls =>
    let xs := s.seats l held cl
    match (if xs.length = pkGW l.packet then s.seat l xs else none) with
    | some t => some t
    | none => s.placeGo l held cls

/-- The cluster that lacks the fewest cores for a launch, and how many it has. -/
def State.nearest (s : State) (l : Launch) : Nat × Nat :=
  (List.range 24).foldl (fun best cl =>
    let k := (s.seats l [] cl).length
    if best.2 < k then (cl, k) else best) (0, (s.seats l [] 0).length)

/-- Places gangs of the entries after the top one, one each. -/
def State.placeRest (s : State) (held : List Nat) : List Launch → State
  | [] => s
  | l :: ls => ((s.placeGo l held (List.range 24)).getD s).placeRest held ls

/-! Pre-emption (R308). -/

/-- The current place is given up: another context takes it. -/
def State.parkOut (s : State) (p : Ctx → Bool) : State :=
  let rest := s.parked.filter (fun c => !p c)
  if s.ctx.live && p s.ctx then
    match rest with
    | [] => { s with ctx := {}, parked := [] }
    | c :: cs => { s with ctx := c, parked := cs }
  else { s with parked := rest }

/-- Every tile and window of a saved gang's task goes to storage (R308); none where a budget has no room. -/
def State.storeParty (s : State) (g : Gang) : Option State :=
  (((s.party g).flatMap (fun x => s.saved.filter (fun c => c.live && c.gang == x.id))).foldl (fun o c =>
    o.bind (fun (t : State) => t.putAway c c.owned [0, 1, 3])) (some s)).map State.fixRegions

/-- Whether a task can be pre-empted at this instant: it is on its cores and not in the middle of a gang operation. -/
def State.canStop (s : State) (g : Gang) : Bool :=
  (s.party g).all (fun x => !x.saved && x.opened.isEmpty) && (s.party g).any (fun x => (s.members x.id).any (fun c => c.stat != .ended))

/-- The ranks of a gang leave their cores: their core time counts up to now or to their exit, their locks go, and a yield is done with it
(R30, R145, R374). -/
def State.leaveCores (s : State) (g : Gang) : State :=
  match s.gang? g.id with
  | none => s
  | some h =>
    let cs := (s.members g.id).map (fun c => { c.keepImage with yielded := false })
    let n := ((cs.filter (fun c => c.stat != .ended)).map (s.rankTime h)).foldl Nat.add 0
    let h1 : Gang := { h with acc := h.acc + n, began := none, gate := [], saved := true, relock := s.locks.filter (fun k => k.gang == g.id) }
    let t : State := { s.setGang h1 with locks := s.locks.filter (fun k => k.gang != g.id), saved := s.saved ++ cs }
    t.parkOut (fun c => c.gang == g.id)

/-- Marks the gangs of a task as drained: they may resume on any cores. -/
def State.setDrained (s : State) (g : Gang) : State :=
  let ids := (s.party g).map Gang.id
  { s with gangs := s.gangs.map (fun x => if ids.contains x.id then { x with drained := true } else x) }

/-- Pre-empts a task on all its ranks: its X-class operations complete, its results arrive, each rank's image is written, and the contexts
leave their cores; a drain stores every tile and window (R49, R308, R374). None where the store does not fit a budget (R30): the drain
waits (DESIGN CHOICE, log 95). A task that stands stopped for its agent has its images already, which the agent may have changed (R307). -/
def State.preemptGang (s : State) (g : Gang) (drain : Bool) : Option State :=
  let ps := s.party g
  let waits := ps.any (fun x => (s.members x.id).any (fun c => c.stat == .debug))
  let s1 := if waits then s else ps.foldl (fun t x => (t.gangStopped x.id).quiet x.id) s
  match (if waits then some s1 else s1.images (ps.headD g)) with
  | none => match (ps.flatMap (fun x => s1.members x.id)).find? Ctx.active with
    | some o => some (s1.endTaskAll o 0x07)
    | none => some s1
  | some u =>
    let v := ps.foldl State.leaveCores u
    if drain then (v.storeParty g).map (fun w => w.setDrained g) else some v

/-- The gangs that a placement of priority b may take from a cluster. -/
def State.victims (s : State) (b cl : Nat) : List Gang :=
  s.gangs.filter (fun g => s.canStop g && (match s.launch? g.arr with
    | some l => b < l.prio
    | none => false) && g.cores.all (fun n => n / 16 == cl))

/-- A gang put in its place in a list, the largest priority number first, then the newest. -/
def State.byWorst (s : State) (g : Gang) : List Gang → List Gang
  | [] => [g]
  | h :: hs =>
    let p (x : Gang) : Nat := ((s.launch? x.arr).map Launch.prio).getD 0
    if p h < p g ∨ (p h = p g ∧ h.arr < g.arr) then g :: h :: hs else h :: s.byWorst g hs

/-- The gangs of a list, last to be taken first, whose places are needed: one without which what is kept, with the rest of the list, still
fits is left out; the kept ones stand in the order in which they are taken. -/
def dropIdle (fits : List Gang → Bool) : List Gang → List Gang → List Gang
  | kept, [] => kept
  | kept, g :: gs => if fits (gs ++ kept) then dropIdle fits kept gs else dropIdle fits (g :: kept) gs

/-- Whether contexts, tiles or windows are what a launch lacks in a cluster: too few of its open cores have a place (R308). -/
def State.lacksPlace (s : State) (l : Launch) (cl : Nat) : Bool :=
  ((clusterCores [] cl).filter (fun n => s.coreOpen l n && (s.seatOn l n).isSome)).length < pkGW l.packet

/-- Whether a launch could be placed in a cluster with some gangs pre-empted. -/
def State.fitsWithout (s : State) (l : Launch) (gs : List Gang) (cl : Nat) : Bool :=
  let t := (gs.flatMap s.party).foldl State.leaveCores s
  let xs := t.seats l [] cl
  xs.length == pkGW l.packet && (t.seat l xs).isSome

/-- The gang to pre-empt for the top entry, in the nearest cluster or the first one where that helps: of the victims whose places the entry
needs, the first in R308's order. -/
def State.victimFor (s : State) (l : Launch) (near : Nat) : Option Gang :=
  let ok (cl : Nat) : Bool := s.lacksPlace l cl && s.fitsWithout l (s.victims l.prio cl) cl
  match (near :: List.range 24).find? ok with
  | some cl => (dropIdle (fun gs => s.fitsWithout l gs cl) [] ((s.victims l.prio cl).foldr s.byWorst []).reverse).head?
  | none => none

/-- The cluster whose cores are held for the top entry (R291): the one that lacked the fewest when the entry became the top. -/
def State.holdFor (s : State) (l : Launch) : Nat :=
  if s.resvFor = l.arr ∧ ¬ s.resv.isEmpty then s.resv.headD 0 / 16 else (s.nearest l).1

/-- The gang whose pre-emption lets the top entry be placed, where it finds no room (R308). -/
def State.victim (s : State) : Option Gang :=
  match s.ordered with
  | [] => none
  | l :: _ => match s.placeGo l [] (List.range 24) with
    | some _ => none
    | none => s.victimFor l (s.holdFor l)

/-- DISPATCH (R290, R291): a gang for the heap's top entry; where it finds no room, cores are held for it until it is placed or another
entry is the top, a gang of a larger priority number makes way if that helps, and gangs of at most three further entries are placed on
other cores. No gang is placed while every tree engine is fenced (R25). -/
def State.dispatch (s : State) : State :=
  if !s.anyTree then s
  else match s.ordered with
    | [] => { s with reserved := [], resvFor := 0 }
    | l :: rest =>
      match s.placeGo l [] (List.range 24) with
      | some t => { t with reserved := [], resvFor := 0 }
      | none =>
        let held := (List.range 16).map (fun i => 16 * s.holdFor l + i)
        let t : State := { s with reserved := held, resvFor := l.arr }
        let u := match t.victimFor l (t.holdFor l) with
          | some g => (t.preemptGang g false).getD t
          | none => t
        u.placeRest held (rest.take 3)

def execDispatch (s : State) : Res := .next s.dispatch.unblock

/-- Whether a task of equal or higher priority waits for a context on a core of the context's gang (R145): an entry of the heap that may be
placed there, or a task that was pre-empted and may resume there. -/
def State.yieldsTo (s : State) (c : Ctx) : Bool :=
  let cores := (s.members c.gang).map Ctx.core
  s.heap.any (fun l => l.prio ≤ c.prio && cores.any (s.coreOpen l))
    || s.gangs.any (fun g => g.saved && (match s.launch? g.arr with
      | some l => l.prio ≤ c.prio && (if g.drained then cores.any (s.coreOpen l) else cores.any (fun n => g.cores.contains n))
      | none => false))

/-- Whether a core is to be drained (R358, R359, R395). -/
def State.draining (s : State) (n : Nat) : Bool :=
  (s.reg (atOff n)).getLsbD 2 || (zState (s.zone (zoneOfCore n)) == 1 && zStep (s.zone (zoneOfCore n)) == 2) || s.coreFenced n

/-- Whether a task is to be drained: a member core is, and the task is on its cores or was pre-empted without a drain. -/
def State.mayDrain (s : State) (g : Gang) : Bool :=
  g.cores.any s.draining && (s.canStop g || (g.saved && !g.drained))

/-- Whether one of R308's three cases lets a task be pre-empted: a placement needs its place, its yield is taken, or a member core is to be
drained. -/
def State.mayPreempt (s : State) (g : Gang) (drain : Bool) : Bool :=
  if drain then s.mayDrain g
  else s.canStop g && ((s.victim.map Gang.id) == some g.id
    || (s.party g).any (fun x => (s.members x.id).any (fun c => c.stat == .run && c.yielded && s.yieldsTo c)))

/-- PREEMPT (R308): a task already pre-empted is drained where it stands in storage. -/
def execPreempt (g : Nat) (drain : Bool) (s : State) : Res :=
  .next (match s.gang? g with
    | some x =>
      if !s.mayPreempt x drain then s
      else if x.saved then (((s.storeParty x).map (fun t => t.setDrained x)).getD s).unblock
      else ((s.preemptGang x drain).getD s).unblock
    | none => s)

/-! The next task of a gang (R294), and its end. -/

/-- What a context's windows and tiles leave in storage goes. -/
def State.dropStore (s : State) (c : Ctx) : State :=
  c.keptW.foldl (fun t b =>
    let k := storeKey c.gang c.rank 0
    let n := winSize (c.win b)
    { t.setBuf b (memClear (t.bufMem b) k n) with pbuf := t.pbuf.filter (fun y => !(unitKey b k ≤ y.1 && y.1 < unitKey b k + n / 8)) }) s

/-- A gang gives up its contexts, tiles and areas; P's areas are those of a fused task. -/
def State.dissolve (s : State) (g : Gang) : State :=
  let cs := s.everyone g.id
  let t := cs.foldl (fun u c => (u.clearTiles c.core c.stays).dropStore c) s
  let u := { t.parkOut (fun c => c.gang == g.id) with
    saved := t.saved.filter (fun c => c.gang != g.id), gangs := t.gangs.filter (fun x => x.id != g.id)
    loads := t.loads.filter (fun x => x.gang != g.id) }
  match u.launch? g.arr with
  | some l => u.freeOwn l (s.gangMem g)
  | none => u

/-- Whether a context's allocation is still its own: a privileged task may have given tiles or window space away. -/
def State.allocFree (s : State) (c : Ctx) : Bool :=
  (s.liveOn c.core).all (fun d => d.gang == c.gang || (!d.owned.any (fun t => c.alloc.1.contains t)
    && !overlaps (winPair c.alloc.2.1) (winPair d.wwin) && !overlaps (winPair c.alloc.2.2.1) (winPair d.awin)
    && !overlaps (winPair c.alloc.2.2.2) (winPair d.swin)))

/-- Whether the gangs of a task whose ranks have all ended may take their launches' next task. -/
def State.popsOn (s : State) (g : Gang) : Bool :=
  match s.launch? g.arr with
  | none => false
  | some l => !(l.unplaced == 0 || l.stopped || g.saved || g.cores.any (fun n => s.draining n || l.banned.contains n) || !(s.members g.id).all s.allocFree)

/-- A gang takes its launch's next task on the places that it has. -/
def State.popGang (s : State) (g : Gang) : State :=
  match s.launch? g.arr with
  | none => s
  | some l =>
    let re (c : Ctx) : Ctx := { newCtx l g.id l.nextTask c.rank c.core c.cid c.alloc c.area with fz := l.fz0, prio := s.ctxPrio l }
    let t := (s.members g.id).foldl (fun u c => u.clearTiles c.core (c.owned ++ c.alloc.1)) s
    let u := (t.mapGang g.id re).setGang { g with task := l.nextTask, dec := [], shown := [], void := none }
    { u with trees := u.trees ++ newTrees l l.nextTask }.setLaunch l.takeTask

/-- GANG_POP_TASK (R294): a gang whose task has ended takes its launch's next one, or leaves its cores; the gangs of a fused task do so
together (R335). -/
def State.popTask (s : State) (g : Gang) : State :=
  let ps := s.party g
  if ps.all s.popsOn then (ps.foldl State.popGang s).fixRegions else ps.foldl State.dissolve s

def execGangPop (g : Nat) (s : State) : Res :=
  .next (match s.gang? g with
    | some x =>
      if (s.party x).all (fun y => (s.everyone y.id).all (fun c => c.stat == .ended)) then (s.popTask x).unblock else s
    | none => s)

/-! Resumption (R308, R374). -/

/-- A place for a saved context on a core, under a context number: tiles for those of ZOWN in turn, the ones in place where they are, and its
windows. -/
def State.backOn (s : State) (c : Ctx) (n cid : Nat) : Option Seat := do
  let here := if n = c.core then c.stays else []
  let own := (s.liveOn n).flatMap Ctx.owned
  let kept := ((s.left n).filter (fun d => d.gang != c.gang)).flatMap Ctx.stays
  let free := (List.range 16).filter (fun t => !own.contains t && !here.contains t)
  let ts := free.filter (fun t => !kept.contains t) ++ free.filter (fun t => kept.contains t)
  let away := c.owned.filter (fun t => !here.contains t)
  let fill (b : Nat) : Option Nat :=
    let w := winPair (c.win b)
    let used := (s.liveOn n).map (fun d => winPair (d.win b))
    let mine := (s.left n).filter (fun d => d.gang != c.gang && d.winHere b)
    if n = c.core ∧ c.winHere b then some w.1
    else if used.all (fun u => !overlaps w u) then some w.1
    else (fitBase (bufKiB b) w.2 (used ++ mine.map (fun d => winPair (d.win b)))).or (fitBase (bufKiB b) w.2 used)
  let wb ← fill 0
  let ab ← fill 1
  let sb ← fill 3
  if away.length ≤ ts.length then
    let new (t : Nat) : Nat := if here.contains t then t else ts.getD ((away.takeWhile (fun x => x != t)).length) 0
    pure ⟨n, cid, c.owned.map new, wb, ab, sb⟩
  else none

/-- A physical tile or row under a renaming of tiles. -/
def renTile (old new : List Nat) (t : Nat) : Nat :=
  match (old.zip new).find? (fun x => x.1 == t) with
  | some x => x.2
  | none => t
def renRow (old new : List Nat) (r : Nat) : Nat := 128 * renTile old new (r / 128) + r % 128

/-- A context in its new place: names of tiles and rows are rewritten. -/
def Ctx.moved (c : Ctx) (x : Seat) : Ctx :=
  let r := renRow c.owned x.tiles
  { c with
    core := x.core, cid := x.cid, blocked := none, keptZ := [], keptW := []
    tmap := BitVec.ofNat 64 (((List.range 16).map (fun i => renTile c.owned x.tiles (tileOf c i) * 16 ^ i)).foldl Nat.add 0)
    zown := (c.zown &&& ~~~(0xFFFF : Word)) ||| BitVec.ofNat 64 (bitsOf 16 (fun i => x.tiles.contains i))
    vwb := r c.vwb
    wwin := winReg x.wb (winPair c.wwin).2, awin := winReg x.ab (winPair c.awin).2, swin := winReg x.sb (winPair c.swin).2
    dq := c.dq.map (fun p => if p.dest.kind = 3 then { p with dest := ⟨3, r p.dest.num⟩ } else p)
    regions := c.regions.map (fun g => { g with rows := g.rows.map r })
    alloc := (c.alloc.1.map (renTile c.owned x.tiles), winReg x.wb (winPair c.alloc.2.1).2, winReg x.ab (winPair c.alloc.2.2.1).2,
      winReg x.sb (winPair c.alloc.2.2.2).2) }

/-- The bytes and marks of stored windows come back. -/
def State.fillWins (s : State) (c : Ctx) (x : Seat) : State :=
  (c.keptW.foldl (fun t b =>
    t.moveBuf b (storeKey c.gang c.rank 0) (bufKey x.core (1024 * (if b = 0 then x.wb else if b = 1 then x.ab else x.sb))) (winSize (c.win b))) s).dropStore c

/-- The rows of stored tiles come back. -/
def State.fillTiles (s : State) (c : Ctx) (x : Seat) : State :=
  c.keptZ.foldl (fun t k =>
    let n := renTile c.owned x.tiles k.1
    (List.range 128).foldl (fun u i => u.setRow x.core (128 * n + i) (k.2.getD i {})) t) s

/-- Row numbers in the save image of a rank that stands stopped for its agent follow its tiles: VWB, and the destinations of its results
(R307, R308), for an origin of a fused task in the image that holds both (R346). -/
def State.imageRows (s : State) (c : Ctx) (r : Nat → Nat) : State :=
  let x := s.imagePos c
  let fix (t : State) (o : Nat) (f : Nat → Nat) : State := match t.areaAddr x.home (40960 + o) with
    | none => t
    | some pa => t.devWrite x.home.arr pa (leBytes 2 (f (leNat ((List.range 2).map (fun i => t.devByte x.home.arr (pa + i))))))
  (List.range c.imgQ.length).foldl (fun t i => fix t (0x800 + 16 * (x.skip + i)) (fun v => if v / 4096 = 3 then 3 * 4096 + r (v % 4096) else v))
    (fix (s.dumpVa x.home.ptroot (x.home.area + 40960).toNat 4096) (if x.second then 0x2BA else 0x1B2) (fun v => v / 2048 * 2048 + r (v % 2048)))

/-- One rank comes back; none where what stands there cannot make way. -/
def State.comeBack (s : State) (c : Ctx) (x : Seat) : Option State :=
  let ws := [(0, x.wb, (winPair c.wwin).2), (1, x.ab, (winPair c.awin).2), (3, x.sb, (winPair c.swin).2)]
  let s0 : State := { s with saved := s.saved.filter (fun d => !(d.gang == c.gang && d.rank == c.rank)) }
  (s0.makeWay x.core x.tiles ws).map (fun t =>
    let t0 := if c.stat = .debug then t.imageRows c (renRow c.owned x.tiles) else t
    let s1 := (t0.fillTiles c x).fillWins c x
    let d := c.moved x
    let mine (l : PLoad) : Bool := l.gang == c.gang && l.core == c.core
    let s2 : State := { s1 with
      loads := s1.loads.map (fun l =>
        let e : Dest := if l.dest.kind = 3 then ⟨3, renRow c.owned x.tiles l.dest.num⟩ else l.dest
        if mine l then { l with core := x.core, cid := x.cid, dest := e } else l)
      engs := s1.engs.map (fun e => if e.gang = c.gang ∧ e.rank = c.rank then { e with core := x.core, cid := x.cid } else e) }
    let s3 : State := if s2.ctx.live then { s2 with parked := s2.parked ++ [d] } else { s2 with ctx := d }
    match s3.launch? c.arr with
    | some l => s3.freeOwn l c.stored
    | none => s3)

/-- The ranks of a saved task come back on given cores, those of a second origin beside those of the first: none where one finds no
place. -/
def State.bringBack (s : State) : List (Ctx × Nat) → Option State
  | [] => some s
  | (c, n) :: r =>
    let cid := match s.gang? c.gang with
      | some g => if g.mate = 0 ∨ g.id < g.mate then s.cidOn n
        else ((s.liveOn n).find? (fun (x : Ctx) => x.gang == g.mate && x.rank == c.rank)).map (fun (x : Ctx) => x.cid + 4)
      | none => none
    (cid.bind (fun k => s.backOn c n k)).bind (fun x => (s.comeBack c x).bind (fun t => t.bringBack r))

/-- The ranks of a saved task, each with its core. -/
def State.backOf (s : State) (g : Gang) (cores : List Nat) : List (Ctx × Nat) := (s.party g).flatMap (fun x => (s.everyone x.id).zip cores)

/-- The cores on which a saved task may resume: its own, or those of any cluster after a drain. -/
def State.backCores (s : State) (l : Launch) (g : Gang) (held : List Nat) : Option (List Nat) :=
  let cs := s.everyone g.id
  let fits (i n : Nat) : Option Nat :=
    let both := (s.party g).filterMap (fun x => (s.everyone x.id)[i]?)
    (s.bringBack (both.map (fun c => (c, n)))).map (fun _ => n)
  if g.drained then
    ((List.range 24).map (fun cl => s.pick l cs.length fits (clusterCores held cl))).find? (fun xs => xs.length == cs.length)
  else
    let own := cs.map Ctx.core
    if s.pick l cs.length fits (own.filter (fun n => !held.contains n)) = own then some own else none

/-- The task's locks are taken again, in the order in which they were made, as far as lines are left. -/
def State.lockAgain (s : State) (cl : Nat) : List ILock → State
  | [] => s
  | k :: ks =>
    let e : ILock := { k with cluster := cl }
    let ls := s.lockedLines cl
    (if ls.contains (k.root, k.va) ∨ ls.length < 1024 then { s with locks := s.locks ++ [e] } else s).lockAgain cl ks

/-- A gang of a resumed task runs again. -/
def State.backGang (s : State) (cores : List Nat) (g : Gang) : State :=
  match s.gang? g.id with
  | some h => (s.lockAgain (cores.headD 0 / 16) h.relock).setGang { h with saved := false, drained := false, cores := cores, relock := [] }
  | none => s

/-- GANG_RESUME (R308): a saved task takes its cores again when they have room and are not reserved for the heap's top entry (R291). -/
def State.resumeGang (s : State) (g0 : Gang) : Option State :=
  let ps := s.party g0
  let g := ps.headD g0
  if !g.saved || !ps.any (fun x => (s.everyone x.id).any (fun c => c.stat != .ended)) then none
  else match s.launch? g.arr with
    | none => none
    | some l =>
      match s.backCores l g s.resv with
      | none => none
      | some cores => (s.bringBack (s.backOf g cores)).map (fun t => (ps.foldl (fun u x => u.backGang cores x) t).fixRegions)

def execGangResume (g : Nat) (s : State) : Res :=
  .next (match s.gang? g with
    | some x => ((s.resumeGang x).getD s).unblock
    | none => s)

end Sys2Proof.Machine
end

