-- ==== Sys2Proof/Machine/Manage.lean ====
section
/-! DEFINITION. Management operations: bisect (R327), signatures (R331), capture (R328) and the referee (R329); and the management
packet that carries them (R326). -/

namespace Sys2Proof.Machine

/-- Whether an argument of a management packet lies on a path that R400 allows. -/
def argPath (a : Word) : Bool := selOf a == 0 || selOf a == 2 || selOf a == 3

/-! BISECT (R327). -/

/-- A log entry as bisect reads it. -/
structure LogEnt where
  at_ : Word
  kind : Nat
  level : Nat
  rank : Nat
  task : Nat
  first : Nat
  count : Nat
  hash : List Byte
  deriving DecidableEq, Repr

/-- The size of an entry of a kind (Table 23.4). -/
def entSize (k : Nat) : Nat := if k = 1 then 128 else if k = 3 then 192 else if k = 9 then 36224 else 64

/-- Where a log goes on after an entry: past it, or at the start of the ring when the entry, or a pad, ends the ring of a chain
whose pool holds the address. -/
def State.logNext (s : State) (root : Word) (a : Word) (n : Nat) (pad : Bool) : Option Word :=
  match s.useAddr root a false with
  | some (.dev pa, _) =>
    match (List.range 64).find? (fun c =>
      let b := (s.reg (chainOff c + 8)).toNat
      b ≤ pa && pa < b + (s.reg (chainOff c + 0x10)).toNat) with
    | some c =>
      let b := (s.reg (chainOff c + 8)).toNat
      let top := b + (s.reg (chainOff c + 0x10)).toNat
      if pad ∨ top ≤ pa + n then some (a - BitVec.ofNat 64 (pa - b)) else some (a + BitVec.ofNat 64 n)
    | none => if pad then none else some (a + BitVec.ofNat 64 n)
  | some _ => if pad then none else some (a + BitVec.ofNat 64 n)
  | none => none

/-- As many entries as an address space has places for: a bound on those that bisect reads. -/
def logFuel : Nat := 2 ^ 42

/-- The entries of launch `arr` from an address up to its launch root entry, `fuel` entries at most. -/
def State.logRead (s : State) (root : Word) (arr : Nat) : Nat → Word → List LogEnt
  | 0, _ => []
  | fuel + 1, a =>
    match s.useRead root 2 a 64 with
    | none => []
    | some (_, h) =>
      let k := numAt h 0 1
      let e : LogEnt := ⟨a, k, numAt h 1 1, numAt h 2 2, numAt h 4 4, numAt h 0x10 8, numAt h 0x18 8, (h.drop 0x20).take 32⟩
      let mine := k != 0 && k != 9 && numAt h 8 8 == arr
      if mine && k == 8 then [e]
      else
        let rest := match s.logNext root a (entSize k) (k == 0) with
          | some b => s.logRead root arr fuel b
          | none => []
        if mine then e :: rest else rest

/-- What bisect finds: verdict, level, task, rank, first leaf, count and the addresses of two leaf entries. -/
structure Verdict where
  v : Nat
  level : Nat := 0
  task : Nat := 0
  rank : Nat := 0
  first : Nat := 0
  count : Nat := 0
  x : Word := 0
  y : Word := 0

/-- The 64 bytes of RES. -/
def Verdict.bytes (d : Verdict) : List Byte :=
  padTo 64 (leBytes 1 d.v ++ leBytes 1 d.level ++ leBytes 2 0 ++ leBytes 4 d.task ++ leBytes 8 d.rank ++ leBytes 8 d.first ++ leBytes 8 d.count
    ++ leBytes 8 d.x.toNat ++ leBytes 8 d.y.toNat)

/-- The last entry that matches: a node logged again after an unwind takes the place of the earlier one. -/
def lastEnt (p : LogEnt → Bool) (es : List LogEnt) : Option LogEnt := (es.filter p).getLast?

/-- The granularity that coarsen entries of a rank put in force at a leaf (Table 23.4): they hold from FIRST on. -/
def coarseAt (es : List LogEnt) (task rank i : Nat) : Nat :=
  ((es.filter (fun e => e.kind == 5 && e.task == task && e.rank == rank && e.first ≤ i)).map LogEnt.level).foldl Nat.max 0

/-- The entries that are compared of a rank: a range that a coarsen entry covers is compared at the coarser level. -/
def compared (es : List LogEnt) (task rank : Nat) : List LogEnt :=
  es.filter (fun e => !(e.kind == 2 || e.kind == 3) || coarseAt es task rank (e.first + 2 ^ e.level - 1) ≤ e.level)

/-- The entry of the node over an aligned block: level 0 is a leaf entry. -/
def nodeEnt (es : List LogEnt) (task rank lvl first : Nat) : Option LogEnt :=
  lastEnt (fun e => e.task == task && e.rank == rank && e.level == lvl && e.first == first && e.kind == (if lvl = 0 then 3 else 2)) es

/-- How a block compares on both sides. -/
inductive Cmp where
  | same | differ (x y : Word) | unlogged
  deriving DecidableEq, Repr
def cmpNode (xs ys : List LogEnt) (task rank lvl first : Nat) : Cmp :=
  match nodeEnt xs task rank lvl first, nodeEnt ys task rank lvl first with
  | some a, some b => if a.hash = b.hash then .same else .differ a.at_ b.at_
  | _, _ => .unlogged

/-- Descends from a node whose hashes differ. -/
def descend (xs ys : List LogEnt) (task rank : Nat) : Nat → Nat → Word → Word → Verdict
  | 0, first, a, b => ⟨1, 0, task, rank, first, 1, a, b⟩
  | l + 1, first, _, _ =>
    match cmpNode xs ys task rank l first, cmpNode xs ys task rank l (first + 2 ^ l) with
    | .differ a b, _ => descend xs ys task rank l first a b
    | .same, .differ a b => descend xs ys task rank l (first + 2 ^ l) a b
    | _, _ => ⟨2, l + 1, task, rank, first, 2 ^ (l + 1), 0, 0⟩

/-- Blocks in the order of their first leaves, the larger of two that begin together first. -/
def insertBlock (x : Nat × Nat) : List (Nat × Nat) → List (Nat × Nat)
  | [] => [x]
  | y :: ys => if y.2 < x.2 ∨ (y.2 = x.2 ∧ x.1 < y.1) then y :: insertBlock x ys else x :: y :: ys

/-- The aligned blocks, as level and first leaf, that both sides log of a rank's first `common` leaves. -/
def bothLog (xs ys : List LogEnt) (task rank common : Nat) : List (Nat × Nat) :=
  (((xs.filter (fun e => e.task == task && e.rank == rank && (e.kind == 2 || e.kind == 3) && e.first + 2 ^ e.level ≤ common)).map
    (fun e => (e.level, e.first))).eraseDups.filter (fun b => (nodeEnt ys task rank b.1 b.2).isSome)).foldl (fun acc b => insertBlock b acc) []

/-- The largest of those blocks, and the leaves that none of them covers, from leaf `pos` on: a block that lies within an earlier one is
passed over. -/
def largest (common : Nat) : Nat → List (Nat × Nat) → List (Nat × Nat) × List (Nat × Nat)
  | pos, [] => ([], if pos < common then [(pos, common - pos)] else [])
  | pos, b :: bs =>
    if b.2 < pos then largest common pos bs
    else
      let r := largest common (b.2 + 2 ^ b.1) bs
      (b :: r.1, if pos < b.2 then (pos, b.2 - pos) :: r.2 else r.2)

/-- Compares the common leaves of a rank from the largest nodes that both sides log (R327): the first that differs; else the first leaves
that no such node covers; else the counts. -/
def cmpRank (xs ys : List LogEnt) (task rank common cx cy : Nat) : Verdict :=
  let r := largest common 0 (bothLog xs ys task rank common)
  match r.1.findSome? (fun b => match cmpNode xs ys task rank b.1 b.2 with
    | .differ x y => some (descend xs ys task rank b.1 b.2 x y)
    | _ => none), r.2 with
  | some v, _ => v
  | none, (first, n) :: _ => ⟨2, n.log2, task, rank, first, n, 0, 0⟩
  | none, [] => if cx = cy then ⟨3, 0, task, rank, 0, 0, 0, 0⟩ else ⟨5, 0, task, rank, common, 0, 0, 0⟩

/-- The lowest task, then the lowest rank, whose root entries differ. -/
def firstDiff (kind : Nat) (key : LogEnt → Nat) (bad : LogEnt → LogEnt → Bool) (xs ys : List LogEnt) : Option (Nat × Option (LogEnt × LogEnt)) :=
  let ks := (((xs ++ ys).filter (fun e => e.kind == kind)).map key).eraseDups
  let f (k : Nat) : Option (Option (LogEnt × LogEnt)) :=
    match lastEnt (fun e => e.kind == kind && key e == k) xs, lastEnt (fun e => e.kind == kind && key e == k) ys with
    | some a, some b => if bad a b then some (some (a, b)) else none
    | _, _ => some none
  let cs := ks.filter (fun k => (f k).isSome)
  match cs with
  | [] => none
  | c :: _ =>
    let k := cs.foldl Nat.min c
    some (k, (f k).getD none)

/-- The verdict over two logs from their header entries on. -/
def State.bisect (s : State) (root x y : Word) : Option Verdict :=
  match s.useRead root 3 x 128, s.useRead root 3 y 128 with
  | some (_, hx), some (_, hy) =>
    if numAt hx 0 1 ≠ 1 ∨ numAt hy 0 1 ≠ 1 then some { v := 3 }
    else if (hx.drop 0x20).take 64 ≠ (hy.drop 0x20).take 64 then some { v := 4 }
    else
      let xs := s.logRead root (numAt hx 8 8) logFuel x
      let ys := s.logRead root (numAt hy 8 8) logFuel y
      some (match firstDiff 7 LogEnt.task (fun a b => a.hash != b.hash) xs ys with
        | none => { v := 0 }
        | some (t, none) => { v := 3, task := t }
        | some (t, some _) =>
          let fx := xs.filter (fun e => e.task == t)
          let fy := ys.filter (fun e => e.task == t)
          match firstDiff 6 LogEnt.rank (fun a b => a.hash != b.hash || a.count != b.count) fx fy with
          | none => { v := 3, task := t }
          | some (r, none) => { v := 3, task := t, rank := r }
          | some (r, some (a, b)) =>
            cmpRank (compared fx t r) (compared fy t r) t r (min a.count b.count) a.count b.count)
  | _, _ => none

/-- BISECT in a space: RES on path 0x00 receives the verdict; none where an argument is unusable. -/
def State.opBisect (s : State) (root x y res : Word) : Option State :=
  if !argPath x || !argPath y || selOf res != 0 then none
  else (s.bisect root x y).bind (fun v => s.useWrite root 3 res v.bytes)

/-! SIGN (R331). -/

/-- SIGN writes the signature block of a chain to RES. -/
def State.opSign (s : State) (root : Word) (n : Nat) (res : Word) : Option State :=
  if 64 ≤ n || !argPath res then none else s.useWrite root (pieces 36160) res (s.sigBlock n)

/-! REFEREE (R329). -/

/-- What a referee re-executes a leaf on: one context with every tile its own, whose operands stand where the captured regions are
laid out. The clip counts are the record's, and the strides those of the layout. -/
def refState (rec128 nonce : List Byte) (task as bs : Nat) : State :=
  let clip := numAt rec128 0x20 8
  let k : KReg := ⟨BitVec.ofNat 64 (clip % 2 ^ 32 + as * 2 ^ 32 + bs * 2 ^ 48), true⟩
  let c : Ctx :=
    { live := true, arr := 1, task := task, rank := 0, mode := BitVec.ofNat 64 (numAt rec128 0x18 4),
      k := (List.range 8).map (fun i => (i, k)), leafn := numAt rec128 0 8, tmap := tmapOf (List.range 16) 16, zown := zownOf (List.range 16) 16,
      wwin := winReg 0 1024, awin := winReg 0 768, gang := 1 }
  let l : Launch :=
    { arr := 1, packet := List.replicate 64 0 ++ nonce, queue := 0, prio := 0, root := 0, ptroot := 0, priv := false, cpol := 0,
      fdfl := 0, eroute := 0, cabase := 0, casize := 0, own := [], cool := 0, runq := [], chain := 0, code := {}, placed := 0, ended := 0, status := 0, faults := 0, start := none,
      fin := 0, used := 0, cflags := 0, attempt := 0, inHeap := false, tasks := [], held := [], stopped := false, replay := false, banned := [],
      fuse := none, capture := none }
  { State.reset with ctx := { c with rank := numAt rec128 0x1C 1, nrank := 1 }, launches := [l], iss := { ord := Config.refereeOrd rec128 } }

/-- Operand registers s2 and s3 hold W and A addresses. -/
def State.refRegs (s : State) (a b : Word) : State :=
  { s with ctx := (s.ctx.setS 2 { val := a, valid := true }).setS 3 { val := b, valid := true } }

/-- Rows of a tile from its serialisation in containers of w-bit lanes. -/
def State.refTile (s : State) (w t : Nat) (ser : List Byte) : State :=
  let n := contOf w * (4608 / w)
  (List.range 128).foldl (fun u i =>
    u.setRow 0 (128 * t + i) { bits := packRow w (elems (contOf w) (4608 / w) ((ser.drop (n * i)).take n)), valid := true }) s

/-- A vector row from its serialisation. -/
def State.refRow (s : State) (r : Nat) (ser : List Byte) : State :=
  s.setRow 0 r { bits := packRow 36 (elems 5 128 ser), valid := true }

/-- A tile that a leaf's own do not use, for its vector row. -/
def spareTile (used : List Nat) : Nat := ((List.range 16).find? (fun t => !used.contains t)).getD 15

/-- The result digest of the X-class operation that a state has just issued. -/
def lastDR (r : Res) : Option (List Byte) :=
  match r with
  | .next t => (t.xq.getLast?).map (fun x => (x.leaf.drop 0x60).take 16)
  | _ => none

/-- The product of a pair from its captured regions. -/
def refMma (rec128 nonce : List Byte) (task : Nat) (p : MPair) (acc : Bool) (t : BitVec 4) (k : BitVec 2) (da db dc : List Byte) : Option (List Byte) :=
  let e := p.esz
  let s := refState rec128 nonce task (128 * e) (128 * e)
  let u := (({ s with wbuf := cells 0 da, abuf := cells 0 db } : State).refRegs 0x1000000000000000 0x1100000000000000).refTile 36 t.toNat dc
  lastDR (xMma p acc t 2 3 k none u)

/-- The result digest that a recorded instruction gives on the captured operands; none where it is not reproduced at all. -/
def refRun (rec128 nonce : List Byte) (task : Nat) (i : Instr) (da db dc : List Byte) : Option (List Byte) :=
  let st (as : Nat) : State := refState rec128 nonce task as 0
  let wOf (s : State) : State := s.refRegs 0x1000000000000000 0
  match i with
  | .mmaI8 t _ _ k _ => refMma rec128 nonce task .i8 true t k da db dc
  | .mmaI8p t _ _ k _ => refMma rec128 nonce task .i8p true t k da db dc
  | .mmaBf16 t _ _ k _ => refMma rec128 nonce task .bf16 true t k da db dc
  | .mmaF16 t _ _ k _ => refMma rec128 nonce task .f16 true t k da db dc
  | .mmaBf16p t _ _ k _ => refMma rec128 nonce task .bf16p true t k da db dc
  | .mmazI8 t _ _ k _ => refMma rec128 nonce task .i8 false t k da db dc
  | .mmazI8p t _ _ k _ => refMma rec128 nonce task .i8p false t k da db dc
  | .mmazBf16 t _ _ k _ => refMma rec128 nonce task .bf16 false t k da db dc
  | .mmazF16 t _ _ k _ => refMma rec128 nonce task .f16 false t k da db dc
  | .mmazBf16p t _ _ k _ => refMma rec128 nonce task .bf16p false t k da db dc
  | .mma64 t _ _ k _ =>
    let s := refState rec128 nonce task 128 128
    lastDR (execMma64 t 2 3 k none
      ((({ s with wbuf := cells 0 da, abuf := cells 0 db } : State).refRegs 0x1000000000000000 0x1100000000000000).refTile 36 t.toNat dc))
  | .sacc t ts f _ k =>
    let w : Word := BitVec.ofNat 64 (0x10 * 2 ^ 56 + numAt rec128 0x28 8 / 2 ^ 40 % 2 ^ 12 * 2 ^ 40)
    lastDR (execSacc t ts f 2 k ((({ st 0 with wbuf := cells 0 db } : State).refRegs w 0 |>.refTile 36 t.toNat dc).refTile 36 ts.toNat da))
  | .tclr t k => lastDR (execTclr t k (st 0))
  | .tcopy t ts k => lastDR (execTcopy t ts k ((st 0).refTile 36 ts.toNat da))
  | .tld t f _ k => lastDR (execTld t f 2 k (wOf { st (128 * tldSize f.toNat) with wbuf := cells 0 da }))
  | .tcvt t f _ g k => lastDR (execTcvt t f 2 g k (wOf ((st 256).refTile 36 t.toNat da)))
  | .tred t o _ k =>
    let v := 128 * spareTile [t.toNat]
    let s := ((st 0).refTile 36 t.toNat da).refRow v dc
    lastDR (execTred t o 0 k { s with ctx := { s.ctx with vwb := v } })
  | .tdig t w _ k =>
    let v := 128 * spareTile [t.toNat]
    let s := (st 0).refTile (viewW w) t.toNat da
    lastDR (execTdig t w 0 k { s with ctx := { s.ctx with vwb := v } })
  | .sscan t _ k =>
    let v := 128 * spareTile ((List.range 4).map (fun j => t.toNat + j))
    let s := ((((st 0).refTile 36 t.toNat da).refTile 36 (t.toNat + 1) db).refTile 36 (t.toNat + 2) (db.drop 81920)).refTile 36 (t.toNat + 3) dc
    let u := s.refRow v (db.drop 163840)
    lastDR (execSscan t 0 k { u with ctx := { u.ctx with vwb := v } })
  | .copy .. =>
    let q := taskKey nonce task
    some (digest q.1 q.2 da)
  | .xplane .. =>
    let n := da.length / 128
    let w := if n = 640 then 36 else if n = 384 then 18 else 9
    let rows := (List.range 128).map (fun j => (elems (contOf w) 128 ((da.drop (n * j)).take n)).map (BitVec.ofNat 36))
    let q := taskKey nonce task
    some (digest q.1 q.2 ((XDrain.mk w rows 0 0).tile (numAt rec128 0x28 1 % 2 == 1)).1)
  | _ => none

/-- The instruction of a record: the words without what names a cluster-remote operand, whose bytes the capture holds. -/
def recInstr (rec128 : List Byte) : Option Instr :=
  match decodeSlot (numAt rec128 8 4) ((if numAt rec128 0xC 4 = 0 then [] else [numAt rec128 0xC 4]) ++ (if numAt rec128 0x10 4 = 0 then [] else [numAt rec128 0x10 4])) with
  | .ok i => some i
  | .error _ => none

/-- Whether a record is a collective's. -/
def isColl (i : Option Instr) : Bool :=
  match i with
  | some (.coll ..) => true
  | _ => false

/-- The referee's verdict and the DR it computed, from the record that the captured operands match, X's before Y's. A record with FAIL is
compared on its operand digests only, and so is a collective's beside one, which is not re-executed. -/
def judge (x y nonce : List Byte) (task : Nat) (da db dc : List Byte) : Nat × List Byte :=
  let q := taskKey nonce task
  let digs := digest q.1 q.2 da ++ digest q.1 q.2 db ++ digest q.1 q.2 dc
  let fits (r : List Byte) : Bool := (r.drop 0x30).take 48 == digs
  let dr (r : List Byte) : List Byte := (r.drop 0x60).take 16
  let failed (r : List Byte) : Bool := (r.getD 0x1D 0).getLsbD 0
  let run (r : List Byte) : Option (List Byte) := (recInstr r).bind (fun i => refRun r nonce task i da db dc)
  let none16 : List Byte := List.replicate 16 0
  let tried (r : List Byte) : Option (List Byte) := if failed r || !fits r || isColl (recInstr r) then none else run r
  let holds (r : List Byte) : Bool := fits r && (failed r || isColl (recInstr r) || tried r == some (dr r))
  if failed x || failed y then (if holds x && holds y then 4 else 3, ((tried x).or (tried y)).getD none16)
  else if !fits x && !fits y then (5, none16)
  else if fits x && !fits y then (6, (run x).getD none16)
  else if !fits x then (7, (run y).getD none16)
  else if isColl (recInstr x) || isColl (recInstr y) then (8, none16)
  else
    let rx := run x
    let ry := run y
    let okX := rx == some (dr x)
    let okY := ry == some (dr y)
    (if okX && okY then 4 else if okX then 1 else if okY then 2 else 3, (rx.or ry).getD none16)

/-- The referee that a packet names, or the lowest unfenced one for 2. -/
def State.refereeOf (s : State) (which : Nat) : Option Nat :=
  let ok (i : Nat) : Bool := !(s.reg 0x50).getLsbD (56 + i)
  if which < 2 then (if ok which then some which else none)
  else if which = 2 then (if ok 0 then some 0 else if ok 1 then some 1 else none) else none

/-- REFEREE in a space; none where an argument or the referee is unusable, or feature 6 is not accepted. -/
def State.opReferee (s : State) (root x y cap res : Word) (which : Nat) : Option State :=
  if !s.feat 6 || !argPath x || !argPath y || !argPath cap || !argPath res then none
  else match s.refereeOf which, s.useRead root 4 x 192, s.useRead root 4 y 192, s.useRead root 5 cap 256 with
    | some n, some (_, ex), some (_, ey), some (_, hd) =>
      let la := numAt hd 0xA8 4
      let lb := numAt hd 0xAC 4
      let lc := numAt hd 0xB0 4
      let up (k : Nat) : Nat := (k + 63) / 64 * 64
      let total := 0x100 + up la + up lb + lc
      match s.useRead root (pieces total) cap total with
      | none => none
      | some (_, bs) =>
        let da := (bs.drop 0x100).take la
        let db := (bs.drop (0x100 + up la)).take lb
        let dc := (bs.drop (0x100 + up la + up lb)).take lc
        let j := judge ((ex.drop 0x40).take 128) ((ey.drop 0x40).take 128) ((hd.drop 0x80).take 32) (numAt hd 0xA0 4) da db dc
        s.useWrite root 3 res (padTo 64 (padTo 16 (leBytes 1 j.1 ++ leBytes 1 n) ++ j.2))
    | _, _, _, _ => none

/-! CAPTURE (R328). -/

/-- CAPTURE enters a launch of one task that runs shadowed, writes no log and is not chained; none where the packet at PKT makes no
launch. -/
def State.opCapture (s : State) (pkt : Word) (k : Capture) : Option State :=
  if !argPath pkt || !argPath k.cap then none
  else match s.useRead k.space 4 pkt 128 with
    | none => none
    | some (s1, p) =>
      match s1.chain (pkRcb p) with
      | none => none
      | some ch =>
        let sp := BitVec.ofNat 64 (effR 8 Rcb.ptroot ch)
        match s1.codeAt sp (pkCode p) with
        | none => none
        | some co =>
          if numAt p 0 1 ≠ 1 || !chainOk (pkGW p) ch || !codeFits p co || pkTasks p ≤ k.task || pkGW p ≤ k.rank then none
          else
            let l := s1.newLaunch ⟨k.queue, k.owner, none, (0, 0)⟩ p ch 0 s1.nextArr co
            let m : Launch := { l with fdfl := Nat.lor l.fdfl 1, cpol := if l.cpol = 2 then 1 else l.cpol, inHeap := true, capture := some k
                                       runq := [{ wholeRun p co with first := k.task, cnt := 0 }] }
            some ({ s1 with launches := s1.launches ++ [m], nextArr := s1.nextArr + 1 } : State).endReserve

/-- The bytes at CAP: the record, the nonce, the task, the lengths and the regions; the record zero where CAPSZ is too small or the
leaf was never reached. -/
def Launch.captured (l : Launch) (k : Capture) : List Byte :=
  match k.regions with
  | none => if 128 ≤ k.size then List.replicate 128 0 else []
  | some (da, db, dc) =>
    let up (b : List Byte) : List Byte := padTo ((b.length + 63) / 64 * 64) b
    let out := padTo 0x100 (padTo 128 k.record ++ l.nonce ++ leBytes 4 k.task ++ leBytes 4 0 ++ leBytes 4 da.length ++ leBytes 4 db.length
      ++ leBytes 4 dc.length) ++ up da ++ up db ++ dc
    if out.length ≤ k.size then out else if 128 ≤ k.size then List.replicate 128 0 else []

/-- The completion of a management packet: OK or PACKET_INVALID, with a zero root and no chain link. -/
def State.tellMgmt (s : State) (p : List Byte) (status owner : Nat) : State :=
  if p.isEmpty then s
  else s.tellEnd (s.spaceOf (pkRcb p)) 0 p (crecBytes status 0 s.tb s.tb 0 0 0) (s.routeOf (pkRcb p) owner) false

/-- A capture run ends: its writes are discarded, CAP is written, and its packet completes with OK (R328). -/
def State.endCapture (s : State) (l : Launch) (k : Capture) : State :=
  let t := s.releaseShadows l
  let bs := l.captured k
  let u := (t.useWrite k.space (pieces bs.length) k.cap bs).getD t
  (u.tellMgmt k.packet 0 k.owner).forget l

/-! Management packets (R326). -/

/-- Performs the operation of a management packet of queue q; none makes it PACKET_INVALID. The second answer is whether the packet
completes now. -/
def State.mgmtOp (s : State) (q owner : Nat) (p : List Byte) : Option (State × Bool) :=
  let w (o : Nat) : Word := BitVec.ofNat 64 (numAt p o 8)
  if numAt p 2 6 ≠ 0 || !tailForm p then none
  else match s.spaceOf (pkRcb p) with
    | none => none
    | some root =>
      match numAt p 1 1 with
      | 1 => (s.opBisect root (w 0x10) (w 0x18) (w 0x20)).map (fun t => (t, true))
      | 2 => (s.opSign root (numAt p 0x10 4) (w 0x18)).map (fun t => (t, true))
      | 3 => (s.opCapture (w 0x10) { task := numAt p 0x18 4, rank := numAt p 0x1C 2, leaf := numAt p 0x20 8, cap := w 0x28, size := numAt p 0x30 8,
                                     packet := p, space := root, queue := q, owner := owner, regions := none, record := [] }).map
          (fun t => (t, false))
      | 4 => (s.opReferee root (w 0x10) (w 0x18) (w 0x20) (w 0x28) (numAt p 0x30 8)).map (fun t => (t, true))
      | _ => none

/-- Whether a management packet waits: a capture run needs a place in the heap (R288). -/
def State.mgmtWaits (s : State) (p : List Byte) : Bool := numAt p 1 1 == 3 && 256 ≤ s.heap.length

/-- Handles a management packet of queue q. -/
def State.handleMgmt (s : State) (q owner : Nat) (p : List Byte) : State :=
  if !s.under owner (pkRcb p) then s.tellMgmt p 4 owner
  else match s.mgmtOp q owner p with
    | none => s.tellMgmt p 4 owner
    | some (t, true) => t.tellMgmt p 0 owner
    | some (t, false) => t

/-- BISECT, SIGN, CAPTURE and REFEREE in the space of an RCB. -/
def execBisect (logx logy res : BitVec 64) (rcb : Nat) (s : State) : Res :=
  .next ((s.spaceOf rcb).bind (fun root => s.opBisect root logx logy res) |>.getD s)
def execSign (n : Nat) (res : BitVec 64) (rcb : Nat) (s : State) : Res :=
  .next ((s.spaceOf rcb).bind (fun root => s.opSign root n res) |>.getD s)
def execCapture (rcb pkt task rank leaf cap capsz : Nat) (s : State) : Res :=
  .next ((if 256 ≤ s.heap.length then none else s.spaceOf rcb).bind (fun root =>
    s.opCapture (BitVec.ofNat 64 pkt) { task := task, rank := rank, leaf := leaf, cap := BitVec.ofNat 64 cap, size := capsz, packet := [],
                                        space := root, queue := 0, owner := rcb, regions := none, record := [] }) |>.getD s)
def execReferee (recx recy cap res : BitVec 64) (which rcb : Nat) (s : State) : Res :=
  .next ((s.spaceOf rcb).bind (fun root => s.opReferee root recx recy cap res which) |>.getD s)

end Sys2Proof.Machine
end

