-- ==== Sys2Proof/Machine/Sched.lean ====
section
/-! DEFINITION. The Milliner's slot (R280 to R285, R295), the end of a launch and its replay (R296, R322, R353), budget periods (R293),
interval signing (R331), the time base (R17), and the choice of the context that issues (R39, R40, R43). -/

namespace Sys2Proof.Machine

/-! The Milliner's slot. -/

/-- Whether a Milliner serves a queue in its slots (R282, R285, R383): the standby serves those of the core that it has taken over. -/
def State.serves (s : State) (m q : Nat) : Bool :=
  let x := s.millis.getD m {}
  let b := s.binding q
  s.sysstate == 3 && q < 4096 && x.loaded && !x.stopped && !s.deadq.contains q && b != 0xFFFFFFFF
    && (if m < 7 then b % 8 == m else m == 7 && x.serving && x.takes == some (b % 8))

/-- What must hold of an enabled descriptor (R280, R400): `none` for its space where it does not. -/
def State.queueSpace (s : State) (d : QDesc) : Option Word :=
  if 2 ≤ d.size && d.size ≤ 65536 && 2 ^ d.size.log2 == d.size && d.base.toNat % 128 == 0 && selOf d.base == 0 && !d.rsv && d.qrcb != 0 then
    (s.spaceOf d.qrcb).bind (fun root => if (s.useAddr root d.base false).isSome then some root else none)
  else none

/-- A descriptor at `a` that fails a check: a record of kind 12 to the management queue, and no service until QDESCq is written again. One in
a poisoned line fails too (DESIGN CHOICE, log 107). -/
def State.deadQueue (s : State) (q a : Nat) : State :=
  { s.sendRec { kind := 12, addr := a } none with deadq := s.deadq ++ [q] }

/-- Handles up to n pending packets from index i on, up to the first blocked one: the state and the index it stopped at. A packet
that cannot be read is one whose BASE faults. -/
def State.takePackets (s : State) (q : Nat) (d : QDesc) (root : Word) : Nat → Nat → State × Nat
  | 0, i => (s, i)
  | n + 1, i =>
    if d.widx ≤ i then (s, i)
    else match s.useRead root 4 (d.slot i) 128 with
      | none => (s.deadQueue q d.addr, i)
      | some (t, p) =>
        if numAt p 0 1 = 2 ∧ d.flags.testBit 1 then
          if t.mgmtWaits p then (t, i) else State.takePackets (t.handleMgmt q d.qrcb p) q d root n (i + 1)
        else
          let r := t.handleLaunch ⟨q, d.qrcb, none, (q, i)⟩ p
          if r.2 then State.takePackets r.1 q d root n (i + 1) else (r.1, i)

/-- The record at the head of an RCB's pool, its overflow area first: whether it stands there, whether poison keeps it from being read, the
pool or area, the 192 bytes and where the record comes from. -/
structure PoolRec where
  spilled : Bool
  lost : Bool
  pool : PoolHead
  entry : List Byte
  src : Source

def State.poolHead (s : State) (q rcb : Nat) : Option PoolRec :=
  let r := s.rcb rcb
  let o := s.overflowAt r
  let spilled : Bool := o.head < o.tail
  let x := if spilled then o else s.poolAt r.pool
  if x.head < x.tail then
    let e := memRead s.mem (x.slot x.head) 192
    some ⟨spilled, s.entryLost x x.head, x, e, ⟨q, numAt e 128 5, some (numAt e 133 6, numAt e 139 4, numAt e 143 1), (poolKey x.at_, x.head)⟩⟩
  else none

/-- The head record leaves its pool. -/
def State.poolPop (s : State) (rcb : Nat) (h : PoolRec) : State :=
  let t := s.devNat (h.pool.at_ + 8) 8 (h.pool.head + 1)
  if h.spilled then t.freeMem rcb 192 else t

/-- Drains up to n records of an RCB's pool, its overflow area first, up to the first blocked one (R295). A record that poison keeps from
being read leaves the pool with a record of kind 12 to the management queue (DESIGN CHOICE, log 107). -/
def State.drainPool (s : State) (q rcb : Nat) : Nat → State
  | 0 => s
  | n + 1 => match s.poolHead q rcb with
    | none => s
    | some h =>
      let r := if h.lost then (s.sendRec { kind := 12, addr := h.pool.slot h.pool.head } none, true) else s.handleLaunch h.src (h.entry.take 128)
      if r.2 then State.drainPool (r.1.poolPop rcb h) q rcb n else r.1

/-- Whether an RCB's pool or overflow area holds a record. -/
def State.poolHolds (s : State) (rcb : Nat) : Bool :=
  let r := s.rcb rcb
  let p := s.poolAt r.pool
  let o := s.overflowAt r
  p.head < p.tail || o.head < o.tail

/-- The pool bound to a slot: of those in the subtree of the queue's owner that hold records, the one drained least recently. -/
def State.drainOne (s : State) (q owner : Nat) : State :=
  match s.pools.find? (fun r => s.under owner r && s.poolHolds r) with
  | none => s
  | some r =>
    let t := s.drainPool q r 4
    { t with pools := t.pools.filter (fun x => x != r) ++ [r] }

/-- One slot bound to queue q (R283). -/
def State.slotOf (s : State) (q : Nat) : State :=
  match s.qdesc q with
  | none => match s.qdescAt q with
    | some a => s.deadQueue q a
    | none => s
  | some d =>
    if d.flags % 2 = 0 then s
    else match s.queueSpace d with
      | none => s.deadQueue q d.addr
      | some root =>
        if (tabGet 0 s.wake q).toNat ≤ d.ridx then s
        else
          let r := s.takePackets q d root 4 d.ridx
          let t := if r.2 = d.ridx then r.1 else r.1.devNat (d.addr + 0x10) 8 r.2
          if t.deadq.contains q then t else t.drainOne q d.qrcb

/-- MILLINER_SLOT (R283). -/
def execMillinerSlot (m q : Nat) (s : State) : Res := .next (if s.serves m q then (s.slotOf q).unblock else s)

/-- POOL_SPILL (R295). -/
def execPoolSpill (rcb : Nat) (s : State) : Res := .next (if s.spills.contains rcb then (s.spillPool rcb).unblock else s)

/-- MILLINER_HEARTBEAT (R285): an active Milliner that runs has written its heartbeat. -/
def execMillinerHeartbeat (m : Nat) (s : State) : Res :=
  let x := s.millis.getD m {}
  .next (if m < 7 ∧ x.loaded ∧ ¬ x.stopped then s.updMilli m (fun y => { y with missed := 0, beat := true }) else s)

/-- A Milliner as a frame ends: the heartbeat of a frame in which it has not come is missed, and a standby whose load is complete serves from
now on. A Milliner loaded within a frame owes that frame none (log 74). -/
def Milli.frame (x : Milli) : Milli :=
  let y : Milli := if x.loaded ∧ ¬ x.stopped then { x with missed := if x.beat then 0 else x.missed + 1, beat := false } else x
  if y.due then { y with due := false, serving := true } else y

/-- A frame of the Milliners is over. -/
def State.frameOver (s : State) : State := { s with millis := s.millis.map Milli.frame }

/-- MILLINER_TAKEOVER (R285): an active Milliner has missed two consecutive heartbeats; one with an uncorrectable error is taken over at once
(`execUncorrectable`). -/
def execMillinerTakeover (m : Nat) (s : State) : Res :=
  .next (if m < 7 ∧ 2 ≤ (s.millis.getD m {}).missed then s.takeover m else s)

/-- Whether TB stands at a frame boundary of the Milliners (R282). -/
def State.frameEdge (s : State) : Bool := s.tb.toNat % 30720 == 0

/-- STANDBY_BEGIN_SERVICE (R285): the standby has loaded the slot table; it serves from the frame boundary on at which it stands, else from the
next one. -/
def execStandbyBegin (s : State) : Res :=
  .next (if (s.millis.getD 7 {}).takes.isSome ∧ ¬ (s.millis.getD 7 {}).serving then
      s.updMilli 7 (fun x => if s.frameEdge then { x with due := false, serving := true } else { x with due := true }) else s)

/-! Budget periods (R293, R324). -/

/-- What is left of a launch's reservation: COST without the shares of the tasks that have ended. -/
def Launch.reserved (l : Launch) : Nat := pkCost l.packet - ((l.tasks.map (fun x => l.share x.1)).foldl Nat.add 0)

/-- CUSED becomes the reservations of the launches under an RCB that have not ended; the log bytes of the period start anew. -/
def State.newPeriod (s : State) (a : Nat) : State :=
  let mine := s.launches.filter (fun l => l.below a && l.capture.isNone)
  { s.devNat (a + 0x58) 8 ((mine.map Launch.reserved).foldl Nat.add 0) with lused := tabSet 0 s.lused a 0 }

/-- Whether TB stands at a multiple of an RCB's period. -/
def State.atPeriod (s : State) (a : Nat) : Bool :=
  let p := tabGet 0 s.charged a
  p != 0 && s.tb.toNat % p == 0

/-- BUDGET_PERIOD_RESET (R293). -/
def execBudgetReset (a : Nat) (s : State) : Res := .next (if s.atPeriod a then s.newPeriod a else s)

/-! The end of a launch. -/

/-- Whether a launch may complete: its ranks have ended, the launches of its chain with an earlier END, or an equal one and a smaller
ARR, are complete, none of the latter can still come (R322), and its log entries are written (R324). -/
def State.mayEnd (s : State) (l : Launch) : Bool :=
  s.allEnded l && !s.logWaits l.arr && ((s.waiting l.chain).head?.map Launch.arr == some l.arr)
    && (l.fin.toNat < s.tb.toNat || !s.launches.any (fun x => x.chain == l.chain && x.capture.isNone && x.arr < l.arr && !s.allEnded x))

/-- LAUNCH_COMPLETE (R296): a capture run completes by R328. -/
def execLaunchComplete (arr : Nat) (s : State) : Res :=
  .next (match s.launch? arr with
    | none => s
    | some l => match l.capture with
      | some k => if s.allEnded l then (s.endCapture l k).unblock else s
      | none => if s.mayEnd l then ((s.endLaunch l).getD s).unblock else s)

/-- Whether a stopped launch can be entered again: its ranks have ended and the heap has room. -/
def State.mayReplay (s : State) (l : Launch) : Bool := l.replay && s.allEnded { l with replay := false } && s.heap.length < 256

/-- SHADOW_REPLAY (R353): the saved packet enters the heap again with ATTEMPT 1; shadows that operations in flight made after the launch
stopped are discarded too (R352). -/
def State.replayLaunch (s0 : State) (l : Launch) : State :=
  let s := s0.releaseShadows l
  let back := (l.tasks.map (fun x => l.share x.1)).foldl Nat.add 0
  let m : Launch := { l with attempt := 1, placed := 0, ended := 0, status := 0, faults := 0, tasks := [], held := [], stopped := false,
                             replay := false, inHeap := true, runq := [wholeRun l.packet l.code] }
  let s1 : State := if s.resvFor = l.arr then { s with reserved := [], resvFor := 0 } else s
  (((s1.setLaunch m).addCused l back).logEntry m false m.header).endReserve

def execShadowReplay (arr : Nat) (s : State) : Res :=
  .next (match s.launch? arr with
    | some l => if s.mayReplay l then s.replayLaunch l else s
    | none => s)

/-! Interval signing (R331). -/

/-- Whether a chain's interval is over, with feature 5 accepted. -/
def State.signDue (s : State) (n : Nat) : Bool :=
  let iv := s.reg (chainOff n + 0x28)
  n < 64 && s.feat 5 && iv != 0 && (tabGet 0 s.signedAt n).toNat + iv.toNat ≤ s.tb.toNat

/-- A chain is signed when its CCOUNT has changed and its log takes the entry beyond what is held back; else SIGSKIP counts. -/
def State.signChain (s : State) (n : Nat) : State :=
  let s1 : State := { s with signedAt := tabSet 0 s.signedAt n s.tb }
  let cc := s.reg (chainOff n + 0x30)
  if cc = tabGet 0 s.lastSign n then s1
  else match s1.logPut n false (logHead 9 0 0 0 0 0 0 0 ++ s1.sigBlock n) with
    | some t => { t with lastSign := tabSet 0 t.lastSign n cc }
    | none => s1.bump (chainOff n + 0x60)

/-- INTERVAL_SIGNING (R331). -/
def execIntervalSigning (n : Nat) (s : State) : Res := .next (if s.signDue n then s.signChain n else s)

/-! The time base (R17). -/

/-- The cores with a pending scan. -/
def State.scansDue (s : State) : List Nat :=
  (s.ctl.filter (fun x => 0x230000 ≤ x.1 && x.1 < 0x230C00 && x.2.getLsbD 2)).map (fun x => (x.1 - 0x230000) / 8)

/-- What comes with a new value of TB: the budget periods that end at it (R293), the Milliners' frame (R282), the scans that find their
core idle (R359), and a latched snapshot's way to its ring (R364). -/
def State.onTick (s : State) : State :=
  let t := (s.charged.map Prod.fst).foldl (fun u a => if u.atPeriod a then u.newPeriod a else u) s
  let u := if t.frameEdge then t.frameOver else t
  let v := u.scansDue.foldl State.beginScan u
  v.writeSnap.getD v

/-- TIME_BASE_TICK (R17). -/
def execTick (s : State) : Res := .next { s with tb := s.tb + 1 }.onTick.unblock

/-! Which context issues (R39, R40, R43). -/

/-- Whether a context could issue by itself: it runs, nothing it waits for is known to be missing, no mma64 of its own is in the pipe (R265),
no due result is late (R48), its gang is not letting other ranks through a gang operation (R212), and it does not stand behind an exit that
no rank takes, where the divergence stop waits for the others (R144). -/
def State.able (s : State) (c : Ctx) : Bool :=
  c.live && c.stat == .run && c.blocked.isNone && !c.late
    && !s.m64Out c
    && (match s.gang? c.gang with
      | some g => (g.opened.isEmpty || g.opened.contains c.rank) && (match g.void with
        | some v => !v.due || c.bseq ≤ v.seq || (c.trapped && !s.voidWait g)
        | none => true)
      | none => true)

/-- Whether a context is ready: it can issue, and so can the other origin where the two form one fused bundle; and it is its turn. -/
def State.ready (s : State) (c : Ctx) : Bool := s.able c && s.turnOf c && (s.joinedWith c).all s.able

/-- The order of ready contexts of one core: those that have waited 64 cycles first, in context order (R43), then by priority, a context
that has just yielded after its equals (R145), then by context number. -/
def issuesBefore (a b : Ctx) : Bool :=
  let k (c : Ctx) : Nat × Nat × Nat := if 64 ≤ c.age then (0, 0, 0) else (1, c.prio, c.yielded.toNat)
  let x := k a
  let y := k b
  x.1 < y.1 || (x.1 == y.1 && (x.2.1 < y.2.1 || (x.2.1 == y.2.1 && (x.2.2 < y.2.2 || (x.2.2 == y.2.2 && a.cid % 4 < b.cid % 4)))))
def primary : List Ctx → Option Ctx
  | [] => none
  | c :: cs => match primary cs with
    | none => some c
    | some d => if issuesBefore c d then some c else some d

/-- The primary of a core. -/
def State.primaryOf (s : State) (n : Nat) : Option Ctx := primary ((s.liveOn n).filter s.ready)

/-- AGE_PROMOTION (R43): a ready context that has not issued for 64 cycles becomes the primary for its next bundle. -/
def execAgeProm (c : Nat) (s : State) : Res :=
  .next (match s.focus (c / 8) (c % 8) with
    | none => s
    | some t => if 64 ≤ t.ctx.age ∧ t.ready t.ctx then t else s)

end Sys2Proof.Machine
end

