-- ==== Sys2Proof/Machine/Loader.lean ====
section
/-! DEFINITION. The loader (R123, R124, R368 to R371): it reads an ELF64 file, checks its notes, and registers or removes an object. -/

namespace Sys2Proof.Machine

/-- A file in device memory. -/
structure ElfFile where
  mem : Memory
  base : Nat
  size : Nat

/-- A number of n bytes at an offset; 0 beyond the end of the file. -/
def ElfFile.num (f : ElfFile) (o n : Nat) : Nat := if o + n ≤ f.size then memNat f.mem (f.base + o) n else 0

/-- Bytes at an offset; none beyond the end of the file. -/
def ElfFile.slice (f : ElfFile) (o n : Nat) : Option (List Byte) := if o + n ≤ f.size then some (memRead f.mem (f.base + o) n) else none

/-- A section: type, address, offset, size and link. -/
structure Sect where
  name : Nat
  type : Nat
  addr : Nat
  off : Nat
  size : Nat
  link : Nat
  deriving DecidableEq, Repr

/-- Section header i. -/
def ElfFile.sect (f : ElfFile) (i : Nat) : Sect :=
  let o := f.num 0x28 8 + f.num 0x3A 2 * i
  ⟨f.num o 4, f.num (o + 4) 4, f.num (o + 0x10) 8, f.num (o + 0x18) 8, f.num (o + 0x20) 8, f.num (o + 0x28) 4⟩

/-- Whether the string at an offset is the given one. -/
def ElfFile.isStr (f : ElfFile) (o : Nat) (b : List Byte) : Bool := f.slice o (b.length + 1) == some (b ++ [0])

/-- The section of a name. -/
def ElfFile.named (f : ElfFile) (n : List Byte) : Option Sect :=
  let strs := f.sect (f.num 0x3E 2)
  ((List.range (f.num 0x3C 2)).map f.sect).find? (fun x => f.isStr (strs.off + x.name) n)

/-- An ELF64 little-endian executable for Kamnus, with its section headers in the file (R123). -/
def ElfFile.isKamnus (f : ElfFile) : Bool :=
  f.slice 0 6 == some [0x7F, 0x45, 0x4C, 0x46, 2, 1] && f.num 0x10 2 == 2 && f.num 0x12 2 == 0x5AD3 && f.num 0x3A 2 == 64
    && f.num 0x28 8 + 64 * f.num 0x3C 2 ≤ f.size

/-- The address of the procedure `.trap` in the symbol table; 0 when there is none (R300). -/
def ElfFile.trapAddr (f : ElfFile) : Nat :=
  match ((List.range (f.num 0x3C 2)).map f.sect).find? (fun x => x.type == 2) with
  | none => 0
  | some t =>
    let strs := (f.sect t.link).off
    match (List.range (t.size / 24)).find? (fun i => f.isStr (strs + f.num (t.off + 24 * i) 4) (ascii ".trap")) with
    | some i => f.num (t.off + 24 * i + 8) 8
    | none => 0

/-- The notes named "Sadrium" of a note section: type and descriptor; none where one is cut short. -/
def parseNotes : Nat → List Byte → Option (List (Nat × List Byte))
  | 0, b => if b.isEmpty then some [] else none
  | n + 1, b =>
    if b.isEmpty then some []
    else
      let ns := numAt b 0 4
      let ds := numAt b 4 4
      let up (k : Nat) : Nat := (k + 3) / 4 * 4
      if b.length < 12 + up ns + ds then none
      else
        let r := parseNotes n (b.drop (12 + up ns + up ds))
        if (b.drop 12).take ns = ascii "Sadrium" ++ [0] then r.map (fun l => (numAt b 8 4, (b.drop (12 + up ns)).take ds) :: l) else r

/-- The rows of a stepping note. -/
def stepRows (d : List Byte) : List (Nat × Nat) := (List.range (numAt d 2 2)).map (fun i => (numAt d (4 + 4 * i) 2, numAt d (6 + 4 * i) 2))

/-- Whether no group stands twice. -/
def noTwice : List Nat → Bool
  | [] => true
  | x :: xs => !xs.contains x && noTwice xs

/-- Whether offsets rise, each below the size of `.text`. -/
def rising (t : Nat) : List Nat → Bool
  | [] => true
  | x :: xs => x < t && (match xs with
    | [] => true
    | y :: _ => x < y) && rising t xs

/-- Whether a note is well formed against a `.text` of t bytes (R124, R370). -/
def noteOk (t : Nat) (x : Nat × List Byte) : Bool :=
  let d := x.2
  let at_ (o : Nat) : Bool := numAt d o 8 % 4 == 0 && numAt d o 8 < t
  match x.1 with
  | 0 => false
  | 1 => d.length == 4 && numAt d 2 1 < 2 && numAt d 3 1 == 0
  | 2 => 4 ≤ d.length && d.length == 4 + 4 * numAt d 2 2 && numAt d 0 1 != 0 && numAt d 1 1 == 0
      && (stepRows d).all (fun r => r.1 != 0 && 1 ≤ r.2 && r.2 ≤ 255) && noTwice ((stepRows d).map Prod.fst)
  | 3 => d.length == 24 && numAt d 21 3 == 0 && at_ 0
  | 4 => 16 ≤ d.length && d.length == 16 + 8 * numAt d 8 4 && numAt d 12 4 == 0 && at_ 0
      && (List.range (numAt d 8 4)).all (fun i => at_ (16 + 8 * i))
  | 5 => d.length == 32 && numAt d 20 4 == 0 && at_ 0
  | 6 => d.length == 48 && numAt d 0x1A 2 == 0 && numAt d 0x28 8 == 0
  | 7 => 8 ≤ d.length && d.length == 8 + 8 * numAt d 0 4 && numAt d 4 4 == 0
      && rising t ((List.range (numAt d 0 4)).map (fun i => numAt d (8 + 8 * i) 4))
  | _ => true

/-- The latency table of a stepping note (R370). -/
def latTable (d : List Byte) : List Nat :=
  (List.range 18).map (fun i => match (stepRows d).find? (fun r => r.1 == i + 1) with
    | some r => r.2
    | none => lat14.getD i 1)

/-- The splice mark of a kernel: a kernel that carries more than one is not eligible (R333). -/
def onlyMark : List (List Byte) → Option (List Byte)
  | [d] => some d
  | _ => none

/-- The object that a file gives, and its ISA note; or the LSTAT value that refuses it. -/
def ElfFile.object (f : ElfFile) (ptroot : Word) (idig : BitVec 256) : Except Nat (CodeObj × List Byte) :=
  if !f.isKamnus then .error 4
  else match f.named (ascii ".text") with
    | none => .error 4
    | some t =>
      match (f.named (ascii ".note.sadrium")).bind (fun n => (f.slice n.off n.size).bind (fun b => parseNotes b.length b)) with
      | none => .error 5
      | some ns =>
        let of (k : Nat) : List (List Byte) := (ns.filter (fun x => x.1 == k)).map Prod.snd
        match of 1, of 2, of 3 with
        | isa :: _, st :: _, [k] =>
          if !ns.all (noteOk t.size) then .error 5
          else
            let lat := latTable st
            let succ := (of 4).map (fun d => (numAt d 0 8, (List.range (numAt d 8 4)).map (fun i => numAt d (16 + 8 * i) 8)))
            let opc := (of 7).flatMap (fun d => (List.range (numAt d 0 4)).map (fun i => (numAt d (8 + 8 * i) 4, numAt d (12 + 8 * i) 4)))
            .ok ({ ptroot := ptroot, text := BitVec.ofNat 64 t.addr, tsize := t.size, entry := numAt k 0 8, gw := numAt k 16 1,
                   skew := numAt k 17 1, tiles := numAt k 18 1, win := numAt k 19 1, spill := numAt k 12 4, lat := lat,
                   native := numAt st 0 1 == 2 && lat == lat14, trap := BitVec.ofNat 64 f.trapAddr, succ := succ,
                   splice := onlyMark ((of 6).filter (fun d => numAt d 0 8 == numAt k 0 8)), use := of 5, stepping := st, opcmap := opc, idig := idig }, isa)
        | _, _, _ => .error 5

/-- The version gate (R369). -/
def isaGate (isa : List Byte) : Option Nat :=
  if numAt isa 1 1 ≠ 1 then some 6
  else if numAt isa 0 1 ≤ 1 ∨ numAt isa 2 1 % 2 = 1 then none
  else some 7

/-- Whether the fields of a load descriptor are in order; FILE and FSIZE are not looked at for an unload (R368, R371). -/
def descOk (d : List Byte) : Bool :=
  numAt d 0x24 4 == 0 && numAt d 0x30 16 == 0 && numAt d 0x60 32 == 0
    && (numAt d 0 8 == 2 || (numAt d 0 8 == 1 && 1 ≤ numAt d 0x10 8 && numAt d 0x10 8 ≤ 2 ^ 32))

/-- What a load comes to: the object with its LSTAT value, or the value that refuses it; a file of which a line is poisoned is no Kamnus object
(DESIGN CHOICE, log 107). -/
def State.loadObj (s : State) (d : List Byte) : Except Nat (CodeObj × Nat) :=
  if !descOk d then .error 3
  else if (List.range (numAt d 0x10 8 / 64 + 2)).any (fun i => s.poisoned (numAt d 8 8 + min (64 * i) (numAt d 0x10 8 - 1))) then .error 4
  else
    let f : ElfFile := ⟨s.mem, numAt d 8 8, numAt d 0x10 8⟩
    match f.object (BitVec.ofNat 64 (numAt d 0x18 8)) (sha3V (memRead f.mem f.base f.size)) with
    | .error e => .error e
    | .ok (k, isa) => match isaGate isa with
      | some e => .error e
      | none =>
        if 4096 ≤ s.registry.length ∨ (s.codeAt k.ptroot k.text).isSome then .error 8
        else .ok (k, if k.native then 1 else 2)

/-- The oldest request and its descriptor: one in a poisoned line has no valid field, and is a bad request (DESIGN CHOICE, log 107). -/
def State.loadHead (s : State) : Option (Nat × List Byte) :=
  match s.loadq with
  | [] => none
  | a :: _ => some (a, if s.poisoned a || s.poisoned (a + 64) then [] else memRead s.mem a 128)

/-- LOAD (R368): the oldest request, if it is no unload. LSTAT is written last. -/
def State.doLoad (s : State) (a : Nat) (d : List Byte) : State :=
  let t : State := { s with loadq := s.loadq.drop 1 }
  match s.loadObj d with
  | .error e => t.devNat (a + 0x20) 4 e
  | .ok (k, st) =>
    let u := (t.devNat (a + 0x28) 8 k.text.toNat).devPut (a + 0x40) (hashBytes k.idig)
    { u with registry := u.registry ++ [k] }.devNat (a + 0x20) 4 st

/-- UNLOAD (R371): the oldest request, if it is one. -/
def State.doUnload (s : State) (a : Nat) (d : List Byte) : State :=
  let t : State := { s with loadq := s.loadq.drop 1 }
  let r : Word := BitVec.ofNat 64 (numAt d 0x18 8)
  let v : Word := BitVec.ofNat 64 (numAt d 0x28 8)
  if !descOk d then t.devNat (a + 0x20) 4 3
  else
    let u := t.devPut (a + 0x40) (List.replicate 32 0)
    if (s.codeAt r v).isSome then
      { u with registry := u.registry.filter (fun k => !(k.ptroot == r && k.text == v)) }.devNat (a + 0x20) 4 9
    else u.devNat (a + 0x20) 4 10

def execLoad (s : State) : Res :=
  .next (match s.loadHead with
    | some (a, d) => if numAt d 0 8 = 2 then s else s.doLoad a d
    | none => s)
def execUnload (s : State) : Res :=
  .next (match s.loadHead with
    | some (a, d) => if numAt d 0 8 = 2 then s.doUnload a d else s
    | none => s)

end Sys2Proof.Machine
end

