-- ==== Sys2Proof/Machine/Attest.lean ====
section
/-! DEFINITION. The SPDM responder of the management complex (R332). A response is kept as its version, its code and what the manual
says that it carries; the codes and flags are those of SPDM 1.3 (log 45). -/

namespace Sys2Proof.Machine

/-- A response of a code with its payload enters the transcript with its request. -/
def State.respond (s : State) (req : List Byte) (code : Byte) (payload : List Byte) : State :=
  let r := [0x13, code] ++ payload
  { s with spdm := { s.spdm with transcript := s.spdm.transcript ++ req ++ r, out := r } }

/-- An ERROR response: InvalidRequest 0x01 or UnsupportedRequest 0x07. -/
def State.spdmError (s : State) (code : Byte) : State := { s with spdm := { s.spdm with out := [0x13, 0x7F, code] } }

/-- A signed response: the RSA signature over the session's messages up to this one, which opcode 1 signs again (R332). -/
def State.respondSigned (s : State) (req : List Byte) (code : Byte) (payload : List Byte) : State :=
  let r := [0x13, code] ++ payload
  let m := s.spdm.transcript ++ req ++ r
  { s with spdm := ⟨m, m, r ++ sigBytes 384 (Config.rsaSign s.cdi1 m)⟩ }

/-- GET_VERSION begins a session: version 1.3 only. -/
def execGetVersion (s : State) : Res :=
  .next ({ s with spdm := {} }.respond [0x10, 0x84] 0x04 [1, 0x00, 0x13])

/-- GET_CAPABILITIES: CERT_CAP, CHAL_CAP and MEAS_CAP with signature. -/
def execGetCapabilities (s : State) : Res := .next (s.respond [0x13, 0xE1] 0x61 (leBytes 4 0x16))

/-- NEGOTIATE_ALGORITHMS: TPM_ALG_RSASSA_3072 and TPM_ALG_SHA_384. -/
def execNegotiateAlgorithms (s : State) : Res := .next (s.respond [0x13, 0xE3] 0x63 (leBytes 4 4 ++ leBytes 4 4 ++ leBytes 4 2))

/-- The certificate chain of slot 0, which ends in the Alias certificate (R387). -/
def State.slotChain (s : State) : List Byte := sigBytes (Config.rsaCertLen s.cdi0 s.cdi1) (Config.rsaCert s.cdi0 s.cdi1)

/-- GET_DIGESTS: the digest of slot 0's chain. -/
def execGetDigests (s : State) : Res := .next (s.respond [0x13, 0x81] 0x01 (leBytes 48 (Config.sha384 s.slotChain).toNat))

/-- GET_CERTIFICATE for slot 0: a portion and the length that remains. -/
def execGetCertificate (slot off len : Nat) (s : State) : Res :=
  .next (if slot ≠ 0 ∨ s.slotChain.length ≤ off then s.spdmError 0x01
    else
      let p := (s.slotChain.drop off).take len
      s.respond ([0x13, 0x82] ++ leBytes 1 slot ++ leBytes 2 off ++ leBytes 2 len) 0x02
        (leBytes 2 p.length ++ leBytes 2 (s.slotChain.length - off - p.length) ++ p))

/-- CHALLENGE: a signed response with the digest of slot 0's chain. -/
def execChallenge (nonce : List (BitVec 8)) (s : State) : Res :=
  .next (s.respondSigned ([0x13, 0x83] ++ nonce) 0x03 (leBytes 48 (Config.sha384 s.slotChain).toNat))

/-- A measurement block: a digest of start-up, or the raw chain value of type 0x84 (R332). -/
def State.measureBlock (s : State) (i : Nat) : Option (List Byte) :=
  if 1 ≤ i ∧ i ≤ 0x0F then some (leBytes 1 i ++ leBytes 1 1 ++ leBytes 2 48 ++ leBytes 48 (s.measurement i).toNat)
  else if 0x80 ≤ i ∧ i < 0xC0 then some (leBytes 1 i ++ leBytes 1 0x84 ++ leBytes 2 64 ++ s.chainValue (i - 0x80))
  else none

/-- GET_MEASUREMENTS: one index, or all of them under 0xFF. -/
def execGetMeasurements (index : Nat) (nonce : List (BitVec 8)) (s : State) : Res :=
  let blocks : Option (List Byte) :=
    if index = 0xFF then some (((List.range 0xC0).filterMap s.measureBlock).flatten) else s.measureBlock index
  .next (match blocks with
    | some b => s.respondSigned ([0x13, 0xE0] ++ leBytes 1 index ++ nonce) 0x60 b
    | none => s.spdmError 0x01)

/-- Vendor opcode 1: the SLH-DSA signature over the message of the last signed response of the session. -/
def execVendorSlhSig (s : State) : Res :=
  .next (if s.spdm.signed.isEmpty then s.spdmError 0x01
    else s.respond [0x13, 0xFE, 1] 0x7E (sigBytes 35664 (Config.slhSign s.cdi1 s.spdm.signed)))

/-- Vendor opcode 2: the SLH-DSA certificate chain. -/
def execVendorSlhCert (s : State) : Res := .next (s.respond [0x13, 0xFE, 2] 0x7E (sigBytes (Config.slhCertLen s.cdi0 s.cdi1) (Config.slhCert s.cdi0 s.cdi1)))

/-- Any other request: ERROR UnsupportedRequest; another vendor opcode, named by the request code 0xFE, ERROR InvalidRequest. -/
def execSpdmUnsupported (code : BitVec 8) (s : State) : Res := .next (s.spdmError (if code = 0xFE then 0x01 else 0x07))

end Sys2Proof.Machine
end

