-- ==== Sys2Proof/Machine/Branch.lean ====
section
/-! DEFINITION. Class B: each slot's test on the state before the bundle, and the effect of the one that is the exit taken (R96, R114,
R140 to R145). -/

namespace Sys2Proof.Machine

/-- A B slot: its predicate is read whatever came before; where its test holds and no earlier exit is taken, it is the exit
taken (R96, R140), with the effect `eff` gives. An exit whose effect traps is taken all the same: no B slot behind it has an effect. -/
def exitSlot (s : State) (p : BitVec 4) (n : Bool) (eff : State → SlotR (State × ExitKind)) : Res :=
  match s.rdP p.toNat with
  | .error e => finish s (.error e)
  | .ok t =>
    let s1 : State := { s with iss := { s.iss with bslots := s.iss.bslots + 1 } }
    if (t != n) && s1.iss.taken.isNone then
      match eff s1 with
      | .error e => finish { s1 with iss := { s1.iss with taken := some (s1.iss.bslots, .branch s1.iss.npc) } } (.error e)
      | .ok r => .next { r.1 with iss := { r.1.iss with taken := some (s1.iss.bslots, r.2) } }
    else .next s1

/-- The checks of a register target (R114, R140). Where both fail, the alignment check comes first: the order of R114's text
(DEDUCED, log 88). -/
def targetOk (a : Word) : SlotR Word := do
  need (wfld a 0 2 == 0) { cause := 0x09, addr := a }
  need (wfld a 56 8 == 0) { cause := 0x08, addr := a }
  pure a

/-- The link write of a call: s31 receives the next sequential bundle's address at group 1 (R141). -/
def State.link (s : State) : State := s.postS 31 (s.ctx.latOf 1) s.iss.npc

def execBr (p : BitVec 4) (n : Bool) (o : Off) (s : State) : Res :=
  exitSlot s p n (fun s => .ok (s, .branch (offTarget o s.ctx.pc)))

def execBri (p : BitVec 4) (n : Bool) (a : BitVec 6) (s : State) : Res :=
  exitSlot s p n (fun s => do
    let x ← s.rdS a
    let t ← targetOk x
    pure (s, .branch t))

/-- call: an empty s31 as destination holds the bundle (R52). -/
def execCall (p : BitVec 4) (n : Bool) (o : Off) (s : State) : Res :=
  exitSlot s p n (fun s => do
    s.dstS 31
    pure (s.link, .branch (offTarget o s.ctx.pc)))

def execCalli (p : BitVec 4) (n : Bool) (a : BitVec 6) (s : State) : Res :=
  exitSlot s p n (fun s => do
    let r ← both (s.rdS a) (s.dstS 31)
    let t ← targetOk r.1
    pure (s.link, .branch t))

def execRet (p : BitVec 4) (n : Bool) (s : State) : Res :=
  exitSlot s p n (fun s => do
    let x ← s.rdSn 31 false
    let t ← targetOk x
    pure (s, .branch t))

/-- A special-register result that comes after every other write of the bundle (R138): behind the slots' ordinals 0 to 7. -/
def State.postLast (s : State) (num : Nat) (v : Word) : State :=
  { s with iss := { s.iss with out := s.iss.out ++ [(8, s.pend ⟨4, num⟩ 1 (v.zeroExtend 4608) allRow 0)] } }

/-- The rotation of a taken loop or loopw: RRB and PRB advance for the next bundle (R142). -/
def State.rotate (s : State) : State :=
  (s.postLast 0x00C (BitVec.ofNat 64 ((s.ctx.rrb + 1) % 48))).postLast 0x00D (BitVec.ofNat 64 ((s.ctx.prb + 1) % 8))

/-- loop: its test also needs LC > 0; with p XOR N and LC = 0 it is a loop fall-through (R142). -/
def execLoop (p : BitVec 4) (n : Bool) (o : Off) (s : State) : Res :=
  finish s (do
    let t ← s.rdP p.toNat
    let s1 : State := { s with iss := { s.iss with bslots := s.iss.bslots + 1 } }
    if (t != n) && s1.iss.taken.isNone then
      if s.ctx.lc = 0 then pure { s1 with iss := { s1.iss with loopFalls := s1.iss.loopFalls + 1 } }
      else pure ({ s1 with iss := { s1.iss with taken := some (s1.iss.bslots, .branch (offTarget o s.ctx.pc)) } }.postLast 0x00E (s.ctx.lc - 1)).rotate
    else pure s1)

/-- loopw: the rotation of loop without its count (R143). -/
def execLoopw (p : BitVec 4) (n : Bool) (o : Off) (s : State) : Res :=
  exitSlot s p n (fun s => .ok (s.rotate, .branch (offTarget o s.ctx.pc)))

/-- exit: an open region raises an operand trap (R144), but not in a handler (R302). -/
def execExit (p : BitVec 4) (n : Bool) (s : State) : Res :=
  exitSlot s p n (fun s => do
    need (s.ctx.regions.isEmpty || s.ctx.inh) (opTrap (BitVec.ofNat 64 s.ctx.regions.length))
    pure (s, .exit))

/-- The test of a B slot: its predicate, N, and whether it needs LC above 0 too (R140, R142). -/
def exitTest : Instr → Option (BitVec 4 × Bool × Bool)
  | .br p n _ => some (p, n, false)
  | .bri p n _ => some (p, n, false)
  | .call p n _ => some (p, n, false)
  | .calli p n _ => some (p, n, false)
  | .ret p n => some (p, n, false)
  | .loop p n _ => some (p, n, true)
  | .loopw p n _ => some (p, n, false)
  | .exit p n => some (p, n, false)
  | .yield p n => some (p, n, false)
  | _ => none

/-- The exit that the tests of B slots take, the first of them number j, 0 for none; no answer where a predicate cannot be read. -/
def State.exitOf (s : State) : List Instr → Nat → Option Nat
  | [], _ => some 0
  | i :: is, j => match exitTest i with
    | none => s.exitOf is j
    | some (p, n, lc) => match s.rdP p.toNat with
      | .error _ => none
      | .ok t => if (t != n) && !(lc && s.ctx.lc == 0) then some j else s.exitOf is (j + 1)

def execYield (p : BitVec 4) (n : Bool) (s : State) : Res :=
  exitSlot s p n (fun s => .ok (s, .yield))

end Sys2Proof.Machine
end

