-- ==== Sys2Proof/Machine/SpecialFn.lean ====
section
/-! DEFINITION. The ten special functions of Table 5.6, correctly rounded (R85). A value that no format holds exactly is given
as a rational with 640 bits after the point and a last bit that says it lies strictly between two multiples, which decides every
rounding of a format of 28 significant bits (DEDUCED, log 9). -/

namespace Sys2Proof.Machine

/-- Fraction bits of the fixed-point work. -/
def fxK : Nat := 640

/-- One, in fixed point. -/
def fx1 : Nat := 2 ^ fxK

/-- Largest r with r × r ≤ n, by bits from `k` downward, `r` being what is found so far. -/
def isqrtGo (n : Nat) : Nat → Nat → Nat
  | 0, r => r
  | k + 1, r => let c := r + 2 ^ k; isqrtGo n k (if c * c ≤ n then c else r)

/-- Integer square root. -/
def isqrt (n : Nat) : Nat := isqrtGo n (n.log2 / 2 + 1) 0

/-- Sum of a series of fixed-point terms: term n + 1 is term n × x / d(n). -/
def expGo (x : Nat) : Nat → Nat → Nat → Nat → Nat
  | 0, _, _, acc => acc
  | fuel + 1, n, t, acc => expGo x fuel (n + 1) (t * x / fx1 / n) (acc + t)

/-- e^x for a fixed-point x below 1. -/
def expFx (x : Nat) : Nat := expGo x 220 1 fx1 0

/-- Sum of z^(2n + 1) / (2n + 1), given the power z^(2n + 1) and z². -/
def atanhGo (z2 : Nat) : Nat → Nat → Nat → Nat → Nat
  | 0, _, _, acc => acc
  | fuel + 1, n, p, acc => atanhGo z2 fuel (n + 2) (p * z2 / fx1) (acc + p / n)

/-- atanh z for a fixed-point z of at most 1 / 3. -/
def atanhFx (z : Nat) : Nat := atanhGo (z * z / fx1) 220 1 z 0

/-- ln 2 = 2 atanh (1 / 3). -/
def ln2Fx : Nat := 2 * atanhFx (fx1 / 3)

/-- Alternating sum of z^(2n + 1) / (2n + 1). -/
def atanGo (z2 : Nat) : Nat → Nat → Nat → Int → Int → Int
  | 0, _, _, _, acc => acc
  | fuel + 1, n, p, sg, acc => atanGo z2 fuel (n + 2) (p * z2 / fx1) (-sg) (acc + sg * (p / n : Nat))

/-- arctan of a small fixed-point value. -/
def atanFx (z : Nat) : Nat := (atanGo (z * z / fx1) 300 1 z 1 0).toNat

/-- π by Machin's formula. -/
def piFx : Nat := 16 * atanFx (fx1 / 5) - 4 * atanFx (fx1 / 239)

/-- Alternating Taylor sum: terms t, t x² / ((n + 1)(n + 2)), … -/
def trigGo (x2 : Nat) : Nat → Nat → Nat → Int → Int → Int
  | 0, _, _, _, acc => acc
  | fuel + 1, n, t, sg, acc => trigGo x2 fuel (n + 2) (t * x2 / fx1 / ((n + 1) * (n + 2))) (-sg) (acc + sg * (t : Nat))

/-- sin of a fixed-point angle below 2. -/
def sinFx (x : Nat) : Nat := (trigGo (x * x / fx1) 120 1 x 1 0).toNat

/-- cos of a fixed-point angle below 2. -/
def cosFx (x : Nat) : Nat := (trigGo (x * x / fx1) 120 0 fx1 1 0).toNat

/-- Alternating sum of x^(2n + 1) / (n! (2n + 1)). -/
def erfGo (x2 : Nat) : Nat → Nat → Nat → Int → Int → Int
  | 0, _, _, _, acc => acc
  | fuel + 1, n, t, sg, acc => erfGo x2 fuel (n + 1) (t * x2 / fx1 / (n + 1)) (-sg) (acc + sg * (t / (2 * n + 1) : Nat))

/-- A positive value known only to lie just above r / 2^k: its rational with the sticky half. -/
def sticky (r k : Nat) : Nat × Nat := (2 * r + 1, 2 ^ (k + 1))

/-- Drops the last 40 bits of a fixed-point value, which the series do not settle, and makes it sticky. -/
def fxVal (r : Nat) : Nat × Nat := sticky (r / 2 ^ 40) (fxK - 40)

/-- m × 2^e in fixed point, for a value below 2^64. -/
def toFx (m : Nat) (e : Int) : Nat := m * 2 ^ ((fxK : Int) + e).toNat / 2 ^ (-((fxK : Int) + e)).toNat

/-- A value far below every format's smallest number. -/
def tinyVal : Nat × Nat := (1, 2 ^ 600)

/-- A value just below 1. -/
def nearOne : Nat × Nat := (2 ^ 600 - 1, 2 ^ 600)

/-- 2^x for x = (-1)^s × m × 2^e, nonzero and no integer, as a rational. -/
def exp2V (s : Bool) (m : Nat) (e : Int) : Nat × Nat :=
  if 2000 * denOf e ≤ numOf m e then (if s then tinyVal else (2 ^ 2000, 1))
  else
    let n := numOf m e
    let d := denOf e
    let fl : Int := if s then -((n + d - 1) / d : Nat) else (n / d : Nat)
    -- fraction x − floor x, in fixed point
    let fr : Nat := if s then (((n + d - 1) / d) * d - n) * fx1 / d else (n % d) * fx1 / d
    let t := fxVal (expFx (fr * ln2Fx / fx1))
    (t.1 * 2 ^ fl.toNat, t.2 * 2 ^ (-fl).toNat)

/-- e^(−y) for y = m × 2^e > 0, as a fixed-point value and a power of two to divide it by. -/
def expNeg (m : Nat) (e : Int) : Nat × Nat :=
  let y := toFx m e
  let k := y / ln2Fx
  let r := y % ln2Fx
  -- e^(−y) = 2^(−k − 1) × e^(ln 2 − r)
  (expFx ((ln2Fx - r) / 2) * expFx ((ln2Fx - r) / 2) / fx1, k + 1)

/-- Result of a function on a finite operand that the special inputs do not settle: a signed rational; an exact one has no
sticky bit. -/
structure SV where
  s : Bool
  n : Nat
  d : Nat
  deriving DecidableEq, Repr

/-- The function codes, in the order of the opcodes of Table 15.1 (R109). -/
inductive SFn where
  | rcp | rsq | sqrt | exp2 | log2 | sig | tanh | erf | sinp | cosp
  deriving DecidableEq, Repr

/-- √ of n / d as a rational, exact where it is one with a power-of-two denominator. -/
def sqrtV (n d : Nat) : Nat × Nat :=
  let k := 400
  let a := n * 4 ^ k / d
  let r := isqrt a
  if r * r * d = n * 4 ^ k then (r, 2 ^ k) else sticky r k

/-- A nonzero finite operand's integer part test. -/
def isIntV (m : Nat) (e : Int) : Bool := numOf m e % denOf e == 0

/-- The exact or sticky value of the function at (-1)^s × m × 2^e, m nonzero. -/
def sfnVal (f : SFn) (s : Bool) (m : Nat) (e : Int) : SV :=
  let n := numOf m e
  let d := denOf e
  match f with
  | .rcp => ⟨s, d, n⟩
  | .rsq => let t := sqrtV d n; ⟨false, t.1, t.2⟩
  | .sqrt => let t := sqrtV n d; ⟨false, t.1, t.2⟩
  | .exp2 =>
    if isIntV m e ∧ n / d ≤ 2000 then ⟨false, if s then 1 else 2 ^ (n / d), if s then 2 ^ (n / d) else 1⟩
    else let t := exp2V s m e; ⟨false, t.1, t.2⟩
  | .log2 =>
    let k := m.log2
    let p : Int := (k : Int) + e
    if m = 2 ^ k then ⟨p < 0, p.natAbs, 1⟩
    else
      -- log2 of m / 2^k in (1, 2)
      let z := (m - 2 ^ k) * fx1 / (m + 2 ^ k)
      let l := fxVal (2 * atanhFx z * fx1 / ln2Fx)
      let v : Int := p * l.2 + l.1
      ⟨v < 0, v.natAbs, l.2⟩
  | .sig =>
    if 200 * d ≤ n then (if s then ⟨false, tinyVal.1, tinyVal.2⟩ else ⟨false, nearOne.1, nearOne.2⟩)
    else
      let t := expNeg m e
      let den := fx1 * 2 ^ t.2 + t.1
      let num := if s then t.1 else fx1 * 2 ^ t.2
      -- scaled so that 560 bits of the quotient stand, then sticky
      let q := num * 2 ^ (560 + t.2) / den
      let v := sticky q (560 + t.2)
      ⟨false, v.1, v.2⟩
  | .tanh =>
    if 200 * d ≤ n then ⟨s, nearOne.1, nearOne.2⟩
    else
      let t := expNeg (2 * m) e
      let one := fx1 * 2 ^ t.2
      let v := sticky ((one - t.1) * 2 ^ 560 / (one + t.1)) 560
      ⟨s, v.1, v.2⟩
  | .erf =>
    if 8 * d ≤ n then ⟨s, nearOne.1, nearOne.2⟩
    else
      let x := toFx m e
      let r := (erfGo (x * x / fx1) 400 0 x 1 0).toNat
      let v := fxVal (2 * r * fx1 / isqrt (piFx * fx1))
      ⟨s, v.1, v.2⟩
  | .sinp =>
    -- |x| mod 2 in quarters of a turn: sin(π x)
    let r := n % (2 * d)
    if r = 0 ∨ r = d then ⟨s, 0, 1⟩
    else
      let neg := d < r
      let r := if neg then r - d else r
      let r := if d < 2 * r then d - r else r
      if 2 * r = d then ⟨s != neg, 1, 1⟩
      else let v := fxVal (sinFx (r * piFx / d)); ⟨s != neg, v.1, v.2⟩
  | .cosp =>
    let r := n % (2 * d)
    let r := if d < r then 2 * d - r else r
    if 2 * r = d then ⟨false, 0, 1⟩
    else if r = 0 then ⟨false, 1, 1⟩
    else if r = d then ⟨true, 1, 1⟩
    else
      let neg := d < 2 * r
      let r := if neg then d - r else r
      let v := fxVal (sinFx ((d - 2 * r) * piFx / (2 * d)))
      ⟨neg, v.1, v.2⟩

/-- A special function on one lane (Table 5.6, R248), `x` after input flushing. -/
def sfn (v : REnv) (f : Fmt) (elem : Nat) (g : SFn) (x : FV) : FR :=
  match x with
  | .nan .. => nanRes v f [x]
  | .inf s =>
    match g with
    | .rcp => ⟨f.pack s 0 0, 0⟩
    | .rsq => if s then invRes v f [x] else ⟨f.pack false 0 0, 0⟩
    | .sqrt => if s then invRes v f [x] else infRes f false
    | .exp2 => if s then ⟨f.pack false 0 0, 0⟩ else infRes f false
    | .log2 => if s then invRes v f [x] else infRes f false
    | .sig => if s then ⟨f.pack false 0 0, 0⟩ else ⟨f.pack false f.bias 0, 0⟩
    | .tanh => ⟨f.pack s f.bias 0, 0⟩
    | .erf => ⟨f.pack s f.bias 0, 0⟩
    | .sinp => invRes v f [x]
    | .cosp => invRes v f [x]
  | .fin s m e =>
    if m = 0 then
      match g with
      | .rcp => { infRes f s with flags := fDBZ }
      | .rsq => { infRes f s with flags := fDBZ }
      | .sqrt => ⟨f.pack s 0 0, 0⟩
      | .exp2 => ⟨f.pack false f.bias 0, 0⟩
      | .log2 => { infRes f true with flags := fDBZ }
      | .sig => ⟨f.pack false (f.bias - 1) 0, 0⟩
      | .tanh => ⟨f.pack s 0 0, 0⟩
      | .erf => ⟨f.pack s 0 0, 0⟩
      | .sinp => ⟨f.pack s 0 0, 0⟩
      | .cosp => ⟨f.pack false f.bias 0, 0⟩
    else if s && (g == .rsq || g == .sqrt || g == .log2) then invRes v f [x]
    else
      let r := sfnVal g s m e
      -- an exact zero: log2 1 and cos at a half are +0; sin at an integer n has the sign of n
      if r.n = 0 then ⟨f.pack (if g == .sinp then s else false) 0 0, 0⟩
      else roundTo v f elem r.s r.n r.d

end Sys2Proof.Machine
end

