-- ==== Sys2Proof/Machine/Special.lean ====
section
/-! DEFINITION. Class F: the special functions on the active lanes (R248). -/

namespace Sys2Proof.Machine

/-- A special function on F36 lanes at group 11, or on B18 lanes at group 12; the slot counts for RSEQ (R80). -/
def sfn36 (g : SFn) (d a : BitVec 6) (s : State) : Res :=
  vec2 s 36 11 true d a (fun v i x => sfn v F36 i g (F36.decIn v x))
def sfn18 (g : SFn) (d a : BitVec 6) (s : State) : Res :=
  vec2 s 18 12 true d a (fun v i x => sfn v B18 i g (B18.decIn v x))

def execFrcp (d a : BitVec 6) (s : State) : Res := sfn36 .rcp d a s
def execFrsq (d a : BitVec 6) (s : State) : Res := sfn36 .rsq d a s
def execFsqrt (d a : BitVec 6) (s : State) : Res := sfn36 .sqrt d a s
def execFexp2 (d a : BitVec 6) (s : State) : Res := sfn36 .exp2 d a s
def execFlog2 (d a : BitVec 6) (s : State) : Res := sfn36 .log2 d a s
def execFsig (d a : BitVec 6) (s : State) : Res := sfn36 .sig d a s
def execFtanh (d a : BitVec 6) (s : State) : Res := sfn36 .tanh d a s
def execFerf (d a : BitVec 6) (s : State) : Res := sfn36 .erf d a s
def execFsinp (d a : BitVec 6) (s : State) : Res := sfn36 .sinp d a s
def execFcosp (d a : BitVec 6) (s : State) : Res := sfn36 .cosp d a s
def execFrcpB (d a : BitVec 6) (s : State) : Res := sfn18 .rcp d a s
def execFrsqB (d a : BitVec 6) (s : State) : Res := sfn18 .rsq d a s
def execFsqrtB (d a : BitVec 6) (s : State) : Res := sfn18 .sqrt d a s
def execFexp2B (d a : BitVec 6) (s : State) : Res := sfn18 .exp2 d a s
def execFlog2B (d a : BitVec 6) (s : State) : Res := sfn18 .log2 d a s
def execFsigB (d a : BitVec 6) (s : State) : Res := sfn18 .sig d a s
def execFtanhB (d a : BitVec 6) (s : State) : Res := sfn18 .tanh d a s
def execFerfB (d a : BitVec 6) (s : State) : Res := sfn18 .erf d a s
def execFsinpB (d a : BitVec 6) (s : State) : Res := sfn18 .sinp d a s
def execFcospB (d a : BitVec 6) (s : State) : Res := sfn18 .cosp d a s

end Sys2Proof.Machine
end

