-- ==== Sys2Proof/Machine/Splice.lean ====
section
/-! DEFINITION. The Fuller (R333 to R347): the pairs that the Milliner offers, Table 25.2, and an accepted pair. How a fused task runs is
in Fuse. -/

namespace Sys2Proof.Machine

/-! The code of a kernel. -/

/-- A bundle of a kernel: its offset in `.text`, its words, and what it decodes to, none for a bundle that R101 traps. -/
abbrev KBundle := Nat × List Nat × Option Bundle

/-- The slots of a bundle of a kernel. -/
def kSlots (x : KBundle) : List Slot := (x.2.2.map Bundle.slots).getD []

/-- Bundles of a byte string of code from an offset on. -/
def codeBundles : Nat → Nat → List Nat → List KBundle
  | 0, _, _ => []
  | n + 1, o, ws =>
    match upToStop 8 ws with
    | none => []
    | some b =>
      let r := codeBundles n (o + 4 * b.length) (ws.drop b.length)
      match decodeBundle b with
      | .ok x => (o, b, some x) :: r
      | .error _ => (o, b, none) :: r

/-- Where the code of an object's kernel ends: at the next procedure, or with `.text`. -/
def CodeObj.kernelEnd (k : CodeObj) : Nat :=
  let ps := k.succ.map Prod.fst ++ k.use.map (fun d => numAt d 0 8) ++ (if k.trap = 0 then [] else [(k.trap - k.text).toNat])
  (ps.filter (fun o => k.entry < o)).foldl Nat.min k.tsize

/-- The bundles of a launch's kernel; none where its code cannot be read. -/
def State.kernelOf (s : State) (l : Launch) : List KBundle :=
  let n := l.code.kernelEnd - l.code.entry
  match s.useRead l.ptroot (pieces n) (l.code.text + BitVec.ofNat 64 l.code.entry) n with
  | none => []
  | some (_, bs) => codeBundles n l.code.entry ((List.range (n / 4)).map (fun i => numAt bs (4 * i) 4))

/-- The bundles of a kernel's loop body. -/
def bodyOf (d : List Byte) (k : List KBundle) : List KBundle := k.filter (fun x => snLtop d ≤ x.1 && x.1 ≤ snLend d)

/-- The class of a slot. -/
def slotCls (x : Slot) : Nat := x.word / 2 ^ 24 % 16

/-- Whether a path tag holds under the exit taken, 0 for none (Table 7.3). -/
def pathHolds (p exit : Nat) : Bool :=
  if p = 0 then true else if p = 5 then exit == 0 else if p = 6 then exit != 0 else p == exit

/-- The groups of a compare's results: with C a mask beside the predicate (R132). -/
def cmpGroups (c : Bool) : List Nat := if c then [1, 1] else [1]

/-- The latency groups of the results that a slot leaves, those of a local load aside (R47): the count follows from the code alone. Results
of latency 1 whatever the table says are never pending at the next bundle. -/
def slotGroups (x : Slot) : List Nat :=
  match x.instr with
  | .cmpeq _ c _ _ => cmpGroups c
  | .cmpne _ c _ _ => cmpGroups c
  | .cmplt _ c _ _ => cmpGroups c
  | .cmple _ c _ _ => cmpGroups c
  | .cmpltu _ c _ _ => cmpGroups c
  | .cmpleu _ c _ _ => cmpGroups c
  | .cmpt .. => []
  | .mts .. => []
  | .call .. => [1]
  | .calli .. => [1]
  | .mul .. => [2]
  | .mulh .. => [2]
  | .mulhu .. => [2]
  | .div .. => [3]
  | .divu .. => [3]
  | .rem .. => [3]
  | .remu .. => [3]
  | .vaddf .. => [4]
  | .vsubf .. => [4]
  | .vmulf .. => [5]
  | .vfmaf .. => [5]
  | .vfmsf .. => [5]
  | .vmuli .. => [5]
  | .vmulhi .. => [5]
  | .vred .. => [9]
  | .vscan .. => [9]
  | .vmerge .. => [10]
  | .xpop _ => [15]
  | .copy .. => [16]
  | .coll .. => [16]
  | .tlrd .. => [16]
  | .launch .. => [17]
  | .amo .. => [18]
  | .cas .. => [18, 18]
  | .ilock .. => [18]
  | .vcmpt .. => []
  | .vcvt _ _ c => match cvtShape c.toNat with
    | .widening _ _ => [8, 8]
    | _ => [8]
  | .vhist _ _ n => List.replicate n.toNat 8
  | _ => match slotCls x with
    | 0 => [1]
    | 1 => [6]
    | 2 => [7]
    | 3 => [8]
    | 4 => if 32 ≤ x.word / 2 ^ 18 % 64 then [12] else [11]
    | _ => []

/-- The offset in `.text` that a B slot of the bundle at `o` names; none for an indirect one. -/
def targetOf (o : Nat) (i : Instr) : Option Int :=
  let at_ (f : Off) : Option Int := some ((o : Int) + 4 * (offWords f).toInt)
  match i with
  | .br _ _ f => at_ f
  | .call _ _ f => at_ f
  | .loop _ _ f => at_ f
  | .loopw _ _ f => at_ f
  | _ => none

/-! The conditions of Table 25.2. -/

/-- Whether a waittl or waitwp waits for the channel or timeline of some copy in a list of slots (R333). -/
def coversCopy (cs ws : List Slot) : Bool :=
  cs.any (fun x => match x.instr with
    | .copy _ _ ch => ws.any (fun y => match y.instr with
      | .waittl tl _ => tl.toNat == ch.toNat
      | .waitwp c _ => c == ch
      | _ => false)
    | _ => false)

/-- A SPLICE note within the limits of R333 for a port kind, beside the kernel's USE note: the PSYNC of a KIND 1 note holds the wait that
covers the port copy. -/
def noteFits (kind : Nat) (l : Launch) (d : List Byte) (k : List KBundle) : Bool :=
  let p := l.packet
  let win := if snPath d = 0x10 then numAt p 0x2C 2 else if snPath d = 0x11 then numAt p 0x2E 2 else numAt p 0x30 2
  let starts (o : Nat) : Bool := k.any (fun x => x.1 == o)
  let at_ (o : Nat) : List Slot := (k.filter (fun x => x.1 == o)).flatMap kSlots
  let holds (o : Nat) (f : Instr → Bool) : Bool := (at_ o).any (fun y => f y.instr)
  numAt d 0 8 == l.code.entry && snKind d == kind && (snPath d == 0x10 || snPath d == 0x11 || snPath d == 0x13)
    && (if kind = 0 then snLtop d ≤ snSync d && snSync d < snCopy d && snCopy d ≤ snLend d
        else snLtop d ≤ snCopy d && snCopy d < snSync d && snSync d ≤ snLend d)
    && starts (snLtop d) && starts (snSync d) && 1 ≤ snLen d && snLen d ≤ 2 ^ 24 && snOff d + snLen d ≤ 1024 * win && snTrip d % 8 == 0
    && holds (snCopy d) (fun i => match i with
      | .copy .. => true
      | _ => false)
    && holds (snLend d) (fun i => match i with
      | .loop .. => true
      | _ => false)
    && (kind == 0 || coversCopy (at_ (snCopy d)) (at_ (snSync d)))
    && l.code.use.any (fun u => numAt u 0 8 == l.code.entry)

/-- The trip count of a launch; 0 where it cannot be read. -/
def State.tripOf (s : State) (l : Launch) (d : List Byte) : Nat :=
  match s.useRead l.ptroot 2 (BitVec.ofNat 64 (numAt l.packet 0x18 8) + BitVec.ofNat 64 (snTrip d)) 8 with
  | some (_, b) => leNat b
  | none => 0

/-- A body of the slots that R336 allows, every one of its bundles legal: reason 5. -/
def bodyFits (d : List Byte) (b : List KBundle) : Bool :=
  b.all (fun x => x.2.2.isSome && (kSlots x).all (fun y =>
    match y.instr with
    | .copy .. => true
    | .coll .. => true
    | .waittl .. => true
    | .tlrd .. => true
    | .waitwp .. => true
    | .bar .. => true
    | .loop .. => x.1 == snLend d && targetOf x.1 y.instr == some (snLtop d : Int)
    | .mts n _ => n != 0x00C && n != 0x00D && n != 0x00E
    | _ => slotCls y ≤ 7 || slotCls y == 14))
    && (b.flatMap (fun x => (kSlots x).filter (fun y => slotCls y == 8))).length == 1

/-- The control flow of R338, and no containment, trap or return: reason 6. Where a branch through a register goes is not known before it
runs, so that no kernel that holds one keeps to R338 (DEDUCED, log 97). -/
def flowFits (d : List Byte) (k : List KBundle) : Bool :=
  k.all (fun x => (kSlots x).all (fun y =>
    match y.instr with
    | .cropen _ => false
    | .crclose => false
    | .trap _ => false
    | .rft => false
    | .bri .. => false
    | .calli .. => false
    | .ret .. => false
    | i => match targetOf x.1 i with
      | none => true
      | some t => if x.1 = snLend d then true
        else !(decide ((snLtop d : Int) ≤ t) && decide (t ≤ snLend d)) && !(decide (x.1 < snLtop d) && decide ((snLend d : Int) < t))))

/-- The clip registers that a kernel sets. -/
def clipsOf (k : List KBundle) : Nat :=
  (k.flatMap (fun x => (kSlots x).map (fun y => match y.instr with
    | .mts n _ => if 0x020 ≤ n.toNat ∧ n.toNat ≤ 0x027 then 2 ^ (n.toNat - 0x020) else 0
    | _ => 0))).foldl Nat.lor 0

/-- The set bits of a number from lo to hi. -/
def bitsIn (v lo hi : Nat) : Nat := ((List.range (hi + 1)).filter (fun i => lo ≤ i && v.testBit i)).length

/-- The registers fit under R339: reason 7. -/
def regsFit (p c : CodeObj) (kp kc : List KBundle) : Bool :=
  let fit (a b lo hi : Nat) : Bool := bitsIn a lo hi + bitsIn b lo hi ≤ hi + 1 - lo
  let one (a b : Nat) : Bool := bitsIn a 8 15 == 0 || bitsIn b 8 15 == 0
  fit (p.used 8 8) (c.used 8 8) 1 31 && fit (p.used 16 2) (c.used 16 2) 1 7 && fit (p.used 18 2) (c.used 18 2) 1 7
    && fit (clipsOf kp) (clipsOf kc) 0 7 && one (p.used 16 2) (c.used 16 2) && one (p.used 18 2) (c.used 18 2)

/-- Whether a slot loads. -/
def isLoad (x : Slot) : Bool :=
  let op := x.word / 2 ^ 18 % 64
  slotCls x == 5 && (op < 8 || (16 ≤ op && op < 24) || op == 0x20 || op == 0x21)

/-! How many results code can leave pending (R47, R336): along any path of its bundles, each with the exit it takes and the slots whose path
tags then hold. -/

/-- The exits that a bundle at `x` can take by its B slots from number j on, 0 for none, each with the offset that comes next, none behind an
EXIT: a test of p0 has one outcome only. -/
def exitsFrom (x : KBundle) : List Slot → Nat → List (Nat × Option Int)
  | [], _ => [(0, some ((x.1 : Int) + 4 * x.2.1.length))]
  | y :: ys, j => match exitTest y.instr with
    | none => exitsFrom x ys j
    | some (p, n, lc) =>
      let goal : Option Int := match y.instr with
        | .yield .. => some ((x.1 : Int) + 4 * x.2.1.length)
        | i => targetOf x.1 i
      (if p = 0 ∧ n then [] else [(j, goal)]) ++ (if p = 0 ∧ ¬ n ∧ ¬ lc then [] else exitsFrom x ys (j + 1))

/-- The exits of a bundle. -/
def exitsOf (x : KBundle) : List (Nat × Option Int) := exitsFrom x ((kSlots x).filter (fun y => slotCls y == 8)) 1

/-- The slots of a bundle that take effect under an exit. -/
def slotsOn (x : KBundle) (j : Nat) : List Slot := (kSlots x).filter (fun y => pathHolds y.path j)

/-- The latencies of the results that a bundle can leave: a load may find its data in a local buffer. -/
def latsOn (l : Launch) (x : KBundle) (j : Nat) : List Nat :=
  ((slotsOn x j).flatMap (fun y => slotGroups y ++ (if isLoad y then [13] else []))).map (fun g => l.code.lat.getD (g - 1) (lat14.getD (g - 1) 1))

/-- The steps that a bundle takes: the largest of its nops' (R118). -/
def stepsOn (x : KBundle) (j : Nat) : Nat :=
  ((slotsOn x j).map (fun y => match y.instr with
    | .nop k => k.toNat
    | _ => 1)).foldl Nat.max 1

/-- The largest of some numbers. -/
def most (xs : List Nat) : Nat := xs.foldl Nat.max 0

/-- A kernel with its launch and its SPLICE descriptor. -/
structure KFlow where
  l : Launch
  note : List Byte
  code : List KBundle

/-- The longest latency of the kernel's table. -/
def KFlow.depth (f : KFlow) : Nat := max (most f.l.code.lat) (most lat14)

/-- The bundles that the one at offset `o` can follow in iteration k of the fused loop, each with its exit and its own iteration: the loop's
first bundle follows the bundles before the loop, or in a later iteration its last one. -/
def KFlow.preds (f : KFlow) (o k : Nat) : List (KBundle × Nat × Nat) :=
  f.code.flatMap (fun x => (exitsOf x).filterMap (fun e =>
    if e.2 ≠ some (o : Int) then none
    else if o ≠ snLtop f.note then some (x, e.1, k)
    else if x.1 = snLend f.note ∧ e.1 ≠ 0 then (if k = 0 then none else some (x, e.1, k - 1))
    else if k = 0 then some (x, e.1, 0)
    else none))

/-- The most results that the bundles before the one at `o` can have pending `d` steps after they were all issued, looking back over n bundles. -/
def KFlow.back (f : KFlow) : Nat → Nat → Nat → Nat → Nat
  | 0, _, _, _ => 0
  | n + 1, o, d, k => most ((f.preds o k).map (fun x =>
      let e := d + stepsOn x.1 x.2.1
      ((latsOn f.l x.1 x.2.1).filter (fun q => e < q)).length + f.back n x.1.1 e x.2.2))

/-- The most results that can be pending at the step to which a bundle moves STEP, under an exit of it. -/
def KFlow.leaves (f : KFlow) (x : KBundle) (j k : Nat) : Nat :=
  let e := stepsOn x j
  ((latsOn f.l x j).filter (fun q => e < q)).length + f.back f.depth x.1 e k

/-- The same under any of its exits. -/
def KFlow.after (f : KFlow) (k : Nat) (x : KBundle) : Nat := most ((exitsOf x).map (fun e => f.leaves x e.1 k))

/-- The most that is pending as iteration k of the fused loop begins. -/
def KFlow.atTop (f : KFlow) (k : Nat) : Nat := most ((f.preds (snLtop f.note) k).map (fun x => f.leaves x.1 x.2.1 x.2.2))

/-- The same as the loop falls through in iteration k, and as the origin ends behind it. -/
def KFlow.fallen (f : KFlow) (k : Nat) : Nat := most ((f.code.filter (fun x => x.1 == snLend f.note)).map (fun x => f.leaves x 0 k))
def KFlow.over (f : KFlow) (k : Nat) : Nat :=
  most ((f.code.filter (fun x => snLend f.note < x.1)).flatMap (fun x => ((exitsOf x).filter (fun e => e.2.isNone)).map (fun e => f.leaves x e.1 k)))

/-- The bundles before and behind the loop. -/
def KFlow.early (f : KFlow) : List KBundle := f.code.filter (fun x => x.1 < snLtop f.note)
def KFlow.late (f : KFlow) : List KBundle := f.code.filter (fun x => snLend f.note < x.1)

/-- The most that both origins have pending after a bundle of iteration k of the fused loop, position by position, P's bundle first and a fused
bundle as one (R340, R341): while one origin's bundles issue, the other's steps stand still. -/
def loopPending (p c : KFlow) (v d : Nat) (js : List Nat) (k : Nat) : Nat :=
  let bp := bodyOf p.note p.code
  let bc := bodyOf c.note c.code
  let pos (i : Nat) : Nat := if i < v then i else i + d
  let upTo (i : Nat) : Nat := match (((List.range bc.length).filter (fun q => pos q < i)).getLast?).bind (fun q => bc[q]?) with
    | some x => c.after k x
    | none => c.atTop k
  most ((List.range (bp.length + bc.length + d)).flatMap (fun i =>
    (if js.contains i then [] else bp[i]?.toList.map (fun x => p.after k x + upTo i))
      ++ (if (List.range bc.length).any (fun q => pos q == i) then
            (bp[min i (bp.length - 1)]?).toList.map (fun x => p.after k x + upTo (i + 1)) else [])))

/-- How many results the fused code could leave pending (R47, R336): the most in P's part before the loop, in C's, in the loop in any
iteration, in P's part behind it and in C's, each beside what the other origin then has (DEDUCED, log 98). -/
def fusedPending (p c : KFlow) (v d : Nat) (js : List Nat) : Nat :=
  let turns := max p.depth c.depth / max 1 (min (bodyOf p.note p.code).length (bodyOf c.note c.code).length) + 2
  most ([most (p.early.map (p.after 0)), p.atTop 0 + most (c.early.map (c.after 0))] ++ (List.range turns).flatMap (fun k =>
    [loopPending p c v d js k, most (p.late.map (p.after k)) + c.fallen k, most (c.late.map (c.after k)) + p.over k]))

/-- The places of both PSYNC bundles in their bodies, and the shift of C's bundles from there on (R340). -/
def syncPlaces (dp dc : List Byte) (bp bc : List KBundle) : Nat × Nat × Nat :=
  let idx (b : List KBundle) (o : Nat) : Nat := (b.takeWhile (fun x => x.1 != o)).length
  let f := idx bp (snSync dp)
  let v := idx bc (snSync dc)
  (f, v, f + 1 - v)

/-- Positions of the fused loop whose two bundles meet the unit limits together (R340). -/
def joinedAt (bp bc : List KBundle) (v d : Nat) : List Nat :=
  let posC (k : Nat) : Nat := if k < v then k else k + d
  (List.range bp.length).filter (fun i =>
    match bp[i]?, ((List.range bc.length).find? (fun k => posC k == i)).bind (fun k => bc[k]?) with
    | some x, some y =>
      let all := kSlots x ++ kSlots y
      all.all (fun z => slotCls z == 14 || (all.filter (fun w => unitGroup (slotCls w) == unitGroup (slotCls z))).length ≤ unitLimit (unitGroup (slotCls z)))
    | _, _ => false)

/-- Tiles, windows and pending results of both fit one context: reason 8. -/
def spaceFits (p c : Launch) (dp dc : List Byte) (kp kc : List KBundle) : Bool :=
  let f (o : Nat) : Nat := numAt p.packet o 2 + numAt c.packet o 2
  let y := syncPlaces dp dc (bodyOf dp kp) (bodyOf dc kc)
  p.ntiles + c.ntiles ≤ 16 && f 0x2C ≤ 1024 && f 0x2E ≤ 768 && f 0x30 ≤ 256 && fusedPending ⟨p, dp, kp⟩ ⟨c, dc, kc⟩ y.2.1 y.2.2 (joinedAt (bodyOf dp kp) (bodyOf dc kc) y.2.1 y.2.2) ≤ 64

/-- What a pair takes in the Fuller's code area: its bundles twice over, for the code with its origin bits and for its PC map, and the mapping
table of C's registers (R339, R345). -/
def roomOf (kp kc : List KBundle) : Nat := ((kp ++ kc).map (fun x => 8 * x.2.1.length)).foldl Nat.add 64

/-- A place of n bytes in the Fuller's code area beside those that accepted pairs have; none where there is no room. -/
def State.codeRoom (s : State) (n : Nat) : Option Nat :=
  let base := wfld (s.reg 0x220000) 12 52 * 4096
  let used := s.launches.filterMap (fun l => l.fuse.bind (fun f => if f.room = 0 then none else some (f.at_ - base, f.room)))
  (fitBase (wfld (s.reg 0x220008) 0 32 * 1024) n used).map (fun o => base + o)

/-- The first condition of Table 25.2 that holds; 0 for none. -/
def State.refusal (s : State) (p c : Launch) : Nat :=
  let kp := s.kernelOf p
  let kc := s.kernelOf c
  match p.code.splice, c.code.splice with
  | some dp, some dc =>
    let bp := bodyOf dp kp
    let bc := bodyOf dc kc
    if !noteFits 0 p dp kp || !noteFits 1 c dc kc then 1
    else if pkGW p.packet ≠ pkGW c.packet ∨ pkTasks p.packet ≠ pkTasks c.packet then 2
    else if s.tripOf p dp = 0 ∨ s.tripOf p dp ≠ s.tripOf c dc then 3
    else if snPath dp ≠ snPath dc ∨ snLen dp ≠ snLen dc ∨ p.code.stepping ≠ c.code.stepping then 4
    else if !bodyFits dp bp || !bodyFits dc bc then 5
    else if !flowFits dp kp || !flowFits dc kc then 6
    else if !regsFit p.code c.code kp kc then 7
    else if !spaceFits p c dp dc kp kc then 8
    else if p.fdfl.testBit 0 || c.fdfl.testBit 0 then 9
    else if (s.codeRoom (roomOf kp kc)).isNone then 10
    else 0
  | _, _ => 1

/-- An accepted pair: the Fuller writes the fused code (R345), each launch holds its part of it, and CFLAGS bit 0 is set (R347). -/
def State.fuse (s : State) (p c : Launch) : State :=
  match p.code.splice, c.code.splice with
  | some dp, some dc =>
    let kp := s.kernelOf p
    let kc := s.kernelOf c
    let bp := bodyOf dp kp
    let bc := bodyOf dc kc
    let (f, v, d) := syncPlaces dp dc bp bc
    let js := joinedAt bp bc v d
    let n := roomOf kp kc
    let a := (s.codeRoom n).getD 0
    let words (k : List KBundle) : List (Nat × List Nat) := k.map (fun x => (x.1, x.2.1))
    let table := fusedMap p.code c.code (clipsOf kp, clipsOf kc)
    let s1 : State := { s.devPut a ((List.range n).map (Config.fusedByte s.free)) with free := s.free + 1 }
    let t := s1.setLaunch { p with cflags := Nat.lor p.cflags 1, fuse := some ⟨c.arr, 1, dp, dc, bp.map Prod.fst, f, d, js, a, n, words kp, table⟩ }
    t.setLaunch { c with cflags := Nat.lor c.cflags 1, fuse := some ⟨p.arr, 2, dc, dp, bc.map Prod.fst, v, d, js, a, 0, words kc, table⟩ }
  | _, _ => s

/-! The offer (R335). -/

/-- A packet or pool record that is blocked at the head of what it came by (R335). -/
structure Blocked where
  src : Source
  packet : List Byte
  chain : List Rcb
  link : Nat
  code : CodeObj
  space : Word
  /-- the state with the walker's marks -/
  at_ : State
  /-- what takes the packet from its queue or pool once it is handled -/
  take : State → State

/-- A packet that has passed checks 1 to 3. -/
def State.passed3 (t : State) (src : Source) (p : List Byte) (take : State → State) : Option Blocked :=
  if !t.check1 src p then none
  else match t.check2 p with
    | none => none
    | some (ch, n) =>
      let sp := BitVec.ofNat 64 (effR 8 Rcb.ptroot ch)
      match t.codeAt sp (pkCode p) with
      | none => none
      | some k => if codeFits p k then some ⟨src, p, ch, n, k, sp, t, take⟩ else none

/-- The packet that a queue is blocked at. -/
def State.blockedAt (s : State) (q : Nat) : Option Blocked :=
  match s.qdesc q with
  | none => none
  | some d =>
    if d.flags % 2 = 0 ∨ s.deadq.contains q ∨ d.widx ≤ d.ridx ∨ (tabGet 0 s.wake q).toNat ≤ d.ridx then none
    else match s.queueSpace d with
      | none => none
      | some root => match s.useRead root 4 (d.slot d.ridx) 128 with
        | none => none
        | some (t, p) => t.passed3 ⟨q, d.qrcb, none, (q, d.ridx)⟩ p (fun u => u.devNat (d.addr + 0x10) 8 (d.ridx + 1))

/-- The records that the pools in the subtree of a queue's owner are blocked at. -/
def State.blockedPools (s : State) (q : Nat) : List Blocked :=
  match s.qdesc q with
  | none => []
  | some d => if d.flags % 2 = 0 ∨ s.deadq.contains q then []
    else (s.pools.filter (fun r => s.under d.qrcb r)).filterMap (fun rcb =>
      match s.poolHead q rcb with
      | some h => if h.lost then none else s.passed3 h.src (h.entry.take 128) (fun u => u.poolPop rcb h)
      | none => none)

/-- Whether a dependence entry is the join counter of a launch: one place in memory. -/
def State.sameCounter (s : State) (sp : Word) (d : List Byte) (l : Launch) : Bool :=
  pkJctr l.packet != 0 && numAt d 0 1 == 2
    && (match s.useAddr sp (BitVec.ofNat 64 (numAt d 8 8)) false, s.useAddr l.ptroot (pkJctr l.packet) false with
      | some (a, _), some (b, _) => a == b
      | _, _ => false)

/-- The pair of a launch and a blocked packet, offered to the Fuller once; none where there is no such pair. -/
def State.offer (s : State) (p : Launch) (b : Blocked) : Option State :=
  match b.at_.depsOf b.space b.packet with
  | none => none
  | some (u, ds) =>
    let r := u.depTest b.src b.space 0 ds
    match r.2 with
    | [j] =>
      if !(numAt b.packet 0x32 2).testBit 1 || !r.1.sameCounter b.space (ds.getD j []) p || s.noSplice.any (fun x => x.1 == p.arr && x.2.1 == b.src.key)
      then none
      else
        let c := r.1.newLaunch b.src b.packet b.chain b.link 0 b.code
        match r.1.refusal p c with
        | 0 =>
          let a := r.1.nextArr
          some (match r.1.checks567 b.src b.packet b.chain b.link b.code with
            | none => r.1
            | some w =>
              let x := b.take w
              match (if w.nextArr = a + 1 then x.launch? a else none), x.launch? p.arr with
              | some m, some p1 => (x.fuse p1 m).endReserve
              | _, _ => x)
        | e =>
          let w : State := { r.1 with noSplice := r.1.noSplice ++ [(p.arr, b.src.key, e)] }
          some (w.setLaunch { p with cflags := Nat.lor (p.cflags % 16 + p.cflags / 256 * 256) (2 + 16 * e) })
    | _ => none

/-- A launch is offered with what a queue, or a pool of its owner's subtree, is blocked at. -/
def State.offers (s : State) (p : Launch) (q : Nat) : State :=
  (((s.blockedAt q).toList ++ s.blockedPools q).findSome? (s.offer p)).getD s

/-- SPLICE_PAIR (R335, R336): feature 1 accepted, P admitted with PROD set and no task placed. -/
def execSplicePair (parr q : Nat) (s : State) : Res :=
  .next (match s.launch? parr with
    | some p =>
      if s.feat 1 && (numAt p.packet 0x32 2).testBit 0 && p.placed == 0 && p.inHeap && p.fuse.isNone && p.capture.isNone then (s.offers p q).unblock else s
    | none => s)

end Sys2Proof.Machine
end

