-- ==== Sys2Proof/Machine/Dispatch.lean ====
section
/-! DEFINITION. One arm for each instruction: its meaning. -/

namespace Sys2Proof.Machine

def exec (i : Instr) (s : State) : Host.Outcome State Fault Refusal :=
  match i with
  | .nop k => Sys2Proof.Machine.execNop k s
  | .add d a b => Sys2Proof.Machine.execAdd d a b s
  | .sub d a b => Sys2Proof.Machine.execSub d a b s
  | .mul d a b => Sys2Proof.Machine.execMul d a b s
  | .mulh d a b => Sys2Proof.Machine.execMulh d a b s
  | .mulhu d a b => Sys2Proof.Machine.execMulhu d a b s
  | .div d a b => Sys2Proof.Machine.execDiv d a b s
  | .divu d a b => Sys2Proof.Machine.execDivu d a b s
  | .rem d a b => Sys2Proof.Machine.execRem d a b s
  | .remu d a b => Sys2Proof.Machine.execRemu d a b s
  | .and d a b => Sys2Proof.Machine.execAnd d a b s
  | .or d a b => Sys2Proof.Machine.execOr d a b s
  | .xor d a b => Sys2Proof.Machine.execXor d a b s
  | .andn d a b => Sys2Proof.Machine.execAndn d a b s
  | .shl d a b => Sys2Proof.Machine.execShl d a b s
  | .shr d a b => Sys2Proof.Machine.execShr d a b s
  | .sar d a b => Sys2Proof.Machine.execSar d a b s
  | .min d a b => Sys2Proof.Machine.execMin d a b s
  | .max d a b => Sys2Proof.Machine.execMax d a b s
  | .minu d a b => Sys2Proof.Machine.execMinu d a b s
  | .maxu d a b => Sys2Proof.Machine.execMaxu d a b s
  | .clz d a => Sys2Proof.Machine.execClz d a s
  | .popc d a => Sys2Proof.Machine.execPopc d a s
  | .addx2 d a b => Sys2Proof.Machine.execAddx2 d a b s
  | .addx3 d a b => Sys2Proof.Machine.execAddx3 d a b s
  | .addx4 d a b => Sys2Proof.Machine.execAddx4 d a b s
  | .movi d i1 => Sys2Proof.Machine.execMovi d i1 s
  | .cmpeq p c a b => Sys2Proof.Machine.execCmpeq p c a b s
  | .cmpne p c a b => Sys2Proof.Machine.execCmpne p c a b s
  | .cmplt p c a b => Sys2Proof.Machine.execCmplt p c a b s
  | .cmple p c a b => Sys2Proof.Machine.execCmple p c a b s
  | .cmpltu p c a b => Sys2Proof.Machine.execCmpltu p c a b s
  | .cmpleu p c a b => Sys2Proof.Machine.execCmpleu p c a b s
  | .movt d a n p => Sys2Proof.Machine.execMovt d a n p s
  | .plog d f x y => Sys2Proof.Machine.execPlog d f x y s
  | .pmov p a => Sys2Proof.Machine.execPmov p a s
  | .pget d => Sys2Proof.Machine.execPget d s
  | .mfs d n => Sys2Proof.Machine.execMfs d n s
  | .mts n a => Sys2Proof.Machine.execMts n a s
  | .cmpt a b => Sys2Proof.Machine.execCmpt a b s
  | .bfx d a b => Sys2Proof.Machine.execBfx d a b s
  | .bfi d a b => Sys2Proof.Machine.execBfi d a b s
  | .vaddf d a b => Sys2Proof.Machine.execVaddf d a b s
  | .vsubf d a b => Sys2Proof.Machine.execVsubf d a b s
  | .vmulf d a b => Sys2Proof.Machine.execVmulf d a b s
  | .vfmaf d a b => Sys2Proof.Machine.execVfmaf d a b s
  | .vfmsf d a b => Sys2Proof.Machine.execVfmsf d a b s
  | .vminf d a b => Sys2Proof.Machine.execVminf d a b s
  | .vmaxf d a b => Sys2Proof.Machine.execVmaxf d a b s
  | .vabsf d a => Sys2Proof.Machine.execVabsf d a s
  | .vnegf d a => Sys2Proof.Machine.execVnegf d a s
  | .vceqf m a b => Sys2Proof.Machine.execVceqf m a b s
  | .vcltf m a b => Sys2Proof.Machine.execVcltf m a b s
  | .vclef m a b => Sys2Proof.Machine.execVclef m a b s
  | .vcunf m a b => Sys2Proof.Machine.execVcunf m a b s
  | .vaddi d a b => Sys2Proof.Machine.execVaddi d a b s
  | .vsubi d a b => Sys2Proof.Machine.execVsubi d a b s
  | .vmuli d a b => Sys2Proof.Machine.execVmuli d a b s
  | .vmulhi d a b => Sys2Proof.Machine.execVmulhi d a b s
  | .vmini d a b => Sys2Proof.Machine.execVmini d a b s
  | .vmaxi d a b => Sys2Proof.Machine.execVmaxi d a b s
  | .vand d a b => Sys2Proof.Machine.execVand d a b s
  | .vor d a b => Sys2Proof.Machine.execVor d a b s
  | .vxor d a b => Sys2Proof.Machine.execVxor d a b s
  | .vshl d a b => Sys2Proof.Machine.execVshl d a b s
  | .vshr d a b => Sys2Proof.Machine.execVshr d a b s
  | .vsar d a b => Sys2Proof.Machine.execVsar d a b s
  | .vceqi m a b => Sys2Proof.Machine.execVceqi m a b s
  | .vclti m a b => Sys2Proof.Machine.execVclti m a b s
  | .vcltu m a b => Sys2Proof.Machine.execVcltu m a b s
  | .vaddsi d a b => Sys2Proof.Machine.execVaddsi d a b s
  | .vsel d a b => Sys2Proof.Machine.execVsel d a b s
  | .vbc d a => Sys2Proof.Machine.execVbc d a s
  | .vmov d a => Sys2Proof.Machine.execVmov d a s
  | .naddB d a b => Sys2Proof.Machine.execNaddB d a b s
  | .nsubB d a b => Sys2Proof.Machine.execNsubB d a b s
  | .nmulB d a b => Sys2Proof.Machine.execNmulB d a b s
  | .nfmaB d a b => Sys2Proof.Machine.execNfmaB d a b s
  | .nminB d a b => Sys2Proof.Machine.execNminB d a b s
  | .nmaxB d a b => Sys2Proof.Machine.execNmaxB d a b s
  | .nceqB m a b => Sys2Proof.Machine.execNceqB m a b s
  | .ncltB m a b => Sys2Proof.Machine.execNcltB m a b s
  | .naddH d a b => Sys2Proof.Machine.execNaddH d a b s
  | .nsubH d a b => Sys2Proof.Machine.execNsubH d a b s
  | .nmulH d a b => Sys2Proof.Machine.execNmulH d a b s
  | .nminH d a b => Sys2Proof.Machine.execNminH d a b s
  | .nmaxH d a b => Sys2Proof.Machine.execNmaxH d a b s
  | .naddQ d a b => Sys2Proof.Machine.execNaddQ d a b s
  | .nsubQ d a b => Sys2Proof.Machine.execNsubQ d a b s
  | .nminQ d a b => Sys2Proof.Machine.execNminQ d a b s
  | .nmaxQ d a b => Sys2Proof.Machine.execNmaxQ d a b s
  | .naddsQ d a b => Sys2Proof.Machine.execNaddsQ d a b s
  | .vcvt d a c => Sys2Proof.Machine.execVcvt d a c s
  | .vred d a o => Sys2Proof.Machine.execVred d a o s
  | .vscan d a o => Sys2Proof.Machine.execVscan d a o s
  | .vshuf d a b => Sys2Proof.Machine.execVshuf d a b s
  | .vrot d a b => Sys2Proof.Machine.execVrot d a b s
  | .vcx d a dir ty k => Sys2Proof.Machine.execVcx d a dir ty k s
  | .vhist d a n => Sys2Proof.Machine.execVhist d a n s
  | .vmerge d a n => Sys2Proof.Machine.execVmerge d a n s
  | .vfind d m w => Sys2Proof.Machine.execVfind d m w s
  | .vlane d a b => Sys2Proof.Machine.execVlane d a b s
  | .vins d a b => Sys2Proof.Machine.execVins d a b s
  | .msel n => Sys2Proof.Machine.execMsel n s
  | .mlog d f x y => Sys2Proof.Machine.execMlog d f x y s
  | .msetn m a w => Sys2Proof.Machine.execMsetn m a w s
  | .mpop d w m => Sys2Proof.Machine.execMpop d w m s
  | .vcmpt a b => Sys2Proof.Machine.execVcmpt a b s
  | .frcp d a => Sys2Proof.Machine.execFrcp d a s
  | .frsq d a => Sys2Proof.Machine.execFrsq d a s
  | .fsqrt d a => Sys2Proof.Machine.execFsqrt d a s
  | .fexp2 d a => Sys2Proof.Machine.execFexp2 d a s
  | .flog2 d a => Sys2Proof.Machine.execFlog2 d a s
  | .fsig d a => Sys2Proof.Machine.execFsig d a s
  | .ftanh d a => Sys2Proof.Machine.execFtanh d a s
  | .ferf d a => Sys2Proof.Machine.execFerf d a s
  | .fsinp d a => Sys2Proof.Machine.execFsinp d a s
  | .fcosp d a => Sys2Proof.Machine.execFcosp d a s
  | .frcpB d a => Sys2Proof.Machine.execFrcpB d a s
  | .frsqB d a => Sys2Proof.Machine.execFrsqB d a s
  | .fsqrtB d a => Sys2Proof.Machine.execFsqrtB d a s
  | .fexp2B d a => Sys2Proof.Machine.execFexp2B d a s
  | .flog2B d a => Sys2Proof.Machine.execFlog2B d a s
  | .fsigB d a => Sys2Proof.Machine.execFsigB d a s
  | .ftanhB d a => Sys2Proof.Machine.execFtanhB d a s
  | .ferfB d a => Sys2Proof.Machine.execFerfB d a s
  | .fsinpB d a => Sys2Proof.Machine.execFsinpB d a s
  | .fcospB d a => Sys2Proof.Machine.execFcospB d a s
  | .ldB d b x => Sys2Proof.Machine.execLdB d b x s
  | .ldBu d b x => Sys2Proof.Machine.execLdBu d b x s
  | .ldH d b x => Sys2Proof.Machine.execLdH d b x s
  | .ldHu d b x => Sys2Proof.Machine.execLdHu d b x s
  | .ldW d b x => Sys2Proof.Machine.execLdW d b x s
  | .ldWu d b x => Sys2Proof.Machine.execLdWu d b x s
  | .ldD d b x => Sys2Proof.Machine.execLdD d b x s
  | .stB v b x => Sys2Proof.Machine.execStB v b x s
  | .stH v b x => Sys2Proof.Machine.execStH v b x s
  | .stW v b x => Sys2Proof.Machine.execStW v b x s
  | .stD v b x => Sys2Proof.Machine.execStD v b x s
  | .vldF32 d b x => Sys2Proof.Machine.execVldF32 d b x s
  | .vldF16 d b x => Sys2Proof.Machine.execVldF16 d b x s
  | .vldBf16 d b x => Sys2Proof.Machine.execVldBf16 d b x s
  | .vldI8 d b x => Sys2Proof.Machine.execVldI8 d b x s
  | .vldI8n d b x => Sys2Proof.Machine.execVldI8n d b x s
  | .vldB18 d b x => Sys2Proof.Machine.execVldB18 d b x s
  | .vld d b x => Sys2Proof.Machine.execVld d b x s
  | .vstF32 v b x => Sys2Proof.Machine.execVstF32 v b x s
  | .vstF16 v b x => Sys2Proof.Machine.execVstF16 v b x s
  | .vstBf16 v b x => Sys2Proof.Machine.execVstBf16 v b x s
  | .vstI8 v b x => Sys2Proof.Machine.execVstI8 v b x s
  | .vstI8n v b x => Sys2Proof.Machine.execVstI8n v b x s
  | .vstB18 v b x => Sys2Proof.Machine.execVstB18 v b x s
  | .vst v b x => Sys2Proof.Machine.execVst v b x s
  | .vlds d b o x => Sys2Proof.Machine.execVlds d b o x s
  | .vgath d b o x => Sys2Proof.Machine.execVgath d b o x s
  | .vscat d b o x => Sys2Proof.Machine.execVscat d b o x s
  | .amo d b o x => Sys2Proof.Machine.execAmo d b o x s
  | .cas d b o x => Sys2Proof.Machine.execCas d b o x s
  | .fence sc => Sys2Proof.Machine.execFence sc s
  | .fenceRo sc => Sys2Proof.Machine.execFenceRo sc s
  | .drain => Sys2Proof.Machine.execDrain s
  | .pref b x => Sys2Proof.Machine.execPref b x s
  | .mmaI8 t a b k r => Sys2Proof.Machine.execMmaI8 t a b k r s
  | .mmaI8p t a b k r => Sys2Proof.Machine.execMmaI8p t a b k r s
  | .mmaBf16 t a b k r => Sys2Proof.Machine.execMmaBf16 t a b k r s
  | .mmaF16 t a b k r => Sys2Proof.Machine.execMmaF16 t a b k r s
  | .mmaBf16p t a b k r => Sys2Proof.Machine.execMmaBf16p t a b k r s
  | .mmazI8 t a b k r => Sys2Proof.Machine.execMmazI8 t a b k r s
  | .mmazI8p t a b k r => Sys2Proof.Machine.execMmazI8p t a b k r s
  | .mmazBf16 t a b k r => Sys2Proof.Machine.execMmazBf16 t a b k r s
  | .mmazF16 t a b k r => Sys2Proof.Machine.execMmazF16 t a b k r s
  | .mmazBf16p t a b k r => Sys2Proof.Machine.execMmazBf16p t a b k r s
  | .sacc t ts i1 a k => Sys2Proof.Machine.execSacc t ts i1 a k s
  | .tclr t k => Sys2Proof.Machine.execTclr t k s
  | .tcvt t f a i1 k => Sys2Proof.Machine.execTcvt t f a i1 k s
  | .tld t f a k => Sys2Proof.Machine.execTld t f a k s
  | .tred t o v k => Sys2Proof.Machine.execTred t o v k s
  | .sscan t v k => Sys2Proof.Machine.execSscan t v k s
  | .tdig t w v k => Sys2Proof.Machine.execTdig t w v k s
  | .tcopy t ts k => Sys2Proof.Machine.execTcopy t ts k s
  | .mma64 t a b k r => Sys2Proof.Machine.execMma64 t a b k r s
  | .xpush36 l a => Sys2Proof.Machine.execXpush36 l a s
  | .xpush18 l a => Sys2Proof.Machine.execXpush18 l a s
  | .xpush9 l a => Sys2Proof.Machine.execXpush9 l a s
  | .xpop d => Sys2Proof.Machine.execXpop d s
  | .xplane d a tr => Sys2Proof.Machine.execXplane d a tr s
  | .xrst => Sys2Proof.Machine.execXrst s
  | .br p n o => Sys2Proof.Machine.execBr p n o s
  | .bri p n a => Sys2Proof.Machine.execBri p n a s
  | .call p n o => Sys2Proof.Machine.execCall p n o s
  | .calli p n a => Sys2Proof.Machine.execCalli p n a s
  | .ret p n => Sys2Proof.Machine.execRet p n s
  | .loop p n o => Sys2Proof.Machine.execLoop p n o s
  | .loopw p n o => Sys2Proof.Machine.execLoopw p n o s
  | .exit p n => Sys2Proof.Machine.execExit p n s
  | .yield p n => Sys2Proof.Machine.execYield p n s
  | .copy d a ch => Sys2Proof.Machine.execCopy d a ch s
  | .coll d a => Sys2Proof.Machine.execColl d a s
  | .waittl tl a => Sys2Proof.Machine.execWaittl tl a s
  | .tlrd d tl => Sys2Proof.Machine.execTlrd d tl s
  | .waitwp ch a => Sys2Proof.Machine.execWaitwp ch a s
  | .launch d a => Sys2Proof.Machine.execLaunch d a s
  | .launcht a => Sys2Proof.Machine.execLauncht a s
  | .join a => Sys2Proof.Machine.execJoin a s
  | .bar cl => Sys2Proof.Machine.execBar cl s
  | .signal a b => Sys2Proof.Machine.execSignal a b s
  | .trap c => Sys2Proof.Machine.execTrap c s
  | .rft => Sys2Proof.Machine.execRft s
  | .cropen o => Sys2Proof.Machine.execCropen o s
  | .crclose => Sys2Proof.Machine.execCrclose s
  | .modew a => Sys2Proof.Machine.execModew a s
  | .vwin a => Sys2Proof.Machine.execVwin a s
  | .ilock d a b => Sys2Proof.Machine.execIlock d a b s
  | .iunlk a b => Sys2Proof.Machine.execIunlk a b s
  | .wpset w a => Sys2Proof.Machine.execWpset w a s
  | .brk c => Sys2Proof.Machine.execBrk c s
  | .hintNone kind p => Sys2Proof.Machine.execHintNone kind p s
  | .succPrefetch p => Sys2Proof.Machine.execSuccPrefetch p s
  | .branchLikely p => Sys2Proof.Machine.execBranchLikely p s
  | .locality p => Sys2Proof.Machine.execLocality p s
  | .resultArrival c i1 => Sys2Proof.Machine.execResultArrival c i1 s
  | .pageWalk c i1 => Sys2Proof.Machine.execPageWalk c i1 s
  | .loadReply c i1 err => Sys2Proof.Machine.execLoadReply c i1 err s
  | .trapDelivery c => Sys2Proof.Machine.execTrapDelivery c s
  | .rankEnd c => Sys2Proof.Machine.execRankEnd c s
  | .xComplete core => Sys2Proof.Machine.execXComplete core s
  | .engineFinish c tl => Sys2Proof.Machine.execEngineFinish c tl s
  | .leafHash c => Sys2Proof.Machine.execLeafHash c s
  | .millinerSlot m q => Sys2Proof.Machine.execMillinerSlot m q s
  | .launchComplete arr => Sys2Proof.Machine.execLaunchComplete arr s
  | .shadowReplay arr => Sys2Proof.Machine.execShadowReplay arr s
  | .splicePair parr q => Sys2Proof.Machine.execSplicePair parr q s
  | .poolSpill rcb => Sys2Proof.Machine.execPoolSpill rcb s
  | .gangPop g => Sys2Proof.Machine.execGangPop g s
  | .preempt g drain => Sys2Proof.Machine.execPreempt g drain s
  | .gangResume g => Sys2Proof.Machine.execGangResume g s
  | .intervalSigning n => Sys2Proof.Machine.execIntervalSigning n s
  | .evacDrainDone n => Sys2Proof.Machine.execEvacDrainDone n s
  | .selfTestAbandon n => Sys2Proof.Machine.execSelfTestAbandon n s
  | .ageProm c => Sys2Proof.Machine.execAgeProm c s
  | .unwind c => Sys2Proof.Machine.execUnwind c s
  | .gangStop c => Sys2Proof.Machine.execGangStop c s
  | .millinerHeartbeat m => Sys2Proof.Machine.execMillinerHeartbeat m s
  | .millinerTakeover m => Sys2Proof.Machine.execMillinerTakeover m s
  | .standbyBegin => Sys2Proof.Machine.execStandbyBegin s
  | .dispatch => Sys2Proof.Machine.execDispatch s
  | .budgetReset rcb => Sys2Proof.Machine.execBudgetReset rcb s
  | .uncontained arr => Sys2Proof.Machine.execUncontained arr s
  | .bisect logx logy res rcb => Sys2Proof.Machine.execBisect logx logy res rcb s
  | .sign n res rcb => Sys2Proof.Machine.execSign n res rcb s
  | .capture rcb pkt task rank leaf cap capsz => Sys2Proof.Machine.execCapture rcb pkt task rank leaf cap capsz s
  | .referee recx recy cap res which rcb => Sys2Proof.Machine.execReferee recx recy cap res which rcb s
  | .wakeWrite w v => Sys2Proof.Machine.execWakeWrite w v s
  | .tick => Sys2Proof.Machine.execTick s
  | .clockChange cl set => Sys2Proof.Machine.execClockChange cl set s
  | .powerThrottle cl => Sys2Proof.Machine.execPowerThrottle cl s
  | .uncorrectable e => Sys2Proof.Machine.execUncorrectable e s
  | .corrected stk bg => Sys2Proof.Machine.execCorrected stk bg s
  | .stackFence stk => Sys2Proof.Machine.execStackFence stk s
  | .treeFence d e => Sys2Proof.Machine.execTreeFence d e s
  | .selfTestStart n => Sys2Proof.Machine.execSelfTestStart n s
  | .selfTestComplete n ok uclass inst synd => Sys2Proof.Machine.execSelfTestComplete n ok uclass inst synd s
  | .scan n => Sys2Proof.Machine.execScan n s
  | .scanComplete n ok uclass inst synd => Sys2Proof.Machine.execScanComplete n ok uclass inst synd s
  | .eyeMargin p l w h => Sys2Proof.Machine.execEyeMargin p l w h s
  | .flitReceive p tx flit => Sys2Proof.Machine.execFlitReceive p tx flit s
  | .flitReplay p l flit => Sys2Proof.Machine.execFlitReplay p l flit s
  | .peerEntry copy data => Sys2Proof.Machine.execPeerEntry copy data s
  | .linkh p v => Sys2Proof.Machine.execLinkh p v s
  | .tlbInvalidate v => Sys2Proof.Machine.execTlbInvalidate v s
  | .tlbInvComplete => Sys2Proof.Machine.execTlbInvComplete s
  | .chainBind n v => Sys2Proof.Machine.execChainBind n v s
  | .logrd n v => Sys2Proof.Machine.execLogrd n v s
  | .loadreq v => Sys2Proof.Machine.execLoadreq v s
  | .load => Sys2Proof.Machine.execLoad s
  | .unload => Sys2Proof.Machine.execUnload s
  | .debugStop n v => Sys2Proof.Machine.execDebugStop n v s
  | .debugResume n v => Sys2Proof.Machine.execDebugResume n v s
  | .dumpreq v => Sys2Proof.Machine.execDumpreq v s
  | .featlock v => Sys2Proof.Machine.execFeatlock v s
  | .warmStart changed => Sys2Proof.Machine.execWarmStart changed s
  | .coldStart => Sys2Proof.Machine.execColdStart s
  | .powerOn => Sys2Proof.Machine.execPowerOn s
  | .fundReset => Sys2Proof.Machine.execFundReset s
  | .stackTrained stk ok => Sys2Proof.Machine.execStackTrained stk ok s
  | .clusterReady cl bad => Sys2Proof.Machine.execClusterReady cl bad s
  | .millinerLoaded m ok => Sys2Proof.Machine.execMillinerLoaded m ok s
  | .brimTrained p ok => Sys2Proof.Machine.execBrimTrained p ok s
  | .vfFlr v => Sys2Proof.Machine.execVfFlr v s
  | .zoneWordWrite n v => Sys2Proof.Machine.execZoneWordWrite n v s
  | .zoneTrip n kind => Sys2Proof.Machine.execZoneTrip n kind s
  | .zoneTripClear n => Sys2Proof.Machine.execZoneTripClear n s
  | .clockRestore cl => Sys2Proof.Machine.execClockRestore cl s
  | .evac v => Sys2Proof.Machine.execEvac v s
  | .evacValveClosed n => Sys2Proof.Machine.execEvacValveClosed n s
  | .evacDry n => Sys2Proof.Machine.execEvacDry n s
  | .evacTimeout n => Sys2Proof.Machine.execEvacTimeout n s
  | .refill v => Sys2Proof.Machine.execRefill v s
  | .refillComplete n => Sys2Proof.Machine.execRefillComplete n s
  | .refillTimeout n => Sys2Proof.Machine.execRefillTimeout n s
  | .getVersion => Sys2Proof.Machine.execGetVersion s
  | .getCapabilities => Sys2Proof.Machine.execGetCapabilities s
  | .negotiateAlgorithms => Sys2Proof.Machine.execNegotiateAlgorithms s
  | .getDigests => Sys2Proof.Machine.execGetDigests s
  | .getCertificate slot off len => Sys2Proof.Machine.execGetCertificate slot off len s
  | .challenge nonce => Sys2Proof.Machine.execChallenge nonce s
  | .getMeasurements index nonce => Sys2Proof.Machine.execGetMeasurements index nonce s
  | .vendorSlhSig => Sys2Proof.Machine.execVendorSlhSig s
  | .vendorSlhCert => Sys2Proof.Machine.execVendorSlhCert s
  | .spdmUnsupported code => Sys2Proof.Machine.execSpdmUnsupported code s
  | .ctlWrite off v => Sys2Proof.Machine.execCtlWrite off v s
  | .wpAdvance c ch n => Sys2Proof.Machine.execWpAdvance c ch n s
  | .dumpGranule => Sys2Proof.Machine.execDumpGranule s
  | .aperture vf off w => Sys2Proof.Machine.execAperture vf off w s
  | .vfEnable on => Sys2Proof.Machine.execVfEnable on s
  | .qdescWrite q v => Sys2Proof.Machine.execQdescWrite q v s

end Sys2Proof.Machine
end

