-- ==== Sys2Proof/Machine/Issue.lean ====
section
/-! DEFINITION. The issue of a bundle (R39, R45, R47, R95 to R97, R126, R169, R212): its slots run one after another on the state that
stood before it, and the boundary then decides whether they take effect. -/

namespace Sys2Proof.Machine

/-- Where a slot's accesses stand in the order of its bundle: loads and engine operations, then atomics, then stores (R169, R185). -/
def slotPhase (x : Slot) : Nat :=
  match x.instr with
  | .amo .. => 2
  | .cas .. => 2
  | .join _ => 2
  | .signal .. => 3
  | .vscat .. => 3
  | _ => if slotCls x = 5 ∧ (8 ≤ x.word / 2 ^ 18 % 64 ∧ x.word / 2 ^ 18 % 64 < 16 ∨ 24 ≤ x.word / 2 ^ 18 % 64 ∧ x.word / 2 ^ 18 % 64 < 32) then 3
    else if slotCls x < 5 then 0 else 1

/-- The slots of a bundle in the order in which they run. -/
def inPhases (xs : List Slot) : List Slot := (List.range 4).flatMap (fun p => xs.filter (fun x => slotPhase x == p))

/-- Makes a slot the one being executed. -/
def State.atSlot (s : State) (x : Slot) : State := { s with iss := { s.iss with ord := x.ord, word := x.word } }

/-- Runs slots in turn. -/
def runSlots : List Slot → State → Res
  | [], s => .next s
  | x :: xs, s => match exec x.instr (s.atSlot x) with
    | .next t => runSlots xs t
    | r => r

/-- Whether the current rank waits for the gang's lead: for its decision, where the bundle has B slots (R37), or for its part in a gang
operation (R212). -/
def State.mustWait (s : State) (exits : Bool) : Bool :=
  match s.gang? s.ctx.gang with
  | none => false
  | some g =>
    (exits && !s.isLead && (g.decided s.ctx.bseq).isNone)
    || (g.opened.contains s.ctx.rank && !s.isLead
      && (s.actives g.id).any (fun c => c.rank == s.lead g.id && c.bseq ≤ s.ctx.bseq))

/-- The gang's decision of the current bundle (R37). -/
def State.decision? (s : State) : Option (Nat × Word) := (s.gang? s.ctx.gang).bind (fun g => g.decided s.ctx.bseq)

/-- The decision under which the other slots of a bundle run (R37); `exits` says whether it has B slots. -/
def State.steer (s : State) (exits : Bool) : State :=
  if s.ctx.nrank ≤ 1 then s
  else if s.mustWait exits then { s with iss := { s.iss with hold := some .wait } }
  else if !exits then s
  else match s.decision? with
    | none => s
    | some d => if d = s.iss.decision then s.agree else s.dissent d

/-- The exit under which the slots of a bundle run one of whose B slots traps: the gang's where it is decided, else the one that the
tests take; no answer where a predicate cannot be read. -/
def State.trapExit (s : State) (xs : List Slot) : Option Nat :=
  match (if s.ctx.nrank ≤ 1 then none else s.decision?) with
  | some d => some d.1
  | none => s.exitOf (xs.map Slot.instr) 1

/-- Runs a bundle's slots: the B slots first, then those whose path holds. Where a B slot traps, the others still show theirs: the
frame reports the lowest ordinal (R126, R297). Where no exit can be told, only slots without a path tag run. -/
def State.runBundle (s : State) (b : Bundle) : Res :=
  let s0 : State := { s with iss := { npc := s.ctx.pc + BitVec.ofNat 64 (4 * b.len) } }
  let bs := b.slots.filter (fun x => slotCls x == 8)
  let rest := b.slots.filter (fun x => slotCls x != 8)
  match runSlots bs s0 with
  | .next t =>
    if t.iss.hold.isSome then .next t
    else if t.iss.traps.isEmpty then
      let u := t.steer (!bs.isEmpty)
      if u.iss.hold.isSome then .next u
      else runSlots (inPhases (rest.filter (fun x => pathHolds x.path u.iss.decision.1))) u
    else if 1 < s.ctx.nrank && s.mustWait true then .next { t with iss := { t.iss with hold := some .wait, traps := [] } }
    else match s.trapExit bs with
      | some j => runSlots (inPhases (rest.filter (fun x => pathHolds x.path j))) t
      | none => runSlots (inPhases (rest.filter (fun x => x.path == 0))) t
  | r => r

/-- The address of a load; none for any other instruction. -/
def State.loadAddr (s : State) (i : Instr) : Option (SlotR Word) :=
  match i with
  | .ldB _ b x => some (s.maddr b x)
  | .ldBu _ b x => some (s.maddr b x)
  | .ldH _ b x => some (s.maddr b x)
  | .ldHu _ b x => some (s.maddr b x)
  | .ldW _ b x => some (s.maddr b x)
  | .ldWu _ b x => some (s.maddr b x)
  | .ldD _ b x => some (s.maddr b x)
  | .vldF32 _ b x => some (s.maddr b x)
  | .vldF16 _ b x => some (s.maddr b x)
  | .vldBf16 _ b x => some (s.maddr b x)
  | .vldI8 _ b x => some (s.maddr b x)
  | .vldI8n _ b x => some (s.maddr b x)
  | .vldB18 _ b x => some (s.maddr b x)
  | .vld _ b x => some (s.maddr b x)
  | .vlds _ b _ x => some ((s.rdS b).map (fun a => a + vidxDisp x))
  | .vgath _ b _ x => some ((s.rdS b).map (fun a => a + vidxDisp x))
  | _ => none

/-- Whether a load that traps would have left its result at group 13: its address selects a local path. One whose address cannot be read
counts as none (DEDUCED, log 44). -/
def State.localLoad (s : State) (i : Instr) : Bool :=
  match s.loadAddr i with
  | some (.ok a) => !longPath a
  | _ => false

/-- How many results the trapped slots of a bundle would have left pending at its next step. -/
def State.trappedResults (s : State) (b : Bundle) : Nat :=
  let xs := b.slots.filter (fun x => s.iss.traps.any (fun t => t.ordn == x.ord))
  let gs := xs.flatMap (fun x => slotGroups x ++ (if s.localLoad x.instr then [13] else []))
  (gs.filter (fun g => s.iss.advance < s.ctx.latOf g)).length

/-- How many results a bundle that has run leaves pending at its next step, those of its trapped slots included (R47). -/
def State.leavesPending (s : State) (b : Bundle) : Nat := s.ctx.pendingAt s.iss.advance (sortOut s.iss.out) + s.trappedResults b

/-- The trap of the slot of lowest ordinal (R297). -/
def lowestTrap : List Trap → Option Trap
  | [] => none
  | t :: ts => match lowestTrap ts with
    | none => some t
    | some u => if u.ordn < t.ordn then some u else some t

/-- A bundle that is held: it has no effect, and its context leaves selection until something changes (R39). -/
def State.heldBy (s : State) (h : Hold) (t : State) : State :=
  let s1 : State := { s with ctx := { s.ctx with blocked := some h }, iss := {} }
  let r : State := { s with iss := t.iss }
  let u := if s.isLead && t.iss.bslots != 0 then r.record else r
  let blocked (v : State) : State := { v.atGate with iss := {}, ctx := { v.ctx with blocked := some h } }
  match h with
  | .gate => blocked u
  | .mcast a p => blocked (u.bring a p)
  | .poolSpill rcb => { s1 with spills := if s1.spills.contains rcb then s1.spills else s1.spills ++ [rcb] }
  | _ => s1

/-- The origin whose context reports that exactly one closing test of a fused loop held (R341): C. -/
def State.closing (s : State) (t : State) : Option Ctx :=
  match s.mateOf s.ctx, s.fuseOf s.ctx with
  | some m, some f => if closeClash f s.ctx m s.ctx.offset t.iss.taken.isNone then some (if f.origin = 1 then m else s.ctx) else none
  | _, _ => none

/-- The results that the other origin of a fused task has pending: the two share the queue's 64 places (R337). -/
def State.matePending (s : State) : Nat :=
  match s.mateOf s.ctx with
  | some m => m.pendingAt 0 []
  | none => 0

/-- The context that reports a slot's trap: its own, or C at the bundle of its port copy, with that slot's ordinal (R343). -/
def State.trapOwner (s : State) (x : Trap) : State × Trap :=
  match (if x.ofC then s.mateOf s.ctx else none) with
  | none => (s, x)
  | some m => match s.fuseOf m with
    | none => (s, x)
    | some f =>
      let u := (s.focus m.core m.cid).getD s
      let k := match f.code.find? (fun y => y.1 == snCopy f.note) with
        | some y => match decodeBundle y.2 with
          | .ok b => ((b.slots.find? (fun z => match z.instr with
              | .copy .. => true
              | _ => false)).map Slot.ord).getD x.ordn
          | .error _ => x.ordn
        | none => x.ordn
      ({ u with ctx := { u.ctx with pc := u.ctx.text + BitVec.ofNat 64 (snCopy f.note) } }, { x with ofC := false, ordn := k })

/-- A bundle that nothing holds: the illegal-bundle trap of too many pending results, then the slots' traps, or its effects. -/
def State.issueTrap (s : State) (b : Bundle) (t : State) : State :=
  let i := t.iss
  let c : State := { s.clearGate s.ctx.gang with iss := {} }
  let inr := !s.ctx.regions.isEmpty
  if 64 < t.leavesPending b + s.matePending then
    (c.takeTrap { cause := 0x02, inRegion := inr }).unblock
  else match lowestTrap i.traps with
    | some x =>
      let o := c.trapOwner x
      (o.1.takeTrap o.2).unblock
    | none => match s.closing t with
      | some o => (((c.focus o.core o.cid).getD c).takeTrap { cause := 0x0B, inRegion := inr }).unblock
      | none => t.endBundle.unblock

/-- What becomes of a bundle once its slots have run: held, trapped at its own boundary, or carried out (R39, R47, R126). -/
def State.conclude (s : State) (b : Bundle) (t : State) : State :=
  let i := t.iss
  match i.hold with
  | some h => if h.isGate && !i.traps.isEmpty then s.issueTrap b t else s.heldBy h t
  | none => s.issueTrap b t

/-- Whether the next bundle of the current context may be fetched: a drain in the bundle before waits for the loads that it covers, those of
the overflow area among them, and for tcvt writes still to come (R175), and the cluster sequencer does not fetch further ahead of the slowest rank than R35 lets it. -/
def State.mayFetch (s : State) : Bool :=
  !(s.ctx.drains && (s.loads.any (fun l => l.gang == s.ctx.gang && l.core == s.ctx.core) || s.ctx.dq.any (fun p => !p.arrived) || s.tcvtOut))
    && !(1 < s.ctx.nrank && s.presented.isNone && s.farAhead)

/-- Whether another rank of the current context's gang stands at the same bundle, with nothing of its own to come first at its boundary. -/
def State.alongside (s : State) (c : Ctx) : Bool :=
  c.gang == s.ctx.gang && c.rank != s.ctx.rank && c.live && c.stat == .run && c.bseq == s.ctx.bseq && c.pc == s.ctx.pc
    && !c.late && !s.m64Out c && !c.trapped

/-- A trap of the current context's bundle before its slots run, which is taken at its boundary: every rank that stands at the bundle takes
the same trap (R101). -/
def State.fetchTrap (s : State) (t : Trap) : State :=
  let own (c : Ctx) : Trap := { t with inRegion := !c.regions.isEmpty }
  let s1 : State := { s.clearGate s.ctx.gang with iss := {} }
  let s2 := s1.mapGang s.ctx.gang (fun c => if s.alongside c then { c with stat := .stopped (some (own c)) } else c)
  (s2.takeTrap (own s.ctx)).unblock

/-- What holds a part of a bundle once its slots have run, where `traps` tells whether a slot of the bundle traps: a wait for other ranks
then counts no more (R39). -/
def Iss.holds (i : Iss) (traps : Bool) : Option Hold := i.hold.filter (fun h => !(h.isGate && traps))

/-- What becomes of a fused bundle whose parts have run as one (R341): `t` is P's part on the state before, `y` is C's behind it, where P's was
carried out, and `m` is C's context. A hold or a trap of either leaves both, and the checks of R47 and R126 are made of the whole: too many
pending results come first, reported for P (DESIGN CHOICE, log 126), then P's slots, then C's. -/
def State.concludeJoined (s : State) (m : Ctx) (b bc : Bundle) (t w y : State) : State :=
  let atC : State := (s.focus m.core m.cid).getD s
  let c : State := { s.clearGate s.ctx.gang with iss := {} }
  let cc : State := { atC.clearGate m.gang with iss := {} }
  let traps := !t.iss.traps.isEmpty || !y.iss.traps.isEmpty
  match t.iss.holds traps, y.iss.holds traps with
  | some h, _ => s.heldBy h t
  | none, some h => (atC.mapCtx (fun k => if k.gang = s.ctx.gang ∧ k.rank = s.ctx.rank then { k with blocked := some h } else k)).heldBy h y
  | none, none =>
    if 64 < t.leavesPending b + y.leavesPending bc then (c.takeTrap { cause := 0x02, inRegion := !s.ctx.regions.isEmpty }).unblock
    else match lowestTrap t.iss.traps, lowestTrap y.iss.traps with
      | some x, _ =>
        let o := c.trapOwner x
        (o.1.takeTrap o.2).unblock
      | none, some x => (cc.takeTrap x).unblock
      | none, none =>
        if (w.closing y).isSome then (cc.takeTrap { cause := 0x0B, inRegion := !m.regions.isEmpty }).unblock
        else (y.endBundleWith (t.loopFalls ++ y.loopFalls)).unblock

/-- One fused bundle of both origins (R340, R341): both are decoded before either takes effect, and P's part performs before C's. -/
def State.issueJoined (s : State) (m : Ctx) : Res :=
  let atC : State := (s.focus m.core m.cid).getD s
  if !s.mayFetch || !atC.mayFetch then .next (s.heldBy .wait s)
  else match s.fetch with
    | .error t => .next (s.fetchTrap t)
    | .ok (u, b) => match ((u.focus m.core m.cid).getD u).fetch with
      | .error t => .next (atC.fetchTrap t)
      | .ok (v, bc) =>
        let u1 := (v.focus s.ctx.core s.ctx.cid).getD u
        match u1.runBundle b with
        | .next t =>
          let after : State := if t.iss.hold.isNone && t.iss.traps.isEmpty then t.endBundleWith [] else u1
          match after.focus m.core m.cid with
          | none => .next (u1.conclude b t)
          | some w => match w.runBundle bc with
            | .next y => .next (u1.concludeJoined m b bc t w y)
            | r => r
        | r => r

/-- The next bundle of the current context is fetched, decoded and issued; a trap of class 3 is taken at its boundary (R101). -/
def State.issue (s : State) : Res :=
  if !s.mayFetch then .next (s.heldBy .wait s)
  else match s.fetch with
    | .error t => .next (s.fetchTrap t)
    | .ok (u, b) => match u.runBundle b with
      | .next t => .next (u.conclude b t)
      | r => r

end Sys2Proof.Machine
end

