-- ==== Sys2Proof/Machine/Advance.lean ====
section
/-! DEFINITION. What the machine does next (log 2): a bundle of the next ready context, or one of the events that are due by themselves;
and the context in which a single instruction is placed for its fetch (log 10). -/

namespace Sys2Proof.Machine

/-! The next context. -/

/-- How far a core lies after another in the order in which the cores take turns. -/
def coreGap (n k : Nat) : Nat := (k + 383 - n) % 384

/-- Of a list of contexts, one on the core whose turn comes next. -/
def nextCore (n : Nat) : List Ctx → Option Ctx
  | [] => none
  | c :: cs => match nextCore n cs with
    | none => some c
    | some d => if coreGap n c.core ≤ coreGap n d.core then some c else some d

/-- The context that issues next: the primary of the next core that has a ready one. -/
def State.select (s : State) : Option State :=
  match nextCore s.ctx.core (s.live.filter s.ready) with
  | none => none
  | some c => (s.primaryOf c.core).bind (fun p => s.focus p.core p.cid)

/-- The contexts of a core that did not issue wait one cycle more, whether they were ready in it or not (R43, log 84). -/
def State.grow (s : State) (core : Nat) (done : List Nat) : State :=
  s.mapCtx (fun c => if c.core = core ∧ ¬ done.contains (c.cid % 4) then { c with age := c.age + 1 } else c)

/-- The current context goes on: the trap that its boundary holds, a pre-emption that its yield allows, or its next bundle. -/
def State.goOn (s : State) : Res :=
  if s.ctx.trapped && s.atBoundary then .next s.takeBoundary
  else if s.ctx.yielded && s.yieldsTo s.ctx then
    match ((s.gang? s.ctx.gang).filter s.canStop).bind (fun g => s.preemptGang g false) with
    | some t => .next t.unblock
    | none => s.issue
  else match s.joinedWith s.ctx with
    | some m => if m.trapped then .next (((s.focus m.core m.cid).map State.takeBoundary).getD s) else s.issueJoined m
    | none => s.issue

/-! A cycle of a core (R40 to R42). -/

/-- The physical units of a list of unit groups: each with its ordinal among its equals. -/
def unitsGo : List Nat → List Nat → List (Nat × Nat)
  | _, [] => []
  | seen, g :: gs => (g, seen.count g) :: unitsGo (g :: seen) gs

/-- The physical units that the slots of a bundle use (R41): V, N and Q slots count together, and I and H slots use none. -/
def unitsOf (xs : List Slot) : List (Nat × Nat) := unitsGo [] ((xs.filter (fun x => slotCls x < 14)).map (fun x => unitGroup (slotCls x)))

/-- Whether a bundle issues alone in its cycle: it holds trap, rft, cropen or crclose (R41). -/
def issuesAlone (xs : List Slot) : Bool :=
  xs.any (fun x => match x.instr with
    | .trap _ => true
    | .rft => true
    | .cropen _ => true
    | .crclose => true
    | _ => false)

/-- The slots of the bundle that a context would issue now, if it may issue one beside another: no trap of its boundary and no yield comes
first. A fused bundle has those of both origins (R340). -/
def State.aside (s : State) : Option (List Slot) :=
  if !s.ready s.ctx || s.ctx.trapped || (s.ctx.yielded && s.yieldsTo s.ctx) then none
  else match s.fetch, s.joinedWith s.ctx with
    | .ok (_, b), none => if issuesAlone b.slots then none else some b.slots
    | .ok (_, b), some m =>
      if m.trapped then none
      else match (s.focus m.core m.cid).map State.fetch with
        | some (.ok (_, c)) => some (b.slots ++ c.slots)
        | _ => none
    | .error _, _ => none

/-- The secondary of a cycle whose primary uses the units `us`: the next of the contexts that were ready, whose bundle issues whole when it
needs none of them. One that turns out to be held was not ready, and the next in the order is the secondary. -/
def State.secondary (us : List (Nat × Nat)) : Nat → List Ctx → State → Res
  | 0, _, s => .next s
  | n + 1, cs, s => match (primary cs).bind (fun c => s.focus c.core c.cid) with
    | none => .next s
    | some t => match t.aside with
      | none => .next s
      | some xs =>
        if (unitsOf xs).any us.contains then .next s
        else match t.goOn with
          | .next u =>
            if (u.ctxAt t.ctx.core t.ctx.cid).any (fun c => c.blocked.isSome) then State.secondary us n (cs.filter (fun c => c.cid != t.ctx.cid)) u
            else .next u
          | r => r

/-- One cycle of the selected context's core: its bundle, and that of the secondary beside it (R41, R42). -/
def State.issueNow (s : State) : Res :=
  let c := s.ctx
  let others := (s.liveOn c.core).filter (fun x => s.ready x && x.cid % 4 != c.cid % 4)
  let bundle := s.aside
  match s.goOn with
  | .next t =>
    let issued := t.ctxs.any (fun x => x.core == c.core && x.cid == c.cid && x.bseq == c.bseq + 1)
    match (match bundle with
      | some b => if issued then State.secondary (unitsOf b) 4 others (t.grow c.core [c.cid % 4]) else .next (t.grow c.core [c.cid % 4])
      | none => .next (t.grow c.core [c.cid % 4])) with
    | .next u => .next { u with since := u.since + 1 }
    | r => r
  | r => r

/-! Events that are due. -/

/-- The number by which an event names a context: eight to a core, of which the second origins of fused tasks have the last four (R337,
log 46). -/
def Ctx.key (c : Ctx) : Nat := 8 * c.core + c.cid

/-- The first index of a list at which a test holds. -/
def indexOf {α : Type} (p : α → Bool) (xs : List α) : Option Nat :=
  let i := (xs.takeWhile (fun x => !p x)).length
  if i < xs.length then some i else none

/-- Events of the contexts: arrivals, walks, replies, traps and the ends of ranks. -/
def State.dueCtx (s : State) (c : Ctx) : List Instr :=
  let ls := s.loadsOf c.key
  ((indexOf (fun p => (p.rem == 0 || c.drains) && !p.arrived) c.dq).map (Instr.resultArrival c.key)).toList
    ++ ((indexOf (fun l => !l.walked) ls).map (Instr.pageWalk c.key)).toList
    ++ ((indexOf PLoad.walked ls).map (fun i => Instr.loadReply c.key i false)).toList
    ++ (if c.stat == .run && c.trapped then [.trapDelivery c.key] else [])
    ++ (if s.rankDone c then [.rankEnd c.key] else [])

/-- Events of the engines. -/
def State.dueUnits (s : State) : List Instr :=
  (s.xq.map XOp.core).eraseDups.map Instr.xComplete
    ++ ((s.engs.map (fun e => (8 * e.core + e.cid, e.tl))).eraseDups.map (fun x => Instr.engineFinish x.1 x.2))
    ++ ((s.leaves.filter (fun l => l.record.isSome)).map LeafEnt.core).eraseDups.map Instr.leafHash
    ++ (if s.dump.isSome then [.dumpGranule] else [])
    ++ (if s.tlbq.isEmpty then [] else [.tlbInvComplete])
    ++ (match s.loadHead with
      | none => []
      | some x => if numAt x.2 0 8 = 2 then [.unload] else [.load])

/-- The Milliner that serves a queue: the one that its binding names, or the standby. -/
def State.server (s : State) (q : Nat) : Nat :=
  let m := s.binding q % 8
  if s.serves m q then m else 7

/-- Events of the scheduler. -/
def State.dueSched (s : State) : List Instr :=
  let qs := s.wake.map Prod.fst
  (if s.sysstate = 3 then qs.map (fun q => Instr.millinerSlot (s.server q) q) else [])
    ++ (if s.heap.isEmpty then [] else [.dispatch])
    ++ (s.launches.filter s.allEnded).map (fun l => Instr.launchComplete l.arr)
    ++ (s.launches.filter s.mayReplay).map (fun l => Instr.shadowReplay l.arr)
    ++ (s.launches.filter (fun l => l.inHeap && (numAt l.packet 0x32 2).testBit 0 && l.placed == 0 && l.fuse.isNone)).flatMap (fun l =>
      qs.map (Instr.splicePair l.arr))
    ++ s.spills.map Instr.poolSpill
    ++ (s.gangs.filter (fun g => (s.everyone g.id).all (fun c => c.stat == .ended))).map (fun g => Instr.gangPop g.id)
    ++ (s.gangs.filter s.mayDrain).map (fun g => Instr.preempt g.id true)
    ++ (s.gangs.filter Gang.saved).map (fun g => Instr.gangResume g.id)

/-- Events of the management complex. -/
def State.dueManage (s : State) : List Instr :=
  ((List.range 64).filter s.signDue).map Instr.intervalSigning
    ++ ((List.range 120).filter (fun n => zState (s.zone n) == 1
      && (zStep (s.zone n) % 2 == 1 || (zStep (s.zone n) == 2 && !s.zoneBusy n)))).map Instr.evacDrainDone
    ++ (s.resv.filter (fun n => (s.reg (atOff n)).getLsbD 0 && !tabGet false s.scans n)).map Instr.selfTestAbandon

/-- Every event that is due by itself; time goes on in any case. -/
def State.due (s : State) : List Instr :=
  (s.live ++ s.saved.filter Ctx.live).flatMap s.dueCtx ++ s.dueUnits ++ s.dueSched ++ s.dueManage ++ [.tick]

/-- One of the events that are due takes place, each in its turn. -/
def State.internal (s : State) : Res :=
  exec (s.due.getD (s.turn % s.due.length) .tick) { s with turn := s.turn + 1, since := 0 }

/-! A single instruction. -/

/-- Words in device memory from an address on. -/
def State.putWords (s : State) (a : Nat) (ws : List Nat) : State := { s with mem := memWrite s.mem a (ws.flatMap (leBytes 4)) }

/-- The context that fetches at 0x4000 in a space of one 1 GiB page that maps itself, for reading, writing and fetching. -/
def probeCtx : Ctx := { live := true, ptroot := 0x1000, text := 0x4000, pc := 0x4000, mode := 0x1000, lat := lat14 }

/-- A state that fetches the given words next: usable device memory, the two tables of that space, the words, and that context alone. -/
def State.probe (s : State) (ws : List Nat) : State :=
  let t : State := { s with ctx := probeCtx, parked := [], inputs := [], since := 0, iss := {}, stackMap := 0 }
  (((t.setReg 0x600020 0x1000000000).putWords 0x1000 [0x2001, 0]).putWords 0x2000 [0xF, 0]).putWords 0x4000 ws

/-- The words of a bundle of one instruction: its operand word where it takes one, and a hint with the stop bit where it has none itself. -/
def probeWords (nbits w : Nat) : List Nat :=
  let w0 := w % 2 ^ 32
  let need := match rawSlot w0 [] with
    | some r => r.missing
    | none => false
  let iws := if 32 < nbits then [w / 2 ^ 32 % 2 ^ 32] else if need then [0x0F000000] else []
  w0 :: iws ++ (if bitAt w0 31 ∨ iws.any (fun x => bitAt x 31) then [] else [0x8E000000])

end Sys2Proof.Machine
end

