-- ==== Sys2Proof/Machine/Step.lean ====
section
/-! DEFINITION. The step. -/

namespace Sys2Proof.Machine

/-- One step: the next event that the surroundings have in store; else a bundle of the next ready context; else, and at the latest after
64 bundles, one of the events that are due by themselves. -/
def step (s : State) : Host.Outcome State Fault Refusal :=
  match s.inputs with
  | i :: r => exec i { s with inputs := r }
  | [] =>
    if 64 ≤ s.since then s.internal
    else match s.select with
      | some t => t.issueNow
      | none => s.internal

/-- A state whose next step fetches and runs the instruction of the given bits. -/
def State.withFetchWord (s : State) (nbits w : Nat) : State := s.probe (probeWords nbits w)

end Sys2Proof.Machine
end

