-- ==== Sys2Proof/Safety.lean ====
section
/-! DEFINITION. What counts as a safe run: the machine never stops, and the state keeps the forms that the manual and the model promise;
and the shapes of results in which the statements speak. -/

namespace Sys2Proof

open Machine

/-- A step that goes on: it answers neither a fault nor a refusal. -/
def GoesOn (s : State) : Prop := ∃ t, step s = .next t

/-- Every memory of a state stands in its canonical form. -/
def MemForms (s : State) : Prop :=
  memWf s.mem = true ∧ memWf s.host = true ∧ memWf s.peer = true ∧ memWf s.wbuf = true ∧ memWf s.abuf = true ∧ memWf s.sbuf = true

/-- What the written bits, the values and the flags of a lane result say (R55, R75, R227): an active lane i holds the bits of `f i`, an
inactive one is not written, and a flag is raised exactly where an active lane raises it. -/
def LaneVals (w : Nat) (act : Nat → Bool) (f : Nat → FR) (val msk : Row) (fl : Nat) : Prop :=
  (∀ i, i < 4608 / w → act i = true → laneAt w msk i = 2 ^ w - 1 ∧ laneAt w val i = (f i).bits % 2 ^ w)
    ∧ (∀ i, i < 4608 / w → act i = false → laneAt w msk i = 0)
    ∧ ∀ k, k < 6 → (fl.testBit k = true ↔ ∃ i, i < 4608 / w ∧ act i = true ∧ (f i).flags.testBit k = true)

/-- Instruction i completes from s by leaving one lane result for vector register d at the latency of group g (R45, R226), and nothing
else; with `cnt` its slot counts for RSEQ under RSR (R80). -/
def LaneSlot (s : State) (i : Instr) (cnt : Bool) (d : BitVec 6) (g w : Nat) (act : Nat → Bool) (f : Nat → FR) : Prop :=
  ∃ val msk fl, exec i s = .next ((if cnt then s.count else s).postV d (s.ctx.latOf g) val msk fl) ∧ LaneVals w act f val msk fl

/-- Instruction i completes from s by leaving a compare result for mask register m: every bit of an active lane's group takes the
relation, every other bit is 0 (R232). -/
def MaskSlot (s : State) (i : Instr) (m : BitVec 4) (g w : Nat) (act : Mask) (rel : Nat → Bool) (flags : Nat → Nat) : Prop :=
  ∃ v fl, exec i s = .next (s.postM m.toNat (s.ctx.latOf g) v fl)
    ∧ (∀ q, q < 512 → v.getLsbD q = (maskBit w act (q / (w / 9)) && rel (q / (w / 9))))
    ∧ ∀ k, k < 6 → (fl.testBit k = true ↔ ∃ i, i < 4608 / w ∧ maskBit w act i = true ∧ (flags i).testBit k = true)

/-- The state after a slot that traps (R126): the trap is noted with the slot's ordinal, and nothing else. -/
def trapped (s : State) (t : Trap) : State :=
  { s with iss := { s.iss with traps := s.iss.traps ++ [{ t with ordn := s.iss.ord, inRegion := !s.ctx.regions.isEmpty }] } }

/-- The state after a slot that holds its bundle (R39): the hold is noted where no hold but a wait for the gang stands already, and nothing
else. -/
def held (s : State) (h : Hold) : State :=
  { s with iss := { s.iss with hold := if s.iss.hold.any (fun k => !k.isGate) then s.iss.hold else some h } }

/-- A B slot that has been tested, and one that is the exit taken (R96, R140). -/
def tested (s : State) : State := { s with iss := { s.iss with bslots := s.iss.bslots + 1 } }
def exitTaken (s u : State) (k : ExitKind) : State := { u with iss := { u.iss with taken := some (s.iss.bslots + 1, k) } }

/-- Instruction i completes from s as a vector load of the elements `as` (R193, R199, R203): every element read goes to its lane in its
format's conversion (R200), the other lanes are not written, the flags are those of the lanes, and the result is pending where `long`
holds and local elsewhere. Where an element cannot be read, the whole result holds the deferred fault of the lowest such lane. The base
register b receives the address a where `u` holds. -/
def LoadedLanes (s : State) (i : Instr) (d b : BitVec 6) (u long : Bool) (a : Word) (f : VFmt) (as : List (Nat × Word)) : Prop :=
  let r := readLanes f.size as s
  ∃ val msk fl, exec i s = .next ((if long then r.s.pendLoad ⟨3, physV s.ctx d.toNat⟩ (32 ≤ b.toNat) a (as.map Prod.snd) val msk fl r.fault (granuleCount as)
      else r.s.postLocal ⟨3, physV s.ctx d.toNat⟩ val msk fl r.fault false).baseUpd u b a)
    ∧ (∀ g, r.fault = some g → ∃ pre x post t h, as = pre ++ x :: post ∧ (readLanes f.size pre s).fault = none
        ∧ (readLanes f.size pre s).s.loadElem x.2 f.size = (t, .error h) ∧ g = s.dfault h x.2)
    ∧ (∀ x ∈ r.vals, x.1 < 4608 / f.view → laneAt f.view msk x.1 = 2 ^ f.view - 1
        ∧ laneAt f.view val x.1 = (f.toLane x.2).bits % 2 ^ f.view)
    ∧ (∀ k, k < 4608 / f.view → (∀ x ∈ as, x.1 ≠ k) → laneAt f.view msk k = 0)
    ∧ ∀ k, k < 6 → (fl.testBit k = true ↔ ∃ x ∈ r.vals, x.1 < 4608 / f.view ∧ (f.toLane x.2).flags.testBit k = true)

/-- Instruction i starts an operation of class X on the core's X0 (R256, R257): one operation joins the queue, with the next leaf index and a
place in the retirement buffer; no register, Z row or memory changes and no result is left. -/
def XStarted (s : State) (i : Instr) (p : XOp → Prop) : Prop :=
  ∃ t x, exec i s = .next t ∧ t.xq = s.xq ++ [x] ∧ p x ∧ x.core = s.ctx.core ∧ x.cid = s.ctx.cid ∧ x.lidx = s.nextLeaf ∧ x.dropped = false
    ∧ t.leaves = s.leaves ++ [⟨s.ctx.core, s.ctx.arr, s.ctx.task, s.ctx.rank, s.nextLeaf, none⟩] ∧ t.ctx = s.ctx ∧ t.rows = s.rows
    ∧ t.mem = s.mem ∧ t.host = s.host ∧ t.wbuf = s.wbuf ∧ t.abuf = s.abuf ∧ t.sbuf = s.sbuf ∧ t.iss.out = s.iss.out

/-- A lane of the i-th row write of an operation, where it has one for that row. -/
def XWrites (x : XOp) (i row : Nat) (n : Nat) (v : Nat → Nat) : Prop :=
  ∃ w, x.writes[i]? = some w ∧ w.row = row ∧ (∀ c, c < n → laneAt 36 w.msk c = 2 ^ 36 - 1 ∧ laneAt 36 w.bits c = v c % 2 ^ 36)
    ∧ ∀ c, n ≤ c → c < 128 → laneAt 36 w.msk c = 0

/-- The element of e bytes at position j of the piece at offset o of an operand at address a in the buffers of a context (R261, R263), as `w`
shows them and wherever its bytes stand (R342). -/
def viewElem (w : BufView) (c : Ctx) (a : Word) (o e j : Nat) : Nat :=
  leNat ((c.bufSegs (selOf a - 0x10) (lowOf a + o + e * j) e).flatMap (fun x => memRead (if selOf a = 0x10 then w.1 else w.2.1) x.1 x.2))

/-- The same of the current context's own buffers. -/
def bufElem (s : State) (a : Word) (o e j : Nat) : Nat := viewElem s.bufView s.ctx a o e j

/-- An operation of class X will write bytes at offset o of the buffer operand at address a (R270), wherever they stand (R342). -/
def XStores (s : State) (x : XOp) (a : Word) (o : Nat) (bs : List Byte) : Prop :=
  ∀ y ∈ cutSegs (selOf a - 0x10) bs (s.ctx.bufSegs (selOf a - 0x10) (lowOf a + o) bs.length), y ∈ x.bufs

/-- The magnitude of a finite value as a fraction. -/
def magOf (x : FV) : Nat × Nat :=
  match x with
  | .fin _ m e => (numOf m e, denOf e)
  | _ => (0, 1)

/-- The i8 quantisation of n values, the first of them element e (R271): the scale's container and the elements. With a NaN or an infinity the
scale is a NaN and every element 0; with zeros only both are 0; else the scale is the smallest S12 value, of those from 2^(-126) on, that
127 times reaches every magnitude, and an element is the value's quotient by it, rounded once. -/
def Quantised (v : REnv) (e n : Nat) (x : Nat → FV) (w : Nat) (q : Nat → Nat) : Prop :=
  let reaches (u : Nat) : Prop := ∀ c, c < n → (magOf (x c)).1 * (magOf (s12 u)).2 ≤ 127 * (magOf (s12 u)).1 * (magOf (x c)).2
  let special (c : Nat) : Bool := (x c).isNan || (x c).isInf
  ((∃ c, c < n ∧ special c = true) → w = 0x0FF0 ∧ ∀ c, c < n → q c = 0)
    ∧ ((∀ c, c < n → special c = false ∧ (magOf (x c)).1 = 0) → w = 0 ∧ ∀ c, c < n → q c = 0)
    ∧ ((∀ c, c < n → special c = false) → (∃ c, c < n ∧ (magOf (x c)).1 ≠ 0) → 16 ≤ w ∧ reaches w ∧ (∀ u, 16 ≤ u → u < w → ¬ reaches u)
        ∧ ∀ c, c < n → q c = (roundInt v (e + c) 8 (x c).sign ((magOf (x c)).1 * (magOf (s12 w)).2) ((magOf (x c)).2 * (magOf (s12 w)).1)).bits)

/-- Lane j of row i of a scan's operand, flushed as its rounding asks (R274). -/
def scanLane (s : State) (rows : List Row) (i j : Nat) : FV := F36.decIn (scanEnv s.xenv) (laneAt 36 (rows.getD i 0) j)

/-- The results of a scan of T = m steps with head dimension p and state dimension d (R274 to R276): g, y and the end state h from a, x, b, c
and h0, in the chunked or the recurrent form. -/
def Scanned (v : REnv) (chunked : Bool) (m p d : Nat) (a : Nat → FV) (x b c h0 : Nat → Nat → FV) (g : Nat → FV) (y h : Nat → Nat → FV) : Prop :=
  let rnd (r : FR) : FV := F36.dec r.bits
  let mul (u w : FV) : FV := rnd (fmul v F36 0 u w)
  let add (u w : FV) : FV := rnd (fadd v F36 0 u w)
  let dot (n : Nat) (u w : Nat → FV) : FV := (blockV v ((List.range n).map (fun i => (u i, w i)))).1
  let decay (t s : Nat) : FV := (prodV v ((List.range (t - s)).map (fun i => a (s + 1 + i)))).1
  (∀ t, t < m → g t = mul (if t = 0 then .fin false 1 0 else g (t - 1)) (a t))
    ∧ (chunked = false → ∃ st : Nat → Nat → Nat → FV, (∀ i j, i < d → j < p → st 0 i j = h0 i j ∧ h i j = st m i j)
        ∧ (∀ t i j, t < m → i < d → j < p → st (t + 1) i j = (twoProd v (a t) (st t i j) (b t i) (x t j)).1)
        ∧ ∀ t j, t < m → j < p → y t j = dot d (c t) (fun i => st (t + 1) i j))
    ∧ (chunked = true →
        let w (t s : Nat) : FV := if s ≤ t then mul (decay t s) (dot d (c t) (b s)) else .fin false 0 0
        let e (i s : Nat) : FV := mul (decay (m - 1) s) (b s i)
        (∀ t j, t < m → j < p → y t j = add (dot m (w t) (fun s => x s j)) (mul (g t) (dot d (c t) (fun i => h0 i j))))
        ∧ ∀ i j, i < d → j < p → h i j = add (dot m (e i) (fun s => x s j)) (mul (g (m - 1)) (h0 i j)))

/-- Every byte of a memory is the byte it was, or that byte with the A bit of a leaf entry set, which the walker sets (R309). -/
def OnlyWalked (m n : Memory) : Prop := ∀ j, memByte n j = memByte m j ∨ memByte n j = memByte m j ||| 0x10

/-- Entries appended to a chain's log in turn (R324); none where one does not fit. -/
def logAll (s : State) (n : Nat) (low : Bool) : List (List Byte) → Option State
  | [] => some s
  | e :: es => match s.logPut n low e with
    | none => none
    | some t => logAll t n low es

/-- The bytes of device memory that a store to the given place of n bytes may change. -/
def placeCovers (p : Place) (n j : Nat) : Prop :=
  match p with
  | .dev pa => pa ≤ j ∧ j < pa + n
  | _ => False

/-- For the instructions that act on registers alone, the registers that their results may go to (R45, R56, R57): kind and number as in
`Dest`. A base update of pref counts with them (R192). None for an instruction that does more. -/
def Instr.dests (s : State) (i : Instr) : Option (List Dest) :=
  match i with
  | .nop _ => some []
  | .add d _ _ => some [⟨0, d.toNat⟩]
  | .sub d _ _ => some [⟨0, d.toNat⟩]
  | .mul d _ _ => some [⟨0, d.toNat⟩]
  | .mulh d _ _ => some [⟨0, d.toNat⟩]
  | .mulhu d _ _ => some [⟨0, d.toNat⟩]
  | .div d _ _ => some [⟨0, d.toNat⟩]
  | .divu d _ _ => some [⟨0, d.toNat⟩]
  | .rem d _ _ => some [⟨0, d.toNat⟩]
  | .remu d _ _ => some [⟨0, d.toNat⟩]
  | .and d _ _ => some [⟨0, d.toNat⟩]
  | .or d _ _ => some [⟨0, d.toNat⟩]
  | .xor d _ _ => some [⟨0, d.toNat⟩]
  | .andn d _ _ => some [⟨0, d.toNat⟩]
  | .shl d _ _ => some [⟨0, d.toNat⟩]
  | .shr d _ _ => some [⟨0, d.toNat⟩]
  | .sar d _ _ => some [⟨0, d.toNat⟩]
  | .min d _ _ => some [⟨0, d.toNat⟩]
  | .max d _ _ => some [⟨0, d.toNat⟩]
  | .minu d _ _ => some [⟨0, d.toNat⟩]
  | .maxu d _ _ => some [⟨0, d.toNat⟩]
  | .clz d _ => some [⟨0, d.toNat⟩]
  | .popc d _ => some [⟨0, d.toNat⟩]
  | .addx2 d _ _ => some [⟨0, d.toNat⟩]
  | .addx3 d _ _ => some [⟨0, d.toNat⟩]
  | .addx4 d _ _ => some [⟨0, d.toNat⟩]
  | .movi d _ => some [⟨0, d.toNat⟩]
  | .cmpeq p c _ _ => some (if c then [⟨1, physP s.ctx p.toNat⟩, ⟨2, physP s.ctx p.toNat⟩] else [⟨1, physP s.ctx p.toNat⟩])
  | .cmpne p c _ _ => some (if c then [⟨1, physP s.ctx p.toNat⟩, ⟨2, physP s.ctx p.toNat⟩] else [⟨1, physP s.ctx p.toNat⟩])
  | .cmplt p c _ _ => some (if c then [⟨1, physP s.ctx p.toNat⟩, ⟨2, physP s.ctx p.toNat⟩] else [⟨1, physP s.ctx p.toNat⟩])
  | .cmple p c _ _ => some (if c then [⟨1, physP s.ctx p.toNat⟩, ⟨2, physP s.ctx p.toNat⟩] else [⟨1, physP s.ctx p.toNat⟩])
  | .cmpltu p c _ _ => some (if c then [⟨1, physP s.ctx p.toNat⟩, ⟨2, physP s.ctx p.toNat⟩] else [⟨1, physP s.ctx p.toNat⟩])
  | .cmpleu p c _ _ => some (if c then [⟨1, physP s.ctx p.toNat⟩, ⟨2, physP s.ctx p.toNat⟩] else [⟨1, physP s.ctx p.toNat⟩])
  | .movt d _ _ _ => some [⟨0, d.toNat⟩]
  | .plog d _ _ _ => some [⟨1, physP s.ctx d.toNat⟩]
  | .pmov p _ => some [⟨1, physP s.ctx p.toNat⟩]
  | .pget d => some [⟨0, d.toNat⟩]
  | .mfs d _ => some [⟨0, d.toNat⟩]
  | .mts n _ => some [⟨4, n.toNat⟩]
  | .cmpt _ _ => some []
  | .bfx d _ _ => some [⟨0, d.toNat⟩]
  | .bfi d _ _ => some [⟨0, d.toNat⟩]
  | .vaddf d _ _ => some [⟨3, physV s.ctx d.toNat⟩]
  | .vsubf d _ _ => some [⟨3, physV s.ctx d.toNat⟩]
  | .vmulf d _ _ => some [⟨3, physV s.ctx d.toNat⟩]
  | .vfmaf d _ _ => some [⟨3, physV s.ctx d.toNat⟩]
  | .vfmsf d _ _ => some [⟨3, physV s.ctx d.toNat⟩]
  | .vminf d _ _ => some [⟨3, physV s.ctx d.toNat⟩]
  | .vmaxf d _ _ => some [⟨3, physV s.ctx d.toNat⟩]
  | .vabsf d _ => some [⟨3, physV s.ctx d.toNat⟩]
  | .vnegf d _ => some [⟨3, physV s.ctx d.toNat⟩]
  | .vceqf m _ _ => some [⟨2, physP s.ctx m.toNat⟩]
  | .vcltf m _ _ => some [⟨2, physP s.ctx m.toNat⟩]
  | .vclef m _ _ => some [⟨2, physP s.ctx m.toNat⟩]
  | .vcunf m _ _ => some [⟨2, physP s.ctx m.toNat⟩]
  | .vaddi d _ _ => some [⟨3, physV s.ctx d.toNat⟩]
  | .vsubi d _ _ => some [⟨3, physV s.ctx d.toNat⟩]
  | .vmuli d _ _ => some [⟨3, physV s.ctx d.toNat⟩]
  | .vmulhi d _ _ => some [⟨3, physV s.ctx d.toNat⟩]
  | .vmini d _ _ => some [⟨3, physV s.ctx d.toNat⟩]
  | .vmaxi d _ _ => some [⟨3, physV s.ctx d.toNat⟩]
  | .vand d _ _ => some [⟨3, physV s.ctx d.toNat⟩]
  | .vor d _ _ => some [⟨3, physV s.ctx d.toNat⟩]
  | .vxor d _ _ => some [⟨3, physV s.ctx d.toNat⟩]
  | .vshl d _ _ => some [⟨3, physV s.ctx d.toNat⟩]
  | .vshr d _ _ => some [⟨3, physV s.ctx d.toNat⟩]
  | .vsar d _ _ => some [⟨3, physV s.ctx d.toNat⟩]
  | .vceqi m _ _ => some [⟨2, physP s.ctx m.toNat⟩]
  | .vclti m _ _ => some [⟨2, physP s.ctx m.toNat⟩]
  | .vcltu m _ _ => some [⟨2, physP s.ctx m.toNat⟩]
  | .vaddsi d _ _ => some [⟨3, physV s.ctx d.toNat⟩]
  | .vsel d _ _ => some [⟨3, physV s.ctx d.toNat⟩]
  | .vbc d _ => some [⟨3, physV s.ctx d.toNat⟩]
  | .vmov d _ => some [⟨3, physV s.ctx d.toNat⟩]
  | .naddB d _ _ => some [⟨3, physV s.ctx d.toNat⟩]
  | .nsubB d _ _ => some [⟨3, physV s.ctx d.toNat⟩]
  | .nmulB d _ _ => some [⟨3, physV s.ctx d.toNat⟩]
  | .nfmaB d _ _ => some [⟨3, physV s.ctx d.toNat⟩]
  | .nminB d _ _ => some [⟨3, physV s.ctx d.toNat⟩]
  | .nmaxB d _ _ => some [⟨3, physV s.ctx d.toNat⟩]
  | .nceqB m _ _ => some [⟨2, physP s.ctx m.toNat⟩]
  | .ncltB m _ _ => some [⟨2, physP s.ctx m.toNat⟩]
  | .naddH d _ _ => some [⟨3, physV s.ctx d.toNat⟩]
  | .nsubH d _ _ => some [⟨3, physV s.ctx d.toNat⟩]
  | .nmulH d _ _ => some [⟨3, physV s.ctx d.toNat⟩]
  | .nminH d _ _ => some [⟨3, physV s.ctx d.toNat⟩]
  | .nmaxH d _ _ => some [⟨3, physV s.ctx d.toNat⟩]
  | .naddQ d _ _ => some [⟨3, physV s.ctx d.toNat⟩]
  | .nsubQ d _ _ => some [⟨3, physV s.ctx d.toNat⟩]
  | .nminQ d _ _ => some [⟨3, physV s.ctx d.toNat⟩]
  | .nmaxQ d _ _ => some [⟨3, physV s.ctx d.toNat⟩]
  | .naddsQ d _ _ => some [⟨3, physV s.ctx d.toNat⟩]
  | .vcvt d _ _ => some [⟨3, physV s.ctx d.toNat⟩, ⟨3, physV s.ctx (d + 1).toNat⟩]
  | .vred d _ _ => some [⟨3, physV s.ctx d.toNat⟩]
  | .vscan d _ _ => some [⟨3, physV s.ctx d.toNat⟩]
  | .vshuf d _ _ => some [⟨3, physV s.ctx d.toNat⟩]
  | .vrot d _ _ => some [⟨3, physV s.ctx d.toNat⟩]
  | .vcx d _ _ _ _ => some [⟨3, physV s.ctx d.toNat⟩]
  | .vhist d _ n => some ((List.range n.toNat).map (fun j => ⟨3, physV s.ctx (d.toNat + j)⟩))
  | .vmerge d _ _ => some [⟨3, physV s.ctx d.toNat⟩]
  | .vfind d _ _ => some [⟨0, d.toNat⟩]
  | .vlane d _ _ => some [⟨0, d.toNat⟩]
  | .vins d _ _ => some [⟨3, physV s.ctx d.toNat⟩]
  | .msel _ => some [⟨4, 0x00A⟩]
  | .mlog d _ _ _ => some [⟨2, physP s.ctx d.toNat⟩]
  | .msetn m _ _ => some [⟨2, physP s.ctx m.toNat⟩]
  | .mpop d _ _ => some [⟨0, d.toNat⟩]
  | .vcmpt _ _ => some []
  | .frcp d _ => some [⟨3, physV s.ctx d.toNat⟩]
  | .frsq d _ => some [⟨3, physV s.ctx d.toNat⟩]
  | .fsqrt d _ => some [⟨3, physV s.ctx d.toNat⟩]
  | .fexp2 d _ => some [⟨3, physV s.ctx d.toNat⟩]
  | .flog2 d _ => some [⟨3, physV s.ctx d.toNat⟩]
  | .fsig d _ => some [⟨3, physV s.ctx d.toNat⟩]
  | .ftanh d _ => some [⟨3, physV s.ctx d.toNat⟩]
  | .ferf d _ => some [⟨3, physV s.ctx d.toNat⟩]
  | .fsinp d _ => some [⟨3, physV s.ctx d.toNat⟩]
  | .fcosp d _ => some [⟨3, physV s.ctx d.toNat⟩]
  | .frcpB d _ => some [⟨3, physV s.ctx d.toNat⟩]
  | .frsqB d _ => some [⟨3, physV s.ctx d.toNat⟩]
  | .fsqrtB d _ => some [⟨3, physV s.ctx d.toNat⟩]
  | .fexp2B d _ => some [⟨3, physV s.ctx d.toNat⟩]
  | .flog2B d _ => some [⟨3, physV s.ctx d.toNat⟩]
  | .fsigB d _ => some [⟨3, physV s.ctx d.toNat⟩]
  | .ftanhB d _ => some [⟨3, physV s.ctx d.toNat⟩]
  | .ferfB d _ => some [⟨3, physV s.ctx d.toNat⟩]
  | .fsinpB d _ => some [⟨3, physV s.ctx d.toNat⟩]
  | .fcospB d _ => some [⟨3, physV s.ctx d.toNat⟩]
  | .fence _ => some []
  | .fenceRo _ => some []
  | .drain => some []
  | .pref b _ => some [⟨0, srcNum b⟩]
  | .br _ _ _ => some []
  | .bri _ _ _ => some []
  | .call _ _ _ => some [⟨0, 31⟩]
  | .calli _ _ _ => some [⟨0, 31⟩]
  | .ret _ _ => some []
  | .loop _ _ _ => some [⟨4, 0x00C⟩, ⟨4, 0x00D⟩, ⟨4, 0x00E⟩]
  | .loopw _ _ _ => some [⟨4, 0x00C⟩, ⟨4, 0x00D⟩]
  | .exit _ _ => some []
  | .yield _ _ => some []
  | .waittl _ _ => some []
  | .tlrd d _ => some [⟨0, d.toNat⟩]
  | .waitwp _ _ => some []
  | .trap _ => some []
  | .modew _ => some [⟨4, 0x008⟩]
  | .vwin _ => some [⟨4, 0x00B⟩, ⟨4, 0x00C⟩]
  | .brk _ => some []
  | .hintNone _ _ => some []
  | .succPrefetch _ => some []
  | .branchLikely _ => some []
  | .locality _ => some []
  | _ => none

end Sys2Proof
end

