-- ==== Sys2Proof/Certificates/Slice0/Obligations.lean ====
section
/-! DEFINITION. The statements for the provers. -/

open Sys2Proof Sys2Proof.Machine

/-! Encoding and decoding. -/

/-- Words written out in the manual's examples (chapters "Encoding", "Scalar", "Memory", "Vector" and "Matrix") decode to the instructions
that they stand for. A slot of class 11, 12 or 13 is illegal, whatever its other bits and the I slots behind it (R92, Table 7.2), and so is
an I slot that stands as a slot of its own. -/
def Obligations.DecodesSpecWords : Prop :=
  (decodeSlot 0x00043040 [0x0F0186A0] = .ok (.add 3 1 (.imm1 100000))
    ∧ decodeSlot 0x88009FFA [] = .ok (.br 2 false ⟨0x1FFA, none⟩)
    ∧ decodeSlot 0x00766140 [0x0FFFFFFD] = .ok (.cmplt 9 true 5 (.imm1 0xFFFFFD))
    ∧ decodeSlot 0x88141FF8 [] = .ok (.loop 0 false ⟨0x1FF8, none⟩)
    ∧ decodeSlot 0x05183100 [0x0F090001] = .ok (.ldD 3 4 (.disp1 0 ⟨0, true, 1, 0, 1⟩))
    ∧ decodeSlot 0x89007241 [] = .ok (.copy 7 9 1)
    ∧ decodeSlot 0x010D0105 [] = .ok (.vfmaf 16 4 5)
    ∧ decodeSlot 0x03014202 [] = .ok (.vcvt 20 8 2)
    ∧ decodeSlot 0x87041780 [] = .ok (.xpush18 true 30)
    ∧ decodeSlot 0x06248415 [0x8F420000] = .ok (.mmazI8p 2 4 5 1 (some ⟨false, true, false, 1⟩))
    ∧ decodeSlot 0x8640CA19 [] = .ok (.sacc 3 2 true 6 1))
  ∧ (∀ (w : Nat) (iws : List Nat), w / 2 ^ 24 % 16 ∈ [11, 12, 13, 15] → decodeSlot w iws = .error (.illegal w))

/-- Decoding the words of a well-formed slot gives the slot back, with every operand at every value that its encoding admits (R101 to
R116, Tables 7.6 to 7.13). -/
def Obligations.DecodeEncodeSlots : Prop :=
  ∀ i : Instr, i.isSlot = true → i.wf = true → ∃ w iws, encode i = w :: iws ∧ decodeSlot w iws = .ok i

/-- No bit of a slot without attached I slots is dropped: where the S and P fields are zero, encoding what the word decodes to gives the
word back. -/
def Obligations.EncodeDecodeOneWord : Prop :=
  ∀ (w : Nat) (i : Instr), w < 2 ^ 28 → decodeSlot w [] = .ok i → encode i = [w]

/-- No decoded bundle holds more slots of a class than Table 7.2 allows: two of class S and of class M, three of V, N and Q together, four
of class B, and one of each of F, X, T, E and Y; and it has at most as many slots as words (R93). -/
def Obligations.BundleUnitLimits : Prop :=
  ∀ (ws : List Nat) (b : Bundle), decodeBundle ws = .ok b →
    let n (cs : List Nat) : Nat := (b.slots.filter (fun x => cs.contains (x.word / 2 ^ 24 % 16))).length
    n [0] ≤ 2 ∧ n [1, 2, 3] ≤ 3 ∧ n [5] ≤ 2 ∧ n [8] ≤ 4 ∧ (∀ c ∈ [4, 6, 7, 9, 10], n [c] ≤ 1) ∧ b.slots.length ≤ ws.length

/-! The step. -/

/-- A step carries out the next event that the surroundings have in store; without one, and while fewer than 64 bundles have issued since
the last event of the machine's own, it is a cycle of the selected context's core: the selected context, the primary, issues its bundle, and
of the other contexts that were ready the next one issues its bundle after it, unless a physical unit is needed by both or either holds trap,
rft, cropen or crclose (R40 to R42). The contexts that did not issue wait one cycle more (R43). Which core's turn it is, and when an event
comes instead, is the model's choice (logs 1 and 2). -/
def Obligations.StepTakesInputsThenBundles : Prop :=
  (∀ (s : State) (i : Instr) (r : List Instr), s.inputs = i :: r → step s = exec i { s with inputs := r })
    ∧ ∀ s t v : State, s.inputs = [] → s.since < 64 → s.select = some t → t.ctx.trapped = false → t.ctx.yielded = false →
      t.joinedWith t.ctx = none → t.issue = .next v →
      let alone : State := { v.grow t.ctx.core [t.ctx.cid % 4] with since := v.since + 1 }
      let others := (t.liveOn t.ctx.core).filter (fun x => t.ready x && x.cid % 4 != t.ctx.cid % 4)
      (others = [] → step s = .next alone)
      ∧ (∀ u b, t.fetch = .ok (u, b) → (∃ x ∈ b.slots, (∃ c, x.instr = .trap c) ∨ x.instr = .rft ∨ (∃ o, x.instr = .cropen o) ∨ x.instr = .crclose) →
          step s = .next alone)
      ∧ ∀ (xs ys : List Slot) (m : Ctx) (n : State), t.aside = some xs → others = [m] →
          (∃ x ∈ v.ctxs, x.core = t.ctx.core ∧ x.cid = t.ctx.cid ∧ x.bseq = t.ctx.bseq + 1) →
          (v.grow t.ctx.core [t.ctx.cid % 4]).focus m.core m.cid = some n → n.aside = some ys →
          ((∃ k ∈ unitsOf ys, k ∈ unitsOf xs) → step s = .next alone)
          ∧ ∀ w, (∀ k ∈ unitsOf ys, k ∉ unitsOf xs) → n.joinedWith n.ctx = none → n.issue = .next w → step s = .next { w with since := w.since + 1 }

/-- A step runs the decoded instructions: the slots of the fetched bundle run in turn, each as exec of its instruction with its ordinal and
word noted, and the boundary concludes the bundle; a bundle of one slot is exec of that slot's instruction, with the address of the next
sequential bundle noted (R44, R90, R96). A fetch that fails takes its trap at the bundle's boundary, and so does every rank of the gang that
stands at the same bundle (R101). A bundle after one with a drain is held while a load that the drain covers is outstanding (R175). -/
def Obligations.FetchedSlotRunsExec : Prop :=
  (∀ (s u t : State) (b : Bundle), s.mayFetch = true → s.fetch = .ok (u, b) → u.runBundle b = .next t → s.issue = .next (u.conclude b t))
    ∧ (∀ (s t : State) (x : Slot) (xs : List Slot), exec x.instr { s with iss := { s.iss with ord := x.ord, word := x.word } } = .next t →
      runSlots (x :: xs) s = runSlots xs t)
    ∧ (∀ (s u t : State) (x : Slot), s.mayFetch = true → s.fetch = .ok (u, ⟨[x], 1⟩) → x.path = 0 → u.ctx.nrank ≤ 1 →
      exec x.instr { u with iss := { npc := u.ctx.pc + 4, ord := x.ord, word := x.word } } = .next t →
      s.issue = .next (u.conclude ⟨[x], 1⟩ t))
    ∧ (∀ (s : State) (e : Trap), s.mayFetch = true → s.fetch = .error e →
      let own (c : Ctx) : Trap := { e with inRegion := !c.regions.isEmpty }
      let beside (c : Ctx) : Ctx := if s.alongside c then { c with stat := .stopped (some (own c)) } else c
      s.issue = .next ((({ s.clearGate s.ctx.gang with iss := {} } : State).mapGang s.ctx.gang beside).takeTrap (own s.ctx)).unblock)
    ∧ ∀ (s : State) (l : PLoad), s.ctx.drains = true → l ∈ s.loads → l.gang = s.ctx.gang → l.core = s.ctx.core →
      s.issue = .next { s with ctx := { s.ctx with blocked := some .wait }, iss := {} }

/-- A bundle that no slot holds and no slot traps takes effect: STEP advances by the largest k of its nops or by 1; the next bundle is that of
the exit taken, or the next sequential one; the context counts the bundle and its leaves; and its results enter the delivery queue in
slot order with their remaining steps counted down, out of which those that are due go once every one of them has arrived (R44, R45, R48,
R60, R96, R118). Of a bundle whose rft took effect, the restored PC and STEP stand. -/
def Obligations.BundleTakesEffect : Prop :=
  ∀ (s t : State) (b : Bundle), t.iss.hold = none → t.iss.traps = [] → s.closing t = none →
    t.ctx.pendingAt t.iss.advance (sortOut t.iss.out) + t.trappedResults b + s.matePending ≤ 64 →
    let e := s.conclude b t
    let k := t.iss.advance
    let all := t.ctx.dq ++ sortOut t.iss.out
    e = t.endBundle.unblock
    ∧ (t.iss.rft = true → e.ctx.pc = t.ctx.pc ∧ e.ctx.step = t.ctx.step)
    ∧ (t.iss.rft = false → t.fuseOf t.ctx = none →
        e.ctx.step = t.ctx.step + BitVec.ofNat 64 k ∧ e.ctx.bseq = t.ctx.bseq + 1 ∧ e.ctx.leafn = t.ctx.leafn + t.iss.leafs
        ∧ e.ctx.drains = t.iss.drains ∧ e.ctx.age = 0
        ∧ (t.iss.taken = none → e.ctx.pc = t.iss.npc ∧ e.ctx.stat = t.ctx.stat ∧ e.ctx.yielded = false)
        ∧ (∀ j a, t.iss.taken = some (j, .branch a) → e.ctx.pc = a ∧ e.ctx.stat = t.ctx.stat ∧ e.ctx.yielded = false)
        ∧ (∀ j, t.iss.taken = some (j, .yield) → e.ctx.pc = t.iss.npc ∧ e.ctx.stat = t.ctx.stat ∧ e.ctx.yielded = true)
        ∧ (∀ j, t.iss.taken = some (j, .exit) → e.ctx.pc = t.iss.npc ∧ e.ctx.stat = .exited)
        ∧ ((∀ p ∈ all, p.rem ≤ k → p.arrived = true) →
            e.ctx.dq = (all.filter (fun p => k < p.rem)).map (fun p => { p with rem := p.rem - k }))
        ∧ ((∃ p ∈ all, p.rem ≤ k ∧ p.arrived = false) →
            e.ctx.dq.length = all.length ∧ ∀ p ∈ all, { p with rem := p.rem - k } ∈ e.ctx.dq))

/-- The machine never stops: every step answers a next state. -/
def Obligations.StepGoesOn : Prop := ∀ s : State, GoesOn s

/-- Every step keeps every memory in its canonical form: addresses strictly rising and no entry equal to what an unlisted address reads
as. -/
def Obligations.StepKeepsMemForms : Prop := ∀ s t : State, MemForms s → step s = .next t → MemForms t

/-- A cold start comes to HOLD with TB 0, no device memory usable and no context, launch or transfer (R381, R382); and every memory stands
in its canonical form. -/
def Obligations.ResetIsHold : Prop :=
  (State.reset.sysstate = 2 ∧ State.reset.tb = 0 ∧ State.reset.devSize = 0 ∧ State.reset.live = [] ∧ State.reset.launches = []
    ∧ State.reset.engs = [] ∧ State.reset.loads = [] ∧ State.reset.xq = [] ∧ ∀ a, memByte State.reset.mem a = 0)
  ∧ (MemForms State.reset)

/-! Registers and results. -/

/-- Writes to s0, p0 and m0 are discarded and they read 0, 1 and all ones, always valid (R50, R53). Any other result that becomes visible
sets its own register valid and full and changes no other (R45, R50, R227): a scalar, a predicate, a mask, a Z row, where the unwritten bits
keep what they held, or 0 in a row that was invalid, a special or a clip register, or none. A poisoned granule keeps its mark where not the
whole row is written (R348). A faulted result fills its scalar register or row with the deferred fault, beside a free value (R52). That a
result fills a row which a later load has marked empty is R227's words, read as in log 34. Reading an invalid register raises an invalid-read
trap; an empty one holds the bundle, or traps where the reader's policy says so; one that holds a deferred fault raises that fault; and a row
of a busy tile holds the bundle (R50 to R52, R58). A row is read as it stood before any slot of its bundle wrote (R45). That INFO1 of these traps is the physical number of a predicate, mask or row is the model's
reading (log 17). -/
def Obligations.VisibleResultWritesItsRegister : Prop :=
  (∀ (s : State) (pol : Bool),
    (∀ p : Pend, p.fault = none → p.dest ∈ [⟨0, 0⟩, ⟨1, 0⟩, ⟨2, 0⟩] → s.writeDest p = s)
      ∧ s.rdSn 0 pol = .ok 0 ∧ s.rdP 0 = .ok true ∧ s.rdM 0 = .ok (BitVec.allOnes 512))
  ∧ (∀ (s : State) (p : Pend), p.fault = none →
    let t := s.writeDest p
    let w : Word := p.val.truncate 64
    (∀ n, p.dest = ⟨0, n⟩ → n ≠ 0 →
      t.ctx.sreg n = { val := w, valid := true, full := true, fault := none } ∧ (∀ k, k ≠ n → t.ctx.sreg k = s.ctx.sreg k)
        ∧ { t with ctx := { t.ctx with s := s.ctx.s } } = s)
    ∧ (∀ n, p.dest = ⟨1, n⟩ → n ≠ 0 →
      t.ctx.preg n = ⟨p.val.getLsbD 0, true⟩ ∧ (∀ k, k ≠ n → t.ctx.preg k = s.ctx.preg k) ∧ { t with ctx := { t.ctx with p := s.ctx.p } } = s)
    ∧ (∀ n, p.dest = ⟨2, n⟩ → n ≠ 0 →
      t.ctx.mreg n = ⟨p.val.truncate 512, true⟩ ∧ (∀ k, k ≠ n → t.ctx.mreg k = s.ctx.mreg k) ∧ { t with ctx := { t.ctx with m := s.ctx.m } } = s)
    ∧ (∀ n, p.dest = ⟨3, n⟩ →
      let z := t.row s.ctx.core n
      let y := s.row s.ctx.core n
      z.valid = true ∧ z.full = true
        ∧ (y.mark = false ∨ p.msk = allRow → z.fault = none ∧ z.mark = false)
        ∧ (y.mark = true → p.msk ≠ allRow → z.fault = y.fault ∧ z.mark = true)
        ∧ (∀ i, i < 4608 → z.bits.getLsbD i = if p.msk.getLsbD i then p.val.getLsbD i else (y.valid && y.bits.getLsbD i))
        ∧ (∀ core k, core ≠ s.ctx.core ∨ k ≠ n → k < 2048 → n < 2048 → t.row core k = s.row core k)
        ∧ { t with rows := s.rows, ctx := { t.ctx with regions := s.ctx.regions } } = s)
    ∧ (∀ f ∈ [(0x008, { s.ctx with mode := w }), (0x009, { s.ctx with flags := w }), (0x00A, { s.ctx with msel := w.toNat % 16 }),
              (0x00B, { s.ctx with vwb := w.toNat }), (0x00C, { s.ctx with rrb := w.toNat % 48 }), (0x00D, { s.ctx with prb := w.toNat % 8 }),
              (0x00E, { s.ctx with lc := w }), (0x100, { s.ctx with tmap := w }), (0x101, { s.ctx with zown := w }), (0x102, { s.ctx with wwin := w }),
              (0x103, { s.ctx with awin := w }), (0x104, { s.ctx with swin := w }), (0x105, { s.ctx with spovf := w }),
              (0x106, { s.ctx with tvec := w }), (0x107, { s.ctx with area := w }), (0x108, { s.ctx with dbg := w })],
        p.dest = ⟨4, f.1⟩ → t = { s with ctx := f.2 })
    ∧ (∀ n, n < 8 → p.dest = ⟨5, n⟩ ∨ p.dest = ⟨4, 0x020 + n⟩ → t.ctx.kreg n = ⟨w, true⟩ ∧ (∀ k, k ≠ n → t.ctx.kreg k = s.ctx.kreg k)
        ∧ { t with ctx := { t.ctx with k := s.ctx.k } } = s)
    ∧ (p.dest.kind = 6 → t = s))
  ∧ (∀ (s : State) (p : Pend) (f : DFault), p.fault = some f →
    let t := s.writeDest p
    (∀ n, p.dest = ⟨0, n⟩ → n ≠ 0 → t.ctx.sreg n = { val := Config.freeWord s.free, valid := true, full := true, fault := some f }
        ∧ (∀ k, k ≠ n → t.ctx.sreg k = s.ctx.sreg k) ∧ { t with ctx := { t.ctx with s := s.ctx.s }, free := s.free } = s)
    ∧ ∀ n, p.dest = ⟨3, n⟩ →
      let z := t.row s.ctx.core n
      z.bits = Config.freeRow s.free ∧ z.valid = true ∧ z.full = true ∧ z.fault = some f
        ∧ (∀ core k, core ≠ s.ctx.core ∨ k ≠ n → k < 2048 → n < 2048 → t.row core k = s.row core k)
        ∧ { t with rows := s.rows, free := s.free, ctx := { t.ctx with regions := s.ctx.regions } } = s)
  ∧ ∀ s : State,
    let consumed (f : DFault) : Trap := { cause := f.cause, addr := f.addr, info1 := f.info1, code := f.code, srcpc := f.srcpc,
                                          srcstep := f.srcstep, defer := true, cons := f.cause == 0x0F }
    (∀ (p : BitVec 4) (a : BitVec 6), a.toNat % 32 ≠ 0 →
      let r := s.ctx.sreg (a.toNat % 32)
      let info := BitVec.ofNat 64 (a.toNat % 32)
      (r.full = true → r.fault = none → r.valid = false → exec (.pmov p a) s = .next (trapped s { cause := 0x05, info1 := info }))
      ∧ (r.full = true → ∀ f, r.fault = some f → exec (.pmov p a) s = .next (trapped s (consumed f)))
      ∧ (r.full = false → exec (.pmov p a) s
          = .next (if a.toNat < 32 then held s .empty else trapped s { cause := 0x06, info1 := info })))
    ∧ (∀ d f x : BitVec 4, (s.ctx.preg (physP s.ctx x.toNat)).valid = false →
        exec (.plog d f x x) s = .next (trapped s { cause := 0x05, info1 := BitVec.ofNat 64 (0x1000 + physP s.ctx x.toNat) }))
    ∧ (∀ d f x : BitVec 4, (s.ctx.mreg (physP s.ctx x.toNat)).valid = false →
        exec (.mlog d f x x) s = .next (trapped s { cause := 0x05, info1 := BitVec.ofNat 64 (0x2000 + physP s.ctx x.toNat) }))
    ∧ ∀ (d : BitVec 5) (a b : BitVec 6) (y : Word), s.rdS b = .ok y → s.dstS d.toNat = .ok () →
      let n := physV s.ctx a.toNat
      let z := s.rowBefore n
      let info := BitVec.ofNat 64 (0x3000 + n)
      (s.busy s.ctx.core (n / 128) = true → exec (.vlane d a b) s = .next (held s .busy))
      ∧ (s.busy s.ctx.core (n / 128) = false →
          (z.full = true → z.fault = none → z.valid = false → exec (.vlane d a b) s = .next (trapped s { cause := 0x05, info1 := info }))
          ∧ (z.full = true → ∀ f, z.fault = some f → exec (.vlane d a b) s = .next (trapped s (consumed f)))
          ∧ (z.full = false → exec (.vlane d a b) s = .next (if z.pol = false then held s .empty else trapped s { cause := 0x06, info1 := info })))

/-- An instruction that acts on registers alone changes nothing but the record of its bundle's issue, and every result that it leaves there
goes to one of its destination registers (R45, R192): this is its frame, whether it completes, holds or traps. wpset, which reads a descriptor,
leaves no result, and changes beside that record only A bits of leaf entries (R156, R309). -/
def Obligations.RegisterOnlyFrame : Prop :=
  (∀ (i : Instr) (s t : State) (ds : List Dest), i.dests s = some ds → exec i s = .next t →
    { t with iss := s.iss } = s ∧ ∃ new, t.iss.out = s.iss.out ++ new ∧ ∀ x ∈ new, (x.1 = s.iss.ord ∨ x.1 = 8) ∧ x.2.dest ∈ ds)
  ∧ ∀ (w : BitVec 2) (a : BitVec 6) (s t : State), exec (.wpset w a) s = .next t →
    t.iss.out = s.iss.out ∧ OnlyWalked s.mem t.mem ∧ t.ctx = s.ctx ∧ t.parked = s.parked ∧ t.rows = s.rows ∧ t.host = s.host ∧ t.peer = s.peer
      ∧ t.wbuf = s.wbuf ∧ t.abuf = s.abuf ∧ t.sbuf = s.sbuf ∧ t.wake = s.wake ∧ t.ctl = s.ctl

/-! Class S. -/

/-- The three-register arithmetic and logic forms, and clz and popc, complete on readable operands with the results of Table 9.2, at the
latency of their group (R127). -/
def Obligations.ScalarArithmeticResults : Prop :=
  ∀ (s : State) (d : BitVec 5) (a : BitVec 6) (b : BOp) (x y : Word),
    s.rdS a = .ok x → s.bop b = .ok y → s.dstS d.toNat = .ok () →
    (∀ f ∈ [(Instr.add, 1, x + y), (Instr.sub, 1, x - y), (Instr.mul, 2, x * y),
            (Instr.mulh, 2, BitVec.ofInt 64 (x.toInt * y.toInt / 2 ^ 64)), (Instr.mulhu, 2, BitVec.ofNat 64 (x.toNat * y.toNat / 2 ^ 64)),
            (Instr.and, 1, x &&& y), (Instr.or, 1, x ||| y), (Instr.xor, 1, x ^^^ y), (Instr.andn, 1, x &&& ~~~y),
            (Instr.shl, 1, x <<< (y.toNat % 64)), (Instr.shr, 1, x >>> (y.toNat % 64)), (Instr.sar, 1, x.sshiftRight (y.toNat % 64)),
            (Instr.min, 1, if x.toInt ≤ y.toInt then x else y), (Instr.max, 1, if x.toInt ≤ y.toInt then y else x),
            (Instr.minu, 1, if x.toNat ≤ y.toNat then x else y), (Instr.maxu, 1, if x.toNat ≤ y.toNat then y else x),
            (Instr.addx2, 1, x + 4 * y), (Instr.addx3, 1, x + 8 * y), (Instr.addx4, 1, x + 16 * y)],
      exec (f.1 d a b) s = .next (s.postS d.toNat (s.ctx.latOf f.2.1) f.2.2))
    ∧ (∃ n, exec (.clz d a) s = .next (s.postS d.toNat (s.ctx.latOf 1) (BitVec.ofNat 64 n)) ∧ n ≤ 64
        ∧ (∀ i, i < n → x.getLsbD (63 - i) = false) ∧ (n < 64 → x.getLsbD (63 - n) = true))
    ∧ exec (.popc d a) s = .next (s.postS d.toNat (s.ctx.latOf 1) (BitVec.ofNat 64 ((List.range 64).countP (fun i => x.getLsbD i))))

/-- The divisions: quotients toward zero and remainders with the sign of x, signed and unsigned; a zero divisor raises trap 0x16 and d is
not written; the quotient of −2⁶³ by −1 is −2⁶³ and the remainder 0 (R128). -/
def Obligations.DivisionResults : Prop :=
  ∀ (s : State) (d : BitVec 5) (a : BitVec 6) (b : BOp) (x y : Word),
    s.rdS a = .ok x → s.bop b = .ok y → s.dstS d.toNat = .ok () →
    let put (v : Word) : State := s.postS d.toNat (s.ctx.latOf 3) v
    (y ≠ 0 → exec (.div d a b) s = .next (put (BitVec.ofInt 64 (x.toInt.tdiv y.toInt)))
      ∧ exec (.rem d a b) s = .next (put (BitVec.ofInt 64 (x.toInt - x.toInt.tdiv y.toInt * y.toInt)))
      ∧ exec (.divu d a b) s = .next (put (BitVec.ofNat 64 (x.toNat / y.toNat)))
      ∧ exec (.remu d a b) s = .next (put (BitVec.ofNat 64 (x.toNat - x.toNat / y.toNat * y.toNat))))
    ∧ (y = 0 → ∀ f ∈ [Instr.div, Instr.divu, Instr.rem, Instr.remu], exec (f d a b) s = .next (trapped s { cause := 0x16 }))
    ∧ (x = 0x8000000000000000 → y = 0xFFFFFFFFFFFFFFFF →
        exec (.div d a b) s = .next (put 0x8000000000000000) ∧ exec (.rem d a b) s = .next (put 0))

/-- bfx and bfi bit by bit, with pos, len and sx in operand b; a len above 64 raises an operand trap (R129). movi's three immediates,
sign-extended (R130), and nop, which advances STEP by its k, or by 1 (R118, R131). -/
def Obligations.BitFieldMoviNop : Prop :=
  (∀ (s : State) (d : BitVec 5) (a : BitVec 6) (b : BOp) (x y : Word), s.rdS a = .ok x → s.bop b = .ok y →
    let pos := y.toNat % 64
    let len := y.toNat / 64 % 128
    let sx := y.getLsbD 13
    (s.dstS d.toNat = .ok () → len ≤ 64 → ∃ v, exec (.bfx d a b) s = .next (s.postS d.toNat (s.ctx.latOf 1) v)
      ∧ ∀ i, i < 64 → v.getLsbD i = if i < len then x.getLsbD (pos + i) else (sx && 0 < len && x.getLsbD (pos + len - 1)))
    ∧ (∀ z, s.rdSn d.toNat false = .ok z → len ≤ 64 → ∃ v, exec (.bfi d a b) s = .next (s.postS d.toNat (s.ctx.latOf 1) v)
      ∧ ∀ i, i < 64 → v.getLsbD i = if pos ≤ i ∧ i < pos + len then x.getLsbD (i - pos) else z.getLsbD i)
    ∧ (s.dstS d.toNat = .ok () → 64 < len → exec (.bfx d a b) s = .next (trapped s { cause := 0x0B, info1 := y }))
    ∧ (∀ z, s.rdSn d.toNat false = .ok z → 64 < len → exec (.bfi d a b) s = .next (trapped s { cause := 0x0B, info1 := y })))
  ∧ (∀ (s : State) (d : BitVec 5) (m : BitVec 12) (hi lo : BitVec 24) (k : BitVec 8),
    (s.dstS d.toNat = .ok () →
      exec (.movi d (.i0 m)) s = .next (s.postS d.toNat (s.ctx.latOf 1) (m.signExtend 64))
        ∧ exec (.movi d (.i1 m lo)) s = .next (s.postS d.toNat (s.ctx.latOf 1) ((lo ++ m).signExtend 64))
        ∧ exec (.movi d (.i2 m hi lo)) s = .next (s.postS d.toNat (s.ctx.latOf 1) ((hi ++ lo ++ m).signExtend 64)))
    ∧ ∃ t, exec (.nop k) s = .next t ∧ t = { s with iss := { s.iss with nk := t.iss.nk } }
        ∧ (s.iss.nk = 0 → t.iss.advance = if k = 0 then 1 else k.toNat))

/-- The compares write the predicate, and with C the mask of the same number with all 512 bits equal to it (R132). movt writes a where pn XOR
N holds and else nothing; plog writes bit fn[2 px + py]; pmov writes whether a is nonzero; pget reads the sixteen predicates as bits (R133
to R136). -/
def Obligations.ScalarComparesAndPredicates : Prop :=
  (∀ (s : State) (p : BitVec 4) (c : Bool) (a : BitVec 6) (b : BOp) (x y : Word), s.rdS a = .ok x → s.bop b = .ok y →
    ∀ f ∈ [(Instr.cmpeq, decide (x = y)), (Instr.cmpne, decide (x ≠ y)), (Instr.cmplt, decide (x.toInt < y.toInt)),
           (Instr.cmple, decide (x.toInt ≤ y.toInt)), (Instr.cmpltu, decide (x.toNat < y.toNat)), (Instr.cmpleu, decide (x.toNat ≤ y.toNat))],
      exec (f.1 p c a b) s = .next (
        let t := s.postP p.toNat (s.ctx.latOf 1) f.2
        if c then t.postM p.toNat (s.ctx.latOf 1) (if f.2 then BitVec.allOnes 512 else 0) 0 else t))
  ∧ (∀ s : State,
    (∀ (d : BitVec 5) (a : BitVec 6) (n : Bool) (p : BitVec 4) (x : Word) (t : Bool),
      s.rdS a = .ok x → s.rdP p.toNat = .ok t → s.dstS d.toNat = .ok () →
      exec (.movt d a n p) s = .next (if t ^^ n then s.postS d.toNat (s.ctx.latOf 1) x else s))
    ∧ (∀ (d f x y : BitVec 4) (px py : Bool), s.rdP x.toNat = .ok px → s.rdP y.toNat = .ok py →
      exec (.plog d f x y) s = .next (s.postP d.toNat (s.ctx.latOf 1) (f.getLsbD (2 * px.toNat + py.toNat))))
    ∧ (∀ (p : BitVec 4) (a : BitVec 6) (x : Word), s.rdS a = .ok x →
      exec (.pmov p a) s = .next (s.postP p.toNat (s.ctx.latOf 1) (decide (x ≠ 0))))
    ∧ ∀ (d : BitVec 5) (ps : Nat → Bool), (∀ n, n < 16 → s.rdP n = .ok (ps n)) → s.dstS d.toNat = .ok () →
      ∃ v, exec (.pget d) s = .next (s.postS d.toNat (s.ctx.latOf 1) v) ∧ ∀ i, i < 64 → v.getLsbD i = (decide (i < 16) && ps i))

/-- mfs reads every special register of Table 3.5 (R60, R61, R137), a clip register that nothing has written raising an invalid-read trap; a
privileged one raises a privileged trap elsewhere, and a number that the table does not list an operand trap. ZOWN lists the tiles of the whole
task, both origins' of a fused one (R337). That MODE, FLAGS, MSEL, VWB, RRB, PRB and LC are always valid is the model's reading (log 109). -/
def Obligations.SpecialRegisterReads : Prop :=
  ∀ (s : State) (d : BitVec 5), s.dstS d.toNat = .ok () →
    let c := s.ctx
    let put (v : Word) : State := s.postS d.toNat (c.latOf 1) v
    (∀ f ∈ [(0x000, BitVec.ofNat 64 c.rank), (0x001, BitVec.ofNat 64 c.nrank), (0x002, BitVec.ofNat 64 c.skew), (0x003, BitVec.ofNat 64 c.task),
            (0x004, BitVec.ofNat 64 c.arr), (0x008, c.mode), (0x009, c.flags), (0x00A, BitVec.ofNat 64 c.msel), (0x00B, BitVec.ofNat 64 c.vwb),
            (0x00C, BitVec.ofNat 64 c.rrb), (0x00D, BitVec.ofNat 64 c.prb), (0x00E, c.lc), (0x010, BitVec.ofNat 64 c.leafn), (0x011, s.tb),
            (0x012, c.step)],
      exec (.mfs d f.1) s = .next (put f.2))
    ∧ (∀ k : BitVec 12, k.toNat < 8 → (c.kreg k.toNat).valid = true → exec (.mfs d (0x020 + k)) s = .next (put (c.kreg k.toNat).val))
    ∧ (∀ k : BitVec 12, k.toNat < 8 → (c.kreg k.toNat).valid = false →
        exec (.mfs d (0x020 + k)) s = .next (trapped s { cause := 0x05, info1 := BitVec.ofNat 64 (5 * 4096 + k.toNat) }))
    ∧ (∀ n : BitVec 12, n.toNat ∈ [0x005, 0x006, 0x007, 0x00F] ∨ (0x013 ≤ n.toNat ∧ n.toNat < 0x020) ∨ (0x028 ≤ n.toNat ∧ n.toNat < 0x030)
          ∨ (0x034 ≤ n.toNat ∧ n.toNat < 0x040) ∨ (0x050 ≤ n.toNat ∧ n.toNat < 0x100) ∨ (c.priv = true ∧ 0x109 ≤ n.toNat) →
        exec (.mfs d n) s = .next (trapped s { cause := 0x0B, info1 := n.zeroExtend 64 }))
    ∧ (∀ k : BitVec 12, k.toNat < 4 → exec (.mfs d (0x030 + k)) s = .next (put (c.wps.getD k.toNat {}).val))
    ∧ (∀ k : BitVec 12, k.toNat < 6 → exec (.mfs d (0x040 + k)) s = .next (put (BitVec.ofNat 64 (c.tls.getD k.toNat {}).done)))
    ∧ (∀ k : BitVec 12, 6 ≤ k.toNat → k.toNat < 16 → exec (.mfs d (0x040 + k)) s = .next (put 0))
    ∧ (c.priv = true → ∀ f ∈ [(0x100, c.tmap), (0x101, s.ownSet), (0x102, c.wwin), (0x103, c.awin), (0x104, c.swin), (0x105, c.spovf),
            (0x106, c.tvec), (0x107, c.area ||| (if c.inh then 1 else 0)), (0x108, c.dbg)],
      exec (.mfs d f.1) s = .next (put f.2))
    ∧ (c.priv = false → ∀ n : BitVec 12, 0x100 ≤ n.toNat → exec (.mfs d n) s = .next (trapped s { cause := 0x04, info1 := n.zeroExtend 64 }))

/-- mts writes every writable special register, visible to the next bundle, once its value passes that register's check, and traps where it
does not; elsewhere than in a privileged context, a privileged one raises a privileged trap, and a number that no register listed as writable has
an operand trap (R56, R60, R61, R74, R138, R160, R162, R300). That bits outside the fields of ZOWN, TVEC, AREA and DBG are dropped, and that
INFO1 is the number of a register that cannot be written, are the model's readings (logs 24 and 37). -/
def Obligations.SpecialRegisterWrites : Prop :=
  ∀ (s : State) (a : BitVec 6) (v : Word), s.rdS a = .ok v →
    let c := s.ctx
    let own := c.zown ||| s.mateOwn
    let zownOk : Bool := decide (wfld v 16 5 ≤ 16) && (v &&& 0xFFFF &&& s.othersOwn) == 0 && windowOk v c.vwb && tmapIn v c.tmap
    let ovr : Trap := { cause := 0x0B, info1 := v }
    let bound : Trap := { cause := 0x0A, addr := v }
    let bad : Trap := { cause := 0x03, info1 := BitVec.ofNat 64 s.iss.word }
    (∀ f ∈ [(0x008, modeOk v, v, bad), (0x009, true, v &&& 0x3F, ovr), (0x00A, decide (v.toNat < 16), v, ovr),
            (0x00B, windowOk own v.toNat, v, bound), (0x00C, decide (v.toNat < 48), v, ovr), (0x00D, decide (v.toNat < 8), v, ovr),
            (0x00E, true, v, ovr), (0x020, true, v, ovr), (0x021, true, v, ovr), (0x022, true, v, ovr), (0x023, true, v, ovr),
            (0x024, true, v, ovr), (0x025, true, v, ovr), (0x026, true, v, ovr), (0x027, true, v, ovr)],
      exec (.mts f.1 a) s = .next (if f.2.1 = true then s.postX f.1.toNat 1 f.2.2.1 else trapped s f.2.2.2))
    ∧ (c.priv = true → ∀ f ∈ [(0x100, tmapOk own v, v), (0x101, zownOk, v &&& 0x1FFFFF &&& ~~~s.mateOwn), (0x102, winOk v 1024, v),
            (0x103, winOk v 768, v), (0x104, winOk v 256, v), (0x105, decide (v.toNat % 64 = 0), v), (0x106, true, v &&& ~~~3),
            (0x107, true, v &&& ~~~0xFFF), (0x108, true, if s.feat 8 then v &&& 1 else c.dbg)],
      exec (.mts f.1 a) s = .next (if f.2.1 = true then s.postX f.1.toNat 1 f.2.2 else trapped s ovr))
    ∧ (c.priv = false → ∀ n : BitVec 12, 0x100 ≤ n.toNat → exec (.mts n a) s = .next (trapped s { cause := 0x04, info1 := n.zeroExtend 64 }))
    ∧ ∀ n : BitVec 12, n.toNat < 0x008 ∨ (0x00F ≤ n.toNat ∧ n.toNat < 0x020) ∨ (0x028 ≤ n.toNat ∧ n.toNat < 0x100)
          ∨ (c.priv = true ∧ 0x109 ≤ n.toNat) → exec (.mts n a) s = .next (trapped s { cause := 0x0B, info1 := n.zeroExtend 64 })

/-- cmpt and vcmpt have no effect on equal operands, and raise a compare trap with both values on different ones, vcmpt for the lowest
active 9-bit lane that differs (R139, R247). -/
def Obligations.CompareTraps : Prop :=
  (∀ (s : State) (a : BitVec 6) (b : BOp) (x y : Word), s.rdS a = .ok x → s.bop b = .ok y →
    exec (.cmpt a b) s = .next (if x = y then s else trapped s { cause := 0x0C, info1 := x, info2 := y }))
  ∧ ∀ (s : State) (a b : BitVec 6) (ra rb : Row) (m : Mask), s.rdV a = .ok ra → s.rdV b = .ok rb → s.rdMask = .ok m →
    ((∀ q, q < 512 → m.getLsbD q = true → laneAt 9 ra q = laneAt 9 rb q) → exec (.vcmpt a b) s = .next s)
    ∧ ∀ q, q < 512 → m.getLsbD q = true → laneAt 9 ra q ≠ laneAt 9 rb q →
      (∀ r, r < q → m.getLsbD r = true → laneAt 9 ra r = laneAt 9 rb r) →
      exec (.vcmpt a b) s = .next (trapped s { cause := 0x0C, addr := BitVec.ofNat 64 q, info1 := BitVec.ofNat 64 (laneAt 9 ra q),
                                               info2 := BitVec.ofNat 64 (laneAt 9 rb q) })

/-! Class B. -/

/-- A B slot whose test holds, where no earlier one is taken, is the exit taken, with the target of its form; call and calli leave the
address of the next sequential bundle for s31; a register target must be a multiple of 4 on path 0x00, an
align trap and a path trap otherwise (the order is log 88); an exit with a region open raises an operand trap, whose INFO1 is the number of open
regions (the model's reading, log 37). A slot that traps so is the exit taken all the same, so no later one has an effect. One whose test fails, or
that an earlier exit makes ineffective, has no effect (R96, R114, R140, R141, R144, R145). -/
def Obligations.BranchTests : Prop :=
  (∀ (s : State) (p : BitVec 4) (n : Bool) (t : Bool), s.rdP p.toNat = .ok t → (t ^^ n) = true → s.iss.taken = none →
    let u := tested s
    (∀ o : Off, exec (.br p n o) s = .next (exitTaken s u (.branch (s.ctx.pc + 4 * offWords o)))
      ∧ (s.dstS 31 = .ok () → exec (.call p n o) s
          = .next (exitTaken s (u.postS 31 (s.ctx.latOf 1) s.iss.npc) (.branch (s.ctx.pc + 4 * offWords o)))))
    ∧ (∀ (a : BitVec 6) (x : Word), s.rdS a = .ok x → x.toNat % 4 = 0 → x.toNat < 2 ^ 56 →
      exec (.bri p n a) s = .next (exitTaken s u (.branch x))
      ∧ (s.dstS 31 = .ok () → exec (.calli p n a) s = .next (exitTaken s (u.postS 31 (s.ctx.latOf 1) s.iss.npc) (.branch x))))
    ∧ (∀ x : Word, s.rdSn 31 false = .ok x → x.toNat % 4 = 0 → x.toNat < 2 ^ 56 → exec (.ret p n) s = .next (exitTaken s u (.branch x)))
    ∧ (s.ctx.regions = [] ∨ s.ctx.inh = true → exec (.exit p n) s = .next (exitTaken s u .exit))
    ∧ exec (.yield p n) s = .next (exitTaken s u .yield)
    ∧ (let stop : State := exitTaken s u (.branch s.iss.npc)
       let bad (x : Word) (e : Trap) : Prop := (x.toNat % 4 ≠ 0 ∧ e = { cause := 0x09, addr := x })
         ∨ (x.toNat % 4 = 0 ∧ 2 ^ 56 ≤ x.toNat ∧ e = { cause := 0x08, addr := x })
       (∀ (a : BitVec 6) (x : Word) (e : Trap), s.rdS a = .ok x → bad x e → exec (.bri p n a) s = .next (trapped stop e)
         ∧ (s.dstS 31 = .ok () → exec (.calli p n a) s = .next (trapped stop e)))
       ∧ (∀ (x : Word) (e : Trap), s.rdSn 31 false = .ok x → bad x e → exec (.ret p n) s = .next (trapped stop e))
       ∧ (s.ctx.regions ≠ [] → s.ctx.inh = false →
         exec (.exit p n) s = .next (trapped stop { cause := 0x0B, info1 := BitVec.ofNat 64 s.ctx.regions.length }))))
  ∧ (∀ (s : State) (p : BitVec 4) (n : Bool) (t : Bool) (o : Off) (a : BitVec 6), s.rdP p.toNat = .ok t →
    (t ^^ n) = false ∨ s.iss.taken.isSome = true →
    ∀ i ∈ [Instr.br p n o, Instr.bri p n a, Instr.call p n o, Instr.calli p n a, Instr.ret p n, Instr.loop p n o, Instr.loopw p n o,
           Instr.exit p n, Instr.yield p n], exec i s = .next (tested s))

/-- loop: with LC above 0 it is taken, counts LC down and rotates RRB and PRB; with LC = 0 it is a loop fall-through (R142); its writes of LC, RRB and PRB come
behind every other of the bundle (R138). loopw: taken
wherever its test holds, with the rotation of loop, and neither LC nor a snapshot; else no exit (R143). -/
def Obligations.LoopsRotate : Prop :=
  (∀ (s : State) (p : BitVec 4) (n : Bool) (t : Bool) (o : Off), s.rdP p.toNat = .ok t → (t ^^ n) = true → s.iss.taken = none →
    let u := tested s
    (s.ctx.lc ≠ 0 → exec (.loop p n o) s = .next (exitTaken s
      (((u.postLast 0x00E (s.ctx.lc - 1)).postLast 0x00C (BitVec.ofNat 64 ((s.ctx.rrb + 1) % 48))).postLast 0x00D (BitVec.ofNat 64 ((s.ctx.prb + 1) % 8)))
      (.branch (s.ctx.pc + 4 * offWords o))))
    ∧ (s.ctx.lc = 0 → exec (.loop p n o) s = .next { u with iss := { u.iss with loopFalls := u.iss.loopFalls + 1 } }))
  ∧ (∀ (s : State) (p : BitVec 4) (n : Bool) (t : Bool) (o : Off), s.rdP p.toNat = .ok t →
    let u := tested s
    exec (.loopw p n o) s = .next (if (t ^^ n) && s.iss.taken.isNone then exitTaken s
        ((u.postLast 0x00C (BitVec.ofNat 64 ((s.ctx.rrb + 1) % 48))).postLast 0x00D (BitVec.ofNat 64 ((s.ctx.prb + 1) % 8)))
        (.branch (s.ctx.pc + 4 * offWords o))
      else u))

/-! Classes V and N. -/

/-- The float arithmetic of classes V and N, lane by lane: each active lane holds the once-rounded result of its operands under the MODE of
the slot, and raises that result's flags (R227, R228, R230, R231, R236). -/
def Obligations.FloatLaneArithmetic : Prop :=
  ∀ (s : State) (d a b : BitVec 6) (ra rb : Row) (m : Mask),
    s.rdV a = .ok ra → s.rdV b = .ok rb → s.rdMask = .ok m → s.dstV d = .ok () →
    let v := s.renv
    let on (w : Nat) : Nat → Bool := maskBit w m
    let x (f : Fmt) (w i : Nat) : FV := f.decIn v (laneAt w ra i)
    let y (f : Fmt) (w i : Nat) : FV := f.decIn v (laneAt w rb i)
    (∀ f ∈ [(Instr.vaddf, 4, fadd), (Instr.vsubf, 4, fsub), (Instr.vmulf, 5, fmul)],
      LaneSlot s (f.1 d a b) true d f.2.1 36 (on 36) (fun i => f.2.2 v F36 i (x F36 36 i) (y F36 36 i)))
    ∧ (∀ f ∈ [(Instr.naddB, fadd), (Instr.nsubB, fsub), (Instr.nmulB, fmul)],
      LaneSlot s (f.1 d a b) true d 7 18 (on 18) (fun i => f.2 v B18 i (x B18 18 i) (y B18 18 i)))
    ∧ (∀ f ∈ [(Instr.vminf, false), (Instr.vmaxf, true)],
      LaneSlot s (f.1 d a b) false d 6 36 (on 36) (fun i => fminmax v F36 f.2 (laneAt 36 ra i) (laneAt 36 rb i)))
    ∧ (∀ f ∈ [(Instr.nminB, false), (Instr.nmaxB, true)],
      LaneSlot s (f.1 d a b) false d 7 18 (on 18) (fun i => fminmax v B18 f.2 (laneAt 18 ra i) (laneAt 18 rb i)))
    ∧ LaneSlot s (.vabsf d a) false d 6 36 (on 36) (fun i => ⟨laneAt 36 ra i % 2 ^ 35, 0⟩)
    ∧ LaneSlot s (.vnegf d a) false d 6 36 (on 36) (fun i => ⟨(laneAt 36 ra i + 2 ^ 35) % 2 ^ 36, 0⟩)
    ∧ ∀ rd, s.rdV d = .ok rd →
      (∀ f ∈ [(Instr.vfmaf, false), (Instr.vfmsf, true)],
        LaneSlot s (f.1 d a b) true d 5 36 (on 36) (fun i => ffma v F36 i f.2 (x F36 36 i) (y F36 36 i) (F36.decIn v (laneAt 36 rd i))))
      ∧ LaneSlot s (.nfmaB d a b) true d 7 18 (on 18) (fun i => ffma v B18 i false (x B18 18 i) (y B18 18 i) (B18.decIn v (laneAt 18 rd i)))

/-- The integer and bit operations of class V, lane by lane (R233): exact results narrowed, saturating adds, the upper half of a product,
minima and maxima, shifts by y[5:0], and the bitwise operations on 9-bit lanes. -/
def Obligations.IntegerLaneOperations : Prop :=
  ∀ (s : State) (d a b : BitVec 6) (ra rb : Row) (m : Mask),
    s.rdV a = .ok ra → s.rdV b = .ok rb → s.rdMask = .ok m → s.dstV d = .ok () →
    let v := s.renv
    let on (w : Nat) : Nat → Bool := maskBit w m
    let u (i : Nat) : Nat := laneAt 36 ra i
    let n (i : Nat) : Nat := laneAt 36 rb i % 64
    let x (i : Nat) : Int := decI 36 (laneAt 36 ra i)
    let y (i : Nat) : Int := decI 36 (laneAt 36 rb i)
    LaneSlot s (.vaddi d a b) false d 6 36 (on 36) (fun i => narrow v (x i + y i) 36)
    ∧ LaneSlot s (.vsubi d a b) false d 6 36 (on 36) (fun i => narrow v (x i - y i) 36)
    ∧ LaneSlot s (.vmuli d a b) false d 5 36 (on 36) (fun i => narrow v (x i * y i) 36)
    ∧ LaneSlot s (.vaddsi d a b) false d 6 36 (on 36) (fun i => satR (x i + y i) 36)
    ∧ LaneSlot s (.vmulhi d a b) false d 5 36 (on 36) (fun i => ⟨encI 36 (x i * y i / 2 ^ 36), 0⟩)
    ∧ LaneSlot s (.vmini d a b) false d 6 36 (on 36) (fun i => ⟨encI 36 (min (x i) (y i)), 0⟩)
    ∧ LaneSlot s (.vmaxi d a b) false d 6 36 (on 36) (fun i => ⟨encI 36 (max (x i) (y i)), 0⟩)
    ∧ LaneSlot s (.vshl d a b) false d 6 36 (on 36) (fun i => ⟨if n i < 36 then u i * 2 ^ n i % 2 ^ 36 else 0, 0⟩)
    ∧ LaneSlot s (.vshr d a b) false d 6 36 (on 36) (fun i => ⟨if n i < 36 then u i / 2 ^ n i else 0, 0⟩)
    ∧ LaneSlot s (.vsar d a b) false d 6 36 (on 36) (fun i => ⟨encI 36 (if n i < 36 then x i / 2 ^ n i else if x i < 0 then -1 else 0), 0⟩)
    ∧ ∀ f ∈ [(Instr.vand, Nat.land), (Instr.vor, Nat.lor), (Instr.vxor, Nat.xor)],
      LaneSlot s (f.1 d a b) false d 6 9 (on 9) (fun i => ⟨f.2 (laneAt 9 ra i) (laneAt 9 rb i), 0⟩)

/-- The integer operations of class N on 18- and 9-bit lanes (R236). -/
def Obligations.NarrowLaneOperations : Prop :=
  ∀ (s : State) (d a b : BitVec 6) (ra rb : Row) (m : Mask),
    s.rdV a = .ok ra → s.rdV b = .ok rb → s.rdMask = .ok m → s.dstV d = .ok () →
    let v := s.renv
    let x (w i : Nat) : Int := decI w (laneAt w ra i)
    let y (w i : Nat) : Int := decI w (laneAt w rb i)
    (∀ f ∈ [(Instr.naddH, 18, fun p q : Int => p + q), (Instr.nsubH, 18, fun p q => p - q), (Instr.nmulH, 18, fun p q => p * q),
            (Instr.naddQ, 9, fun p q => p + q), (Instr.nsubQ, 9, fun p q => p - q)],
      LaneSlot s (f.1 d a b) false d 7 f.2.1 (maskBit f.2.1 m) (fun i => narrow v (f.2.2 (x f.2.1 i) (y f.2.1 i)) f.2.1))
    ∧ (∀ f ∈ [(Instr.nminH, 18, fun p q : Int => min p q), (Instr.nmaxH, 18, fun p q => max p q), (Instr.nminQ, 9, fun p q => min p q),
            (Instr.nmaxQ, 9, fun p q => max p q)],
      LaneSlot s (f.1 d a b) false d 7 f.2.1 (maskBit f.2.1 m) (fun i => ⟨encI f.2.1 (f.2.2 (x f.2.1 i) (y f.2.1 i)), 0⟩))
    ∧ LaneSlot s (.naddsQ d a b) false d 7 9 (maskBit 9 m) (fun i => satR (x 9 i + y 9 i) 9)

/-- The compares of classes V and N (R232, R236): a float relation is false for a NaN operand, but vcunf true, and the flags are those of
the table. -/
def Obligations.LaneCompares : Prop :=
  ∀ (s : State) (k : BitVec 4) (a b : BitVec 6) (ra rb : Row) (m : Mask), s.rdV a = .ok ra → s.rdV b = .ok rb → s.rdMask = .ok m →
    let v := s.renv
    let x (f : Fmt) (w i : Nat) : FV := f.decIn v (laneAt w ra i)
    let y (f : Fmt) (w i : Nat) : FV := f.decIn v (laneAt w rb i)
    let nan (f : Fmt) (w i : Nat) : Bool := (x f w i).isNan || (y f w i).isNan
    let snan (f : Fmt) (w i : Nat) : Nat := if (x f w i).isSnan || (y f w i).isSnan then fINV else 0
    let anyNan (f : Fmt) (w i : Nat) : Nat := if nan f w i then fINV else 0
    let cmp (f : Fmt) (w i : Nat) : Int := cmpV (x f w i) (y f w i)
    MaskSlot s (.vceqf k a b) k 6 36 m (fun i => !nan F36 36 i && cmp F36 36 i == 0) (snan F36 36)
    ∧ MaskSlot s (.vcltf k a b) k 6 36 m (fun i => !nan F36 36 i && decide (cmp F36 36 i < 0)) (anyNan F36 36)
    ∧ MaskSlot s (.vclef k a b) k 6 36 m (fun i => !nan F36 36 i && decide (cmp F36 36 i ≤ 0)) (anyNan F36 36)
    ∧ MaskSlot s (.vcunf k a b) k 6 36 m (nan F36 36) (snan F36 36)
    ∧ MaskSlot s (.nceqB k a b) k 7 18 m (fun i => !nan B18 18 i && cmp B18 18 i == 0) (snan B18 18)
    ∧ MaskSlot s (.ncltB k a b) k 7 18 m (fun i => !nan B18 18 i && decide (cmp B18 18 i < 0)) (anyNan B18 18)
    ∧ MaskSlot s (.vceqi k a b) k 6 36 m (fun i => laneAt 36 ra i == laneAt 36 rb i) (fun _ => 0)
    ∧ MaskSlot s (.vclti k a b) k 6 36 m (fun i => decide (decI 36 (laneAt 36 ra i) < decI 36 (laneAt 36 rb i))) (fun _ => 0)
    ∧ MaskSlot s (.vcltu k a b) k 6 36 m (fun i => decide (laneAt 36 ra i < laneAt 36 rb i)) (fun _ => 0)

/-- The moves of class V (R234): vsel writes every 9-bit lane, from a or from b by the mask; vmov the lanes whose mask bit is set; vbc
a[35:0] of the scalar to each active 36-bit lane. None raises a flag. -/
def Obligations.LaneMoves : Prop :=
  ∀ (s : State) (d a b : BitVec 6) (ra : Row) (m : Mask), s.rdV a = .ok ra → s.rdMask = .ok m → s.dstV d = .ok () →
    (∀ rb, s.rdV b = .ok rb → ∃ val, exec (.vsel d a b) s = .next (s.postV d (s.ctx.latOf 6) val allRow 0)
      ∧ ∀ q, q < 512 → laneAt 9 val q = if m.getLsbD q then laneAt 9 ra q else laneAt 9 rb q)
    ∧ LaneSlot s (.vmov d a) false d 6 9 (maskBit 9 m) (fun q => ⟨laneAt 9 ra q, 0⟩)
    ∧ ∀ x, s.rdS b = .ok x → LaneSlot s (.vbc d b) false d 6 36 (maskBit 36 m) (fun _ => ⟨x.toNat % 2 ^ 36, 0⟩)

/-! Classes F and Q. -/

/-- The special functions on F36 and B18 lanes at their groups (R85, R248). -/
def Obligations.SpecialFunctionLanes : Prop :=
  ∀ (s : State) (d a : BitVec 6) (ra : Row) (m : Mask), s.rdV a = .ok ra → s.rdMask = .ok m → s.dstV d = .ok () →
    let v := s.renv
    (∀ f ∈ [(Instr.frcp, SFn.rcp), (Instr.frsq, .rsq), (Instr.fsqrt, .sqrt), (Instr.fexp2, .exp2), (Instr.flog2, .log2), (Instr.fsig, .sig),
            (Instr.ftanh, .tanh), (Instr.ferf, .erf), (Instr.fsinp, .sinp), (Instr.fcosp, .cosp)],
      LaneSlot s (f.1 d a) true d 11 36 (maskBit 36 m) (fun i => sfn v F36 i f.2 (F36.decIn v (laneAt 36 ra i))))
    ∧ ∀ f ∈ [(Instr.frcpB, SFn.rcp), (Instr.frsqB, .rsq), (Instr.fsqrtB, .sqrt), (Instr.fexp2B, .exp2), (Instr.flog2B, .log2), (Instr.fsigB, .sig),
            (Instr.ftanhB, .tanh), (Instr.ferfB, .erf), (Instr.fsinpB, .sinp), (Instr.fcospB, .cosp)],
      LaneSlot s (f.1 d a) true d 12 18 (maskBit 18 m) (fun i => sfn v B18 i f.2 (B18.decIn v (laneAt 18 ra i)))

/-- vcvt in its three shapes (R238, Table 15.5): lane to lane; narrowing, where the source is a row and the next one; and widening, where
the lanes of one row give two, each under the mask bit of its source lane. A second row beyond v63, of a source or a destination, is an operand
trap. -/
def Obligations.Conversions : Prop :=
  ∀ (s : State) (d a c : BitVec 6) (ra : Row) (m : Mask), s.rdV a = .ok ra → s.rdMask = .ok m → s.dstV d = .ok () → c.toNat < 14 →
    let k := c.toNat
    let cnt : Bool := [0, 1, 2, 8, 9, 12, 13].contains k
    (∀ w, cvtShape k = .same w → LaneSlot s (.vcvt d a c) cnt d 8 w (maskBit w m) (fun i => cvtLane k s.renv i (laneAt w ra i)))
    ∧ (∀ sw dw rb, cvtShape k = .narrowing sw dw → a ≠ 63 → s.rdV (a + 1) = .ok rb →
      LaneSlot s (.vcvt d a c) cnt d 8 dw (maskBit dw m)
        (fun i => cvtLane k s.renv i (if i < 4608 / sw then laneAt sw ra i else laneAt sw rb (i - 4608 / sw))))
    ∧ (∀ sw dw, cvtShape k = .widening sw dw → d ≠ 63 → s.dstV (d + 1) = .ok () → ∃ v1 m1 f1 v2 m2 f2,
      exec (.vcvt d a c) s = .next (((if cnt then s.count else s).postV d (s.ctx.latOf 8) v1 m1 f1).postV (d + 1) (s.ctx.latOf 8) v2 m2 f2)
      ∧ LaneVals dw (maskBit sw m) (fun i => cvtLane k s.renv i (laneAt sw ra i)) v1 m1 f1
      ∧ LaneVals dw (fun i => maskBit sw m (i + 4608 / dw)) (fun i => cvtLane k s.renv i (laneAt sw ra (i + 4608 / dw))) v2 m2 f2)
    ∧ (∀ sw dw, cvtShape k = .narrowing sw dw → exec (.vcvt d 63 c) s = .next (trapped s { cause := 0x0B, info1 := 63 }))
    ∧ (∀ sw dw, cvtShape k = .widening sw dw → exec (.vcvt 63 a c) s = .next (trapped s { cause := 0x0B, info1 := 63 }))

/-- vred and vscan (R88, R239, Table 15.6): the first active lane starts the running value, flushed under FZ = 2 where it is a float, and each
further active lane combines with it in lane order by one step of the operation, rounded once with its lane number. A scan writes each active
lane's running value; a reduction writes the last one to lane 0, or without an active lane 0, and −0 for a float addition under RDN. The flags
are those of all steps. -/
def Obligations.ReductionsAndScans : Prop :=
  ∀ (s : State) (d a o : BitVec 6) (ra : Row) (m : Mask), s.rdV a = .ok ra → s.rdMask = .ok m → s.dstV d = .ok () →
    let v := s.renv
    let flush (f : Fmt) (w x : Nat) : Nat := if v.fz = 2 ∧ f.subnormal x then x / 2 ^ (w - 1) * 2 ^ (w - 1) else x
    let minus (w : Nat) : Nat := if v.rm = 2 then 2 ^ (w - 1) else 0
    let add (f : Fmt) (i p x : Nat) : FR := fadd v f i (f.decIn v p) (f.decIn v x)
    let int (w : Nat) (g : Int → Int → Int) (p x : Nat) : FR := ⟨encI w (g (decI w p) (decI w x)), 0⟩
    let sum (w p x : Nat) : FR := narrow v (decI w p + decI w x) w
    ∀ f ∈ ([(0x00, 36, add F36, flush F36 36, minus 36), (0x01, 36, fun _ p x => fminmax v F36 false p x, flush F36 36, 0),
            (0x02, 36, fun _ p x => fminmax v F36 true p x, flush F36 36, 0), (0x03, 36, fun _ p x => sum 36 p x, id, 0),
            (0x04, 36, fun _ p x => int 36 min p x, id, 0), (0x05, 36, fun _ p x => int 36 max p x, id, 0),
            (0x06, 36, fun _ p x => ⟨Nat.land p x, 0⟩, id, 0), (0x07, 36, fun _ p x => ⟨Nat.lor p x, 0⟩, id, 0),
            (0x08, 36, fun _ p x => ⟨Nat.xor p x, 0⟩, id, 0), (0x10, 18, add B18, flush B18 18, minus 18),
            (0x11, 18, fun _ p x => fminmax v B18 false p x, flush B18 18, 0), (0x12, 18, fun _ p x => fminmax v B18 true p x, flush B18 18, 0),
            (0x13, 18, fun _ p x => sum 18 p x, id, 0), (0x14, 18, fun _ p x => int 18 min p x, id, 0),
            (0x15, 18, fun _ p x => int 18 max p x, id, 0), (0x18, 9, fun _ p x => sum 9 p x, id, 0),
            (0x19, 9, fun _ p x => int 9 min p x, id, 0), (0x1A, 9, fun _ p x => int 9 max p x, id, 0)]
          : List (Nat × Nat × (Nat → Nat → Nat → FR) × (Nat → Nat) × Nat)),
      o.toNat = f.1 →
      let w := f.2.1
      let n := 4608 / w
      let on : Nat → Bool := maskBit w m
      let cnt : Bool := o.toNat == 0 || o.toNat == 0x10
      ∃ run : Nat → FR,
        (∀ i, i < n → on i = true → (∀ j, j < i → on j = false) → run i = ⟨f.2.2.2.1 (laneAt w ra i), 0⟩)
        ∧ (∀ j i, j < i → i < n → on j = true → on i = true → (∀ k, j < k → k < i → on k = false) →
            run i = f.2.2.1 i (run j).bits (laneAt w ra i))
        ∧ LaneSlot s (.vscan d a o) cnt d 9 w on run
        ∧ ∃ val msk fl, exec (.vred d a o) s = .next ((if cnt then s.count else s).postV d (s.ctx.latOf 9) val msk fl)
            ∧ (∀ i, i < n → laneAt w msk i = if i = 0 then 2 ^ w - 1 else 0)
            ∧ (∀ i, i < n → on i = true → (∀ j, i < j → j < n → on j = false) → laneAt w val 0 = (run i).bits % 2 ^ w)
            ∧ ((∀ i, i < n → on i = false) → laneAt w val 0 = f.2.2.2.2)
            ∧ ∀ k, k < 6 → (fl.testBit k = true ↔ ∃ i, i < n ∧ on i = true ∧ (run i).flags.testBit k = true)

/-- vshuf takes lane b[i][6:0] of a, and vrot rotates the 9-bit lanes of a down by sb[8:0] (R240). -/
def Obligations.ShuffleAndRotate : Prop :=
  ∀ (s : State) (d a b : BitVec 6) (ra : Row) (m : Mask), s.rdV a = .ok ra → s.rdMask = .ok m → s.dstV d = .ok () →
    (∀ rb, s.rdV b = .ok rb → LaneSlot s (.vshuf d a b) false d 8 36 (maskBit 36 m) (fun i => ⟨laneAt 36 ra (laneAt 36 rb i % 128), 0⟩))
    ∧ ∀ k, s.rdS b = .ok k → LaneSlot s (.vrot d a b) false d 8 9 (maskBit 9 m) (fun q => ⟨laneAt 9 ra ((q + k.toNat % 512) % 512), 0⟩)

/-- vcx orders the lanes at distance 2^k in pairs under the lower lane's mask bit (R241); vhist counts the active lanes into its bins, and
vmerge sums each bin row (R242, R243). -/
def Obligations.ExchangeAndHistograms : Prop :=
  (∀ (s : State) (d a : BitVec 6) (dir ty : Bool) (k : BitVec 3) (ra : Row) (m : Mask), s.rdV a = .ok ra → s.rdMask = .ok m →
    s.dstV d = .ok () → k ≠ 7 →
    let low (i : Nat) : Nat := if i / 2 ^ k.toNat % 2 = 0 then i else i - 2 ^ k.toNat
    let x (i : Nat) : Nat := laneAt 36 ra (low i)
    let y (i : Nat) : Nat := laneAt 36 ra (low i + 2 ^ k.toNat)
    LaneSlot s (.vcx d a dir ty k) false d 8 36 (fun i => maskBit 36 m (low i))
      (fun i => ⟨if (i == low i) != dir then (if before ty (y i) (x i) then y i else x i) else (if before ty (y i) (x i) then x i else y i), 0⟩))
  ∧ (∀ (s : State) (d a n : BitVec 6) (ra : Row) (m : Mask) (bins : List Row), s.rdV a = .ok ra → s.rdMask = .ok m →
    n ≠ 0 → d.toNat + n.toNat ≤ 64 → rdVs s d.toNat n.toNat = .ok bins →
    ∃ t new, exec (.vhist d a n) s = .next t ∧ t.iss.out = s.iss.out ++ new ∧ { t with iss := s.iss } = s ∧ new.length = n.toNat
      ∧ ∀ j, j < n.toNat → ∃ val msk fl, new[j]? = some (s.iss.ord, s.pend ⟨3, physV s.ctx (d.toNat + j)⟩ (s.ctx.latOf 8) val msk fl)
        ∧ LaneVals 36 (fun i => maskBit 36 m i && decI 36 (laneAt 36 ra i) == (j : Int))
            (fun i => satR (decI 36 (laneAt 36 (bins.getD j 0) i) + 1) 36) val msk fl)
  ∧ ∀ (s : State) (d a n : BitVec 6) (bins : List Row), s.dstV d = .ok () → n ≠ 0 → a.toNat + n.toNat ≤ 64 →
    rdVs s a.toNat n.toNat = .ok bins → ∃ val fl, exec (.vmerge d a n) s = .next (s.postV d (s.ctx.latOf 10) val allRow fl)
      ∧ (∀ i, i < n.toNat → laneAt 36 val i
          = (satR (((List.range 128).map (fun j => decI 36 (laneAt 36 (bins.getD i 0) j))).sum) 36).bits % 2 ^ 36)
      ∧ ∀ i, n.toNat ≤ i → i < 128 → laneAt 36 val i = 0

/-- vfind gives the lowest set lane of a mask, vlane a lane sign-extended, vins a lane from a scalar (R244). -/
def Obligations.LaneAccess : Prop :=
  ∀ s : State,
    (∀ (d : BitVec 5) (m : BitVec 4) (w : BitVec 2) (r : Mask), s.rdM m.toNat = .ok r → s.dstS d.toNat = .ok () → w ≠ 3 →
      let n := 4608 / viewW w
      ∃ k, exec (.vfind d m w) s = .next (s.postS d.toNat (s.ctx.latOf 8) (BitVec.ofNat 64 k)) ∧ k ≤ n
        ∧ (∀ i, i < k → maskBit (viewW w) r i = false) ∧ (k < n → maskBit (viewW w) r k = true))
    ∧ (∀ (d : BitVec 5) (a b : BitVec 6) (ra : Row) (y : Word), s.rdV a = .ok ra → s.rdS b = .ok y → s.dstS d.toNat = .ok () →
      let v := y.toNat / 512 % 4
      let k := y.toNat % 512
      (v = 0 → k < 128 → exec (.vlane d a b) s = .next (s.postS d.toNat (s.ctx.latOf 8) (BitVec.ofInt 64 (decI 36 (laneAt 36 ra k)))))
      ∧ (v = 1 → k < 256 → exec (.vlane d a b) s = .next (s.postS d.toNat (s.ctx.latOf 8) (BitVec.ofInt 64 (decI 18 (laneAt 18 ra k)))))
      ∧ (v = 2 → exec (.vlane d a b) s = .next (s.postS d.toNat (s.ctx.latOf 8) (BitVec.ofInt 64 (decI 9 (laneAt 9 ra k)))))
      ∧ (v = 3 ∨ (v = 0 ∧ 128 ≤ k) ∨ (v = 1 ∧ 256 ≤ k) → exec (.vlane d a b) s = .next (trapped s { cause := 0x0B, info1 := y })))
    ∧ ∀ (d a b : BitVec 6) (x y : Word), s.rdS a = .ok x → s.rdS b = .ok y → s.dstV d = .ok () →
      ∀ f ∈ [(0, 36), (1, 18), (2, 9)], y.toNat / 512 % 4 = f.1 → y.toNat % 512 < 4608 / f.2 →
        LaneSlot s (.vins d a b) false d 8 f.2 (fun i => i == y.toNat % 512) (fun _ => ⟨x.toNat % 2 ^ f.2, 0⟩)

/-- msel, mlog, msetn and mpop on the bits of the mask registers (R245, R246). -/
def Obligations.MaskInstructions : Prop :=
  ∀ s : State,
    (∀ n : BitVec 4, exec (.msel n) s = .next (s.postX 0x00A (s.ctx.latOf 8) (n.zeroExtend 64)))
    ∧ (∀ (d f x y : BitVec 4) (mx my : Mask), s.rdM x.toNat = .ok mx → s.rdM y.toNat = .ok my →
      ∃ v, exec (.mlog d f x y) s = .next (s.postM d.toNat (s.ctx.latOf 8) v 0)
        ∧ ∀ i, i < 512 → v.getLsbD i = f.getLsbD (2 * (mx.getLsbD i).toNat + (my.getLsbD i).toNat))
    ∧ (∀ (m : BitVec 4) (a : BitVec 6) (w : BitVec 2) (x : Word), s.rdS a = .ok x → w ≠ 3 →
      ∃ v, exec (.msetn m a w) s = .next (s.postM m.toNat (s.ctx.latOf 8) v 0)
        ∧ ∀ q, q < 512 → v.getLsbD q = decide (q / (viewW w / 9) < x.toNat))
    ∧ ∀ (d : BitVec 5) (w : BitVec 2) (m : BitVec 4) (r : Mask), s.rdM m.toNat = .ok r → s.dstS d.toNat = .ok () → w ≠ 3 →
      exec (.mpop d w m) s = .next (s.postS d.toNat (s.ctx.latOf 8)
        (BitVec.ofNat 64 ((List.range (4608 / viewW w)).countP (fun i => maskBit (viewW w) r i))))

/-! Class M. -/

/-- The scalar loads complete (R51, R52, R191 to R193, R196): the element is sign- or zero-extended; on a long-latency path the destination
goes empty and the load is outstanding, on a local one the result comes at group 13; an element that cannot be read leaves a deferred
fault in the destination; U leaves the address for the base register, and raises an operand trap where that is the destination. That a
long-latency load brings the value as it stood at issue is the model's choice (log 3). -/
def Obligations.ScalarLoadsComplete : Prop :=
  ∀ (s : State) (d : BitVec 5) (b : BitVec 6) (x : MIdx) (base off : Word),
    s.rdS b = .ok base → s.mdisp x = .ok off → s.dstS d.toNat = .ok () →
    let a := base + off
    ((midxExt x).u = true → srcNum b = d.toNat → ∀ f ∈ [Instr.ldB, .ldBu, .ldH, .ldHu, .ldW, .ldWu, .ldD],
      exec (f d b x) s = .next (trapped s { cause := 0x0B, info1 := BitVec.ofNat 64 d.toNat }))
    ∧ (((midxExt x).u = true → srcNum b ≠ d.toNat) → ∀ f ∈ [(Instr.ldB, 1, true), (Instr.ldBu, 1, false), (Instr.ldH, 2, true), (Instr.ldHu, 2, false), (Instr.ldW, 4, true),
           (Instr.ldWu, 4, false), (Instr.ldD, 8, false)],
      s.issueCheck .ld a f.2.1 = .ok () → s.elemHold a f.2.1 = .ok () → s.room (s.ctx.asks a) = true →
      let t := (s.loadElem a f.2.1).1.baseUpd (midxExt x).u b a
      let late : Bool := selOf a == 0x13 && decide (winSize s.ctx.swin ≤ lowOf a)
      (∀ bs, (s.loadElem a f.2.1).2 = .ok bs → s.watchFault a f.2.1 (some (BitVec.ofNat 64 (leNat bs))) = none →
        let v : Word := if f.2.2 then BitVec.ofInt 64 (decI (8 * f.2.1) (leNat bs)) else BitVec.ofNat 64 (leNat bs)
        exec (f.1 d b x) s = .next (if longPath a then t.pendLoad ⟨0, d.toNat⟩ false a [a] (v.zeroExtend 4608) allRow 0 none 1
          else t.postLocal ⟨0, d.toNat⟩ (v.zeroExtend 4608) allRow 0 none late))
      ∧ ∀ g, (s.loadElem a f.2.1).2 = .error g →
        exec (f.1 d b x) s = .next (if longPath a then t.pendLoad ⟨0, d.toNat⟩ false a [a] 0 allRow 0 (some (s.dfault g a)) 1
          else t.postLocal ⟨0, d.toNat⟩ 0 allRow 0 (some (s.dfault g a)) late))

/-- What no load changes (R193, R309): the context's registers until its reply or its visibility step, the Z rows, host and peer memory, the
core buffers and the wake registers; in device memory only A bits of leaf entries. -/
def Obligations.LoadsFrame : Prop :=
  ∀ (s t : State) (d : BitVec 5) (v b o : BitVec 6) (x : MIdx) (y : VIdx),
    ∀ i ∈ [Instr.ldB d b x, .ldBu d b x, .ldH d b x, .ldHu d b x, .ldW d b x, .ldWu d b x, .ldD d b x, .vldF32 v b x, .vldF16 v b x,
           .vldBf16 v b x, .vldI8 v b x, .vldI8n v b x, .vldB18 v b x, .vld v b x, .vlds v b o y, .vgath v b o y],
      exec i s = .next t → t.ctx = s.ctx ∧ t.rows = s.rows ∧ t.host = s.host ∧ t.peer = s.peer ∧ t.wbuf = s.wbuf ∧ t.abuf = s.abuf
        ∧ t.sbuf = s.sbuf ∧ t.wake = s.wake ∧ OnlyWalked s.mem t.mem

/-- The scalar stores complete (R177, R192, R194, R197): to device memory they write the n low bytes of the register at the physical address
that storePlace gives for base + displacement, and no other byte of any memory; to a core buffer, where C's port region of a fused task
stands in P's window (R342), to host and to peer memory likewise; a shadowed launch writes its shadow and leaves memory as it is; a wake register takes the unsigned maximum. No register changes but for
the base, where U leaves the address for it. -/
def Obligations.ScalarStoresWriteTheirBytes : Prop :=
  ∀ (s s1 : State) (v b : BitVec 6) (x : MIdx) (y base off : Word) (p : Place),
    s.rdS v = .ok y → s.rdS b = .ok base → s.mdisp x = .ok off →
    let a := base + off
    let byte (k : Nat) : Byte := BitVec.ofNat 8 (y.toNat / 2 ^ (8 * k))
    ∀ f ∈ [(Instr.stB, 1), (Instr.stH, 2), (Instr.stW, 4), (Instr.stD, 8)],
      s.issueCheck .st a f.2 = .ok () → s.room (s.ctx.asks a) = true → s.storeHold a f.2 = .ok () → s.storePlace a = .ok (s1, p) →
      (∀ pa, p = .dev pa → (∀ j, pa ≤ j → j < pa + f.2 → s1.dead j = false) → ∃ t, exec (f.1 v b x) s = .next t ∧ t.ctx = s.ctx ∧ t.rows = s.rows ∧ t.host = s.host
        ∧ t.peer = s.peer ∧ t.wbuf = s.wbuf ∧ t.abuf = s.abuf ∧ t.sbuf = s.sbuf ∧ t.iss.out = (s.baseUpd (midxExt x).u b a).iss.out
        ∧ ∀ j, memByte t.mem j = if (s1.shadow? s.ctx.arr pa).isNone ∧ pa ≤ j ∧ j < pa + f.2 then byte (j - pa) else memByte s1.mem j)
      ∧ (∀ k c, p = .buf k c → ∃ t, exec (f.1 v b x) s = .next t ∧ t.ctx = s.ctx ∧ t.rows = s.rows ∧ t.mem = s.mem ∧ t.host = s.host
        ∧ t.peer = s.peer ∧ t.iss.out = (s.baseUpd (midxExt x).u b a).iss.out
        ∧ ∀ j, memByte (t.bufMem k) j = if c ≤ j ∧ j < c + f.2 then byte (j - c) else memByte (s.bufMem k) j)
      ∧ (∀ k c lo n base, p = .span k c lo n base →
          let at_ (i : Nat) : Nat := if lo ≤ c + i ∧ c + i < lo + n then base + (c + i - lo) else c + i
          (∀ i j, i < f.2 → j < f.2 → at_ i = at_ j → i = j) → ∃ t, exec (f.1 v b x) s = .next t ∧ t.ctx = s.ctx ∧ t.rows = s.rows ∧ t.mem = s.mem
            ∧ t.host = s.host ∧ t.peer = s.peer ∧ t.iss.out = (s.baseUpd (midxExt x).u b a).iss.out
            ∧ (∀ i, i < f.2 → memByte (t.bufMem k) (at_ i) = byte i)
            ∧ ∀ j, (∀ i, i < f.2 → j ≠ at_ i) → memByte (t.bufMem k) j = memByte (s.bufMem k) j)
      ∧ (∀ pa, p = .host pa → ∃ t, exec (f.1 v b x) s = .next t ∧ t.ctx = s.ctx ∧ t.rows = s.rows ∧ t.mem = s1.mem ∧ t.peer = s.peer
        ∧ t.wbuf = s.wbuf ∧ t.abuf = s.abuf ∧ t.sbuf = s.sbuf ∧ t.iss.out = (s.baseUpd (midxExt x).u b a).iss.out
        ∧ ∀ j, memByte t.host j = if pa ≤ j ∧ j < pa + f.2 then byte (j - pa) else memByte s.host j)
      ∧ (∀ q, p = .wake q → ∃ t, exec (f.1 v b x) s = .next t ∧ t.ctx = s.ctx ∧ t.rows = s.rows ∧ t.mem = s.mem
        ∧ (tabGet 0 t.wake q).toNat = max (tabGet 0 s.wake q).toNat (y.toNat % 2 ^ (8 * f.2))
        ∧ ∀ r, r ≠ q → tabGet 0 t.wake r = tabGet 0 s.wake r)
      ∧ (∀ k, p = .peer k → s1.farFails s.ctx.arr p false = false → ∃ t, exec (f.1 v b x) s = .next t ∧ t.ctx = s.ctx ∧ t.rows = s.rows ∧ t.mem = s1.mem
        ∧ t.host = s.host ∧ t.iss.out = (s.baseUpd (midxExt x).u b a).iss.out
        ∧ ∀ j, memByte t.peer j = if (s1.shadow? s.ctx.arr (peerBase + k)).isNone ∧ k ≤ j ∧ j < k + f.2 then byte (j - k) else memByte s.peer j)
      ∧ (∀ o u, p = .ctl o → s1.ctlWrite o y = .ok u → ∃ w, exec (f.1 v b x) s = .next ((u.watchTrap a w).baseUpd (midxExt x).u b a))

/-- The checks of a scalar access at issue come in the order path, address, privileged, align, bounds: where several fail, the trap is the
first one's (R163). INFO1 of the address trap is 0, which is the model's choice (log 108). -/
def Obligations.AccessCheckOrder : Prop :=
  ∀ (s : State) (k : Acc) (a : Word) (n : Nat), k ∈ [Acc.ld, Acc.st] → n ∈ [1, 2, 4, 8] →
    let path := s.pathPass k (selOf a) = true
    let addr := zeroBits a = true
    let priv := selOf a = 0x30 → s.ctx.priv = true
    let al := a.toNat % n = 0 ∧ (selOf a = 0x20 ∨ selOf a = 0x30 → n = 8)
    (¬ path → s.issueCheck k a n = .error (.trap { cause := 0x08, addr := a }))
    ∧ (path → ¬ addr → s.issueCheck k a n = .error (.trap { cause := 0x07, addr := a }))
    ∧ (path → addr → ¬ priv → s.issueCheck k a n = .error (.trap { cause := 0x04, addr := a }))
    ∧ (path → addr → priv → ¬ al → s.issueCheck k a n = .error (.trap { cause := 0x09, addr := a }))
    ∧ (path → addr → priv → al → s.ctx.inBounds a = false → s.issueCheck k a n = .error (.trap { cause := 0x0A, addr := a }))
    ∧ (path → addr → priv → al → s.ctx.inBounds a = true → s.issueCheck k a n = .ok ())

/-- The converting vector loads, vlds and vgath complete on their active lanes, and the lowest lane that cannot be read gives the whole row its
deferred fault (R199 to R203). The raw vector load takes the 72 units of 576 bytes, whatever the mask, and on path 0x12 the row itself (R199).
That a long-latency load brings the values as they stood at issue, and that a row with a lane on such a path is one as a whole, are the
model's choices (logs 3 and 25). -/
def Obligations.VectorLoadsComplete : Prop :=
  (∀ (s : State) (d b : BitVec 6) (base : Word) (m : Mask), s.rdS b = .ok base → s.rdMask = .ok m → s.dstV d = .ok () →
    let ready (k : Word → Bool) (f : VFmt) (as : List (Nat × Word)) (a : Word) : Prop :=
      s.checkLanes .vld f.size as = .ok () ∧ s.holdLanes f.size false as = .ok () ∧ s.room (if k a then granuleCount as else 0) = true
        ∧ s.watchLanes true f.size as = none
    (∀ (x : MIdx) (off : Word), s.mdisp x = .ok off →
      let a := base + off
      ∀ f ∈ [(Instr.vldF32, VFmt.f32), (Instr.vldF16, .f16), (Instr.vldBf16, .bf16), (Instr.vldI8, .i8), (Instr.vldI8n, .i8n),
             (Instr.vldB18, .b18)],
        let as := laneAddrs (actives f.2.view m) (fun i => a + BitVec.ofNat 64 (i * f.2.size))
        s.issueCheck .vld a f.2.size = .ok () → ready longPath f.2 as a →
        LoadedLanes s (f.1 d b x) d b (midxExt x).u (longPath a) a f.2 as)
    ∧ ∀ (o : BitVec 6) (x : VIdx),
      let a := base + vidxDisp x
      let f := vfmtOf x.x.fmt
      (∀ st, s.rdS o = .ok st →
        let as := laneAddrs (actives f.view m) (fun i => a + BitVec.ofNat 64 i * st)
        let long : Word → Bool := fun a => longPath a || as.any (fun y => longPath y.2)
        ready long f as a → LoadedLanes s (.vlds d b o x) d b x.x.u (long a) a f as)
      ∧ ∀ ro, s.rdV o = .ok ro → f ≠ .i8n → f ≠ .b18 →
        let as := laneAddrs (actives 36 m) (fun i => a + BitVec.ofInt 64 (decI 36 (laneAt 36 ro i)))
        let long : Word → Bool := fun a => longPath a || as.any (fun y => longPath y.2)
        ready long f as a → LoadedLanes s (.vgath d b o x) d b x.x.u (long a) a f as)
  ∧ (∀ (s : State) (d b : BitVec 6) (x : MIdx) (base off : Word), s.rdS b = .ok base → s.mdisp x = .ok off → s.dstV d = .ok () →
    let a := base + off
    let us := rawUnits a
    s.rawCheck .rawLd a = .ok () → s.watchLanes true 576 [(0, a)] = none →
    (selOf a ≠ 0x12 → s.holdLanes 8 false us = .ok () → s.room (if longPath a then granuleCount us else 0) = true →
      let r := readLanes 8 us s
      ∃ val : Row, exec (.vld d b x) s = .next ((if longPath a then r.s.pendLoad ⟨3, physV s.ctx d.toNat⟩ (32 ≤ b.toNat) a (us.map Prod.snd) val allRow 0 r.fault (granuleCount us)
          else r.s.postLocal ⟨3, physV s.ctx d.toNat⟩ val allRow 0 r.fault false).baseUpd (midxExt x).u b a)
        ∧ (r.fault = none → ∀ y ∈ r.vals, laneAt 64 val y.1 = y.2 % 2 ^ 64))
    ∧ (selOf a = 0x12 → ∀ row, s.rdRow (128 * tileOf s.ctx (lowOf a / 73728) + lowOf a / 576 % 128) = .ok row →
      exec (.vld d b x) s = .next ((s.postLocal ⟨3, physV s.ctx d.toNat⟩ row allRow 0 none false).baseUpd (midxExt x).u b a)))

/-- The vector stores complete (R194, R199 to R203): every active lane is converted and stored at its place in lane order; the flags of the
conversions come at the boundary after the bundle. The raw vector store writes the 72 units of its row, whatever the mask. A byte of device
memory outside the stored elements stays as the walker left it. -/
def Obligations.VectorStoresWriteTheirLanes : Prop :=
  (∀ (s t : State) (v b : BitVec 6) (row : Row) (m : Mask) (base : Word) (q : State × List (Nat × Word × Place)),
    s.rdV v = .ok row → s.rdMask = .ok m → s.rdS b = .ok base →
    let rs (f : VFmt) (as : List (Nat × Word)) : List (Nat × FR) := as.map (fun x => (x.1, f.ofLane s.renv x.1 ((lanes f.view row).getD x.1 0)))
    let flags (f : VFmt) (as : List (Nat × Word)) : Nat := orFlags ((rs f as).map (fun x => x.2.flags))
    let ready (f : VFmt) (as : List (Nat × Word)) : Prop :=
      s.checkLanes .vst f.size as = .ok () ∧ s.room (granuleCount (as.filter (fun x => longPath x.2))) = true ∧ s.holdLanes f.size true as = .ok () ∧ s.placeLanes as = .ok q
        ∧ q.1.putLanes f.size (fun i => (((rs f as).find? (fun x => x.1 == i)).map (fun x => x.2.bits)).getD 0) q.2 = .ok t
    let done (i : Instr) (f : VFmt) (as : List (Nat × Word)) (u whole : Bool) (a : Word) : Prop :=
      exec i s = .next ((let w := (if whole then t.clearCovered f.size (q.2.map (fun x => x.2.2)) else t).postF (flags f as)
                         if f.counts then w.count else w).baseUpd u b a)
        ∧ ∀ j, (∀ x ∈ q.2, ¬ placeCovers x.2.2 f.size j) → memByte t.mem j = memByte q.1.mem j
    (∀ (x : MIdx) (off : Word), s.mdisp x = .ok off →
      let a := base + off
      ∀ f ∈ [(Instr.vstF32, VFmt.f32), (Instr.vstF16, .f16), (Instr.vstBf16, .bf16), (Instr.vstI8, .i8), (Instr.vstI8n, .i8n),
             (Instr.vstB18, .b18)],
        let as := laneAddrs (actives f.2.view m) (fun i => a + BitVec.ofNat 64 (i * f.2.size))
        s.issueCheck .vst a f.2.size = .ok () → ready f.2 as → done (f.1 v b x) f.2 as (midxExt x).u true a)
    ∧ ∀ (o : BitVec 6) (x : VIdx) (ro : Row), s.rdV o = .ok ro → vfmtOf x.x.fmt ≠ .i8n → vfmtOf x.x.fmt ≠ .b18 →
      let a := base + vidxDisp x
      let as := laneAddrs (actives 36 m) (fun i => a + BitVec.ofInt 64 (decI 36 (laneAt 36 ro i)))
      ready (vfmtOf x.x.fmt) as → done (.vscat v b o x) (vfmtOf x.x.fmt) as x.x.u false a)
  ∧ (∀ (s t : State) (v b : BitVec 6) (x : MIdx) (row : Row) (base off : Word) (q : State × List (Nat × Word × Place)),
    s.rdV v = .ok row → s.rdS b = .ok base → s.mdisp x = .ok off →
    let a := base + off
    s.rawCheck .rawSt a = .ok () → s.room (if longPath a then granuleCount (rawUnits a) else 0) = true → s.holdLanes 8 true (rawUnits a) = .ok () → s.placeLanes (rawUnits a) = .ok q →
    q.1.putLanes 8 (fun i => laneAt 64 row i) q.2 = .ok t →
    exec (.vst v b x) s = .next ((t.clearCovered 8 (q.2.map (fun x => x.2.2))).baseUpd (midxExt x).u b a)
      ∧ ∀ j, (∀ x ∈ q.2, ¬ placeCovers x.2.2 8 j) → memByte t.mem j = memByte q.1.mem j)

/-- amo writes the new value of Table 13.4 and leaves the old one for d; cas writes only where the location holds the comparand, and leaves
the old value and the predicate (R204, R205). -/
def Obligations.AtomicsComplete : Prop :=
  ∀ (s s1 : State) (d : BitVec 5) (b o : BitVec 6) (x : AmoX) (a y : Word) (p : Place) (bs : List Byte),
    s.rdS b = .ok a → s.rdS o = .ok y → x.size.toNat < 2 →
    let n := if x.size = 0 then 4 else 8
    let old := leNat bs
    let opd := y.toNat % 2 ^ (8 * n)
    s.room 1 = true → s.storeHold a n = .ok () → s.storePlace a = .ok (s1, p) → s1.readPlace s.ctx.arr p n = .ok bs → s1.farFails s.ctx.arr p true = false →
    (s.dstS d.toNat = .ok () → s.issueCheck (.amo (x.aop.toNat ≤ 1)) a n = .ok () →
      ∀ f ∈ [(0, opd), (1, (old + opd) % 2 ^ (8 * n)), (2, Nat.land old opd), (3, Nat.lor old opd), (4, Nat.xor old opd),
             (5, if decI (8 * n) old ≤ decI (8 * n) opd then old else opd), (6, if decI (8 * n) old ≤ decI (8 * n) opd then opd else old),
             (7, min old opd), (8, max old opd)],
        x.aop.toNat = f.1 → ∃ w, exec (.amo d b o x) s
          = .next ((((s1.farUse p).writePlace s.ctx.arr p (leBytes n f.2)).postAtom d old none).watchTrap a w))
    ∧ ∀ z, s.rdSn d.toNat false = .ok z → s.issueCheck (.amo true) a n = .ok () →
      let ok : Bool := old == z.toNat % 2 ^ (8 * n)
      let u := if ok then (s1.farUse p).writePlace s.ctx.arr p (leBytes n opd) else s1.farUse p
      ∃ w, exec (.cas d b o x) s = .next (((u.postAtom d old none).postP x.ps.toNat (s.ctx.latOf 18) ok).watchTrap a w)

/-- What atomics, scalar stores and signals leave unchanged: the Z rows, and every register of the context until their results are visible;
and, for a launch without shadows, every byte of device memory but those of the element that the access stores at the place of its
address, and the A and D bits of leaf entries (R177, R204, R205, R225, R309). -/
def Obligations.ElementStoresFrame : Prop :=
  ∀ (s s1 t : State) (d : BitVec 5) (v b o : BitVec 6) (x : MIdx) (y : AmoX) (base off : Word) (p : Place),
    s.rdS b = .ok base → s.mdisp x = .ok off → s.shadowed s.ctx.arr = false →
    ∀ f ∈ [(Instr.stB v b x, 1, base + off), (.stH v b x, 2, base + off), (.stW v b x, 4, base + off), (.stD v b x, 8, base + off),
           (.amo d b o y, if y.size = 0 then 4 else 8, base), (.cas d b o y, if y.size = 0 then 4 else 8, base), (.signal b o, 8, base)],
      selOf f.2.2 ≠ 0x30 → s.storePlace f.2.2 = .ok (s1, p) → exec f.1 s = .next t →
      t.ctx = s.ctx ∧ t.rows = s.rows
        ∧ ∀ j, ¬ placeCovers p f.2.1 j → memByte t.mem j = memByte s.mem j ∨ memByte t.mem j = memByte s.mem j ||| 0x30

/-- The fences have no effect of their own where no tcvt write of the context is outstanding, and drain makes the next bundle wait for the
context's loads: every access performs in one order already (the model's choice, log 1); behind a tcvt in flight they hold their bundle (R260).
pref only leaves its base update (R175, R207 to R209). -/
def Obligations.OrderingInstructions : Prop :=
  ∀ s : State,
    (s.tcvtOut = false → (∀ k, exec (.fence k) s = .next s) ∧ (∀ k, exec (.fenceRo k) s = .next s)
      ∧ exec .drain s = .next { s with iss := { s.iss with drains := true } })
    ∧ (s.tcvtOut = true → (∀ k, exec (.fence k) s = .next (held s .order)) ∧ (∀ k, exec (.fenceRo k) s = .next (held s .order))
      ∧ exec .drain s = .next (held s .order))
    ∧ ∀ (b : BitVec 6) (x : MIdx) (base off : Word), s.rdS b = .ok base → s.mdisp x = .ok off →
      exec (.pref b x) s = .next (if (midxExt x).u then s.postS (srcNum b) 1 (base + off) else s)

/-! Classes E, Y and T. -/

/-- copy, coll and xplane hand their operation to the engine at issue (R183, R211, R213, R215, R252): it takes the next number of its
timeline, which d receives, and a leaf index; copy resets the write pointer of its channel, xplane empties the drain block. No Z row, no byte of
memory but A bits that reading the descriptor sets in leaf entries (R309), and no register of the context but these changes. A descriptor with a
field outside its limits raises an operand trap; that INFO1 is the first such field is the model's reading (log 37). xplane traps on a
destination on another path, misaligned or beyond its window, and where the drain block is not there, is used already or is not ready (R252);
that INFO1 then is 0, the column or RDY is log 37 too. -/
def Obligations.TransfersIssue : Prop :=
  ∀ (s u : State) (d : BitVec 5) (a : BitVec 6) (ch : BitVec 2) (tr : Bool) (x : Word) (ds : List Byte),
    s.ctx.inh = false → s.rdS a = .ok x → s.dstS d.toNat = .ok () → s.leafGate = .ok () → s.portOf s.ctx = none →
    let handed (i : Instr) (tl : Nat) (lat : Nat) (c : Ctx) (desc : List Byte) (blk : Option XDrain) (dst : Word) : Prop :=
      let n := (s.ctx.tl tl).issued + 1
      ∃ t e, exec i s = .next t ∧ t.engs = s.engs ++ [e]
        ∧ e.tl = tl ∧ e.num = n ∧ e.desc = desc ∧ e.block = blk ∧ e.dst = dst ∧ e.gang = s.ctx.gang ∧ e.rank = s.ctx.rank
        ∧ e.core = s.ctx.core ∧ e.lidx = s.nextLeaf ∧ e.delivered = 0
        ∧ t.leaves = s.leaves ++ [⟨s.ctx.core, s.ctx.arr, s.ctx.task, s.ctx.rank, s.nextLeaf, none⟩]
        ∧ t.iss.out = (s.postS d.toNat lat (BitVec.ofNat 64 n)).iss.out
        ∧ t.ctx = c.setTl tl { s.ctx.tl tl with issued := n }
        ∧ OnlyWalked s.mem t.mem ∧ (tl = 4 → t.mem = s.mem) ∧ t.host = s.host ∧ t.peer = s.peer ∧ t.wbuf = s.wbuf ∧ t.abuf = s.abuf ∧ t.sbuf = s.sbuf
        ∧ t.rows = s.rows
    (∀ bad : Option Nat, s.readDesc s.ctx x 64 = .ok (u, ds) → collBad ds = bad →
      (∀ w, bad = some w → exec (.coll d a) s = .next (trapped s { cause := 0x0B, info1 := BitVec.ofNat 64 w }))
      ∧ (bad = none ↔ numAt ds 0x10 4 ≤ 32768 ∧ numAt ds 0x14 1 ≤ 3 ∧ numAt ds 0x15 1 ≤ 4 ∧ numAt ds 0x16 1 ≤ 4 ∧ numAt ds 0x17 1 ≤ 80
          ∧ 1 ≤ numAt ds 0x1C 4 ∧ numAt ds 0x1C 4 ≤ 2 ^ 29 ∧ numAt ds 0x20 4 < numAt ds 0x1C 4 ∧ numAt ds 0x24 4 < numAt ds 0x1C 4
          ∧ numAt ds 0x28 24 = 0))
    ∧ (let stop (e : Trap) : Prop := exec (.xplane d a tr) s = .next (trapped s e)
       let on : Prop := selOf x = 0x10 ∨ selOf x = 0x11
       let fits : Prop := lowOf x + 16384 ≤ winSize (s.ctx.win (selOf x - 0x10))
       let placed : Prop := on ∧ x.toNat % 2048 = 0 ∧ fits
       (¬ on → stop { cause := 0x08, addr := x })
       ∧ (on → x.toNat % 2048 ≠ 0 → stop { cause := 0x09, addr := x })
       ∧ (on → x.toNat % 2048 = 0 → ¬ fits → stop { cause := 0x0A, addr := x })
       ∧ (placed → s.ctx.drain = none → stop { cause := 0x0B })
       ∧ ∀ b : XDrain, placed → s.ctx.drain = some b →
          (b.c ≠ 0 → stop { cause := 0x0B, info1 := BitVec.ofNat 64 b.c })
          ∧ (b.c = 0 → s.ctx.step.toNat < b.rdy.toNat → stop { cause := 0x0B, info1 := b.rdy }))
    ∧ (s.readDesc s.ctx x 64 = .ok (u, ds) → copyBad ds = none → s.tlRoom ch.toNat = .ok () →
      handed (.copy d a ch) ch.toNat (s.ctx.latOf 16)
        (s.ctx.setWp ch.toNat ⟨0, numAt ds 0x10 4 * numAt ds 0x14 4, (s.ctx.tl ch.toNat).issued + 1⟩) ds none 0)
    ∧ (s.readDesc s.ctx x 64 = .ok (u, ds) → copyBad ds ≠ none → ∃ v, copyBad ds = some v ∧
        exec (.copy d a ch) s = .next (trapped s { cause := 0x0B, info1 := BitVec.ofNat 64 v }))
    ∧ (s.readDesc s.ctx x 64 = .ok (u, ds) → collBad ds = none → s.tlRoom 5 = .ok () → handed (.coll d a) 5 (s.ctx.latOf 16) s.ctx ds none 0)
    ∧ ∀ b : XDrain, s.ctx.drain = some b → b.c = 0 → b.rdy.toNat ≤ s.ctx.step.toNat → selOf x = 0x10 ∨ selOf x = 0x11 → x.toNat % 2048 = 0 →
        lowOf x + 16384 ≤ winSize (s.ctx.win (selOf x - 0x10)) → s.tlRoom 4 = .ok () →
        handed (.xplane d a tr) 4 1 { s.ctx with drain := none } [BitVec.ofNat 8 tr.toNat] (some b) x

/-- waittl goes on once the timeline has reached n without a failure to report, raises a timeline-failure trap for the least failure up to n,
and an operand trap for a number not yet issued; a number not yet reached holds the bundle (R184, R218). tlrd reads the last finished number
(R219). waitwp goes on at a byte count reached, or once the transfer has finished without failure, and raises a timeline-failure trap where it
has finished with one and fewer bytes have come (R184, R186, R220). The engines go on beside: a copy advances in whole aligned units and finishes (R168, R183, R186, R213, R214), an xplane writes its
planes (R71, R252), and a collective finishes or fails on its contributors (R215 to R217, R391). -/
def Obligations.TimelineInstructions : Prop :=
  (∀ (s : State) (tl : BitVec 4) (ch : BitVec 2) (a : BitVec 6) (n : Word), s.rdS a = .ok n →
    let t : TLine := if tl.toNat < 6 then s.ctx.tl tl.toNat else {}
    let w := s.ctx.wps.getD ch.toNat {}
    let u := s.ctx.tl ch.toNat
    (n.toNat ≤ t.issued → n.toNat ≤ t.done → (∀ k ∈ t.fails, n.toNat < k) → exec (.waittl tl a) s = .next s)
    ∧ (∀ k ∈ t.fails, n.toNat ≤ t.issued → n.toNat ≤ t.done → k ≤ n.toNat → (∀ j ∈ t.fails, k ≤ j) →
        exec (.waittl tl a) s = .next (trapped s { cause := 0x0E, info1 := tl.zeroExtend 64, info2 := BitVec.ofNat 64 k }))
    ∧ (t.issued < n.toNat → exec (.waittl tl a) s = .next (trapped s { cause := 0x0B, info1 := n }))
    ∧ (n.toNat ≤ t.issued → t.done < n.toNat → exec (.waittl tl a) s = .next (held s .wait))
    ∧ (∀ d : BitVec 5, s.dstS d.toNat = .ok () →
        exec (.tlrd d tl) s = .next (s.postS d.toNat (s.ctx.latOf 16) (BitVec.ofNat 64 (if tl.toNat < 6 then (s.ctx.tl tl.toNat).done else 0))))
    ∧ (n = 0 ∨ (w.num ≠ 0 ∧ n.toNat ≤ w.val.toNat) → exec (.waitwp ch a) s = .next s)
    ∧ (w.num ≠ 0 → (w.num ≤ u.done ∨ w.num ∈ u.fins) → w.num ∉ u.fails → exec (.waitwp ch a) s = .next s)
    ∧ (w.num ≠ 0 → w.val.toNat < n.toNat → (w.num ≤ u.done ∨ w.num ∈ u.fins) → w.num ∈ u.fails →
        exec (.waitwp ch a) s = .next (trapped s { cause := 0x0E, info1 := ch.zeroExtend 64, info2 := BitVec.ofNat 64 w.num }))
    ∧ (w.num ≠ 0 → w.val.toNat < n.toNat → u.done < w.num → w.num ∉ u.fins → exec (.waitwp ch a) s = .next (held s .wait))
    ∧ (n ≠ 0 → w.num = 0 → exec (.waitwp ch a) s = .next (trapped s { cause := 0x0B, info1 := n })))
  ∧ ∀ s : State,
    -- a copy that can go on and does not wait for a dump finishes, whether it fails or not
    (∀ c tl e o, s.nextEng c tl = some e → s.ownerOf e.gang e.rank = some o →
        (s.engReady e = false → exec (.engineFinish c tl) s = .next s)
        ∧ (tl < 4 → s.engReady e = true → s.elided o e = false → s.dump = none → ∃ t u, exec (.engineFinish c tl) s = .next t
          ∧ t.ownerOf e.gang e.rank = some u ∧ (e.num ≤ (u.tl tl).done ∨ e.num ∈ (u.tl tl).fins)
          ∧ ∀ x ∈ t.engs, ¬ (x.gang = e.gang ∧ x.rank = e.rank ∧ x.tl = e.tl ∧ x.num = e.num)))
    -- a copy of one row within W and A, at its end and after k bytes
    ∧ (∀ c tl e o a b n, s.nextEng c tl = some e → s.ownerOf e.gang e.rank = some o → tl < 4 → s.engReady e = true → s.elided o e = false → s.dump = none →
        s.pbuf = [] → o.fz.region = none → e.delivered = 0 → numAt e.desc 0 8 = 0x10 * 2 ^ 56 + a → numAt e.desc 8 8 = 0x11 * 2 ^ 56 + b →
        numAt e.desc 0x10 4 = n → numAt e.desc 0x14 4 = 1 → 0 < n → a + n ≤ winSize o.wwin → b + n ≤ winSize o.awin → b % 64 + n ≤ 64 →
        (∃ t, exec (.engineFinish c tl) s = .next t ∧ t.wbuf = s.wbuf ∧ (∀ j, j < n → memByte t.abuf (o.bufAt 1 b + j) = memByte s.wbuf (o.bufAt 0 a + j))
          ∧ ∀ j, j < o.bufAt 1 b ∨ o.bufAt 1 b + n ≤ j → memByte t.abuf j = memByte s.abuf j)
        ∧ (∀ k, 0 < k → k < n → k % 8 = 0 → b % 8 = 0 → ∃ t, exec (.wpAdvance c tl k) s = .next t ∧ t.wbuf = s.wbuf
          ∧ (∀ j, j < k → memByte t.abuf (o.bufAt 1 b + j) = memByte s.wbuf (o.bufAt 0 a + j))
          ∧ (∀ j, j < o.bufAt 1 b ∨ o.bufAt 1 b + k ≤ j → memByte t.abuf j = memByte s.abuf j)
          ∧ (∃ x ∈ t.engs, x.num = e.num ∧ x.tl = e.tl ∧ x.delivered = k)
          ∧ ((o.wps.getD tl {}).num = e.num → ∃ u, t.ownerOf e.gang e.rank = some u ∧ (u.wps.getD tl {}).val = BitVec.ofNat 64 k)))
    -- the transposer's planes
    ∧ (∀ c e o x, s.nextEng c 4 = some e → s.ownerOf e.gang e.rank = some o → s.engReady e = true → e.block = some x → o.fz.region = none →
        selOf e.dst = 0x10 → ∃ t, exec (.engineFinish c 4) s = .next t
          ∧ (∀ p r k i, p < 8 → r < 128 → k < 16 → i < 8 →
              let q := if numAt e.desc 0 1 = 1 then (8 * k + i, r) else (r, 8 * k + i)
              (memByte t.wbuf (o.bufAt 0 (lowOf e.dst) + 2048 * (7 - p) + 16 * r + k)).getLsbD i
                = (encI 8 (satI (decI x.w (((x.rows.getD q.1 []).getD q.2 0).toNat)) 8).1).testBit p)
          ∧ ∃ u, t.ownerOf e.gang e.rank = some u ∧ (e.num ≤ (u.tl 4).done ∨ e.num ∈ (u.tl 4).fins))
    -- a broadcast of a group with one member; a collective whose routes reach no root fails
    ∧ (∀ c e o, s.nextEng c 5 = some e → s.ownerOf e.gang e.rank = some o → s.engReady e = true →
        let g := numAt e.desc 0x18 4
        (s.collRooted g = false → ∃ t u, exec (.engineFinish c 5) s = .next t ∧ t.ownerOf e.gang e.rank = some u
          ∧ e.num ∈ (u.tl 5).fails ∧ (e.num ≤ (u.tl 5).done ∨ e.num ∈ (u.tl 5).fins))
        ∧ (∀ a b k, s.collRooted g = true → s.collWide g = false → s.dump = none → s.pbuf = [] → o.fz.region = none → s.shadowed e.arr = false →
            numAt e.desc 0x14 1 = 2 → numAt e.desc 0x15 1 = numAt e.desc 0x16 1 → numAt e.desc 0x1C 4 = 1 → numAt e.desc 0x20 4 = 0 →
            numAt e.desc 0x24 4 = 0 → numAt e.desc 0 8 = 0x10 * 2 ^ 56 + a → numAt e.desc 8 8 = 0x11 * 2 ^ 56 + b →
            k = numAt e.desc 0x10 4 * collSize (numAt e.desc 0x15 1) → 0 < k → a + k ≤ winSize o.wwin → b + k ≤ winSize o.awin → b % 64 + k ≤ 64 →
            s.engs.filter (fun x => x.tl == 5) = [e] → ∃ t u, exec (.engineFinish c 5) s = .next t
              ∧ (∀ j, j < k → memByte t.abuf (o.bufAt 1 b + j) = memByte s.wbuf (o.bufAt 0 a + j))
              ∧ (∀ j, j < o.bufAt 1 b ∨ o.bufAt 1 b + k ≤ j → memByte t.abuf j = memByte s.abuf j) ∧ t.wbuf = s.wbuf
              ∧ t.ownerOf e.gang e.rank = some u ∧ (u.tl 5).fails = (o.tl 5).fails ∧ (e.num ≤ (u.tl 5).done ∨ e.num ∈ (u.tl 5).fins)))

/-- launch and launcht of the lead (R212, R221, R222, R295): within every budget of the record's chain, and with a free entry in its RCB's pool,
the 192-byte entry (the record, then the launching context's leaf RCB, launch, task, rank and timeline values) is written behind the last one and
TAIL counts it, with status 0; no other byte changes. An RCB of 0 or outside path 0x00 gives launch status 2, and launcht an operand trap. A
budget that would be exceeded gives a pool trap, launch's at the step of its status. A full pool gives launch status 1; launcht waits for
the pool to spill, or raises a pool trap where the overflow area is exhausted. A shadowed launch keeps the record until its commit
(R312). The other ranks of a gang receive the lead's status. Which budgets are tested, the entry's layout behind the record, and a poisoned pool
header as a full pool are the model's (logs 21, 27 and 107). -/
def Obligations.LaunchInstructions : Prop :=
  ∀ (s u : State) (d : BitVec 5) (a : BitVec 6) (x : Word) (bs : List Byte),
    s.ctx.inh = false → s.rdS a = .ok x → s.dstS d.toNat = .ok () → s.tcvtOut = false → (∃ g, s.gangGate = .ok g) →
    let rcb := numAt bs 8 8
    let gives (t : State) (v : Word) : Prop := t.iss.out = (s.postS d.toNat (s.ctx.latOf 17) v).iss.out
    let others (t : State) : Prop := t.ctx = s.ctx ∧ t.parked = s.parked ∧ t.rows = s.rows ∧ t.host = s.host ∧ t.peer = s.peer ∧ t.wbuf = s.wbuf
      ∧ t.abuf = s.abuf ∧ t.sbuf = s.sbuf ∧ t.iss.traps = s.iss.traps ∧ t.iss.hold = s.iss.hold
    let poolTrap (t : State) : Prop := t.iss.out = s.iss.out
      ∧ t.iss.compl = s.iss.compl ++ [{ cause := 0x14, addr := x, ordn := s.iss.ord, inRegion := !s.ctx.regions.isEmpty }]
    let poolLate (t : State) : Prop := ∃ p, t.iss.out = s.iss.out ++ [(s.iss.ord, p)] ∧ p.dest = ⟨0, d.toNat⟩ ∧ p.rem = s.ctx.latOf 17 ∧ p.pool = some x
    (s.isLead = false → s.sharedWord 0 ≠ 3 → (∃ t, exec (.launch d a) s = .next t ∧ gives t (s.sharedWord 0) ∧ others t ∧ t.mem = s.mem)
      ∧ ∃ t, exec (.launcht a) s = .next t ∧ t.iss.out = s.iss.out ∧ others t ∧ t.mem = s.mem)
    ∧ (s.isLead = true → s.readDesc s.ctx x 128 = .ok (u, bs) → OnlyWalked s.mem u.mem
      ∧ (rcb = 0 ∨ 2 ^ 56 ≤ rcb → (∃ t, exec (.launch d a) s = .next t ∧ gives t 2 ∧ others t ∧ t.mem = u.mem)
          ∧ exec (.launcht a) s = .next (trapped s { cause := 0x0B, info1 := BitVec.ofNat 64 rcb }))
      ∧ (rcb ≠ 0 → rcb < 2 ^ 56 → s.shadowed s.ctx.arr = true →
          (∃ t, exec (.launch d a) s = .next t ∧ gives t 0 ∧ others t ∧ t.mem = u.mem
            ∧ ∀ l, s.launch? s.ctx.arr = some l → ∃ e, t.launch? s.ctx.arr = some { l with held := l.held ++ [(0, e, x)] } ∧ e.take 128 = bs)
          ∧ ∃ t, exec (.launcht a) s = .next t ∧ t.iss.out = s.iss.out ∧ others t ∧ t.mem = u.mem
            ∧ ∀ l, s.launch? s.ctx.arr = some l → ∃ e, t.launch? s.ctx.arr = some { l with held := l.held ++ [(1, e, x)] } ∧ e.take 128 = bs)
      ∧ (rcb ≠ 0 → rcb < 2 ^ 56 → s.shadowed s.ctx.arr = false →
          let r := u.rcb rcb
          let within : Prop := ∀ c, u.chain rcb = some c → ∀ k ∈ c, (k.ovr.testBit 1 = true → k.cused + numAt bs 0x28 4 ≤ k.cbudget)
            ∧ (k.ovr.testBit 2 = true → k.mused + 32 ≤ k.mbudget)
          let cap := memNat u.mem r.pool 4
          let tail := memNat u.mem (r.pool + 0x10) 8
          let waiting := tail - memNat u.mem (r.pool + 8) 8
          let slot := r.pool + 64 + 192 * (tail % cap)
          let entry := bs ++ leBytes 5 (u.leafOf s.ctx.arr) ++ leBytes 6 s.ctx.arr ++ leBytes 4 s.ctx.task ++ leBytes 1 s.ctx.rank
            ++ (List.range 6).flatMap (fun i => leBytes 8 (s.ctx.tl i).done)
          let placed (t : State) : Prop := others t ∧ rcb ∈ t.pools ∧ memRead t.mem slot 192 = entry
            ∧ memNat t.mem (r.pool + 0x10) 8 = (tail + 1) % 2 ^ 64
            ∧ ∀ j, (j < slot ∨ slot + 192 ≤ j) → (j < r.pool + 0x10 ∨ r.pool + 0x18 ≤ j) → memByte t.mem j = memByte u.mem j
          (within → r.pool ≠ 0 → u.poisoned r.pool = false → r.pool + 64 + 192 * cap ≤ u.devSize → waiting < cap →
            (∀ j, r.pool ≤ j → j < r.pool + 64 + 192 * cap → u.dead j = false) →
              (∃ t, exec (.launch d a) s = .next t ∧ gives t 0 ∧ placed t) ∧ ∃ t, exec (.launcht a) s = .next t ∧ t.iss.out = s.iss.out ∧ placed t)
          ∧ (¬ within → (∃ t, exec (.launch d a) s = .next t ∧ poolLate t ∧ others t ∧ t.mem = u.mem)
              ∧ ∃ t, exec (.launcht a) s = .next t ∧ poolTrap t ∧ others t ∧ t.mem = u.mem)
          ∧ (within → r.pool = 0 ∨ u.poisoned r.pool = true ∨ u.devSize < r.pool + 64 ∨ cap ≤ waiting →
              (∃ t, exec (.launch d a) s = .next t ∧ gives t 1 ∧ others t ∧ t.mem = u.mem)
              ∧ (u.canSpill rcb = true → exec (.launcht a) s = .next (held s (.poolSpill rcb)))
              ∧ (u.canSpill rcb = false → ∃ t, exec (.launcht a) s = .next t ∧ poolTrap t ∧ others t ∧ t.mem = u.mem))))

/-- join takes 1 from a counter above 0 in device memory, and from a counter of 0 leaves it and sends a record of kind 9 (R223); bar has no
effect of its own, once its gang has come to it (R224); signal stores its 8 bytes at the place of its address (R225). -/
def Obligations.JoinsBarsSignals : Prop :=
  ∀ (s : State) (a b : BitVec 6) (x : Word), s.rdS a = .ok x → s.tcvtOut = false →
    (∀ g, s.gangGate = .ok g → (∀ cl, exec (.bar cl) s = .next g)
      ∧ (s.ctx.inh = false → s.isLead = false → exec (.join a) s = .next g)
      ∧ (s.ctx.inh = false → s.isLead = true → s.issueCheck .join x 8 = .ok () → s.room 1 = true → s.shadowed s.ctx.arr = false → s.storeHold x 8 = .ok () →
          ∀ t pa, g.storePlace x = .ok (t, .dev pa) → t.poisoned pa = false →
            (memNat t.mem pa 8 ≠ 0 → exec (.join a) s = .next (t.devNat pa 8 (memNat t.mem pa 8 - 1)))
            ∧ (memNat t.mem pa 8 = 0 → exec (.join a) s = .next (t.joinRec (t.joiner s.ctx.arr) x 0))))
    ∧ ∀ y t p, s.rdS b = .ok y → s.issueCheck .sig x 8 = .ok () → s.room 1 = true → s.storeHold x 8 = .ok () → s.storePlace x = .ok (t, p) →
        t.farFails s.ctx.arr p false = false → exec (.signal a b) s = .next ((t.farUse p).writePlace s.ctx.arr p (leBytes 8 y.toNat))

/-- The system instructions (R100, R146, R147, R149, R151 to R156): trap and brk leave their completion trap; cropen opens a region with the
context's checkpoint, crclose discards the innermost one; modew and vwin write MODE, and VWB with RRB 0; ilock locks from the range's first
line on and returns how many lines of the range are locked, and none without the feature of locks; iunlk releases the task's own locks in the range; wpset sets a watchpoint for
the next bundle; the hints have no effect. In a handler cropen, crclose, launch, launcht, join and every leaf-producing slot (copy, coll, xplane
and the slots of class X) raise a privileged trap (R302). That cropen at depth 4 traps whatever is pending is log 87, that its INFO1 is the depth
log 37, and that a locked line is a root and a virtual line log 18: the model's readings. -/
def Obligations.SystemInstructions : Prop :=
  ∀ s : State,
    (∀ c : BitVec 8, exec (.trap c) s = .next (s.complTrap { cause := 0x13, code := c.toNat })
      ∧ exec (.brk c) s = .next (s.complTrap { cause := 0x12, code := c.toNat }))
    ∧ (∀ o : Off, s.ctx.inh = false → s.ctx.regions.length < 4 → s.ctx.scalarPending = false → s.ctx.scalarsFull = true → ∃ r,
        exec (.cropen o) s = .next { s with ctx := { s.ctx with regions := r :: s.ctx.regions } }
          ∧ r.handler = s.ctx.pc + 4 * offWords o ∧ r.s = s.ctx.s ∧ r.p = s.ctx.p ∧ r.lc = s.ctx.lc ∧ r.rrb = s.ctx.rrb ∧ r.prb = s.ctx.prb
          ∧ r.leafn = s.ctx.leafn ∧ r.rseq = s.ctx.rseq ∧ r.rows = []
          ∧ ∀ k, s.tree? s.ctx.arr s.ctx.task s.ctx.rank = some k → r.tree = (k.gran, k.base, k.stalled))
    ∧ (∀ o : Off, s.ctx.inh = false → 4 ≤ s.ctx.regions.length →
        exec (.cropen o) s = .next (trapped s { cause := 0x0B, info1 := BitVec.ofNat 64 s.ctx.regions.length }))
    ∧ (s.ctx.inh = false → s.regionBusy = false → ∀ r rs, s.ctx.regions = r :: rs →
        exec .crclose s = .next { s with ctx := { s.ctx with regions := rs } })
    ∧ (s.ctx.inh = false → s.ctx.regions = [] → exec .crclose s = .next (trapped s { cause := 0x0B }))
    ∧ (∀ (a : BitVec 6) (v : Word), s.rdS a = .ok v →
        (modeOk v = true → exec (.modew a) s = .next (s.postX 0x008 1 v))
        ∧ (v.toNat < 2 ^ 11 → windowOk (s.ctx.zown ||| s.mateOwn) v.toNat = true →
            exec (.vwin a) s = .next ((s.postX 0x00B 1 v).postX 0x00C 1 0))
        ∧ (v.toNat < 2 ^ 11 → windowOk (s.ctx.zown ||| s.mateOwn) v.toNat = false →
            exec (.vwin a) s = .next (trapped s { cause := 0x0A, addr := v }))
        ∧ ∀ (w : BitVec 2) u bs, s.readDesc s.ctx v 64 = .ok (u, bs) → watchBad bs = none →
            exec (.wpset w a) s = .next { u with iss := { s.iss with wpt := s.iss.wpt ++ [(w.toNat, watchAt bs)] } })
    ∧ (∀ (d : BitVec 5) (a b : BitVec 6) (x n : Word), s.rdS a = .ok x → s.rdS b = .ok n → s.dstS d.toNat = .ok () → s.isLead = true →
        (n = 0 ∨ s.feat 9 = false → exec (.ilock d a b) s = .next ((s.share 1 0).postS d.toNat (s.ctx.latOf 18) 0))
        ∧ (n ≠ 0 → s.feat 9 = true → let t := s.lockGo (x.toNat + n.toNat) 1025 (x.toNat / 128 * 128)
            let k : Word := BitVec.ofNat 64 (t.lockCount x.toNat n.toNat)
            exec (.ilock d a b) s = .next ((t.share 1 k).postS d.toNat (s.ctx.latOf 18) k)
              ∧ ∀ l ∈ t.locks, l ∈ s.locks ∨ (l.gang = s.lockGang ∧ l.root = s.ctx.ptroot ∧ inLines x.toNat n.toNat l.va = true))
        ∧ ∃ t, exec (.iunlk a b) s = .next t ∧ { t with locks := s.locks } = s
            ∧ ∀ l, l ∈ t.locks ↔ l ∈ s.locks ∧ ¬ (n ≠ 0 ∧ l.gang = s.lockGang ∧ l.root = s.ctx.ptroot ∧ inLines x.toNat n.toNat l.va = true))
    ∧ (∀ (k : BitVec 4) (p : BitVec 20), exec (.hintNone k p) s = .next s ∧ exec (.succPrefetch p) s = .next s
        ∧ exec (.branchLikely p) s = .next s ∧ exec (.locality p) s = .next s)
    ∧ (s.ctx.inh = true → ∀ (o : Off) (d : BitVec 5) (a b v : BitVec 6) (ch k f : BitVec 2) (t u : BitVec 4) (tr : Bool) (r : Option RemX),
        ∀ i ∈ [Instr.cropen o, .crclose, .launch d a, .launcht a, .join a, .copy d a ch, .coll d a, .xplane d a tr, .mmaI8 t a b k r, .mmaI8p t a b k r,
               .mmaBf16 t a b k r, .mmaF16 t a b k r, .mmaBf16p t a b k r, .mmazI8 t a b k r, .mmazI8p t a b k r, .mmazBf16 t a b k r,
               .mmazF16 t a b k r, .mmazBf16p t a b k r, .mma64 t a b k r, .sacc t u tr a k, .tclr t k, .tcopy t u k, .tld t f a k,
               .tcvt t f a tr k, .tred t f v k, .tdig t f v k, .sscan t v k],
          exec i s = .next (trapped s { cause := 0x04 }))

/-- rft is privileged outside a handler; in one, the context continues as its frame says, with PC, STEP and MODE of the frame, outside the
handler (R148, R303). -/
def Obligations.ReturnFromTrap : Prop :=
  ∀ s : State,
    (s.ctx.inh = false → exec .rft s = .next (trapped s { cause := 0x04 }))
    ∧ ∀ u bs c, s.ctx.inh = true → s.readArea s.ctx 0 0 10 = .ok (u, bs) →
        restoreFrame s.ctx s.ctx.keptF s.ctx.keptQ bs s.iss.word = .ok c →
        (s.ctx.susp = none →
          exec .rft s = .next { u with ctx := { c with inh := false, bseq := s.ctx.resumeSeq }, iss := { s.iss with rft := true } })
        ∧ (∃ t, exec .rft s = .next t ∧ t.ctx.inh = false ∧ t.iss.rft = true)
        ∧ c.pc = BitVec.ofNat 64 (numAt bs 0 8) ∧ c.step = BitVec.ofNat 64 (numAt bs 8 8) ∧ c.mode = BitVec.ofNat 64 (numAt bs 0x198 8)
        ∧ c.pc.toNat % 4 = 0 ∧ modeOk c.mode = true ∧ OnlyWalked s.mem u.mem

/-- A trap that a context alone in its gang takes, outside containment policy, debug and engine causes, where no consumption unwinds a region
and no mma64 of the context is in the pipe (R297, R301): its frame is written at
AREA; the delivery queue is emptied, INH set, s29 receives AREA and s30 the frame's word at 0x010, and the next bundle is at TVEC; STEP, MODE
and every other register keep their values. With TVEC 0 or INH set the trap is unhandled and the rank stops, its pending results, regions and
traps discarded. At its boundary the context takes what it holds (R150, R297, R305, R349): a trap stops its gang, and where no handler can take it every rank ends; a
consumption of poison in an open region restores the checkpoint and goes on at the region's handler. -/
def Obligations.TrapEntry : Prop :=
  (∀ (s : State) (t : Trap), t.cause ∉ [0, 0x0C, 0x0D, 0x0E, 0x0F, 0x11, 0x12] → t.polc = none → s.ctx.live = true → s.ctx.rank < 16 →
    (∀ x ∈ s.parked ++ s.saved, x.gang ≠ s.ctx.gang) → s.mateOf s.ctx = none → s.ctx.stat = .run → s.ctx.consumes = false → s.m64Out s.ctx = false →
    let c : Ctx := { s.ctx with stat := .stopped (some t) }
    let v := s.takeTrap t
    (s.ctx.tvec ≠ 0 → s.ctx.inh = false → ∀ u, ({ s with ctx := c } : State).writeFrame c false t (2 ^ s.ctx.rank) = some u →
      v.mem = u.mem ∧ v.ctx.pc = s.ctx.tvec ∧ v.ctx.inh = true ∧ v.ctx.dq = [] ∧ v.ctx.stat = .run ∧ v.ctx.step = s.ctx.step
        ∧ v.ctx.mode = s.ctx.mode ∧ v.ctx.flags = s.ctx.flags ∧ v.ctx.p = s.ctx.p ∧ v.ctx.m = s.ctx.m ∧ v.rows = s.rows
        ∧ (v.ctx.sreg 29).val = s.ctx.area ∧ (v.ctx.sreg 29).valid = true
        ∧ (v.ctx.sreg 30).val = frameWord s.ctx t (2 ^ s.ctx.rank) ∧ (v.ctx.sreg 30).valid = true
        ∧ ∀ n, n ≠ 29 → n ≠ 30 → v.ctx.sreg n = s.ctx.sreg n)
    ∧ (s.ctx.tvec = 0 ∨ s.ctx.inh = true → v.ctx.stat = .exited ∧ v.ctx.dq = [] ∧ v.ctx.regions = [] ∧ v.ctx.s = s.ctx.s ∧ v.rows = s.rows))
  ∧ ∀ s : State, s.ctx.live = true → s.ctx.cid < 8 → s.ctx.rank < 16 → s.mateOf s.ctx = none →
    let n := 8 * s.ctx.core + s.ctx.cid
    let g := s.ctx.gang
    (s.atBoundary = true →
      (∀ tr : Trap, tr.cause ∉ [0, 0x0C, 0x0D, 0x0E, 0x0F, 0x11, 0x12] → tr.polc = none →
          (s.ctx.compl = [tr] ∧ s.ctx.async = []) ∨ (s.ctx.compl = [] ∧ s.ctx.async = [tr]) →
        let tk : Trap := if s.ctx.compl = [] then tr else { tr with pend := 0, after := true }
        let c : Ctx := { s.ctx with compl := [], async := [], stat := .stopped (some tk) }
        (s.ctx.tvec ≠ 0 → s.ctx.inh = false → (∀ x ∈ s.parked ++ s.saved, x.gang = g → x.active = false) →
          ∀ u, (({ s.clearGate g with ctx := c } : State).gangStopped g).writeFrame c false tk (2 ^ s.ctx.rank) = some u →
          ∃ t, exec (.trapDelivery n) s = .next t ∧ (1 < s.ctx.nrank → exec (.gangStop n) s = .next t)
            ∧ t.mem = u.mem ∧ t.ctx.pc = s.ctx.tvec ∧ t.ctx.inh = true ∧ t.ctx.dq = [] ∧ t.ctx.stat = .run ∧ t.ctx.compl = [] ∧ t.ctx.async = []
            ∧ t.ctx.step = s.ctx.step ∧ t.ctx.mode = s.ctx.mode ∧ t.ctx.flags = s.ctx.flags ∧ t.ctx.p = s.ctx.p ∧ t.ctx.m = s.ctx.m
            ∧ (t.ctx.sreg 29).val = s.ctx.area ∧ (t.ctx.sreg 30).val = frameWord c tk (2 ^ s.ctx.rank)
            ∧ ∀ i, i ≠ 29 → i ≠ 30 → t.ctx.sreg i = s.ctx.sreg i)
        ∧ (s.ctx.tvec = 0 ∨ s.ctx.inh = true → (∀ x ∈ s.parked ++ s.saved, x.gang = g → x.compl = [] ∧ x.async = [] ∧ s.m64Out x = false ∧ ∀ o, x.stat ≠ .stopped (some o)) →
          ∃ t, exec (.trapDelivery n) s = .next t ∧ (1 < s.ctx.nrank → exec (.gangStop n) s = .next t)
            ∧ ∀ x ∈ t.ctx :: t.parked, x.gang = g → x.live = true → x.stat = .exited ∨ x.stat = .ended))
      ∧ (∀ tr : Trap, ∀ r rs, s.ctx.compl = [tr] → tr.cause = 0x0F → tr.cons = true → s.ctx.regions = r :: rs → s.ctx.inh = false →
          (∀ x ∈ s.parked ++ s.saved, x.gang = g → x.active = false) →
          ∃ t, exec (.unwind n) s = .next t ∧ t.ctx.pc = r.handler ∧ t.ctx.regions = rs ∧ t.ctx.dq = [] ∧ t.ctx.compl = [] ∧ t.ctx.stat = .run
            ∧ t.ctx.p = r.p ∧ t.ctx.lc = r.lc ∧ t.ctx.rrb = r.rrb ∧ t.ctx.prb = r.prb ∧ t.ctx.leafn = r.leafn ∧ t.ctx.rseq = r.rseq
            ∧ (t.ctx.sreg 30).val = BitVec.ofNat 64 (0x100F + (rs.length + 1) % 16 * 256)
            ∧ (∀ i, i ≠ 30 → t.ctx.sreg i = ({ s.ctx with s := r.s } : Ctx).sreg i)
            ∧ t.ctx.m = s.ctx.m ∧ t.ctx.mode = s.ctx.mode ∧ t.ctx.step = s.ctx.step))

/-- The transposer (R250, R251): a push adds the 36/w rows of its row's elements to the fill block, or starts one; at 128 rows or with L set
the block moves to the drain block, zero rows behind it, with RDY the step plus the latency. A pop gives the next 36/w columns. -/
def Obligations.TransposerPushesAndPops : Prop :=
  ∀ (s : State) (a v : BitVec 6) (l : Bool),
    (∀ r, s.rdV a = .ok r → ∀ f ∈ [(Instr.xpush36, 36), (Instr.xpush18, 18), (Instr.xpush9, 9)], s.ctx.fill.w = 0 ∨ s.ctx.fill.w = f.2 →
      let old := if s.ctx.fill.w = 0 then [] else s.ctx.fill.rows
      ∃ rows, rows.length = 36 / f.2
        ∧ (∀ k c, k < 36 / f.2 → c < 128 → ((rows.getD k []).getD c 0).toNat = laneAt f.2 r (128 * k + c))
        ∧ (¬ (128 ≤ (old ++ rows).length ∨ l = true) →
            exec (f.1 l a) s = .next { s with ctx := { s.ctx with fill := ⟨f.2, old ++ rows⟩ } })
        ∧ (128 ≤ (old ++ rows).length ∨ l = true → ∃ b, exec (f.1 l a) s = .next { s with ctx := { s.ctx with fill := {}, drain := some b } }
            ∧ b.w = f.2 ∧ b.c = 0 ∧ b.rdy = s.ctx.step + BitVec.ofNat 64 (s.ctx.latOf 14)
            ∧ (∀ k, k < (old ++ rows).length → b.rows[k]? = (old ++ rows)[k]?)
            ∧ ∀ k, (old ++ rows).length ≤ k → k < 128 → b.rows[k]? = some (List.replicate 128 0)))
    ∧ (∀ b, s.dstV v = .ok () → s.ctx.drain = some b → b.c < 128 → b.rdy.toNat ≤ s.ctx.step.toNat → b.w ∈ [36, 18, 9] → b.rows.length = 128 →
        ∃ val, exec (.xpop v) s = .next (({ s with ctx := { s.ctx with drain := some { b with c := b.c + 36 / b.w } } }).postV v (s.ctx.latOf 15)
            val allRow 0)
          ∧ ∀ k j, k < 36 / b.w → j < 128 → laneAt b.w val (128 * k + j) = ((b.rows.getD j []).getD (b.c + k) 0).toNat % 2 ^ b.w)
    ∧ (s.dstV v = .ok () → s.ctx.drain = none → exec (.xpop v) s = .next (trapped s { cause := 0x0B }))

/-- xrst makes the fill block and the drain block empty (R253). -/
def Obligations.TransposerReset : Prop :=
  ∀ s : State, exec .xrst s = .next { s with ctx := { s.ctx with fill := {}, drain := none } }

/-! Class X. -/

/-- The matrix products (R261 to R265): with clip counts, tile and operands that pass the checks, mma and mmaz start an operation on their
tile: row i of the tile receives in lane c the pair's element over K products, and with mma over what it held; A and B are read from the
buffers of the context, or of the member of its gang that a remote operand names, B from its planes where the pair has them, and a multicast's B
as it stood when the last rank came to it. mma64 adds the products of its micro-steps one after another, up to the first that
fails. Where the ranks of a multicast disagree, the operation starts, too, and fails (R264). That z is the first operand of a float addition
is the model's choice (log 117). -/
def Obligations.MatrixProductsStart : Prop :=
  ∀ (s : State) (t : BitVec 4) (fa fb : BitVec 6) (k : BitVec 2) (r : Option RemX) (v a b : Word) (td : Nat),
    s.ctx.inh = false → s.rdK k.toNat = .ok v → s.rdS fa = .ok a → s.rdS fb = .ok b → s.tileCheck t.toNat = .ok td → s.pendCheck [td] = .ok () →
    let m := clM v
    let n := clN v
    let kd := clK v
    let live : Bool := m != 0 && n != 0 && kd != 0
    let env := s.xenv
    let view : BufView := if remMc r then s.mcView else s.bufView
    let starts : Prop := remMc r = true → s.mcastBad = [] ∧ ∃ g, s.gangGate = .ok g
    (∀ f ∈ [(Instr.mmaI8, MPair.i8, true), (Instr.mmaI8p, .i8p, true), (Instr.mmaBf16, .bf16, true), (Instr.mmaF16, .f16, true),
            (Instr.mmaBf16p, .bf16p, true), (Instr.mmazI8, .i8, false), (Instr.mmazI8p, .i8p, false), (Instr.mmazBf16, .bf16, false),
            (Instr.mmazF16, .f16, false), (Instr.mmazBf16p, .bf16p, false)],
      let p := f.2.1
      let e := p.esz
      let spanA := (m - 1) * clAS v + kd * e
      let spanB := if p.bpn then 2048 * clPlanes v else (kd - 1) * clBS v + n * e
      let cost := if live then p.cost (clPlanes v) else 1
      s.clipCheck v true true p.bpn 128 = .ok () → bufCheck a e (clAS v) = .ok () →
      bufCheck b (if p.bpn then 2048 else e) (if p.bpn then 0 else clBS v) = .ok () →
      s.windowCheck a spanA (live && !remA r) = .ok () → s.windowCheck b spanB (live && !remB r) = .ok () →
      s.xdests td (if live then m else 0) = .ok () →
      s.xgate cost (if live then s.ownOps r a spanA b spanB else []) = .ok () →
      ∀ zs, (f.2.2 = true → live = true → s.xreads td m = .ok zs) →
        (starts → XStarted s (f.1 t fa fb k r) (fun x => x.cost = cost ∧ x.tiles = [td] ∧ x.tgt = (if live then [td] else [])
          ∧ (live = false → x.writes = [] ∧ x.flags = 0)
          ∧ (live = true → x.fail = none → ∀ ca cb, s.srcA r = some ca → s.srcB r = some cb → ∀ i, i < m → XWrites x i (128 * td + i) n (fun c =>
              let bit (q j : Nat) : Nat := viewElem view cb b (2048 * q + 16 * j) 1 (c / 8) / 2 ^ (c % 8) % 2
              let vb (j : Nat) : FV := if p.bpn then intV (decI (clPlanes v) ((List.range (clPlanes v)).foldl (fun y q => 2 * y + bit q j) 0))
                else p.val env (viewElem view cb b (j * clBS v) e c)
              let ps := (List.range kd).map (fun j => (p.val env (viewElem s.bufView ca a (i * clAS v) e j), vb j))
              let z := if f.2.2 then laneAt 36 (zs.getD i 0) c else 0
              (if p.float then mmaFloat env f.2.2 ps z (128 * i + c) else mmaInt env f.2.2 ps z).bits))))
        ∧ (remMc r = true → ∀ g, s.gangGate = .ok g → ∃ u, exec (f.1 t fa fb k r) s = .next u ∧ u.xq.length = s.xq.length + 1))
    ∧ (let spanA := (m - 1) * clAS v + kd
       let spanB := (kd - 1) * clBS v + n
       s.clipCheck v true true false 64 = .ok () → bufCheck a 1 0 = .ok () → bufCheck b 1 0 = .ok () →
       s.windowCheck a spanA (live && !remA r) = .ok () → s.windowCheck b spanB (live && !remB r) = .ok () →
       s.xgate (if live then 256 else 1)
         (if live then s.ownOps r a spanA b spanB else []) = .ok () →
       ∀ zs, (live = true → s.xreads td m = .ok zs) →
         (starts → XStarted s (.mma64 t fa fb k r) (fun x => x.tiles = [td] ∧ x.cost = (if live then 256 else 1) ∧ ∃ y, x.m64 = some y
           ∧ (live = false → x.writes = []) ∧ (live = true → y.micro ≤ 4 ∧ (x.fail = none ↔ y.micro = 4)
             ∧ ∀ ca cb, s.srcA r = some ca → s.srcB r = some cb → ∀ i, i < m → XWrites x i (128 * td + i) n (fun c =>
                 (List.range y.micro).foldl (fun z q => (mmaInt env true ((List.range (min kd (16 * q + 16) - 16 * q)).map (fun j =>
                   (intV (decI 8 (viewElem s.bufView ca a (i * clAS v + 16 * q) 1 j)), intV (decI 8 (viewElem view cb b ((16 * q + j) * clBS v) 1 c))))) z).bits)
                   (laneAt 36 (zs.getD i 0) c)))))
         ∧ (remMc r = true → ∀ g, s.gangGate = .ok g → ∃ u, exec (.mma64 t fa fb k r) s = .next u ∧ u.xq.length = s.xq.length + 1))

/-- The other instructions of class X start their operations (R266 to R276): tclr clears M rows of its tile, tcopy copies them, tld loads M × N
elements, tred leaves each column's reduction and tdig the digest of M × N lanes in a row of Z; sacc adds the scaled partial sums. tcvt writes
the bytes and the scales of R270 and R271 to its buffer. sscan writes y(t), the end state and g(t) of the recurrent form (R275) below the
threshold SSTH, and of the chunked one (R276) from it on. That z comes before the partial sum among sacc's NaN operands is the model's
choice (log 116). -/
def Obligations.TileOperationsStart : Prop :=
  ∀ (s : State) (t ts : BitVec 4) (k : BitVec 2) (v : Word) (td te : Nat),
    s.ctx.inh = false → s.rdK k.toNat = .ok v → s.tileCheck t.toNat = .ok td →
    let m := clM v
    let n := clN v
    let live : Bool := m != 0 && n != 0
    (s.clipCheck v false false false 128 = .ok () → s.pendCheck [td] = .ok () → s.xdests td m = .ok () → s.xgate (if m = 0 then 1 else 8) [] = .ok () →
      XStarted s (.tclr t k) (fun x => x.tiles = [td] ∧ x.fail = none ∧ x.writes.length = m
        ∧ ∀ i, i < m → x.writes[i]? = some ⟨128 * td + i, 0, allRow⟩))
    ∧ (s.clipCheck v false false false 128 = .ok () → s.tileCheck ts.toNat = .ok te → s.pendCheck [td, te] = .ok () → s.xdests td m = .ok () →
      s.xgate (if m = 0 then 1 else 32) [] = .ok () → ∀ rs, s.xreads te m = .ok rs →
      XStarted s (.tcopy t ts k) (fun x => x.tiles = [td, te] ∧ x.fail = none ∧ x.writes.length = m
        ∧ ∀ i, i < m → x.writes[i]? = some ⟨128 * td + i, rs.getD i 0, allRow⟩))
    ∧ (s.clipCheck v true false false 128 = .ok () → ∀ (fa : BitVec 6) (a : Word), s.rdS fa = .ok a →
      (∀ f : BitVec 2,
        let e := tldSize f.toNat
        let span := (m - 1) * clAS v + n * e
        bufCheck a e (clAS v) = .ok () → s.windowCheck a span live = .ok () → s.pendCheck [td] = .ok () → s.xdests td (if live then m else 0) = .ok () →
        s.xgate (if live then 32 else 1) (if live then [(a, span)] else []) = .ok () →
        XStarted s (.tld t f fa k) (fun x => x.tiles = [td] ∧ (live = true → x.fail = none →
          ∀ i, i < m → XWrites x i (128 * td + i) n (fun c => (tldLane f.toNat (bufElem s a (i * clAS v) e c)).bits))))
      ∧ (∀ (i : Bool) (zs ps : List Row), s.tileCheck ts.toNat = .ok te → selOf a = 0x10 ∨ selOf a = 0x11 → wfld a 0 1 = 0 →
          (live = true → wfld a 0 20 + 2 * m ≤ winSize (s.ctx.win (selOf a - 0x10))) → wfld a 52 4 = 0 → wfld a 20 20 = 0 →
          s.pendCheck [td, te] = .ok () → (live = true → s.xreads td m = .ok zs ∧ s.xreads te m = .ok ps) →
          let sa : Word := BitVec.ofNat 64 (selOf a * 2 ^ 56 + wfld a 0 20)
          s.xgate (if live then 32 else 1) (if live then [(sa, 2 * m)] else []) = .ok () →
          XStarted s (.sacc t ts i fa k) (fun x => x.tiles = [td, te] ∧ (live = true → x.fail = none →
            ∀ j, j < m → XWrites x j (128 * td + j) n (fun c =>
              (saccElem s.xenv (128 * j + c) (F36.decIn s.xenv (laneAt 36 (zs.getD j 0) c)) (partVal s.xenv i (laneAt 36 (ps.getD j 0) c))
                (s12 (bufElem s sa 0 2 j)) (s12 (wfld a 40 12))).bits))))
      ∧ ∀ (f : BitVec 2) (i : Bool) (zs : List Row), f ≠ 3 → bufCheck a (if f.toNat < 2 then 2 else 1) (if f.toNat < 2 then clAS v else 0) = .ok () →
          let rowsTop := (m - 1) * clAS v + n * (if f.toNat < 2 then 2 else 1)
          let span := if f.toNat = 2 then max rowsTop (128 * clAS v + 2 * m) else rowsTop
          s.windowCheck a span live = .ok () → s.pendCheck [td] = .ok () → (live = true → s.xreads td m = .ok zs) →
          s.xgate (if live then 64 else 1) [] = .ok () → s.aliasBusy s.ctx (selOf a - 0x10) (s.ctx.bufSegs (selOf a - 0x10) (lowOf a) span) = false →
          let val (j c : Nat) : FV := partVal s.xenv i (laneAt 36 (zs.getD j 0) c)
          XStarted s (.tcvt t f fa i k) (fun x => x.tiles = [td] ∧ x.writes = [] ∧ x.fail = none ∧ (live = false → x.bufs = [])
            ∧ (live = true → ∀ j, j < m →
              (f.toNat < 2 → XStores s x a (j * clAS v) ((List.range n).flatMap (fun c =>
                  leBytes 2 (cvtV s.xenv (if f = 0 then BF16 else FP16) (128 * j + c) (val j c)).bits)))
              ∧ (f = 2 → ∃ (w : Nat) (q : Nat → Nat), Quantised s.xenv (128 * j) n (val j) w q ∧ XStores s x a (128 * clAS v + 2 * j) (leBytes 2 w)
                  ∧ XStores s x a (j * clAS v) ((List.range n).map (fun c => BitVec.ofNat 8 (q c)))))))
    ∧ (s.clipCheck v true false true 128 = .ok () → ∀ (fa : BitVec 6) (a : Word) (i : Bool) (zs : List Row), s.rdS fa = .ok a →
        bufCheck a 2048 0 = .ok () → s.windowCheck a (2048 * clPlanes v) live = .ok () → s.pendCheck [td] = .ok () →
        (live = true → s.xreads td m = .ok zs) → s.xgate (if live then 64 else 1) [] = .ok () →
        s.aliasBusy s.ctx (selOf a - 0x10) (s.ctx.bufSegs (selOf a - 0x10) (lowOf a) (2048 * clPlanes v)) = false →
        let p := clPlanes v
        XStarted s (.tcvt t 3 fa i k) (fun x => x.tiles = [td] ∧ x.writes = [] ∧ x.fail = none ∧ (live = false → x.bufs = [])
          ∧ (live = true → ∃ bs : List Byte, bs.length = 2048 * p ∧ XStores s x a 0 bs
            ∧ ∀ q j c, q < p → j < 128 → c < 128 → (bs.getD (2048 * q + 16 * j + c / 8) 0).getLsbD (c % 8)
                = (decide (j < m ∧ c < n) && (cvtI s.xenv (128 * j + c) p (partVal s.xenv i (laneAt 36 (zs.getD j 0) c))).bits.testBit (p - 1 - q)))))
    ∧ (s.clipCheck v true false false 128 = .ok () → ∀ (d : BitVec 6) (zs : List Row),
        let r := physV s.ctx d.toNat
        s.pendCheck [td, r / 128] = .ok () → (live = true → s.xreads td m = .ok zs) → s.xdest r = .ok () → s.xgate (if live then 64 else 1) [] = .ok () →
        (∀ o : BitVec 2, XStarted s (.tred t o d k) (fun x => x.tiles = [td, r / 128] ∧ x.fail = none ∧ (live = true →
            XWrites x 0 r n (fun c => (tredCol s.xenv (tredOp o.toNat) c (zs.map (lanes 36))).bits))))
        ∧ ∀ w : BitVec 2, XStarted s (.tdig t w d k) (fun x => x.tiles = [td, r / 128] ∧ x.fail = none ∧ (live = true →
            let cells := serTile (viewW w) (n * (36 / viewW w)) (zs.map (lanes (viewW w)))
            XWrites x 0 r 4 (fun c => leNat (((s.digestOf s.ctx.arr s.ctx.task cells).drop (4 * c)).take 4)))))
    ∧ (s.clipCheck v true true false 128 = .ok () → ∀ (d : BitVec 6) (q : Nat), t.toNat ≤ 12 → s.tileCheck (t.toNat + 3) = .ok q →
        let tile (i : Nat) : Nat := tileOf s.ctx (t.toNat + i)
        let r := physV s.ctx d.toNat
        let kd := clK v
        let on : Bool := n != 0 && m != 0 && kd != 0
        r / 128 ∉ [tile 0, tile 1, tile 2, tile 3] → s.pendCheck [tile 0, tile 1, tile 2, tile 3, r / 128] = .ok () →
        ∀ xs bs cs hs as, s.xreads (tile 0) (if on then m else 0) = .ok xs → s.xreads (tile 1) (if on then m else 0) = .ok bs →
        s.xreads (tile 2) (if on then m else 0) = .ok cs → s.xreads (tile 3) (if on then kd else 0) = .ok hs →
        (on = true → s.xread r = .ok as) →
        s.xgate (if !on then 1 else if modeSSTH s.ctx.mode ≤ m then 512 + 8 * m else 8 * m) [] = .ok () →
        XStarted s (.sscan t d k) (fun x => x.tiles = [tile 0, tile 1, tile 2, tile 3, r / 128] ∧ x.fail = none
          ∧ x.tgt = (if on then [tile 0, tile 3] else []) ∧ (on = false → x.writes = []) ∧ (on = true → x.writes.length = m + kd + 1
          ∧ ∃ (g : Nat → FV) (y h : Nat → Nat → FV), Scanned (scanEnv s.xenv) (decide (modeSSTH s.ctx.mode ≤ m)) m n kd
              (fun q => F36.decIn (scanEnv s.xenv) (laneAt 36 as q)) (scanLane s xs) (scanLane s bs) (scanLane s cs) (scanLane s hs) g y h
            ∧ (∀ q, q < m → XWrites x q (128 * tile 0 + q) n (fun j => encF (y q j)))
            ∧ (∀ i, i < kd → XWrites x (m + i) (128 * tile 3 + i) n (fun j => encF (h i j)))
            ∧ XWrites x (m + kd) r m (fun q => encF (g q)))))

/-! Events. -/

/-- The stores of the host and of the tree control registers (R177, R178, R280, R311, R321, R330, R357, R359, R365, R366, R368, R380, R393, R395,
R396), outside RECOVERY: each completes with the effect of its register; and the invalidations, loads and dumps that they begin complete. That a
VF has its wake registers once its VFCFG is written is log 104, that the low bits of QDESCq are dropped log 43, which LSTAT value refuses what log
73, one granule of a dump per event log 80, and a descriptor in a poisoned line as a bad request log 107: the model's readings. -/
def Obligations.ControlStores : Prop :=
  ∀ (s : State) (v : Word) (n : Nat), s.sysstate ≠ 4 →
    (∀ vf, n < 4096 → let w := s.reg (0x600808 + 16 * vf)
        let has := vf = 0 ∨ (s.vfOn = true ∧ 1 ≤ vf ∧ vf ≤ 63 ∧ (s.reg (0x600800 + 16 * vf) ≠ 0 ∨ w ≠ 0) ∧ wfld w 0 12 ≤ n ∧ n < wfld w 0 12 + wfld w 16 12)
        (has → ∃ t, exec (.wakeWrite ⟨vf, n⟩ v) s = .next t ∧ (tabGet 0 t.wake n).toNat = max (tabGet 0 s.wake n).toNat v.toNat
          ∧ (∀ q, q ≠ n → tabGet 0 t.wake q = tabGet 0 s.wake q) ∧ { t with wake := s.wake } = s)
        ∧ (¬ has → exec (.wakeWrite ⟨vf, n⟩ v) s = .next s))
    ∧ (n < 4096 → ∃ t, exec (.qdescWrite n v) s = .next t ∧ t.reg (0x100000 + 8 * n) = v &&& ~~~(0x3F : Word) ∧ n ∉ t.deadq
        ∧ (∀ x ∈ t.depSeen, x.1 ≠ n) ∧ ∀ o, o ≠ 0x100000 + 8 * n → t.reg o = s.reg o)
    ∧ (∀ o u, o % 8 = 0 → o < 2 ^ 28 → s.ctlWrite o v = .ok u → exec (.ctlWrite o v) s = .next u.unblock)
    ∧ (n < 64 → exec (.chainBind n v) s = .next (if s.reg (0x200000 + 128 * n) = 0 then s.setReg (0x200000 + 128 * n) v else s))
    ∧ (n < 64 → (s.reg (0x200018 + 128 * n)).toNat ≤ v.toNat → v.toNat ≤ (s.reg (0x200020 + 128 * n)).toNat →
        ∃ t, exec (.logrd n v) s = .next t ∧ t.reg (0x200018 + 128 * n) = v ∧ (s.logq = [] → t = (s.setReg (0x200018 + 128 * n) v).unblock))
    ∧ (n < 24 → ∃ t, exec (.linkh n v) s = .next t ∧ t.reg (0x210030 + 64 * n) = tabGet 0 s.linkLo n ∧ t.reg (0x210038 + 64 * n) = v
        ∧ ∀ i, i < 6 → t.reg (0x210000 + 64 * n + 8 * i) = 0)
    ∧ (wfld v 0 2 ≠ 3 → wfld v 2 14 = 0 → wfld v 48 16 = 0 → exec (.tlbInvalidate v) s
        = .next { s with tlbn := s.tlbn + 1, tlbq := s.tlbq ++ [(s.tlbn + 1, s.reg 0x3000, wfld v 0 2, v)] })
    ∧ (wfld v 40 24 = 0 → wfld v 0 7 = 0 → s.loadq.length < 64 → exec (.loadreq v) s = .next { s with loadq := s.loadq ++ [v.toNat] })
    ∧ (n < 384 → s.feat 8 = true → v.toNat < 16 → ∃ t, exec (.debugStop n v) s = .next t ∧ (s.ctx.live = true → s.ctx.core = n → s.ctx.cid < 4 →
          v.getLsbD s.ctx.cid = true → s.ctx.dbg.getLsbD 0 = true → s.ctx.stat = .run → t.ctx.async = s.ctx.async ++ [{ cause := 0 }])
        ∧ ((s.ctx.core ≠ n ∨ v.getLsbD (s.ctx.cid % 4) = false ∨ s.ctx.dbg.getLsbD 0 = false ∨ s.ctx.stat ≠ .run) → t.ctx = s.ctx))
    ∧ (n < 384 → exec (.debugResume n v) s = .next (s.debugResumeReq n v).unblock)
    ∧ exec (.dumpreq v) s = .next (if s.feat 8 then s.dumpStart (v.toNat / 64 * 64) else s)
    ∧ (v = 1 → s.sysstate = 2 → s.reg 0x600140 = 0 → ∃ t, exec (.featlock v) s = .next t ∧ t.sysstate = 3 ∧ t.reg 0x600140 = 1)
    ∧ (v.toNat < 120 → v.toNat ≠ 115 → v.toNat ≠ 119 → (∀ m, m < 120 → zState (s.zone m) = 0) → s.sysstate = 2 →
        ∃ t, exec (.evac v) s = .next t ∧ zState (t.zone v.toNat) = 1 ∧ zStep (t.zone v.toNat) = 1
          ∧ zSet (t.zone v.toNat) = zSet (s.zone v.toNat))
    ∧ (v.toNat < 120 → zState (s.zone v.toNat) = 2 ∨ zState (s.zone v.toNat) = 4 →
        ∃ t, exec (.refill v) s = .next t ∧ zState (t.zone v.toNat) = 3 ∧ zSet (t.zone v.toNat) = 0)
    ∧ (n < 120 → zState (s.zone n) = 0 → wfld v 0 8 ≤ wfld v 8 8 → s.reg (zoneOff n - 8) = 0 → ∃ t, exec (.zoneWordWrite n v) s = .next t
        ∧ zFloor (t.zone n) = wfld v 0 8 ∧ zCeil (t.zone n) = wfld v 8 8 ∧ zState (t.zone n) = 0
        ∧ zSet (t.zone n) = min (max (wfld v 16 8) (wfld v 0 8)) (wfld v 8 8))
    ∧ (n < 384 → s.coreFenced n = false → ∃ t, exec (.scan n) s = .next t ∧ (t.reg (0x230000 + 8 * n)).getLsbD 2 = true)
    -- what the stores begin: an invalidation ends once no walk begun before it is out
    ∧ (∀ k root sc w r, s.tlbq = (k, root, sc, w) :: r →
        ((∃ x ∈ s.walks, x.inv < k) → exec .tlbInvComplete s = .next s)
        ∧ ((∀ x ∈ s.walks, k ≤ x.inv) → ∃ t, exec .tlbInvComplete s = .next t ∧ t.tlbq = r ∧ t.reg 0x3010 = BitVec.ofNat 64 k
          ∧ ∀ e, e ∈ t.tlb ↔ e ∈ s.tlb ∧ ¬ (sc = 2 ∨ (e.root = root ∧ (sc = 1 ∨ wfld w 16 32 * 65536 / 2 ^ e.sh = e.page)))))
    -- the loader's oldest request
    ∧ (∀ a r, s.loadq = a :: r → (s.reg 0x60).toNat = s.stackMap → s.poisoned a = true ∨ s.poisoned (a + 64) = true →
        ∃ t, exec .load s = .next t ∧ t.loadq = r ∧ t.registry = s.registry ∧ memNat t.mem (a + 0x20) 4 = 3)
    ∧ (∀ a r, s.loadq = a :: r → (s.reg 0x60).toNat = s.stackMap → s.poisoned a = false → s.poisoned (a + 64) = false →
        let d := memRead s.mem a 128
        (∀ e, numAt d 0 8 ≠ 2 → s.loadObj d = .error e → ∃ t, exec .load s = .next t ∧ t.loadq = r ∧ t.registry = s.registry
          ∧ memNat t.mem (a + 0x20) 4 = e % 2 ^ 32)
        ∧ (∀ k e, numAt d 0 8 ≠ 2 → s.loadObj d = .ok (k, e) → ∃ t, exec .load s = .next t ∧ t.loadq = r ∧ t.registry = s.registry ++ [k]
          ∧ memNat t.mem (a + 0x20) 4 = e % 2 ^ 32 ∧ memNat t.mem (a + 0x28) 8 = k.text.toNat)
        ∧ (numAt d 0 8 = 2 → exec .load s = .next s) ∧ (numAt d 0 8 ≠ 2 → exec .unload s = .next s)
        ∧ (numAt d 0 8 = 2 → descOk d = false → ∃ t, exec .unload s = .next t ∧ t.loadq = r ∧ t.registry = s.registry
          ∧ memNat t.mem (a + 0x20) 4 = 3)
        ∧ (numAt d 0 8 = 2 → descOk d = true → ∃ t, exec .unload s = .next t ∧ t.loadq = r
          ∧ t.registry = s.registry.filter (fun k => !(k.ptroot == BitVec.ofNat 64 (numAt d 0x18 8) && k.text == BitVec.ofNat 64 (numAt d 0x28 8)))
          ∧ memNat t.mem (a + 0x20) 4 = if s.registry.any (fun k => k.ptroot == BitVec.ofNat 64 (numAt d 0x18 8) && k.text == BitVec.ofNat 64 (numAt d 0x28 8))
              then 9 else 10))
    ∧ (s.loadq = [] → exec .load s = .next s ∧ exec .unload s = .next s)
    -- a dump's granules, one by one, and its end
    ∧ (∀ d : Dump, s.dump = some d → d.wait = false → (s.reg 0x60).toNat = s.stackMap →
        (d.todo = [] → ∃ t, exec .dumpGranule s = .next t ∧ t.dump = none ∧ memNat t.mem (d.desc + 0x20) 8 = 2 ∧ memNat t.mem (d.desc + 0x30) 8 = d.pages % 2 ^ 64)
        ∧ (∀ va pa r, d.todo = (va, pa) :: r → d.size < d.out + 65600 → ∃ t, exec .dumpGranule s = .next t ∧ t.dump = none
          ∧ memNat t.mem (d.desc + 0x20) 8 = 3)
        ∧ (∀ va pa r, d.todo = (va, pa) :: r → d.out + 65600 ≤ d.size → ∃ t, exec .dumpGranule s = .next t
          ∧ t.dump = some { d with out := d.out + 65600, todo := r, pages := d.pages + 1 }
          ∧ memNat t.mem (d.dest + d.out) 8 = va % 2 ^ 64 ∧ memNat t.mem (d.dest + d.out + 8) 8 = pa % 2 ^ 64
          ∧ memNat t.mem (d.dest + d.out + 16) 8 = 65536
          ∧ ∀ i, i < 65536 → memByte t.mem (d.dest + d.out + 64 + i) = s.devByte d.arr (pa + i)))

/-- Starts (R26, R330, R381 to R384, R388): power-on, fundamental reset and cold start come to HOLD or RECOVERY with TB 0, no launch and no gang; a
warm start is refused, or comes to HOLD with its Milliners loaded again, or to RECOVERY where the management firmware fails; a unit that reports ready is present, one that fails is fenced,
and in RECOVERY no unit reports. The eye margins that training leaves are free: Config.eyeTrained, the model's choice (log 100). -/
def Obligations.StartsComplete : Prop :=
  ∀ s : State,
    (∀ i ∈ [Instr.powerOn, .fundReset, .coldStart], ∃ t, exec i s = .next t ∧ (t.sysstate = 2 ∨ t.sysstate = 4) ∧ t.tb = 0 ∧ t.launches = []
      ∧ t.gangs = [] ∧ t.live = [] ∧ t.inputs = s.inputs
      ∧ (t.sysstate = 4 → t.reg 0x600100 = 0) ∧ (t.sysstate = 2 → t.reg 0x600100 = 0x3FF))
    ∧ (s.sysstate = 4 → (∀ k ok, exec (.stackTrained k ok) s = .next s) ∧ (∀ cl bad, exec (.clusterReady cl bad) s = .next s)
      ∧ (∀ m ok, exec (.millinerLoaded m ok) s = .next s) ∧ ∀ p ok, exec (.brimTrained p ok) s = .next s)
    ∧ (∀ ch : List (Nat × BitVec 384 × Bool), (s.sysstate = 2 ∨ s.sysstate = 3) → s.launches = [] → s.dump = none → (∀ n, n < 120 → zState (s.zone n) = 0) →
        ∃ t, exec (.warmStart ch) s = .next t ∧ t.reg 0x600140 = 0 ∧ (∀ i, i < 4 → t.reg (0x600120 + 8 * i) = 0) ∧ t.vfOn = false
          ∧ ((∃ x ∈ ch, x.1 = 2 ∧ x.2.2 = false ∧ x.2.1 ≠ s.measurement 2) → t.sysstate = 4)
          ∧ t.measurement 1 = s.measurement 1
          ∧ ((∀ x ∈ ch, x.1 = 2 → x.2.2 = true) → t.sysstate = 2 ∧ t.reg 0x600018 = s.reg 0x600018
            ∧ (∀ m, m < 8 → (t.millis.getD m {}).loaded = !(t.reg 0x50).getLsbD (48 + m) ∧ (t.reg 0x600010).getLsbD (16 + m) = !(t.reg 0x50).getLsbD (48 + m)))
          ∧ (ch = [] → t.mem = s.mem ∧ t.reg 0x50 = s.reg 0x50))
    ∧ (∀ ch, s.sysstate = 3 → s.launches ≠ [] → exec (.warmStart ch) s = .next (s.setReg 0x600008 0x200))
    ∧ (∀ k, k < 16 → s.sysstate ≠ 4 → s.devSize = 0 → (s.reg 0x60).getLsbD k = false → s.trained k = false →
        (∃ t, exec (.stackTrained k true) s = .next t ∧ (t.reg 0x600010).getLsbD k = true)
        ∧ ∃ t, exec (.stackTrained k false) s = .next t ∧ (t.reg 0x60).getLsbD k = true)
    ∧ (∀ cl, cl < 24 → s.sysstate ≠ 4 → (s.reg 0x600018).getLsbD cl = false → (s.sysstate = 5 → s.wasReady.2.getLsbD cl = false) →
        exec (.clusterReady cl []) s = .next (s.setBit 0x600018 cl true)
        ∧ ∀ bad, ∃ t, exec (.clusterReady cl bad) s = .next t ∧ (t.reg 0x600018).getLsbD cl = true ∧ ∀ i ∈ bad, i < 16 → t.coreFenced (16 * cl + i) = true)
    ∧ (∀ m, m < 8 → s.sysstate ≠ 4 → (s.reg 0x50).getLsbD (48 + m) = false →
        (∃ t, exec (.millinerLoaded m true) s = .next t ∧ (t.reg 0x600010).getLsbD (16 + m) = true ∧ (t.millis.getD m {}).loaded = true)
        ∧ exec (.millinerLoaded m false) s = .next (s.fenceMilliner m))
    ∧ ∀ p, p < 24 → s.sysstate ≠ 4 → (s.reg 0x58).getLsbD p = false → s.trained (24 + p) = false →
        (∃ t, exec (.brimTrained p true) s = .next t ∧ (t.reg 0x600010).getLsbD (24 + p) = true
          ∧ (∀ i, i < 6 → t.reg (0x210000 + 64 * p + 8 * i) = 0)
          ∧ ∀ l, l < 8 → wfld (t.reg (0x242000 + 8 * (8 * p + l))) 48 16 = (Config.eyeTrained s.free l).toNat)
        ∧ exec (.brimTrained p false) s = .next (s.portDown p)

/-- Virtual functions and the aperture, clocks and cooling (R16, R20, R378, R379, R392 to R396). -/
def Obligations.FacilitiesComplete : Prop :=
  ∀ s : State,
    (∀ on, exec (.vfEnable on) s = .next { s with vfOn := on && s.feat 0 })
    ∧ (∀ v, s.vfOn = true → 1 ≤ v → v ≤ 63 → s.sysstate ≠ 4 →
        (s.reg (0x600800 + 16 * v) = 0 ∧ s.reg (0x600808 + 16 * v) ≠ 0)
          ∨ (s.reg (0x600800 + 16 * v) ≠ 0 ∧ s.gangs = [] ∧ ∀ l ∈ s.launches, s.launches = [l]) → ∃ t, exec (.vfFlr v) s = .next t
        ∧ (∀ l, s.launches = [l] → l.below (s.reg (0x600800 + 16 * v)).toNat = true → s.reg (0x600800 + 16 * v) ≠ 0 →
            t.launches = [{ l with status := 6, stopped := true, replay := false, inHeap := false }])
        ∧ ∀ i, i < wfld (s.reg (0x600808 + 16 * v)) 16 12 → t.reg (0x100000 + 8 * ((wfld (s.reg (0x600808 + 16 * v)) 0 12 + i) % 4096)) = 0)
    ∧ (∀ o bs, let pa := wfld (s.reg 0x600038) 32 8 * 2 ^ 32 + o
        o + bs.length ≤ 2 ^ 32 → pa + bs.length ≤ s.devSize → (s.reg 0x60).toNat = s.stackMap → s.devSize ≠ 0 → s.sysstate ≠ 4 →
        (∃ t, exec (.aperture 0 o (some bs)) s = .next t ∧ ∀ j, memByte t.mem j = if pa ≤ j ∧ j < pa + bs.length then bs.getD (j - pa) 0 else memByte s.mem j)
        ∧ exec (.aperture 0 o none) s = .next s)
    ∧ (∀ cl, cl < 24 →
        (∀ set, set < 4 → exec (.clockChange cl set) s = .next { s with clock := tabSet 0 s.clock cl set })
        ∧ exec (.powerThrottle cl) s = .next { s with clock := tabSet 0 s.clock cl (min 3 (tabGet 0 s.clock cl + 1)) }
        ∧ ((∀ j, j < 4 → tabGet 0 s.trips (4 * cl + j) = 0) → exec (.clockRestore cl) s = .next { s with clock := tabSet 0 s.clock cl (tabGet 0 s.clock cl - 1) })
        ∧ (∀ j, j < 4 → tabGet 0 s.trips (4 * cl + j) ≠ 0 → exec (.clockRestore cl) s = .next s))
    ∧ (∀ n, exec (.zoneTripClear n) s = .next { s with trips := tabSet 0 s.trips n 0 })
    ∧ ∀ n, n < 120 →
        (∀ k, k ≤ 2 → zState (s.zone n) = 0 → ∃ t, exec (.zoneTrip n k) s = .next t ∧ (tabGet 0 t.trips n).testBit k = true
          ∧ (n < 96 → tabGet 0 t.clock (n / 4) = min 3 (tabGet 0 s.clock (n / 4) + 1)))
        ∧ (∀ a b : Nat, zState (s.zone n) = 1 → zStep (s.zone n) = a →
            (a = 1 ∧ b = 2) ∨ (a = 2 ∧ b = 3 ∧ s.zoneBusy n = false) ∨ (a = 3 ∧ b = 4) ∨ (a = 5 ∧ b = 6) →
            ∃ t, exec (.evacDrainDone n) s = .next t ∧ zState (t.zone n) = 1 ∧ zStep (t.zone n) = b
              ∧ zSet (t.zone n) = (if a < 3 then zSet (s.zone n) else 0))
        ∧ (zState (s.zone n) = 1 → zStep (s.zone n) = 2 → s.zoneBusy n = true → exec (.evacDrainDone n) s = .next s)
        ∧ (zState (s.zone n) = 1 → zStep (s.zone n) = 4 → ∃ t, exec (.evacValveClosed n) s = .next t ∧ zStep (t.zone n) = 5 ∧ zSet (t.zone n) = 0)
        ∧ (zState (s.zone n) = 1 → zStep (s.zone n) = 6 → (∃ t, exec (.evacDry n) s = .next t ∧ zState (t.zone n) = 2 ∧ zStep (t.zone n) = 7)
            ∧ ∃ t, exec (.evacTimeout n) s = .next t ∧ zState (t.zone n) = 4)
        ∧ (zState (s.zone n) = 3 → (∃ t, exec (.refillComplete n) s = .next t ∧ zState (t.zone n) = 0 ∧ zSet (t.zone n) = zFloor (s.zone n))
            ∧ ∃ t, exec (.refillTimeout n) s = .next t ∧ zState (t.zone n) = 4)

/-- Reliability, links and self-tests (R25, R26, R330, R348, R352, R357 to R361, R384, R389, R391). Where the entry
of a peer's copy goes is log 63, where a wake flit has its value log 102, that partial sums wait for the collective log 105: the model's
readings; the polynomial of crc32c is presumed (log 103). -/
def Obligations.ReliabilityComplete : Prop :=
  ∀ s : State,
    (∀ pa bg, pa < s.devSize → s.poisoned pa = false →
        exec (.uncorrectable (.line pa false bg)) s
          = .next ((s.markLine pa true).sendRec { kind := 2, uclass := 8, inst := s.stackOf pa, die := s.stackOf pa / 4, addr := pa, synd := bg % 64 } none).unblock
        ∧ exec (.uncorrectable (.line pa true bg)) s
          = .next ((s.markLine pa true).sendRec { kind := 2, uclass := 10, inst := s.stackOf pa / 4, die := s.stackOf pa / 4, addr := pa } none).unblock)
    ∧ (∀ core r, core < 384 → r < 2048 → (s.row core r).mark = false → s.launches = [] → ∃ t, exec (.uncorrectable (.row core r)) s = .next t
        ∧ (t.row core r).fault = some bareFault ∧ (t.row core r).mark = true ∧ (t.row core r).bits = (s.row core r).bits)
    ∧ (∀ b core o, core < 384 → (b = 0 ∧ o < 2 ^ 20) ∨ (b = 1 ∧ o < 786432) ∨ (b = 3 ∧ o < 262144) → s.launches = [] →
        ∃ t, exec (.uncorrectable (.buf core b o)) s = .next t ∧ tabGet false t.pbuf (unitKey b (bufKey core o)) = true)
    ∧ (∀ n, 1 ≤ n → n < 32 → s.ctx.live = true → s.launches = [] →
        ∃ t, exec (.uncorrectable (.sreg s.ctx.core s.ctx.cid n)) s = .next t ∧ (t.ctx.sreg n).fault = some bareFault
          ∧ ∀ m, m ≠ n → t.ctx.sreg m = s.ctx.sreg m)
    ∧ (∀ k bg, k < 16 → bg < 64 → wfld (s.reg 0x243000) 0 32 = 0 → ∃ t, exec (.corrected k bg) s = .next t
        ∧ wfld (t.reg (0x240000 + 8 * (64 * k + bg))) 0 32 = (wfld (s.reg (0x240000 + 8 * (64 * k + bg))) 0 32 + 1) % 2 ^ 32)
    ∧ (∀ p l w h, p < 24 → l < 8 → w < 256 → h < 256 → ∃ t, exec (.eyeMargin p l w h) s = .next t
        ∧ wfld (t.reg (0x242000 + 8 * (8 * p + l))) 56 8 = w ∧ wfld (t.reg (0x242000 + 8 * (8 * p + l))) 48 8 = h)
    ∧ (∀ p l f (tr : Word), p < 24 → l < 8 → s.brimUp p = true →
        (crc32c (leBytes 64 f.toNat ++ leBytes 4 tr.toNat) = tr.toNat / 2 ^ 32 → exec (.flitReplay p l ⟨f, tr⟩) s = .next s)
        ∧ (crc32c (leBytes 64 f.toNat ++ leBytes 4 tr.toNat) ≠ tr.toNat / 2 ^ 32 → ∃ t, exec (.flitReplay p l ⟨f, tr⟩) s = .next t
        ∧ wfld (t.reg (0x242000 + 8 * (8 * p + l))) 0 32 = (wfld (s.reg (0x242000 + 8 * (8 * p + l))) 0 32 + 1) % 2 ^ 32
        ∧ (tabGet 0 s.retries p < 7 → tabGet 0 t.retries p = tabGet 0 s.retries p + 1 ∧ t.reg 0x58 = s.reg 0x58)
        ∧ (7 ≤ tabGet 0 s.retries p → tabGet 0 t.retries p = 0 ∧ (t.reg 0x58).getLsbD p = true
          ∧ (t.reg 0x600010).getLsbD (24 + p) = false)))
    ∧ (∀ k, k < 16 → s.devSize ≠ 0 → ∃ t, exec (.stackFence k) s = .next t ∧ (t.reg 0x60).getLsbD k = true)
    ∧ (∀ d e, d < 4 → e < 12 → ∃ t, exec (.treeFence d e) s = .next t ∧ (t.reg 0x50).getLsbD (12 * d + e) = true)
    ∧ (∀ a l, s.launch? a = some l → l.fdfl.testBit 0 = true → l.cpol = 2 → l.stopped = false → s.uncontainedCause a = true → s.gangs = [] → s.shadows = [] →
        ∃ t m, exec (.uncontained a) s = .next t ∧ t.launch? a = some m
          ∧ m = { l with stopped := true, held := [], inHeap := false, replay := l.attempt == 0, status := if l.attempt = 0 then l.status else 7 })
    ∧ (∀ p tx f (tr : Word), p < 24 → s.brimUp p = true →
        let o := 0x210000 + 64 * p
        let d := if tx then o else o + 0x10
        let k := if tx then o + 0x20 else o + 0x28
        let fl := leBytes 64 f.toNat
        let sent := match s.txq.find? (fun x => x.1 == p) with
          | some x => leBytes 64 x.2.toNat
          | none => fl
        let ok := crc32c (fl ++ leBytes 4 tr.toNat) = tr.toNat / 2 ^ 32
        (tx = true ∨ ok → ∃ t, exec (.flitReceive p tx ⟨f, tr⟩) s = .next t ∧ t.reg k = s.reg k + 1
          ∧ t.regBlock d = linkDigest (s.regBlock d) (s.regBlock (o + 0x30)) (if tx then sent else fl) % 2 ^ 128
          ∧ (∀ x, x ≠ k → x ≠ d → x ≠ d + 8 → t.reg x = s.reg x)
          ∧ (tx = false → tabGet 0 t.retries p = 0)
          ∧ (tx = false → s.feat 3 = true → numAt fl 2 1 = wfld (s.reg 0x600030) 0 8 → numAt fl 0 1 = 3 →
              (tabGet 0 t.wake (numAt fl 8 8 / 8 % 4096)).toNat = max (tabGet 0 s.wake (numAt fl 8 8 / 8 % 4096)).toNat (numAt fl 16 8))
          ∧ (tx = false → s.feat 4 = true → numAt fl 0 1 = 4 → numAt fl 8 4 < 1024 → p ∈ s.downPorts (numAt fl 8 4) →
              (tabGet 0 s.collSeq (numAt fl 8 4)) ≤ numAt fl 4 4 → Config.collOwn (numAt fl 8 4) (numAt fl 4 4) = true →
              s.collFlit (numAt fl 8 4) (numAt fl 4 4) (numAt fl 12 4) p = none → t.collRx = s.collRx ++ [(p, f)] ∧ t.mem = s.mem ∧ t.wake = s.wake))
        ∧ (tx = false → ¬ ok → exec (.flitReceive p tx ⟨f, tr⟩) s = .next s))
    ∧ (∀ arr task h k segs, let base := (s.reg 0x211000).toNat
        let at_ := base + 192 * (s.plog % ((s.reg 0x211008).toNat / 192))
        192 ≤ (s.reg 0x211008).toNat → (s.reg 0x60).toNat = s.stackMap →
        ((∀ x ∈ segs, ∀ i, i < x.2 → s.poisoned (x.1 + i) = false) → ∃ t, exec (.peerEntry ⟨arr, task, h, k, segs⟩ none) s = .next t ∧ t.plog = s.plog + 1
          ∧ memRead t.mem at_ 192 = peerRecord arr task h.toNat k.toNat true (segs.flatMap (fun x => memRead s.mem x.1 x.2))
          ∧ ∀ j, j < at_ ∨ at_ + 192 ≤ j → memByte t.mem j = memByte s.mem j)
        ∧ ∀ bs, ∃ t, exec (.peerEntry ⟨arr, task, h, k, segs⟩ (some bs)) s = .next t ∧ t.plog = s.plog + 1
          ∧ memRead t.mem at_ 192 = peerRecord arr task h.toNat k.toNat false bs)
    ∧ ∀ n, n < 384 →
        ((s.reg (atOff n)).getLsbD 1 = true → (s.reg (atOff n)).getLsbD 0 = false → (s.reg (atOff n)).getLsbD 2 = false → s.coreFenced n = false →
          s.idleCore n = true → n ∉ s.resv → tabGet 0 s.testEnd n = 0 → exec (.selfTestStart n) s = .next (s.setBit (atOff n) 0 true))
        ∧ ((s.reg (atOff n)).getLsbD 0 = true → tabGet false s.scans n = false → ∀ u i y,
            (∃ t, exec (.selfTestComplete n true u i y) s = .next t ∧ (t.reg (atOff n)).getLsbD 0 = false ∧ wfld (t.reg (atOff n)) 32 8 = 1
              ∧ wfld (t.reg (atOff n)) 16 16 = (wfld (s.reg (atOff n)) 16 16 + 1) % 2 ^ 16
              ∧ (t.reg (atOff n)).getLsbD 2 = (s.reg (atOff n)).getLsbD 2 ∧ tabGet 0 t.testEnd n = s.tb + 1)
            ∧ (1 ≤ u → u ≤ 7 → i < [0, 1, 3, 1, 2, 2, 1, 4].getD u 0 → ∃ t, exec (.selfTestComplete n false u i y) s = .next t
                ∧ t.coreFenced n = true ∧ wfld (t.reg (atOff n)) 32 8 = 2)
            ∧ (n ∈ s.resv → ∃ t, exec (.selfTestAbandon n) s = .next t ∧ wfld (t.reg (atOff n)) 32 8 = 3
                ∧ wfld (t.reg (atOff n)) 16 16 = wfld (s.reg (atOff n)) 16 16))
        ∧ (tabGet false s.scans n = true → (s.reg (atOff n)).getLsbD 0 = true → ∀ u i y,
            (∃ t, exec (.scanComplete n true u i y) s = .next t ∧ (t.reg (atOff n)).getLsbD 0 = false ∧ (t.reg (atOff n)).getLsbD 2 = false
              ∧ wfld (t.reg (atOff n)) 32 8 = 1 ∧ tabGet false t.scans n = false ∧ tabGet 0 t.testEnd n = tabGet 0 s.testEnd n
              ∧ ∀ r, r < 2048 → t.row n r = {})
            ∧ (1 ≤ u → u ≤ 7 → i < [0, 1, 3, 1, 2, 2, 1, 4].getD u 0 → ∃ t, exec (.scanComplete n false u i y) s = .next t
                ∧ t.coreFenced n = true ∧ wfld (t.reg (atOff n)) 32 8 = 2))
/-- What the contexts wait for (R19, R25, R43, R48, R51, R52, R144, R180, R259, R310, R318, R325): arrivals, page walks, replies, completions of class X, leaf
hashes, the turn that age gives, and the ends of ranks. That a reply with an error leaves an access fault with INFO1 0, of the first address in
host or peer memory, and that every load which waits for a walk takes its outcome, are the model's readings (logs 42 and 26). -/
def Obligations.ContextEventsComplete : Prop :=
  ∀ s : State,
    -- the arrival of a result: the due ones become visible with the last
    (∀ i p, s.ctx.live = true → s.ctx.cid < 8 → s.ctx.dq[i]? = some p →
      ((∃ j q, j ≠ i ∧ s.ctx.dq[j]? = some q ∧ q.rem = 0 ∧ q.arrived = false) →
        ∃ t, exec (.resultArrival (8 * s.ctx.core + s.ctx.cid) i) s = .next t
          ∧ t.ctx = { s.ctx with dq := s.ctx.dq.set i { p with arrived := true }, blocked := none })
      ∧ (s.ctx.dq = [p] → p.rem = 0 → p.pool = none → p.fault = none → p.dest.kind = 0 → p.dest.num ≠ 0 →
        ∃ t, exec (.resultArrival (8 * s.ctx.core + s.ctx.cid) i) s = .next t ∧ t.ctx.dq = []
          ∧ t.ctx.sreg p.dest.num = { val := p.val.truncate 64, valid := true, full := true, fault := none }
          ∧ t.ctx.flags = s.ctx.flags ||| BitVec.ofNat 64 (p.flags.toNat % 64) ∧ ∀ n, n ≠ p.dest.num → t.ctx.sreg n = s.ctx.sreg n))
    -- a walk: its leaf is cached and no load waits for it any more
    ∧ (∀ c i l w, (s.loadsOf c)[i]? = some l → w ∈ s.walks → w.die = l.core / 96 → w.root = l.root → w.page ∈ l.pages →
        (∀ x ∈ s.walks, x.die = w.die → x.root = w.root → x.page ∈ l.pages → x = w) → ∃ t, exec (.pageWalk c i) s = .next t
          ∧ t.walks = s.walks.filter (fun x => !(x.die == w.die && x.root == w.root && x.page == w.page))
          ∧ t.loads = s.loads.map (fun x => if x.core / 96 = w.die ∧ x.root = w.root ∧ w.page ∈ x.pages then
              { x with pages := x.pages.filter (fun p => p != w.page) } else x)
          ∧ (∀ e, w.out = some e → { e with cluster := l.core / 16 } ∈ t.tlb) ∧ (w.out = none → t.tlb = s.tlb))
    -- a reply: not before the walks; then the destination fills, with the value or the fault
    ∧ (∀ c i l, (s.loadsOf c)[i]? = some l → (l.pages ≠ [] → ∀ e, exec (.loadReply c i e) s = .next s)
        ∧ (l.pages = [] → l.discard = true → ∀ e, ∃ t, exec (.loadReply c i e) s = .next t ∧ t.loads = s.loads.erase l ∧ t.ctx.s = s.ctx.s ∧ t.rows = s.rows)
        ∧ (l.pages = [] → l.discard = false → s.ctx.live = true → s.ctx.gang = l.gang → s.ctx.core = l.core → s.ctx.stat = .run →
            (∀ x ∈ s.parked ++ s.saved, x.gang ≠ l.gang ∨ x.core ≠ l.core) →
          (l.dest.kind = 0 → l.dest.num ≠ 0 → ∀ e, ∃ t, exec (.loadReply c i e) s = .next t ∧ t.loads = s.loads.erase l
              ∧ (∀ n, n ≠ l.dest.num → t.ctx.sreg n = s.ctx.sreg n) ∧ (t.ctx.sreg l.dest.num).valid = true ∧ (t.ctx.sreg l.dest.num).full = true
              ∧ (l.fault = none → e = false ∨ l.far = none → (t.ctx.sreg l.dest.num).val = l.val.truncate 64 ∧ (t.ctx.sreg l.dest.num).fault = none)
              ∧ (e = true → ∀ a, l.far = some a → (∀ f, l.fault = some f → f.cause = 0x11) →
                  (t.ctx.sreg l.dest.num).fault = some ⟨0x07, a, 0, 0, l.srcpc, l.srcstep⟩)
              ∧ (∀ f, l.fault = some f → e = false ∨ l.far = none ∨ f.cause ≠ 0x11 → (t.ctx.sreg l.dest.num).fault = some f))
          ∧ (l.dest.kind = 3 → l.dest.num < 2048 → l.fault = none → ∃ t, exec (.loadReply c i false) s = .next t ∧ t.loads = s.loads.erase l
              ∧ (t.row l.core l.dest.num).valid = true ∧ (t.row l.core l.dest.num).full = true
              ∧ (t.row l.core l.dest.num).bits &&& l.msk = l.val &&& l.msk ∧ t.ctx.flags = s.ctx.flags ||| BitVec.ofNat 64 (l.flags.toNat % 64)
              ∧ ∀ r, r < 2048 → r ≠ l.dest.num → t.row l.core r = s.row l.core r)))
    -- an operation of class X completes: its rows, its flags and its leaf, or the fault in its rows
    ∧ (∀ core x, s.nextX core = some x → x.dropped = false → x.m64 = none → (∀ w ∈ x.writes, w.row < 2048) → ∃ t, exec (.xComplete core) s = .next t
        ∧ t.xq = s.xq.erase x
        ∧ (∀ r, r < 2048 → (∀ w ∈ x.writes, w.row ≠ r) → t.row x.core r = s.row x.core r)
        ∧ (x.fail = none → (x.writes.map XWrite.row).Nodup → ∀ w ∈ x.writes, (t.row x.core w.row).valid = true ∧ (t.row x.core w.row).full = true
            ∧ (t.row x.core w.row).bits = ((if (s.row x.core w.row).valid then (s.row x.core w.row).bits else 0) &&& ~~~w.msk) ||| w.bits)
        ∧ (∀ f, x.fail = some f → ∀ w ∈ x.writes, (t.row x.core w.row).fault
            = some (if f.1 = 0x0B then ⟨f.1, 0, f.2, 0, x.pc, x.step⟩ else ⟨f.1, f.2, 0, 0, x.pc, x.step⟩))
        ∧ (s.ctx.live = true → s.ctx.core = x.core → s.ctx.cid = x.cid → t.ctx.flags = s.ctx.flags ||| BitVec.ofNat 64 (x.flags % 64)
            ∧ (trapping x.ftrap x.flags = 0 → x.fail = none → t.ctx.compl = s.ctx.compl))
        ∧ ∀ e ∈ t.leaves, e.arr = x.arr → e.task = x.task → e.rank = x.rank → e.idx = x.lidx → e.record = some x.leaf)
    -- a leaf enters its rank's tree, or stalls the rank where its log has no room for all its entries; with every engine fenced nothing is hashed
    ∧ (∀ c e r k l, s.nextHash c = some (e, r) → s.tree? e.arr e.task e.rank = some k → s.launch? e.arr = some l →
        (s.anyTree = false → exec (.leafHash c) s = .next s)
        ∧ (s.anyTree = true → l.capture = none → s.logWaits l.arr = false →
            let es := leafEntries k e.idx r (k.leaves ++ [leafHashOf r])
            (∀ u, logAll s l.chain false es = some u → ∃ t, exec (.leafHash c) s = .next t
              ∧ t.tree? e.arr e.task e.rank = some { k with leaves := k.leaves ++ [leafHashOf r], stalled := false, next := 0 }
              ∧ (∀ x, x ∈ t.leaves ↔ x ∈ s.leaves ∧ ¬ (x.arr = e.arr ∧ x.task = e.task ∧ x.rank = e.rank ∧ x.idx = e.idx))
              ∧ t.mem = u.mem)
            ∧ (logAll s l.chain false es = none → l.coarsen = false →
              ∃ t v, exec (.leafHash c) s = .next t ∧ t.tree? e.arr e.task e.rank = some { k with stalled := true, next := v } ∧ t.leaves = s.leaves
                ∧ (∀ x, es.head? = some x → s.logPut l.chain false x = none → v = k.next ∧ t.mem = s.mem))))
    -- age: a context that has waited issues next
    ∧ (s.ctx.live = true → s.ctx.cid < 8 → 64 ≤ s.ctx.age → s.ready s.ctx = true → exec (.ageProm (8 * s.ctx.core + s.ctx.cid)) s = .next s)
    ∧ (∀ c, s.parked = [c] → s.ctx.live = true → c.live = true → c.cid < 8 → (c.core ≠ s.ctx.core ∨ c.cid ≠ s.ctx.cid) → 64 ≤ c.age →
        ({ s with ctx := c, parked := [s.ctx] } : State).ready c = true →
        exec (.ageProm (8 * c.core + c.cid)) s = .next { s with ctx := c, parked := [s.ctx] })
    -- a rank that has taken its exit ends, and its task with the last one
    ∧ (∀ l r x, let g := s.ctx.gang
        s.ctx.live = true → s.ctx.cid < 8 → s.ctx.rank < 16 → s.gang? g = some x → x.arr = s.ctx.arr → s.launch? s.ctx.arr = some l → s.ctx.stat = .exited → r = ((List.range 6).map (fun i => (s.ctx.tl i).fails.length)).foldl Nat.add 0 →
        (∀ y ∈ s.ctxs ++ s.saved, y.gang = g → y.active = false) → (∀ y ∈ s.xq, y.gang = g → y.rank ≠ s.ctx.rank) →
        (∀ y ∈ s.engs, y.gang = g → y.rank ≠ s.ctx.rank) → (∀ y ∈ s.loads, y.gang = g → y.core ≠ s.ctx.core) → (∀ p ∈ s.ctx.dq, p.arrived = true) →
        (∀ y ∈ s.leaves, y.arr = s.ctx.arr → y.task = s.ctx.task → y.rank ≠ s.ctx.rank) →
        ∃ t m, exec (.rankEnd (8 * s.ctx.core + s.ctx.cid)) s = .next t ∧ t.ctx.stat = .ended ∧ t.launch? s.ctx.arr = some m ∧ m.faults = l.faults + r ∧ m.fin = s.tb
          ∧ ((∃ y ∈ s.parked ++ s.saved, y.live = true ∧ y.gang = g ∧ y.rank < 16 ∧ y.stat ≠ .ended ∧ ∀ z ∈ s.ctxs ++ s.saved, z.live = true → z.gang = g → z.rank = y.rank → z = y) →
              m.ended = l.ended ∧ m.tasks = l.tasks)
          ∧ ((∀ y ∈ s.parked ++ s.saved, y.gang = g → y.live = true → y.stat = .ended) → m.ended = l.ended + 1 ∧ ∃ h, m.tasks = l.tasks ++ [(x.task, h)]))

/-- The Milliner, the dispatcher and the ends of tasks and launches (R17, R25, R30, R62, R222, R280 to R296, R308, R317, R322, R335, R336, R353,
R374): slots, spills, heartbeats and takeovers; a gang placed, or cores held; budget periods; pre-emption, resumption and the next task; the
completion and the replay of a launch; a pair for the Fuller; the time base. Which cores are reserved (log 47), that the slot of an idle queue
does nothing (log 55), resumption from the context that is kept (log 66), when a heartbeat counts as missed (log 74) and what a replay keeps (log
75) are the model's readings. -/
def Obligations.SchedulingComplete : Prop :=
  ∀ s : State,
    -- a slot: no service; a disabled or failing descriptor; nothing pending; one packet that is neither launch nor management; an admission
    (∀ m q, s.sysstate ≠ 3 ∨ q ∈ s.deadq ∨ (s.millis.getD m {}).loaded = false ∨ (s.millis.getD m {}).stopped = true → exec (.millinerSlot m q) s = .next s)
    ∧ (∀ m q d, s.sysstate = 3 → q < 4096 → m < 7 → (s.millis.getD m {}).loaded = true → (s.millis.getD m {}).stopped = false → q ∉ s.deadq →
        s.binding q ≠ 0xFFFFFFFF → s.binding q % 8 = m → s.qdesc q = some d →
        (d.flags % 2 = 0 → exec (.millinerSlot m q) s = .next s.unblock)
        ∧ (d.flags % 2 = 1 → s.queueSpace d = none → ∃ t, exec (.millinerSlot m q) s = .next t ∧ q ∈ t.deadq)
        ∧ (∀ root, d.flags % 2 = 1 → s.queueSpace d = some root →
          ((tabGet 0 s.wake q).toNat ≤ d.ridx → exec (.millinerSlot m q) s = .next s.unblock)
          ∧ (d.ridx < (tabGet 0 s.wake q).toNat → d.widx = d.ridx + 1 → s.pools = [] → (s.reg 0x60).toNat = s.stackMap →
            ∀ u p, s.useRead root 4 (d.slot d.ridx) 128 = some (u, p) →
              (numAt p 0 1 ≠ 1 → (numAt p 0 1 ≠ 2 ∨ d.flags.testBit 1 = false) → ∃ t, exec (.millinerSlot m q) s = .next t ∧ t.launches = s.launches
                ∧ t.gangs = s.gangs ∧ t.nextArr = s.nextArr ∧ memNat t.mem (d.addr + 0x10) 8 = d.ridx + 1)
              ∧ (∀ ch n k, u.check1 ⟨q, d.qrcb, none, (q, d.ridx)⟩ p = true → u.check2 p = some (ch, n) →
                  u.codeAt (BitVec.ofNat 64 (effR 8 Rcb.ptroot ch)) (pkCode p) = some k → codeFits p k = true → pkNdep p = 0 →
                  (s.launches.filter (fun l => l.inHeap)).length < 256 → u.budgets ch (pkCost p) = true →
                  u.admits (effR 0 Rcb.prio ch) (pkDeadl p) (pkCost p) = true → ∃ t l, exec (.millinerSlot m q) s = .next t
                    ∧ t.launches = s.launches ++ [l] ∧ l.arr = s.nextArr ∧ t.nextArr = s.nextArr + 1 ∧ l.packet = p ∧ l.inHeap = true ∧ l.placed = 0
                    ∧ l.prio = effR 0 Rcb.prio ch ∧ l.code = k ∧ l.chain = n ∧ l.cflags % 2 = 0
                    ∧ memNat t.mem (d.addr + 0x10) 8 = d.ridx + 1))))
    -- a spill
    ∧ (∀ r, r ∉ s.spills → exec (.poolSpill r) s = .next s)
    ∧ (∀ r, r ∈ s.spills → (s.canSpill r = false → exec (.poolSpill r) s = .next { s with spills := s.spills.filter (fun x => x ≠ r) }.unblock)
        ∧ (s.canSpill r = true → ∃ t, exec (.poolSpill r) s = .next t ∧ r ∉ t.spills))
    -- heartbeats, a takeover, the standby
    ∧ (∀ m, m < 7 →
        ((s.millis.getD m {}).loaded = true → (s.millis.getD m {}).stopped = false → ∃ t, exec (.millinerHeartbeat m) s = .next t
          ∧ (t.millis.getD m {}).missed = 0 ∧ (t.millis.getD m {}).beat = true ∧ ∀ k, k < 8 → k ≠ m → t.millis.getD k {} = s.millis.getD k {})
        ∧ ((s.millis.getD m {}).missed < 2 → exec (.millinerTakeover m) s = .next s)
        ∧ (2 ≤ (s.millis.getD m {}).missed → (s.millis.getD m {}).stopped = false → ∃ t, exec (.millinerTakeover m) s = .next t
          ∧ (t.millis.getD m {}).stopped = true ∧ (t.reg 0x50).getLsbD (48 + m) = true
          ∧ ((s.millis.getD 7 {}).loaded = true → (s.millis.getD 7 {}).stopped = false → (s.millis.getD 7 {}).takes = none →
              (t.millis.getD 7 {}).takes = some m ∧ (t.millis.getD 7 {}).serving = false)))
    ∧ ((s.millis.getD 7 {}).takes.isSome = true → (s.millis.getD 7 {}).serving = false → ∃ t, exec .standbyBegin s = .next t
        ∧ (s.tb.toNat % 30720 = 0 → (t.millis.getD 7 {}).serving = true)
        ∧ (s.tb.toNat % 30720 ≠ 0 → (t.millis.getD 7 {}).serving = false ∧ (t.millis.getD 7 {}).due = true)
        ∧ ∀ k, k < 7 → t.millis.getD k {} = s.millis.getD k {})
    -- the dispatcher: nothing while every tree engine is fenced; nothing to place; a gang for the top entry; cores held for it
    ∧ (s.anyTree = false → exec .dispatch s = .next s.unblock)
    ∧ (s.anyTree = true → (∀ l ∈ s.launches, l.inHeap = false) → ∃ t, exec .dispatch s = .next t ∧ t.reserved = [] ∧ t.gangs = s.gangs)
    ∧ (∀ l, s.anyTree = true → s.launches.filter (fun x => x.inHeap) = [l] → s.launch? l.arr = some l → l.fuse = none →
        (∀ cl u, cl < 24 → s.saved = [] → (∀ k, k < cl → (s.seats l [] k).length ≠ pkGW l.packet) → (s.seats l [] cl).length = pkGW l.packet →
          pkGW l.packet ≤ (s.areas l).length → s.chargeOwn l (81920 * pkGW l.packet) = some u →
          ∃ t g, exec .dispatch s = .next t ∧ t.gangs = s.gangs ++ [g] ∧ g.arr = l.arr ∧ g.task = l.nextTask ∧ g.id = s.nextGang ∧ t.nextGang = s.nextGang + 1
            ∧ g.cores.length = pkGW l.packet ∧ (∀ n ∈ g.cores, n / 16 = cl ∧ s.coreOpen l n = true) ∧ t.reserved = []
            ∧ t.launch? l.arr = some { l with placed := l.placed + 1, runq := popCont l.runq, inHeap := decide (l.placed + 1 < l.ntasks) }
            ∧ ∀ r, r < pkGW l.packet → ∃ c ∈ t.ctx :: t.parked, c.live = true ∧ c.gang = g.id ∧ c.rank = r ∧ c.nrank = pkGW l.packet ∧ c.task = l.nextTask
              ∧ g.cores[r]? = some c.core ∧ c.pc = l.code.text + BitVec.ofNat 64 l.code.entry ∧ c.mode = 0x1000 ∧ c.step = 0 ∧ c.stat = .run
              ∧ c.tvec = l.code.trap ∧ c.inh = false ∧ (c.sreg 1).val = BitVec.ofNat 64 (numAt l.packet 0x18 8) ∧ (c.sreg 1).valid = true
              ∧ ∀ i, 2 ≤ i → i < 32 → (c.sreg i).valid = false)
        ∧ ((∀ k, k < 24 → (s.seats l [] k).length ≠ pkGW l.packet) → s.gangs = [] → s.resvFor ≠ l.arr → ∃ t cl, exec .dispatch s = .next t
            ∧ t.gangs = [] ∧ cl < 24 ∧ t.reserved = (List.range 16).map (fun i => 16 * cl + i) ∧ t.resvFor = l.arr
            ∧ ∀ k, k < 24 → (s.seats l [] k).length ≤ (s.seats l [] cl).length))
    -- a budget period ends
    ∧ (∀ a, let p := tabGet 0 s.charged a
        (p = 0 ∨ s.tb.toNat % p ≠ 0 → exec (.budgetReset a) s = .next s)
        ∧ (p ≠ 0 → s.tb.toNat % p = 0 → (s.reg 0x60).toNat = s.stackMap → ∃ t, exec (.budgetReset a) s = .next t ∧ tabGet 0 t.lused a = 0
          ∧ (∀ b, b ≠ a → tabGet 0 t.lused b = tabGet 0 s.lused b)
          ∧ memNat t.mem (a + 0x58) 8
            = (((s.launches.filter (fun l => l.below a && l.capture.isNone)).map Launch.reserved).foldl Nat.add 0) % 2 ^ 64))
    -- pre-emption, resumption, the next task
    ∧ (∀ g x, s.gang? g = some x → x.mate = 0 →
        (∀ d, s.mayPreempt x d = false → exec (.preempt g d) s = .next s)
        ∧ (∀ d u, s.mayPreempt x d = true → x.saved = false → ((s.gangStopped g).quiet g).images x = some u →
          (∀ l, s.launch? x.arr = some l → ∀ b ∈ l.own, b.mb = none) → (∀ y ∈ s.ctxs ++ s.saved, y.gang = g → y.arr = x.arr) →
          (∀ y ∈ s.ctxs, ∀ z ∈ s.ctxs, y.live = true → z.live = true → y.gang = g → z.gang = g → y.rank = z.rank → y = z) → ∃ t h, exec (.preempt g d) s = .next t
            ∧ (∀ c ∈ t.ctx :: t.parked, c.live = true → c.gang ≠ g) ∧ t.gang? g = some h ∧ h.saved = true ∧ (d = true → h.drained = true)
            ∧ h.relock = s.locks.filter (fun k => k.gang == g) ∧ (∀ k ∈ t.locks, k.gang ≠ g)
            ∧ ∀ c ∈ s.members g, ∃ y ∈ t.saved, y.gang = g ∧ y.rank = c.rank ∧ y.pc = c.pc ∧ y.stat = c.stat)
        ∧ (∀ c l, x.saved = true → x.drained = false → s.ctx.live = false → s.parked = [] → s.saved = [c] → c.live = true → c.gang = g → c.rank = 0 →
            c.stat ≠ .ended → s.launch? x.arr = some l → s.heap = [] → s.coreOpen l c.core = true → l.demand ≤ zSet (s.zone (zoneOfCore c.core)) →
            ∃ t h, exec (.gangResume g) s = .next t ∧ t.saved = [] ∧ t.ctx.live = true ∧ t.ctx.gang = g ∧ t.ctx.rank = 0 ∧ t.ctx.core = c.core
              ∧ t.ctx.pc = c.pc ∧ t.ctx.step = c.step ∧ t.ctx.s = c.s ∧ t.ctx.p = c.p ∧ t.ctx.stat = c.stat ∧ t.gang? g = some h ∧ h.saved = false
              ∧ h.cores = [c.core])
        ∧ (x.saved = false → exec (.gangResume g) s = .next s.unblock)
        ∧ (∀ l, s.launch? x.arr = some l → (∀ y ∈ s.ctxs ++ s.saved, y.live = true → y.gang = g → y.stat = .ended) →
          (l.unplaced = 0 → ∃ t, exec (.gangPop g) s = .next t ∧ (∀ y ∈ t.gangs, y.id ≠ g)
            ∧ (∀ y ∈ (t.ctx :: t.parked) ++ t.saved, y.live = true → y.gang ≠ g) ∧ ∀ y ∈ t.loads, y.gang ≠ g)
          ∧ (l.unplaced ≠ 0 → l.stopped = false → x.saved = false → (∀ n ∈ x.cores, s.draining n = false ∧ n ∉ l.banned) →
              (∀ c ∈ s.members g, s.allocFree c = true) → ∃ t h, exec (.gangPop g) s = .next t ∧ t.gang? g = some h ∧ h.task = l.nextTask
                ∧ t.launch? x.arr = some l.takeTask
                ∧ ∀ c ∈ t.ctx :: t.parked, c.live = true → c.gang = g → c.task = l.nextTask ∧ c.stat = .run ∧ c.step = 0 ∧ c.mode = 0x1000
                  ∧ c.pc = l.code.text + BitVec.ofNat 64 l.code.entry)))
    -- the end of a launch, its replay, a pair
    ∧ (∀ a l, s.launch? a = some l →
        (l.capture = none → s.mayEnd l = false → exec (.launchComplete a) s = .next s)
        ∧ (l.capture = none → s.mayEnd l = true → l.fdfl.testBit 0 = false → l.chain < 64 → ∃ t, exec (.launchComplete a) s = .next t
          ∧ (∀ x ∈ t.launches, x.arr ≠ a) ∧ (∀ x ∈ t.trees, x.arr ≠ a) ∧ (∀ x ∈ t.leaves, x.arr ≠ a)
          ∧ t.reg (chainOff l.chain + 0x30) = s.reg (chainOff l.chain + 0x30) + 1 ∧ t.reg (chainOff l.chain + 0x38) = s.tb
          ∧ t.headOf l.chain = sha3V (0x03 :: (hashBytes (s.headOf l.chain) ++ hashBytes l.rootHash ++ hashBytes l.descDigest)))
        ∧ (∀ k, l.capture = some k → s.allEnded l = true → ∃ t, exec (.launchComplete a) s = .next t ∧ ∀ x ∈ t.launches, x.arr ≠ a)
        ∧ (s.mayReplay l = false → exec (.shadowReplay a) s = .next s)
        ∧ (l.replay = true → s.allEnded { l with replay := false } = true → s.heap.length < 256 → ∃ t, exec (.shadowReplay a) s = .next t
          ∧ t.launch? a = some { l with attempt := 1, placed := 0, ended := 0, status := 0, faults := 0, tasks := [], held := [], stopped := false,
                                        replay := false, inHeap := true, runq := [wholeRun l.packet l.code] })
        ∧ (∀ q, s.feat 1 = false ∨ (numAt l.packet 0x32 2).testBit 0 = false ∨ l.placed ≠ 0 ∨ l.inHeap = false → exec (.splicePair a q) s = .next s)
        ∧ (∀ q b u ds v j, s.feat 1 = true → (numAt l.packet 0x32 2).testBit 0 = true → l.placed = 0 → l.inHeap = true → l.fuse = none → l.capture = none →
            s.blockedAt q = some b → b.at_.depsOf b.space b.packet = some (u, ds) → u.depTest b.src b.space 0 ds = (v, [j]) →
            (numAt b.packet 0x32 2).testBit 1 = true → v.sameCounter b.space (ds.getD j []) l = true →
            (∀ x ∈ s.noSplice, ¬ (x.1 = a ∧ x.2.1 = b.src.key)) →
            let c := v.newLaunch b.src b.packet b.chain b.link 0 b.code
            (∀ e, v.refusal l c = e → e ≠ 0 → e < 16 → ∃ t m, exec (.splicePair a q) s = .next t ∧ t.launch? a = some m ∧ m.cflags.testBit 1 = true
              ∧ m.cflags / 16 % 16 = e ∧ m.fuse = none ∧ (a, b.src.key, e) ∈ t.noSplice)
            ∧ (∀ w m p dp dc, v.refusal l c = 0 → a ≠ v.nextArr → v.checks567 b.src b.packet b.chain b.link b.code = some w → w.nextArr = v.nextArr + 1 →
                (b.take w).launch? v.nextArr = some m → (b.take w).launch? a = some p → p.code.splice = some dp → m.code.splice = some dc →
                ∃ t p1 m1 f k, exec (.splicePair a q) s = .next t ∧ t.launch? a = some p1 ∧ t.launch? v.nextArr = some m1 ∧ p1.fuse = some f
                  ∧ m1.fuse = some k ∧ f.origin = 1 ∧ f.mate = v.nextArr ∧ k.origin = 2 ∧ k.mate = a ∧ p1.cflags.testBit 0 = true
                  ∧ m1.cflags.testBit 0 = true)))
    -- the time base
    ∧ ∃ t, exec .tick s = .next t ∧ t.tb = s.tb + 1 ∧ t.launches = s.launches ∧ t.gangs = s.gangs
        ∧ ((s.tb + 1).toNat % 30720 ≠ 0 → t.millis = s.millis)
        ∧ ((s.tb + 1).toNat % 30720 = 0 → t.millis.length = s.millis.length ∧ ∀ (k : Nat) (x : Milli), s.millis[k]? = some x → ∃ y : Milli, t.millis[k]? = some y
          ∧ y.serving = (x.serving || x.due) ∧ y.due = false ∧ y.loaded = x.loaded ∧ y.stopped = x.stopped ∧ y.takes = x.takes
          ∧ (x.loaded = true → x.stopped = false → y.beat = false ∧ y.missed = if x.beat then 0 else x.missed + 1)
          ∧ (x.loaded = false ∨ x.stopped = true → y.beat = x.beat ∧ y.missed = x.missed))

/-- The SPDM responder (R332): each request has its response, which the model keeps as version, code and content (logs 8 and 45). Beside it the
operations that attest a launch (R327 to R329, R331, R400): bisect, sign, capture, the referee and interval signing. The capture run as a launch
(log 67), verdicts 3 and 4 where a leaf failed (log 68) and where a signing interval begins (log 76) are the model's readings. -/
def Obligations.SpdmResponses : Prop :=
  ∀ s : State,
    (∃ t, exec .getVersion s = .next t ∧ t.spdm.out = [0x13, 0x04, 1, 0x00, 0x13] ∧ t.spdm.signed = [])
    ∧ (∃ t, exec .getCapabilities s = .next t ∧ t.spdm.out.take 2 = [0x13, 0x61])
    ∧ (∃ t, exec .negotiateAlgorithms s = .next t ∧ t.spdm.out.take 2 = [0x13, 0x63])
    ∧ (∃ t, exec .getDigests s = .next t ∧ t.spdm.out = [0x13, 0x01] ++ leBytes 48 (Config.sha384 s.slotChain).toNat)
    ∧ (∀ o n, o < s.slotChain.length → ∃ t, exec (.getCertificate 0 o n) s = .next t ∧ t.spdm.out.take 2 = [0x13, 0x02]
        ∧ t.spdm.out.drop 6 = (s.slotChain.drop o).take n)
    ∧ (∀ k o n, k ≠ 0 ∨ s.slotChain.length ≤ o → ∃ t, exec (.getCertificate k o n) s = .next t ∧ t.spdm.out = [0x13, 0x7F, 0x01])
    ∧ (∀ b, ∃ t, exec (.challenge b) s = .next t ∧ t.spdm.out = [0x13, 0x03] ++ leBytes 48 (Config.sha384 s.slotChain).toNat
          ++ sigBytes 384 (Config.rsaSign s.cdi1 t.spdm.signed) ∧ t.spdm.transcript = t.spdm.signed)
    ∧ (∀ k b, 1 ≤ k → k ≤ 15 → ∃ t, exec (.getMeasurements k b) s = .next t ∧ t.spdm.out.take 2 = [0x13, 0x60]
        ∧ (t.spdm.out.drop 6).take 48 = leBytes 48 (s.measurement k).toNat)
    ∧ (∀ k b, k = 0 ∨ (15 < k ∧ k < 128) ∨ (192 ≤ k ∧ k ≠ 255) → ∃ t, exec (.getMeasurements k b) s = .next t ∧ t.spdm.out = [0x13, 0x7F, 0x01])
    ∧ (s.spdm.signed ≠ [] → ∃ t, exec .vendorSlhSig s = .next t ∧ t.spdm.out.drop 2 = sigBytes 35664 (Config.slhSign s.cdi1 s.spdm.signed))
    ∧ (s.spdm.signed = [] → ∃ t, exec .vendorSlhSig s = .next t ∧ t.spdm.out = [0x13, 0x7F, 0x01])
    ∧ (∃ t, exec .vendorSlhCert s = .next t ∧ t.spdm.out.drop 2 = sigBytes (Config.slhCertLen s.cdi0 s.cdi1) (Config.slhCert s.cdi0 s.cdi1))
    ∧ ∀ k, ∃ t, exec (.spdmUnsupported k) s = .next t ∧ t.spdm.out = [0x13, 0x7F, if k = 0xFE then 0x01 else 0x07]
    -- bisect: RES receives the verdict, 3 where an entry is no header, 4 where the headers differ
    ∧ (∀ x y r rcb root pa ea, s.dump = none → s.spaceOf rcb = some root → argPath x = true → argPath y = true → selOf r = 0 → r.toNat % 64 = 0 →
        s.useAddr root r true = some (.dev pa, ea) → pa < 2 ^ 80 → s.shadow? 0 pa = none → (s.reg 0x60).toNat = s.stackMap →
        ∀ u hx w hy, s.useRead root 3 x 128 = some (u, hx) → s.useRead root 3 y 128 = some (w, hy) →
          ∃ t v, exec (.bisect x y r rcb) s = .next t ∧ s.bisect root x y = some v ∧ memRead t.mem pa 64 = v.bytes
            ∧ (numAt hx 0 1 ≠ 1 ∨ numAt hy 0 1 ≠ 1 → v.v = 3)
            ∧ (numAt hx 0 1 = 1 → numAt hy 0 1 = 1 → (hx.drop 0x20).take 64 ≠ (hy.drop 0x20).take 64 → v.v = 4)
            ∧ ∀ j, j < pa ∨ pa + 64 ≤ j → memByte t.mem j = memByte (s.touch ea true).mem j)
    ∧ (∀ x y r rcb, argPath x = false ∨ argPath y = false ∨ selOf r ≠ 0 → exec (.bisect x y r rcb) s = .next s)
    -- sign: the signature block
    ∧ (∀ n r rcb root t, s.spaceOf rcb = some root → n < 64 → argPath r = true →
        s.useWrite root 567 r (s.chainValue n ++ sigBytes 384 (Config.rsaSign s.cdi1 (ascii "LK3-CHAIN" ++ s.chainValue n))
          ++ sigBytes 35664 (Config.slhSign s.cdi1 (ascii "LK3-CHAIN" ++ s.chainValue n)) ++ List.replicate 48 0) = some t →
        exec (.sign n r rcb) s = .next t)
    ∧ (∀ n r rcb, 64 ≤ n ∨ argPath r = false → exec (.sign n r rcb) s = .next s)
    -- capture: a launch of the one task that runs shadowed; none beyond the heap's places
    ∧ (∀ rcb pkt task rank leaf cap size, 256 ≤ (s.launches.filter (fun l => l.inHeap)).length → exec (.capture rcb pkt task rank leaf cap size) s = .next s)
    ∧ (∀ rcb pkt task rank leaf cap size root u p ch co, s.spaceOf rcb = some root → (s.launches.filter (fun l => l.inHeap)).length < 256 →
        argPath (BitVec.ofNat 64 pkt) = true → argPath (BitVec.ofNat 64 cap) = true → s.useRead root 4 (BitVec.ofNat 64 pkt) 128 = some (u, p) →
        u.chain (pkRcb p) = some ch → u.codeAt (BitVec.ofNat 64 (effR 8 Rcb.ptroot ch)) (pkCode p) = some co → numAt p 0 1 = 1 →
        chainOk (pkGW p) ch = true → codeFits p co = true → task < pkTasks p → rank < pkGW p →
        ∃ t l k, exec (.capture rcb pkt task rank leaf cap size) s = .next t ∧ t.launches = s.launches ++ [l] ∧ l.arr = s.nextArr ∧ t.nextArr = s.nextArr + 1
          ∧ l.packet = p ∧ l.inHeap = true ∧ l.fdfl.testBit 0 = true ∧ l.cpol ≠ 2 ∧ l.ntasks = 1 ∧ l.nextTask = task ∧ l.capture = some k
          ∧ k.task = task ∧ k.rank = rank ∧ k.leaf = leaf ∧ k.cap = BitVec.ofNat 64 cap ∧ k.size = size ∧ k.space = root)
    -- the referee: RES receives the verdict, the referee and the DR that it computed
    ∧ (∀ x y cap r w rcb root pa ea n, s.dump = none → s.spaceOf rcb = some root → s.feat 6 = true → argPath x = true → argPath y = true → argPath cap = true →
        argPath r = true → r.toNat % 64 = 0 → s.useAddr root r true = some (.dev pa, ea) → pa < 2 ^ 80 → s.shadow? 0 pa = none →
        (s.reg 0x60).toNat = s.stackMap → (n < 2 ∧ (s.reg 0x50).getLsbD (56 + n) = false ∧ (w = n ∨ (w = 2 ∧ ∀ i, i < n → (s.reg 0x50).getLsbD (56 + i) = true))) →
        ∀ u1 u2 u3 u4 ex ey hd bs, s.useRead root 4 x 192 = some (u1, ex) → s.useRead root 4 y 192 = some (u2, ey) → s.useRead root 5 cap 256 = some (u3, hd) →
          let la := numAt hd 0xA8 4
          let up (k : Nat) : Nat := (k + 63) / 64 * 64
          let lb := numAt hd 0xAC 4
          let lc := numAt hd 0xB0 4
          s.useRead root (pieces (0x100 + up la + up lb + lc)) cap (0x100 + up la + up lb + lc) = some (u4, bs) →
          let da := (bs.drop 0x100).take la
          let db := (bs.drop (0x100 + up la)).take lb
          let dc := (bs.drop (0x100 + up la + up lb)).take lc
          let q := taskKey ((hd.drop 0x80).take 32) (numAt hd 0xA0 4)
          let digs := digest q.1 q.2 da ++ digest q.1 q.2 db ++ digest q.1 q.2 dc
          let fx := ((ex.drop 0x40).take 128 |>.drop 0x30).take 48 = digs
          let fy := ((ey.drop 0x40).take 128 |>.drop 0x30).take 48 = digs
          let bad := (((ex.drop 0x40).take 128).getD 0x1D 0).getLsbD 0 = true ∨ (((ey.drop 0x40).take 128).getD 0x1D 0).getLsbD 0 = true
          ∃ t v dr, exec (.referee x y cap r w rcb) s = .next t ∧ memRead t.mem pa 64 = padTo 64 (padTo 16 (leBytes 1 v ++ leBytes 1 n) ++ dr)
            ∧ (bad → fx → fy → v = 4) ∧ (bad → ¬ (fx ∧ fy) → v = 3)
            ∧ (¬ bad → ¬ fx → ¬ fy → v = 5) ∧ (¬ bad → fx → ¬ fy → v = 6) ∧ (¬ bad → ¬ fx → fy → v = 7)
            ∧ (¬ bad → fx → fy → v ∈ [1, 2, 3, 4, 8]))
    ∧ (∀ x y cap r w rcb, s.feat 6 = false → exec (.referee x y cap r w rcb) s = .next s)
    -- interval signing
    ∧ ∀ n, n < 64 → let o := chainOff n
        let cc := s.reg (o + 0x30)
        let due := s.feat 5 = true ∧ s.reg (o + 0x28) ≠ 0 ∧ (tabGet 0 s.signedAt n).toNat + (s.reg (o + 0x28)).toNat ≤ s.tb.toNat
        (¬ due → exec (.intervalSigning n) s = .next s)
        ∧ (due → cc = tabGet 0 s.lastSign n → exec (.intervalSigning n) s = .next { s with signedAt := tabSet 0 s.signedAt n s.tb })
        ∧ (due → cc ≠ tabGet 0 s.lastSign n → let size := (s.reg (o + 0x10)).toNat
            let wr := (s.reg (o + 0x20)).toNat
            let rd := (s.reg (o + 0x18)).toNat
            (size - (wr - rd) < 36224 + 4096 → ∃ t, exec (.intervalSigning n) s = .next t ∧ t.reg (o + 0x60) = s.reg (o + 0x60) + 1
              ∧ t.reg (o + 0x20) = s.reg (o + 0x20) ∧ tabGet 0 t.signedAt n = s.tb ∧ t.mem = s.mem)
            ∧ (size ≠ 0 → wr % size + 36224 ≤ size → 36224 + 4096 ≤ size - (wr - rd) → (s.reg 0x60).toNat = s.stackMap →
              ∃ t, exec (.intervalSigning n) s = .next t ∧ t.reg (o + 0x20) = BitVec.ofNat 64 (wr + 36224) ∧ tabGet 0 t.lastSign n = cc
                ∧ tabGet 0 t.signedAt n = s.tb
                ∧ memRead t.mem ((s.reg (o + 8)).toNat + wr % size) 36224 = logHead 9 0 0 0 0 0 0 0 ++ s.sigBlock n))
end

