-- ==== Sys2Proof/Laws/Tab.lean ====
section
/-! SUPPORT. The laws of maps and memories: every operation keeps the canonical form, a read after a write gives what was written,
and a write leaves every other address alone. -/

namespace Sys2Proof.Machine

/-- The canonical form as a proposition: keys strictly rising, and no entry equal to the default. -/
theorem tabWf_iff {α : Type} [DecidableEq α] (d : α) (m : Tab α) :
    tabWf d m = true ↔ m.Pairwise (fun x y => x.1 < y.1) ∧ ∀ x ∈ m, x.2 ≠ d := by
  simp [tabWf, List.pairwise_map]

theorem memWf_iff (m : Memory) : memWf m = true ↔ m.Pairwise (fun x y => x.1 < y.1) ∧ ∀ x ∈ m, x.2 ≠ 0 := tabWf_iff 0 m

theorem tabWf_nil {α : Type} [DecidableEq α] (d : α) : tabWf d ([] : Tab α) = true := by simp [tabWf]

theorem memWf_nil : memWf [] = true := tabWf_nil 0

/-- Taking entries out keeps the form. -/
theorem tabWf_filter {α : Type} [DecidableEq α] (d : α) (m : Tab α) (p : Nat × α → Bool) (h : tabWf d m = true) :
    tabWf d (m.filter p) = true := by
  rw [tabWf_iff] at h ⊢
  exact ⟨h.1.filter p, fun x hx => h.2 x (List.mem_of_mem_filter hx)⟩

theorem memClear_wf (m : Memory) (a n : Nat) (h : memWf m = true) : memWf (memClear m a n) = true := tabWf_filter 0 m _ h

theorem cells_zero (a : Nat) (b : Byte) (bs : List Byte) (h : b = 0) : cells a (b :: bs) = cells (a + 1) bs := if_pos h

theorem cells_some (a : Nat) (b : Byte) (bs : List Byte) (h : b ≠ 0) : cells a (b :: bs) = (a, b) :: cells (a + 1) bs := if_neg h

/-- The cells of a byte string lie within it, in rising order, and none is zero. -/
theorem cells_range (bs : List Byte) (a : Nat) : ∀ x ∈ cells a bs, a ≤ x.1 ∧ x.1 < a + bs.length ∧ x.2 ≠ 0 := by
  induction bs generalizing a with
  | nil => simp [cells]
  | cons b bs ih =>
    intro x hx
    by_cases hb : b = 0
    · simp only [cells, hb, if_true] at hx
      have := ih (a + 1) x hx
      simp only [List.length_cons]
      exact ⟨by omega, by omega, this.2.2⟩
    · simp only [cells, hb, if_false, List.mem_cons] at hx
      rcases hx with rfl | hx
      · exact ⟨le_rfl, by simp, hb⟩
      · have := ih (a + 1) x hx
        simp only [List.length_cons]
        exact ⟨by omega, by omega, this.2.2⟩

theorem cells_rising (bs : List Byte) (a : Nat) : (cells a bs).Pairwise (fun x y => x.1 < y.1) := by
  induction bs generalizing a with
  | nil => simp [cells]
  | cons b bs ih =>
    by_cases hb : b = 0
    · simpa [cells, hb] using ih (a + 1)
    · simp only [cells, hb, if_false, List.pairwise_cons]
      exact ⟨fun y hy => by have := cells_range bs (a + 1) y hy; omega, ih (a + 1)⟩

/-- Every write keeps the canonical form. -/
theorem memWrite_wf (m : Memory) (a : Nat) (bs : List Byte) (h : memWf m = true) : memWf (memWrite m a bs) = true := by
  rw [memWf_iff] at h ⊢
  refine ⟨?_, ?_⟩
  · rw [memWrite, List.pairwise_append, List.pairwise_append]
    refine ⟨⟨h.1.filter _, cells_rising bs a, ?_⟩, h.1.filter _, ?_⟩
    · intro x hx y hy
      have h1 := (List.mem_filter.mp hx).2
      have h2 := cells_range bs a y hy
      simp only [decide_eq_true_eq] at h1
      omega
    · intro x hx y hy
      have h2 := (List.mem_filter.mp hy).2
      simp only [decide_eq_true_eq] at h2
      rcases List.mem_append.mp hx with hx | hx
      · have h1 := (List.mem_filter.mp hx).2
        simp only [decide_eq_true_eq] at h1
        omega
      · have h1 := cells_range bs a x hx
        omega
  · intro x hx
    rw [memWrite, List.mem_append, List.mem_append] at hx
    rcases hx with (hx | hx) | hx
    · exact h.2 x (List.mem_of_mem_filter hx)
    · exact (cells_range bs a x hx).2.2
    · exact h.2 x (List.mem_of_mem_filter hx)

/-- Setting a key keeps the canonical form. -/
theorem tabPut_wf {α : Type} [DecidableEq α] (d : α) (m : Tab α) (k : Nat) (o : Option α) (h : tabWf d m = true)
    (ho : ∀ v, o = some v → v ≠ d) : tabWf d (tabPut m k o) = true := by
  rw [tabWf_iff] at h ⊢
  cases o with
  | none =>
    simp only [tabPut, Option.map_none, Option.toList_none, List.append_nil]
    refine ⟨?_, ?_⟩
    · rw [List.pairwise_append]
      refine ⟨h.1.filter _, h.1.filter _, ?_⟩
      intro x hx y hy
      have h1 := (List.mem_filter.mp hx).2
      have h2 := (List.mem_filter.mp hy).2
      simp only [decide_eq_true_eq] at h1 h2
      omega
    · intro x hx
      rcases List.mem_append.mp hx with hx | hx <;> exact h.2 x (List.mem_of_mem_filter hx)
  | some v =>
    simp only [tabPut, Option.map_some, Option.toList_some]
    refine ⟨?_, ?_⟩
    · rw [List.pairwise_append, List.pairwise_append]
      refine ⟨⟨h.1.filter _, List.pairwise_singleton _ _, ?_⟩, h.1.filter _, ?_⟩
      · intro x hx y hy
        have h1 := (List.mem_filter.mp hx).2
        simp only [decide_eq_true_eq] at h1
        simp only [List.mem_singleton] at hy
        subst hy
        exact h1
      · intro x hx y hy
        have h2 := (List.mem_filter.mp hy).2
        simp only [decide_eq_true_eq] at h2
        rcases List.mem_append.mp hx with hx | hx
        · have h1 := (List.mem_filter.mp hx).2
          simp only [decide_eq_true_eq] at h1
          omega
        · simp only [List.mem_singleton] at hx
          subst hx
          exact h2
    · intro x hx
      rcases List.mem_append.mp hx with hx | hx
      · rcases List.mem_append.mp hx with hx | hx
        · exact h.2 x (List.mem_of_mem_filter hx)
        · simp only [List.mem_singleton] at hx
          subst hx
          exact ho v rfl
      · exact h.2 x (List.mem_of_mem_filter hx)

theorem tabSet_wf {α : Type} [DecidableEq α] (d : α) (m : Tab α) (k : Nat) (v : α) (h : tabWf d m = true) :
    tabWf d (tabSet d m k v) = true := by
  refine tabPut_wf d m k _ h ?_
  intro w hw
  split at hw
  · cases hw
  · next hv => cases hw; exact hv

/-! Lookups. -/

theorem tabFind_append {α : Type} (m n : Tab α) (k : Nat) : tabFind (m ++ n) k = (tabFind m k).or (tabFind n k) := by
  induction m with
  | nil => simp [tabFind]
  | cons x t ih =>
    obtain ⟨a, v⟩ := x
    by_cases h : a = k <;> simp [tabFind, h, ih]

/-- A key that no entry has is not found. -/
theorem tabFind_none {α : Type} (m : Tab α) (k : Nat) (h : ∀ x ∈ m, x.1 ≠ k) : tabFind m k = none := by
  induction m with
  | nil => rfl
  | cons x t ih =>
    obtain ⟨a, v⟩ := x
    simp only [tabFind]
    rw [if_neg (h (a, v) (by simp))]
    exact ih (fun y hy => h y (by simp [hy]))

/-- A filter that keeps the entries of a key keeps the lookup. -/
theorem tabFind_filter {α : Type} (m : Tab α) (p : Nat × α → Bool) (k : Nat) (h : ∀ v, p (k, v) = true) :
    tabFind (m.filter p) k = tabFind m k := by
  induction m with
  | nil => rfl
  | cons x t ih =>
    obtain ⟨a, v⟩ := x
    by_cases ha : a = k
    · subst ha; simp [h v, tabFind]
    · by_cases hp : p (a, v) = true
      · simp [hp, tabFind, ha, ih]
      · simp [hp, tabFind, ha, ih]

/-- A filter that drops every entry of a key loses the lookup. -/
theorem tabFind_filter_none {α : Type} (m : Tab α) (p : Nat × α → Bool) (k : Nat) (h : ∀ v, p (k, v) = false) :
    tabFind (m.filter p) k = none := by
  refine tabFind_none _ _ ?_
  intro x hx hk
  obtain ⟨a, v⟩ := x
  simp only at hk
  subst hk
  simpa [h v] using (List.mem_filter.mp hx).2

/-- Reading the key that was set. -/
theorem tabFind_tabPut_same {α : Type} (m : Tab α) (k : Nat) (o : Option α) : tabFind (tabPut m k o) k = o := by
  rw [tabPut, tabFind_append, tabFind_append, tabFind_filter_none _ _ _ (by simp), tabFind_filter_none _ _ _ (by simp)]
  cases o <;> simp [tabFind]

/-- Reading any other key. -/
theorem tabFind_tabPut_other {α : Type} (m : Tab α) (k j : Nat) (o : Option α) (h : j ≠ k) : tabFind (tabPut m k o) j = tabFind m j := by
  rw [tabPut, tabFind_append, tabFind_append]
  have ho : tabFind ((o.map (fun v => (k, v))).toList) j = none := by
    cases o with
    | none => rfl
    | some v => simp [tabFind, Ne.symm h]
  rw [ho]
  rcases Nat.lt_or_gt_of_ne h with hl | hl
  · rw [tabFind_filter _ _ _ (by simp [hl]), tabFind_filter_none _ _ _ (by simp; omega)]
    simp
  · rw [tabFind_filter_none _ _ _ (by simp; omega), tabFind_filter _ _ _ (by simp [hl])]
    simp

@[simp] theorem tabGet_tabSet_same {α : Type} [DecidableEq α] (d : α) (m : Tab α) (k : Nat) (v : α) : tabGet d (tabSet d m k v) k = v := by
  rw [tabGet, tabSet, tabFind_tabPut_same]
  by_cases h : v = d <;> simp [h]

theorem tabGet_tabSet_other {α : Type} [DecidableEq α] (d : α) (m : Tab α) (k j : Nat) (v : α) (h : j ≠ k) :
    tabGet d (tabSet d m k v) j = tabGet d m j := by
  rw [tabGet, tabSet, tabFind_tabPut_other _ _ _ _ h, tabGet]

/-- The cells of a byte string read back as its bytes. -/
theorem tabGet_cells (bs : List Byte) (a i : Nat) (h : i < bs.length) : tabGet 0 (cells a bs) (a + i) = bs.getD i 0 := by
  induction bs generalizing a i with
  | nil => simp at h
  | cons b bs ih =>
    cases i with
    | zero =>
      by_cases hb : b = 0
      · have : tabFind (cells (a + 1) bs) a = none :=
          tabFind_none _ _ (fun x hx => by have := cells_range bs (a + 1) x hx; omega)
        rw [cells_zero a b bs hb]
        simp [tabGet, this, hb]
      · rw [cells_some a b bs hb]
        simp [tabGet, tabFind]
    | succ i =>
      have hi : i < bs.length := by simpa using h
      have := ih (a + 1) i hi
      rw [show a + 1 + i = a + (i + 1) by omega] at this
      by_cases hb : b = 0
      · rw [cells_zero a b bs hb]
        simpa using this
      · rw [cells_some a b bs hb]
        simpa [tabGet, tabFind] using this

/-- A read after a write, inside what was written. -/
theorem memByte_memWrite_in (m : Memory) (a : Nat) (bs : List Byte) (i : Nat) (h : i < bs.length) :
    memByte (memWrite m a bs) (a + i) = bs.getD i 0 := by
  rw [memByte, tabGet, memWrite, tabFind_append, tabFind_append, tabFind_filter_none _ _ _ (by simp),
    tabFind_filter_none _ _ _ (by simp; omega)]
  simpa [tabGet] using tabGet_cells bs a i h

/-- A read after a write, outside what was written. -/
theorem memByte_memWrite_out (m : Memory) (a : Nat) (bs : List Byte) (j : Nat) (h : j < a ∨ a + bs.length ≤ j) :
    memByte (memWrite m a bs) j = memByte m j := by
  have hc : tabFind (cells a bs) j = none :=
    tabFind_none _ _ (fun x hx => by have := cells_range bs a x hx; omega)
  rw [memByte, tabGet, memWrite, tabFind_append, tabFind_append, hc, memByte, tabGet]
  rcases h with h | h
  · rw [tabFind_filter _ _ _ (by simp [h]), tabFind_filter_none _ _ _ (by simp; omega)]
    simp
  · rw [tabFind_filter_none _ _ _ (by simp; omega), tabFind_filter _ _ _ (by simp [h])]
    simp

/-- Reads around a cleared range. -/
theorem memByte_memClear (m : Memory) (a n j : Nat) :
    memByte (memClear m a n) j = if a ≤ j ∧ j < a + n then 0 else memByte m j := by
  by_cases h : a ≤ j ∧ j < a + n
  · rw [if_pos h, memByte, tabGet, memClear, tabFind_filter_none _ _ _ (by simp; omega)]
    rfl
  · rw [if_neg h, memByte, tabGet, memClear, tabFind_filter _ _ _ (by simp; omega), memByte, tabGet]

end Sys2Proof.Machine
end

