-- ==== Sys2Proof/Laws/State.lean ====
section
/-! SUPPORT. The updates that a slot makes, field by field: a result or a completion trap left for the boundary changes `iss` alone. -/

namespace Sys2Proof.Machine

section
variable (s : State) (p : Pend)
@[simp] theorem post_ctx : (s.post p).ctx = s.ctx := rfl
@[simp] theorem post_parked : (s.post p).parked = s.parked := rfl
@[simp] theorem post_saved : (s.post p).saved = s.saved := rfl
@[simp] theorem post_mem : (s.post p).mem = s.mem := rfl
@[simp] theorem post_host : (s.post p).host = s.host := rfl
@[simp] theorem post_peer : (s.post p).peer = s.peer := rfl
@[simp] theorem post_wbuf : (s.post p).wbuf = s.wbuf := rfl
@[simp] theorem post_abuf : (s.post p).abuf = s.abuf := rfl
@[simp] theorem post_sbuf : (s.post p).sbuf = s.sbuf := rfl
@[simp] theorem post_rows : (s.post p).rows = s.rows := rfl
@[simp] theorem post_pline : (s.post p).pline = s.pline := rfl
@[simp] theorem post_pbuf : (s.post p).pbuf = s.pbuf := rfl
@[simp] theorem post_wake : (s.post p).wake = s.wake := rfl
@[simp] theorem post_ctl : (s.post p).ctl = s.ctl := rfl
@[simp] theorem post_tb : (s.post p).tb = s.tb := rfl
@[simp] theorem post_xq : (s.post p).xq = s.xq := rfl
@[simp] theorem post_loads : (s.post p).loads = s.loads := rfl
@[simp] theorem post_engs : (s.post p).engs = s.engs := rfl
@[simp] theorem post_leaves : (s.post p).leaves = s.leaves := rfl
@[simp] theorem post_gangs : (s.post p).gangs = s.gangs := rfl
@[simp] theorem post_launches : (s.post p).launches = s.launches := rfl
@[simp] theorem post_trees : (s.post p).trees = s.trees := rfl
@[simp] theorem post_logq : (s.post p).logq = s.logq := rfl
@[simp] theorem post_shadows : (s.post p).shadows = s.shadows := rfl
@[simp] theorem post_tlb : (s.post p).tlb = s.tlb := rfl
@[simp] theorem post_walks : (s.post p).walks = s.walks := rfl
@[simp] theorem post_tlbq : (s.post p).tlbq = s.tlbq := rfl
@[simp] theorem post_locks : (s.post p).locks = s.locks := rfl
@[simp] theorem post_stackMap : (s.post p).stackMap = s.stackMap := rfl
@[simp] theorem post_registry : (s.post p).registry = s.registry := rfl
@[simp] theorem post_inputs : (s.post p).inputs = s.inputs := rfl
@[simp] theorem post_since : (s.post p).since = s.since := rfl
@[simp] theorem post_turn : (s.post p).turn = s.turn := rfl
@[simp] theorem post_free : (s.post p).free = s.free := rfl
end

section
variable (s : State) (n l : Nat) (v : Word)
@[simp] theorem postS_ctx : (s.postS n l v).ctx = s.ctx := rfl
@[simp] theorem postS_parked : (s.postS n l v).parked = s.parked := rfl
@[simp] theorem postS_saved : (s.postS n l v).saved = s.saved := rfl
@[simp] theorem postS_mem : (s.postS n l v).mem = s.mem := rfl
@[simp] theorem postS_host : (s.postS n l v).host = s.host := rfl
@[simp] theorem postS_peer : (s.postS n l v).peer = s.peer := rfl
@[simp] theorem postS_wbuf : (s.postS n l v).wbuf = s.wbuf := rfl
@[simp] theorem postS_abuf : (s.postS n l v).abuf = s.abuf := rfl
@[simp] theorem postS_sbuf : (s.postS n l v).sbuf = s.sbuf := rfl
@[simp] theorem postS_rows : (s.postS n l v).rows = s.rows := rfl
@[simp] theorem postS_pline : (s.postS n l v).pline = s.pline := rfl
@[simp] theorem postS_pbuf : (s.postS n l v).pbuf = s.pbuf := rfl
@[simp] theorem postS_wake : (s.postS n l v).wake = s.wake := rfl
@[simp] theorem postS_ctl : (s.postS n l v).ctl = s.ctl := rfl
@[simp] theorem postS_tb : (s.postS n l v).tb = s.tb := rfl
@[simp] theorem postS_xq : (s.postS n l v).xq = s.xq := rfl
@[simp] theorem postS_loads : (s.postS n l v).loads = s.loads := rfl
@[simp] theorem postS_engs : (s.postS n l v).engs = s.engs := rfl
@[simp] theorem postS_leaves : (s.postS n l v).leaves = s.leaves := rfl
@[simp] theorem postS_gangs : (s.postS n l v).gangs = s.gangs := rfl
@[simp] theorem postS_launches : (s.postS n l v).launches = s.launches := rfl
@[simp] theorem postS_trees : (s.postS n l v).trees = s.trees := rfl
@[simp] theorem postS_logq : (s.postS n l v).logq = s.logq := rfl
@[simp] theorem postS_shadows : (s.postS n l v).shadows = s.shadows := rfl
@[simp] theorem postS_tlb : (s.postS n l v).tlb = s.tlb := rfl
@[simp] theorem postS_walks : (s.postS n l v).walks = s.walks := rfl
@[simp] theorem postS_tlbq : (s.postS n l v).tlbq = s.tlbq := rfl
@[simp] theorem postS_locks : (s.postS n l v).locks = s.locks := rfl
@[simp] theorem postS_stackMap : (s.postS n l v).stackMap = s.stackMap := rfl
@[simp] theorem postS_registry : (s.postS n l v).registry = s.registry := rfl
@[simp] theorem postS_inputs : (s.postS n l v).inputs = s.inputs := rfl
@[simp] theorem postS_since : (s.postS n l v).since = s.since := rfl
@[simp] theorem postS_turn : (s.postS n l v).turn = s.turn := rfl
@[simp] theorem postS_free : (s.postS n l v).free = s.free := rfl
end

section
variable (s : State) (n l : Nat) (v : Bool)
@[simp] theorem postP_ctx : (s.postP n l v).ctx = s.ctx := rfl
@[simp] theorem postP_parked : (s.postP n l v).parked = s.parked := rfl
@[simp] theorem postP_saved : (s.postP n l v).saved = s.saved := rfl
@[simp] theorem postP_mem : (s.postP n l v).mem = s.mem := rfl
@[simp] theorem postP_host : (s.postP n l v).host = s.host := rfl
@[simp] theorem postP_peer : (s.postP n l v).peer = s.peer := rfl
@[simp] theorem postP_wbuf : (s.postP n l v).wbuf = s.wbuf := rfl
@[simp] theorem postP_abuf : (s.postP n l v).abuf = s.abuf := rfl
@[simp] theorem postP_sbuf : (s.postP n l v).sbuf = s.sbuf := rfl
@[simp] theorem postP_rows : (s.postP n l v).rows = s.rows := rfl
@[simp] theorem postP_pline : (s.postP n l v).pline = s.pline := rfl
@[simp] theorem postP_pbuf : (s.postP n l v).pbuf = s.pbuf := rfl
@[simp] theorem postP_wake : (s.postP n l v).wake = s.wake := rfl
@[simp] theorem postP_ctl : (s.postP n l v).ctl = s.ctl := rfl
@[simp] theorem postP_tb : (s.postP n l v).tb = s.tb := rfl
@[simp] theorem postP_xq : (s.postP n l v).xq = s.xq := rfl
@[simp] theorem postP_loads : (s.postP n l v).loads = s.loads := rfl
@[simp] theorem postP_engs : (s.postP n l v).engs = s.engs := rfl
@[simp] theorem postP_leaves : (s.postP n l v).leaves = s.leaves := rfl
@[simp] theorem postP_gangs : (s.postP n l v).gangs = s.gangs := rfl
@[simp] theorem postP_launches : (s.postP n l v).launches = s.launches := rfl
@[simp] theorem postP_trees : (s.postP n l v).trees = s.trees := rfl
@[simp] theorem postP_logq : (s.postP n l v).logq = s.logq := rfl
@[simp] theorem postP_shadows : (s.postP n l v).shadows = s.shadows := rfl
@[simp] theorem postP_tlb : (s.postP n l v).tlb = s.tlb := rfl
@[simp] theorem postP_walks : (s.postP n l v).walks = s.walks := rfl
@[simp] theorem postP_tlbq : (s.postP n l v).tlbq = s.tlbq := rfl
@[simp] theorem postP_locks : (s.postP n l v).locks = s.locks := rfl
@[simp] theorem postP_stackMap : (s.postP n l v).stackMap = s.stackMap := rfl
@[simp] theorem postP_registry : (s.postP n l v).registry = s.registry := rfl
@[simp] theorem postP_inputs : (s.postP n l v).inputs = s.inputs := rfl
@[simp] theorem postP_since : (s.postP n l v).since = s.since := rfl
@[simp] theorem postP_turn : (s.postP n l v).turn = s.turn := rfl
@[simp] theorem postP_free : (s.postP n l v).free = s.free := rfl
end

section
variable (s : State) (n l : Nat) (v : Mask) (f : Nat)
@[simp] theorem postM_ctx : (s.postM n l v f).ctx = s.ctx := rfl
@[simp] theorem postM_parked : (s.postM n l v f).parked = s.parked := rfl
@[simp] theorem postM_saved : (s.postM n l v f).saved = s.saved := rfl
@[simp] theorem postM_mem : (s.postM n l v f).mem = s.mem := rfl
@[simp] theorem postM_host : (s.postM n l v f).host = s.host := rfl
@[simp] theorem postM_peer : (s.postM n l v f).peer = s.peer := rfl
@[simp] theorem postM_wbuf : (s.postM n l v f).wbuf = s.wbuf := rfl
@[simp] theorem postM_abuf : (s.postM n l v f).abuf = s.abuf := rfl
@[simp] theorem postM_sbuf : (s.postM n l v f).sbuf = s.sbuf := rfl
@[simp] theorem postM_rows : (s.postM n l v f).rows = s.rows := rfl
@[simp] theorem postM_pline : (s.postM n l v f).pline = s.pline := rfl
@[simp] theorem postM_pbuf : (s.postM n l v f).pbuf = s.pbuf := rfl
@[simp] theorem postM_wake : (s.postM n l v f).wake = s.wake := rfl
@[simp] theorem postM_ctl : (s.postM n l v f).ctl = s.ctl := rfl
@[simp] theorem postM_tb : (s.postM n l v f).tb = s.tb := rfl
@[simp] theorem postM_xq : (s.postM n l v f).xq = s.xq := rfl
@[simp] theorem postM_loads : (s.postM n l v f).loads = s.loads := rfl
@[simp] theorem postM_engs : (s.postM n l v f).engs = s.engs := rfl
@[simp] theorem postM_leaves : (s.postM n l v f).leaves = s.leaves := rfl
@[simp] theorem postM_gangs : (s.postM n l v f).gangs = s.gangs := rfl
@[simp] theorem postM_launches : (s.postM n l v f).launches = s.launches := rfl
@[simp] theorem postM_trees : (s.postM n l v f).trees = s.trees := rfl
@[simp] theorem postM_logq : (s.postM n l v f).logq = s.logq := rfl
@[simp] theorem postM_shadows : (s.postM n l v f).shadows = s.shadows := rfl
@[simp] theorem postM_tlb : (s.postM n l v f).tlb = s.tlb := rfl
@[simp] theorem postM_walks : (s.postM n l v f).walks = s.walks := rfl
@[simp] theorem postM_tlbq : (s.postM n l v f).tlbq = s.tlbq := rfl
@[simp] theorem postM_locks : (s.postM n l v f).locks = s.locks := rfl
@[simp] theorem postM_stackMap : (s.postM n l v f).stackMap = s.stackMap := rfl
@[simp] theorem postM_registry : (s.postM n l v f).registry = s.registry := rfl
@[simp] theorem postM_inputs : (s.postM n l v f).inputs = s.inputs := rfl
@[simp] theorem postM_since : (s.postM n l v f).since = s.since := rfl
@[simp] theorem postM_turn : (s.postM n l v f).turn = s.turn := rfl
@[simp] theorem postM_free : (s.postM n l v f).free = s.free := rfl
end

section
variable (s : State) (r l : Nat) (v m : Row) (f : Nat)
@[simp] theorem postRow_ctx : (s.postRow r l v m f).ctx = s.ctx := rfl
@[simp] theorem postRow_parked : (s.postRow r l v m f).parked = s.parked := rfl
@[simp] theorem postRow_saved : (s.postRow r l v m f).saved = s.saved := rfl
@[simp] theorem postRow_mem : (s.postRow r l v m f).mem = s.mem := rfl
@[simp] theorem postRow_host : (s.postRow r l v m f).host = s.host := rfl
@[simp] theorem postRow_peer : (s.postRow r l v m f).peer = s.peer := rfl
@[simp] theorem postRow_wbuf : (s.postRow r l v m f).wbuf = s.wbuf := rfl
@[simp] theorem postRow_abuf : (s.postRow r l v m f).abuf = s.abuf := rfl
@[simp] theorem postRow_sbuf : (s.postRow r l v m f).sbuf = s.sbuf := rfl
@[simp] theorem postRow_rows : (s.postRow r l v m f).rows = s.rows := rfl
@[simp] theorem postRow_pline : (s.postRow r l v m f).pline = s.pline := rfl
@[simp] theorem postRow_pbuf : (s.postRow r l v m f).pbuf = s.pbuf := rfl
@[simp] theorem postRow_wake : (s.postRow r l v m f).wake = s.wake := rfl
@[simp] theorem postRow_ctl : (s.postRow r l v m f).ctl = s.ctl := rfl
@[simp] theorem postRow_tb : (s.postRow r l v m f).tb = s.tb := rfl
@[simp] theorem postRow_xq : (s.postRow r l v m f).xq = s.xq := rfl
@[simp] theorem postRow_loads : (s.postRow r l v m f).loads = s.loads := rfl
@[simp] theorem postRow_engs : (s.postRow r l v m f).engs = s.engs := rfl
@[simp] theorem postRow_leaves : (s.postRow r l v m f).leaves = s.leaves := rfl
@[simp] theorem postRow_gangs : (s.postRow r l v m f).gangs = s.gangs := rfl
@[simp] theorem postRow_launches : (s.postRow r l v m f).launches = s.launches := rfl
@[simp] theorem postRow_trees : (s.postRow r l v m f).trees = s.trees := rfl
@[simp] theorem postRow_logq : (s.postRow r l v m f).logq = s.logq := rfl
@[simp] theorem postRow_shadows : (s.postRow r l v m f).shadows = s.shadows := rfl
@[simp] theorem postRow_tlb : (s.postRow r l v m f).tlb = s.tlb := rfl
@[simp] theorem postRow_walks : (s.postRow r l v m f).walks = s.walks := rfl
@[simp] theorem postRow_tlbq : (s.postRow r l v m f).tlbq = s.tlbq := rfl
@[simp] theorem postRow_locks : (s.postRow r l v m f).locks = s.locks := rfl
@[simp] theorem postRow_stackMap : (s.postRow r l v m f).stackMap = s.stackMap := rfl
@[simp] theorem postRow_registry : (s.postRow r l v m f).registry = s.registry := rfl
@[simp] theorem postRow_inputs : (s.postRow r l v m f).inputs = s.inputs := rfl
@[simp] theorem postRow_since : (s.postRow r l v m f).since = s.since := rfl
@[simp] theorem postRow_turn : (s.postRow r l v m f).turn = s.turn := rfl
@[simp] theorem postRow_free : (s.postRow r l v m f).free = s.free := rfl
end

section
variable (s : State) (n : BitVec 6) (l : Nat) (v m : Row) (f : Nat)
@[simp] theorem postV_ctx : (s.postV n l v m f).ctx = s.ctx := rfl
@[simp] theorem postV_parked : (s.postV n l v m f).parked = s.parked := rfl
@[simp] theorem postV_saved : (s.postV n l v m f).saved = s.saved := rfl
@[simp] theorem postV_mem : (s.postV n l v m f).mem = s.mem := rfl
@[simp] theorem postV_host : (s.postV n l v m f).host = s.host := rfl
@[simp] theorem postV_peer : (s.postV n l v m f).peer = s.peer := rfl
@[simp] theorem postV_wbuf : (s.postV n l v m f).wbuf = s.wbuf := rfl
@[simp] theorem postV_abuf : (s.postV n l v m f).abuf = s.abuf := rfl
@[simp] theorem postV_sbuf : (s.postV n l v m f).sbuf = s.sbuf := rfl
@[simp] theorem postV_rows : (s.postV n l v m f).rows = s.rows := rfl
@[simp] theorem postV_pline : (s.postV n l v m f).pline = s.pline := rfl
@[simp] theorem postV_pbuf : (s.postV n l v m f).pbuf = s.pbuf := rfl
@[simp] theorem postV_wake : (s.postV n l v m f).wake = s.wake := rfl
@[simp] theorem postV_ctl : (s.postV n l v m f).ctl = s.ctl := rfl
@[simp] theorem postV_tb : (s.postV n l v m f).tb = s.tb := rfl
@[simp] theorem postV_xq : (s.postV n l v m f).xq = s.xq := rfl
@[simp] theorem postV_loads : (s.postV n l v m f).loads = s.loads := rfl
@[simp] theorem postV_engs : (s.postV n l v m f).engs = s.engs := rfl
@[simp] theorem postV_leaves : (s.postV n l v m f).leaves = s.leaves := rfl
@[simp] theorem postV_gangs : (s.postV n l v m f).gangs = s.gangs := rfl
@[simp] theorem postV_launches : (s.postV n l v m f).launches = s.launches := rfl
@[simp] theorem postV_trees : (s.postV n l v m f).trees = s.trees := rfl
@[simp] theorem postV_logq : (s.postV n l v m f).logq = s.logq := rfl
@[simp] theorem postV_shadows : (s.postV n l v m f).shadows = s.shadows := rfl
@[simp] theorem postV_tlb : (s.postV n l v m f).tlb = s.tlb := rfl
@[simp] theorem postV_walks : (s.postV n l v m f).walks = s.walks := rfl
@[simp] theorem postV_tlbq : (s.postV n l v m f).tlbq = s.tlbq := rfl
@[simp] theorem postV_locks : (s.postV n l v m f).locks = s.locks := rfl
@[simp] theorem postV_stackMap : (s.postV n l v m f).stackMap = s.stackMap := rfl
@[simp] theorem postV_registry : (s.postV n l v m f).registry = s.registry := rfl
@[simp] theorem postV_inputs : (s.postV n l v m f).inputs = s.inputs := rfl
@[simp] theorem postV_since : (s.postV n l v m f).since = s.since := rfl
@[simp] theorem postV_turn : (s.postV n l v m f).turn = s.turn := rfl
@[simp] theorem postV_free : (s.postV n l v m f).free = s.free := rfl
end

section
variable (s : State) (n l : Nat) (v : Word)
@[simp] theorem postX_ctx : (s.postX n l v).ctx = s.ctx := rfl
@[simp] theorem postX_parked : (s.postX n l v).parked = s.parked := rfl
@[simp] theorem postX_saved : (s.postX n l v).saved = s.saved := rfl
@[simp] theorem postX_mem : (s.postX n l v).mem = s.mem := rfl
@[simp] theorem postX_host : (s.postX n l v).host = s.host := rfl
@[simp] theorem postX_peer : (s.postX n l v).peer = s.peer := rfl
@[simp] theorem postX_wbuf : (s.postX n l v).wbuf = s.wbuf := rfl
@[simp] theorem postX_abuf : (s.postX n l v).abuf = s.abuf := rfl
@[simp] theorem postX_sbuf : (s.postX n l v).sbuf = s.sbuf := rfl
@[simp] theorem postX_rows : (s.postX n l v).rows = s.rows := rfl
@[simp] theorem postX_pline : (s.postX n l v).pline = s.pline := rfl
@[simp] theorem postX_pbuf : (s.postX n l v).pbuf = s.pbuf := rfl
@[simp] theorem postX_wake : (s.postX n l v).wake = s.wake := rfl
@[simp] theorem postX_ctl : (s.postX n l v).ctl = s.ctl := rfl
@[simp] theorem postX_tb : (s.postX n l v).tb = s.tb := rfl
@[simp] theorem postX_xq : (s.postX n l v).xq = s.xq := rfl
@[simp] theorem postX_loads : (s.postX n l v).loads = s.loads := rfl
@[simp] theorem postX_engs : (s.postX n l v).engs = s.engs := rfl
@[simp] theorem postX_leaves : (s.postX n l v).leaves = s.leaves := rfl
@[simp] theorem postX_gangs : (s.postX n l v).gangs = s.gangs := rfl
@[simp] theorem postX_launches : (s.postX n l v).launches = s.launches := rfl
@[simp] theorem postX_trees : (s.postX n l v).trees = s.trees := rfl
@[simp] theorem postX_logq : (s.postX n l v).logq = s.logq := rfl
@[simp] theorem postX_shadows : (s.postX n l v).shadows = s.shadows := rfl
@[simp] theorem postX_tlb : (s.postX n l v).tlb = s.tlb := rfl
@[simp] theorem postX_walks : (s.postX n l v).walks = s.walks := rfl
@[simp] theorem postX_tlbq : (s.postX n l v).tlbq = s.tlbq := rfl
@[simp] theorem postX_locks : (s.postX n l v).locks = s.locks := rfl
@[simp] theorem postX_stackMap : (s.postX n l v).stackMap = s.stackMap := rfl
@[simp] theorem postX_registry : (s.postX n l v).registry = s.registry := rfl
@[simp] theorem postX_inputs : (s.postX n l v).inputs = s.inputs := rfl
@[simp] theorem postX_since : (s.postX n l v).since = s.since := rfl
@[simp] theorem postX_turn : (s.postX n l v).turn = s.turn := rfl
@[simp] theorem postX_free : (s.postX n l v).free = s.free := rfl
end

section
variable (s : State) (n : Nat) (v : Word)
@[simp] theorem postLast_ctx : (s.postLast n v).ctx = s.ctx := rfl
@[simp] theorem postLast_parked : (s.postLast n v).parked = s.parked := rfl
@[simp] theorem postLast_saved : (s.postLast n v).saved = s.saved := rfl
@[simp] theorem postLast_mem : (s.postLast n v).mem = s.mem := rfl
@[simp] theorem postLast_host : (s.postLast n v).host = s.host := rfl
@[simp] theorem postLast_peer : (s.postLast n v).peer = s.peer := rfl
@[simp] theorem postLast_wbuf : (s.postLast n v).wbuf = s.wbuf := rfl
@[simp] theorem postLast_abuf : (s.postLast n v).abuf = s.abuf := rfl
@[simp] theorem postLast_sbuf : (s.postLast n v).sbuf = s.sbuf := rfl
@[simp] theorem postLast_rows : (s.postLast n v).rows = s.rows := rfl
@[simp] theorem postLast_pline : (s.postLast n v).pline = s.pline := rfl
@[simp] theorem postLast_pbuf : (s.postLast n v).pbuf = s.pbuf := rfl
@[simp] theorem postLast_wake : (s.postLast n v).wake = s.wake := rfl
@[simp] theorem postLast_ctl : (s.postLast n v).ctl = s.ctl := rfl
@[simp] theorem postLast_tb : (s.postLast n v).tb = s.tb := rfl
@[simp] theorem postLast_xq : (s.postLast n v).xq = s.xq := rfl
@[simp] theorem postLast_loads : (s.postLast n v).loads = s.loads := rfl
@[simp] theorem postLast_engs : (s.postLast n v).engs = s.engs := rfl
@[simp] theorem postLast_leaves : (s.postLast n v).leaves = s.leaves := rfl
@[simp] theorem postLast_gangs : (s.postLast n v).gangs = s.gangs := rfl
@[simp] theorem postLast_launches : (s.postLast n v).launches = s.launches := rfl
@[simp] theorem postLast_trees : (s.postLast n v).trees = s.trees := rfl
@[simp] theorem postLast_logq : (s.postLast n v).logq = s.logq := rfl
@[simp] theorem postLast_shadows : (s.postLast n v).shadows = s.shadows := rfl
@[simp] theorem postLast_tlb : (s.postLast n v).tlb = s.tlb := rfl
@[simp] theorem postLast_walks : (s.postLast n v).walks = s.walks := rfl
@[simp] theorem postLast_tlbq : (s.postLast n v).tlbq = s.tlbq := rfl
@[simp] theorem postLast_locks : (s.postLast n v).locks = s.locks := rfl
@[simp] theorem postLast_stackMap : (s.postLast n v).stackMap = s.stackMap := rfl
@[simp] theorem postLast_registry : (s.postLast n v).registry = s.registry := rfl
@[simp] theorem postLast_inputs : (s.postLast n v).inputs = s.inputs := rfl
@[simp] theorem postLast_since : (s.postLast n v).since = s.since := rfl
@[simp] theorem postLast_turn : (s.postLast n v).turn = s.turn := rfl
@[simp] theorem postLast_free : (s.postLast n v).free = s.free := rfl
end

section
variable (s : State) (f : Nat)
@[simp] theorem postF_ctx : (s.postF f).ctx = s.ctx := rfl
@[simp] theorem postF_parked : (s.postF f).parked = s.parked := rfl
@[simp] theorem postF_saved : (s.postF f).saved = s.saved := rfl
@[simp] theorem postF_mem : (s.postF f).mem = s.mem := rfl
@[simp] theorem postF_host : (s.postF f).host = s.host := rfl
@[simp] theorem postF_peer : (s.postF f).peer = s.peer := rfl
@[simp] theorem postF_wbuf : (s.postF f).wbuf = s.wbuf := rfl
@[simp] theorem postF_abuf : (s.postF f).abuf = s.abuf := rfl
@[simp] theorem postF_sbuf : (s.postF f).sbuf = s.sbuf := rfl
@[simp] theorem postF_rows : (s.postF f).rows = s.rows := rfl
@[simp] theorem postF_pline : (s.postF f).pline = s.pline := rfl
@[simp] theorem postF_pbuf : (s.postF f).pbuf = s.pbuf := rfl
@[simp] theorem postF_wake : (s.postF f).wake = s.wake := rfl
@[simp] theorem postF_ctl : (s.postF f).ctl = s.ctl := rfl
@[simp] theorem postF_tb : (s.postF f).tb = s.tb := rfl
@[simp] theorem postF_xq : (s.postF f).xq = s.xq := rfl
@[simp] theorem postF_loads : (s.postF f).loads = s.loads := rfl
@[simp] theorem postF_engs : (s.postF f).engs = s.engs := rfl
@[simp] theorem postF_leaves : (s.postF f).leaves = s.leaves := rfl
@[simp] theorem postF_gangs : (s.postF f).gangs = s.gangs := rfl
@[simp] theorem postF_launches : (s.postF f).launches = s.launches := rfl
@[simp] theorem postF_trees : (s.postF f).trees = s.trees := rfl
@[simp] theorem postF_logq : (s.postF f).logq = s.logq := rfl
@[simp] theorem postF_shadows : (s.postF f).shadows = s.shadows := rfl
@[simp] theorem postF_tlb : (s.postF f).tlb = s.tlb := rfl
@[simp] theorem postF_walks : (s.postF f).walks = s.walks := rfl
@[simp] theorem postF_tlbq : (s.postF f).tlbq = s.tlbq := rfl
@[simp] theorem postF_locks : (s.postF f).locks = s.locks := rfl
@[simp] theorem postF_stackMap : (s.postF f).stackMap = s.stackMap := rfl
@[simp] theorem postF_registry : (s.postF f).registry = s.registry := rfl
@[simp] theorem postF_inputs : (s.postF f).inputs = s.inputs := rfl
@[simp] theorem postF_since : (s.postF f).since = s.since := rfl
@[simp] theorem postF_turn : (s.postF f).turn = s.turn := rfl
@[simp] theorem postF_free : (s.postF f).free = s.free := rfl
end

section
variable (s : State) (d : BitVec 6) (l w : Nat) (rs : List (Option FR))
@[simp] theorem postLanes_ctx : (s.postLanes d l w rs).ctx = s.ctx := rfl
@[simp] theorem postLanes_parked : (s.postLanes d l w rs).parked = s.parked := rfl
@[simp] theorem postLanes_saved : (s.postLanes d l w rs).saved = s.saved := rfl
@[simp] theorem postLanes_mem : (s.postLanes d l w rs).mem = s.mem := rfl
@[simp] theorem postLanes_host : (s.postLanes d l w rs).host = s.host := rfl
@[simp] theorem postLanes_peer : (s.postLanes d l w rs).peer = s.peer := rfl
@[simp] theorem postLanes_wbuf : (s.postLanes d l w rs).wbuf = s.wbuf := rfl
@[simp] theorem postLanes_abuf : (s.postLanes d l w rs).abuf = s.abuf := rfl
@[simp] theorem postLanes_sbuf : (s.postLanes d l w rs).sbuf = s.sbuf := rfl
@[simp] theorem postLanes_rows : (s.postLanes d l w rs).rows = s.rows := rfl
@[simp] theorem postLanes_pline : (s.postLanes d l w rs).pline = s.pline := rfl
@[simp] theorem postLanes_pbuf : (s.postLanes d l w rs).pbuf = s.pbuf := rfl
@[simp] theorem postLanes_wake : (s.postLanes d l w rs).wake = s.wake := rfl
@[simp] theorem postLanes_ctl : (s.postLanes d l w rs).ctl = s.ctl := rfl
@[simp] theorem postLanes_tb : (s.postLanes d l w rs).tb = s.tb := rfl
@[simp] theorem postLanes_xq : (s.postLanes d l w rs).xq = s.xq := rfl
@[simp] theorem postLanes_loads : (s.postLanes d l w rs).loads = s.loads := rfl
@[simp] theorem postLanes_engs : (s.postLanes d l w rs).engs = s.engs := rfl
@[simp] theorem postLanes_leaves : (s.postLanes d l w rs).leaves = s.leaves := rfl
@[simp] theorem postLanes_gangs : (s.postLanes d l w rs).gangs = s.gangs := rfl
@[simp] theorem postLanes_launches : (s.postLanes d l w rs).launches = s.launches := rfl
@[simp] theorem postLanes_trees : (s.postLanes d l w rs).trees = s.trees := rfl
@[simp] theorem postLanes_logq : (s.postLanes d l w rs).logq = s.logq := rfl
@[simp] theorem postLanes_shadows : (s.postLanes d l w rs).shadows = s.shadows := rfl
@[simp] theorem postLanes_tlb : (s.postLanes d l w rs).tlb = s.tlb := rfl
@[simp] theorem postLanes_walks : (s.postLanes d l w rs).walks = s.walks := rfl
@[simp] theorem postLanes_tlbq : (s.postLanes d l w rs).tlbq = s.tlbq := rfl
@[simp] theorem postLanes_locks : (s.postLanes d l w rs).locks = s.locks := rfl
@[simp] theorem postLanes_stackMap : (s.postLanes d l w rs).stackMap = s.stackMap := rfl
@[simp] theorem postLanes_registry : (s.postLanes d l w rs).registry = s.registry := rfl
@[simp] theorem postLanes_inputs : (s.postLanes d l w rs).inputs = s.inputs := rfl
@[simp] theorem postLanes_since : (s.postLanes d l w rs).since = s.since := rfl
@[simp] theorem postLanes_turn : (s.postLanes d l w rs).turn = s.turn := rfl
@[simp] theorem postLanes_free : (s.postLanes d l w rs).free = s.free := rfl
end

section
variable (s : State) (t : Trap)
@[simp] theorem complTrap_ctx : (s.complTrap t).ctx = s.ctx := rfl
@[simp] theorem complTrap_parked : (s.complTrap t).parked = s.parked := rfl
@[simp] theorem complTrap_saved : (s.complTrap t).saved = s.saved := rfl
@[simp] theorem complTrap_mem : (s.complTrap t).mem = s.mem := rfl
@[simp] theorem complTrap_host : (s.complTrap t).host = s.host := rfl
@[simp] theorem complTrap_peer : (s.complTrap t).peer = s.peer := rfl
@[simp] theorem complTrap_wbuf : (s.complTrap t).wbuf = s.wbuf := rfl
@[simp] theorem complTrap_abuf : (s.complTrap t).abuf = s.abuf := rfl
@[simp] theorem complTrap_sbuf : (s.complTrap t).sbuf = s.sbuf := rfl
@[simp] theorem complTrap_rows : (s.complTrap t).rows = s.rows := rfl
@[simp] theorem complTrap_pline : (s.complTrap t).pline = s.pline := rfl
@[simp] theorem complTrap_pbuf : (s.complTrap t).pbuf = s.pbuf := rfl
@[simp] theorem complTrap_wake : (s.complTrap t).wake = s.wake := rfl
@[simp] theorem complTrap_ctl : (s.complTrap t).ctl = s.ctl := rfl
@[simp] theorem complTrap_tb : (s.complTrap t).tb = s.tb := rfl
@[simp] theorem complTrap_xq : (s.complTrap t).xq = s.xq := rfl
@[simp] theorem complTrap_loads : (s.complTrap t).loads = s.loads := rfl
@[simp] theorem complTrap_engs : (s.complTrap t).engs = s.engs := rfl
@[simp] theorem complTrap_leaves : (s.complTrap t).leaves = s.leaves := rfl
@[simp] theorem complTrap_gangs : (s.complTrap t).gangs = s.gangs := rfl
@[simp] theorem complTrap_launches : (s.complTrap t).launches = s.launches := rfl
@[simp] theorem complTrap_trees : (s.complTrap t).trees = s.trees := rfl
@[simp] theorem complTrap_logq : (s.complTrap t).logq = s.logq := rfl
@[simp] theorem complTrap_shadows : (s.complTrap t).shadows = s.shadows := rfl
@[simp] theorem complTrap_tlb : (s.complTrap t).tlb = s.tlb := rfl
@[simp] theorem complTrap_walks : (s.complTrap t).walks = s.walks := rfl
@[simp] theorem complTrap_tlbq : (s.complTrap t).tlbq = s.tlbq := rfl
@[simp] theorem complTrap_locks : (s.complTrap t).locks = s.locks := rfl
@[simp] theorem complTrap_stackMap : (s.complTrap t).stackMap = s.stackMap := rfl
@[simp] theorem complTrap_registry : (s.complTrap t).registry = s.registry := rfl
@[simp] theorem complTrap_inputs : (s.complTrap t).inputs = s.inputs := rfl
@[simp] theorem complTrap_since : (s.complTrap t).since = s.since := rfl
@[simp] theorem complTrap_turn : (s.complTrap t).turn = s.turn := rfl
@[simp] theorem complTrap_free : (s.complTrap t).free = s.free := rfl
end

/-! Leaves, rows and contexts. -/

section
variable (s : State)
@[simp] theorem takeLeaf_ctx : s.takeLeaf.ctx = s.ctx := rfl
@[simp] theorem takeLeaf_parked : s.takeLeaf.parked = s.parked := rfl
@[simp] theorem takeLeaf_saved : s.takeLeaf.saved = s.saved := rfl
@[simp] theorem takeLeaf_mem : s.takeLeaf.mem = s.mem := rfl
@[simp] theorem takeLeaf_host : s.takeLeaf.host = s.host := rfl
@[simp] theorem takeLeaf_peer : s.takeLeaf.peer = s.peer := rfl
@[simp] theorem takeLeaf_wbuf : s.takeLeaf.wbuf = s.wbuf := rfl
@[simp] theorem takeLeaf_abuf : s.takeLeaf.abuf = s.abuf := rfl
@[simp] theorem takeLeaf_sbuf : s.takeLeaf.sbuf = s.sbuf := rfl
@[simp] theorem takeLeaf_rows : s.takeLeaf.rows = s.rows := rfl
@[simp] theorem takeLeaf_pline : s.takeLeaf.pline = s.pline := rfl
@[simp] theorem takeLeaf_pbuf : s.takeLeaf.pbuf = s.pbuf := rfl
@[simp] theorem takeLeaf_wake : s.takeLeaf.wake = s.wake := rfl
@[simp] theorem takeLeaf_ctl : s.takeLeaf.ctl = s.ctl := rfl
@[simp] theorem takeLeaf_tb : s.takeLeaf.tb = s.tb := rfl
@[simp] theorem takeLeaf_xq : s.takeLeaf.xq = s.xq := rfl
@[simp] theorem takeLeaf_loads : s.takeLeaf.loads = s.loads := rfl
@[simp] theorem takeLeaf_engs : s.takeLeaf.engs = s.engs := rfl
@[simp] theorem takeLeaf_gangs : s.takeLeaf.gangs = s.gangs := rfl
@[simp] theorem takeLeaf_launches : s.takeLeaf.launches = s.launches := rfl
@[simp] theorem takeLeaf_trees : s.takeLeaf.trees = s.trees := rfl
@[simp] theorem takeLeaf_logq : s.takeLeaf.logq = s.logq := rfl
@[simp] theorem takeLeaf_shadows : s.takeLeaf.shadows = s.shadows := rfl
@[simp] theorem takeLeaf_tlb : s.takeLeaf.tlb = s.tlb := rfl
@[simp] theorem takeLeaf_walks : s.takeLeaf.walks = s.walks := rfl
@[simp] theorem takeLeaf_tlbq : s.takeLeaf.tlbq = s.tlbq := rfl
@[simp] theorem takeLeaf_locks : s.takeLeaf.locks = s.locks := rfl
@[simp] theorem takeLeaf_stackMap : s.takeLeaf.stackMap = s.stackMap := rfl
@[simp] theorem takeLeaf_registry : s.takeLeaf.registry = s.registry := rfl
@[simp] theorem takeLeaf_inputs : s.takeLeaf.inputs = s.inputs := rfl
@[simp] theorem takeLeaf_since : s.takeLeaf.since = s.since := rfl
@[simp] theorem takeLeaf_turn : s.takeLeaf.turn = s.turn := rfl
@[simp] theorem takeLeaf_free : s.takeLeaf.free = s.free := rfl
end

section
variable (s : State) (core r : Nat) (z : ZRow)
@[simp] theorem setRow_ctx : (s.setRow core r z).ctx = s.ctx := rfl
@[simp] theorem setRow_parked : (s.setRow core r z).parked = s.parked := rfl
@[simp] theorem setRow_saved : (s.setRow core r z).saved = s.saved := rfl
@[simp] theorem setRow_mem : (s.setRow core r z).mem = s.mem := rfl
@[simp] theorem setRow_host : (s.setRow core r z).host = s.host := rfl
@[simp] theorem setRow_peer : (s.setRow core r z).peer = s.peer := rfl
@[simp] theorem setRow_wbuf : (s.setRow core r z).wbuf = s.wbuf := rfl
@[simp] theorem setRow_abuf : (s.setRow core r z).abuf = s.abuf := rfl
@[simp] theorem setRow_sbuf : (s.setRow core r z).sbuf = s.sbuf := rfl
@[simp] theorem setRow_pline : (s.setRow core r z).pline = s.pline := rfl
@[simp] theorem setRow_pbuf : (s.setRow core r z).pbuf = s.pbuf := rfl
@[simp] theorem setRow_wake : (s.setRow core r z).wake = s.wake := rfl
@[simp] theorem setRow_ctl : (s.setRow core r z).ctl = s.ctl := rfl
@[simp] theorem setRow_tb : (s.setRow core r z).tb = s.tb := rfl
@[simp] theorem setRow_xq : (s.setRow core r z).xq = s.xq := rfl
@[simp] theorem setRow_loads : (s.setRow core r z).loads = s.loads := rfl
@[simp] theorem setRow_engs : (s.setRow core r z).engs = s.engs := rfl
@[simp] theorem setRow_leaves : (s.setRow core r z).leaves = s.leaves := rfl
@[simp] theorem setRow_gangs : (s.setRow core r z).gangs = s.gangs := rfl
@[simp] theorem setRow_launches : (s.setRow core r z).launches = s.launches := rfl
@[simp] theorem setRow_trees : (s.setRow core r z).trees = s.trees := rfl
@[simp] theorem setRow_logq : (s.setRow core r z).logq = s.logq := rfl
@[simp] theorem setRow_shadows : (s.setRow core r z).shadows = s.shadows := rfl
@[simp] theorem setRow_tlb : (s.setRow core r z).tlb = s.tlb := rfl
@[simp] theorem setRow_walks : (s.setRow core r z).walks = s.walks := rfl
@[simp] theorem setRow_tlbq : (s.setRow core r z).tlbq = s.tlbq := rfl
@[simp] theorem setRow_locks : (s.setRow core r z).locks = s.locks := rfl
@[simp] theorem setRow_stackMap : (s.setRow core r z).stackMap = s.stackMap := rfl
@[simp] theorem setRow_registry : (s.setRow core r z).registry = s.registry := rfl
@[simp] theorem setRow_inputs : (s.setRow core r z).inputs = s.inputs := rfl
@[simp] theorem setRow_since : (s.setRow core r z).since = s.since := rfl
@[simp] theorem setRow_turn : (s.setRow core r z).turn = s.turn := rfl
@[simp] theorem setRow_free : (s.setRow core r z).free = s.free := rfl
@[simp] theorem setRow_iss : (s.setRow core r z).iss = s.iss := rfl
end

/-! What a result leaves in `iss`. -/

theorem post_out (s : State) (p : Pend) : (s.post p).iss.out = s.iss.out ++ [(s.iss.ord, p)] := rfl
@[simp] theorem post_hold (s : State) (p : Pend) : (s.post p).iss.hold = s.iss.hold := rfl
@[simp] theorem post_traps (s : State) (p : Pend) : (s.post p).iss.traps = s.iss.traps := rfl
@[simp] theorem post_taken (s : State) (p : Pend) : (s.post p).iss.taken = s.iss.taken := rfl
@[simp] theorem post_ord (s : State) (p : Pend) : (s.post p).iss.ord = s.iss.ord := rfl

/-- A row reads back as it was set, and the other rows stay. -/
@[simp] theorem row_setRow_same (s : State) (core r : Nat) (z : ZRow) : (s.setRow core r z).row core r = z := tabGet_tabSet_same _ _ _ _

theorem row_setRow_other (s : State) (core r c q : Nat) (z : ZRow) (h : rowKey c q ≠ rowKey core r) :
    (s.setRow core r z).row c q = s.row c q := tabGet_tabSet_other _ _ _ _ _ h

/-- s0 reads zero, valid and full, whatever is written (R50, R53). -/
@[simp] theorem sreg_zero (c : Ctx) : c.sreg 0 = { valid := true } := rfl
@[simp] theorem setS_zero (c : Ctx) (r : SReg) : c.setS 0 r = c := rfl

theorem sreg_setS_same (c : Ctx) (n : Nat) (r : SReg) (h : n ≠ 0) : (c.setS n r).sreg n = r := by
  simp [Ctx.sreg, Ctx.setS, h]

theorem sreg_setS_other (c : Ctx) (n m : Nat) (r : SReg) (h : m ≠ n) : (c.setS n r).sreg m = c.sreg m := by
  by_cases hm : m = 0
  · simp [Ctx.sreg, hm]
  · by_cases hn : n = 0
    · simp [hn]
    · simp [Ctx.sreg, Ctx.setS, hm, hn, tabGet_tabSet_other _ _ _ _ _ h]

/-- p0 reads 1 and m0 all ones, whatever is written. -/
@[simp] theorem preg_zero (c : Ctx) : c.preg 0 = ⟨true, true⟩ := rfl
@[simp] theorem setP_zero (c : Ctx) (r : PReg) : c.setP 0 r = c := rfl
@[simp] theorem mreg_zero (c : Ctx) : c.mreg 0 = ⟨BitVec.allOnes 512, true⟩ := rfl
@[simp] theorem setM_zero (c : Ctx) (r : MReg) : c.setM 0 r = c := rfl

theorem preg_setP_same (c : Ctx) (n : Nat) (r : PReg) (h : n ≠ 0) : (c.setP n r).preg n = r := by
  simp [Ctx.preg, Ctx.setP, h]

theorem preg_setP_other (c : Ctx) (n m : Nat) (r : PReg) (h : m ≠ n) : (c.setP n r).preg m = c.preg m := by
  by_cases hm : m = 0
  · simp [Ctx.preg, hm]
  · by_cases hn : n = 0
    · simp [hn]
    · simp [Ctx.preg, Ctx.setP, hm, hn, tabGet_tabSet_other _ _ _ _ _ h]

theorem mreg_setM_same (c : Ctx) (n : Nat) (r : MReg) (h : n ≠ 0) : (c.setM n r).mreg n = r := by
  simp [Ctx.mreg, Ctx.setM, h]

theorem mreg_setM_other (c : Ctx) (n m : Nat) (r : MReg) (h : m ≠ n) : (c.setM n r).mreg m = c.mreg m := by
  by_cases hm : m = 0
  · simp [Ctx.mreg, hm]
  · by_cases hn : n = 0
    · simp [hn]
    · simp [Ctx.mreg, Ctx.setM, hm, hn, tabGet_tabSet_other _ _ _ _ _ h]

end Sys2Proof.Machine
end

