-- ==== Sys2Proof/Laws/Ops.lean ====
section
/-! SUPPORT. The shared operations of the slots: what a slot's outcome is, when its readings go through, and what its forms leave. -/

namespace Sys2Proof.Machine

/-- A slot never stops the machine (R39, R126). -/
theorem finish_next (s : State) (r : SlotR State) : ∃ t, finish s r = .next t := by
  rcases r with (_ | _) | _ <;> exact ⟨_, rfl⟩

@[simp] theorem finish_ok (s t : State) : finish s (.ok t) = .next t := rfl
@[simp] theorem finish_pure (s t : State) : finish s (pure t) = .next t := rfl

/-- A slot that does not go through changes `iss` alone. -/
theorem finish_error (s : State) (e : Stop) : ∃ i, finish s (.error e) = .next { s with iss := i } := by
  cases e <;> exact ⟨_, rfl⟩

/-- What a slot's outcome is: its effects, or nothing outside `iss`. -/
theorem finish_cases (s t : State) (r : SlotR State) (h : finish s r = .next t) : r = .ok t ∨ ∃ i, t = { s with iss := i } := by
  cases r with
  | ok u => left; simp only [finish_ok, Host.Outcome.next.injEq] at h; rw [h]
  | error e =>
    right
    obtain ⟨i, hi⟩ := finish_error s e
    exact ⟨i, by rw [hi, Host.Outcome.next.injEq] at h; exact h.symm⟩

@[simp] theorem ok_bind {α β : Type} (x : α) (f : α → SlotR β) : ((Except.ok x : SlotR α) >>= f) = f x := rfl
@[simp] theorem error_bind {α β : Type} (e : Stop) (f : α → SlotR β) : ((Except.error e : SlotR α) >>= f) = .error e := rfl

/-- A sequence of readings goes through where each does. -/
theorem bind_ok {α β : Type} (r : SlotR α) (f : α → SlotR β) (y : β) (h : (r >>= f) = .ok y) : ∃ x, r = .ok x ∧ f x = .ok y := by
  cases r with
  | ok x => exact ⟨x, rfl, h⟩
  | error e => simp at h

@[simp] theorem both_ok {α β : Type} (x : α) (y : β) : both (.ok x) (.ok y) = .ok (x, y) := rfl

theorem both_eq_ok {α β : Type} (a : SlotR α) (b : SlotR β) (p : α × β) (h : both a b = .ok p) : a = .ok p.1 ∧ b = .ok p.2 := by
  rcases a with (_ | _) | _ <;> rcases b with (_ | _) | _ <;> simp [both] at h
  subst h
  exact ⟨rfl, rfl⟩

/-- A hold of either reading holds the bundle, whatever the other gives (R39). -/
theorem both_hold_right {α β : Type} (a : SlotR α) (h : Hold) : ∃ k, both a (.error (.hold h) : SlotR β) = .error (.hold k) := by
  rcases a with (_ | _) | _ <;> exact ⟨_, rfl⟩

@[simp] theorem need_true (t : Trap) : need true t = .ok () := rfl
@[simp] theorem need_false (t : Trap) : need false t = .error (.trap t) := rfl
@[simp] theorem await_true (h : Hold) : await true h = .ok () := rfl
@[simp] theorem await_false (h : Hold) : await false h = .error (.hold h) := rfl

/-! Reading registers. -/

/-- A readable register is full, holds no fault and is valid (R50 to R52). -/
theorem readBits_ok {α : Type} (v x : α) (valid full pol : Bool) (f : Option DFault) (info : Word)
    (h : readBits v valid full pol f info = .ok x) : x = v ∧ valid = true ∧ full = true ∧ f = none := by
  cases full <;> cases pol <;> cases f <;> cases valid <;> simp_all [readBits, trapS]

@[simp] theorem rdSn_zero (s : State) (pol : Bool) : s.rdSn 0 pol = .ok 0 := rfl
@[simp] theorem dstS_zero (s : State) : s.dstS 0 = .ok () := rfl

/-- A three-register form on readable operands (R127). -/
theorem binS_ok (s : State) (d : BitVec 5) (a : BitVec 6) (b : BOp) (g : Nat) (f : Word → Word → Word) (x y : Word)
    (ha : s.rdS a = .ok x) (hb : s.bop b = .ok y) (hd : s.dstS d.toNat = .ok ()) :
    binS s d a b g f = .next (s.postS d.toNat (s.ctx.latOf g) (f x y)) := by
  simp [binS, ha, hb, hd]

/-- A write of the device changes device memory and the marks of its lines, and nothing else. -/
theorem devPutGo_frame (n : Nat) (s : State) (pa : Nat) (bs : List Byte) : { State.devPutGo n s pa bs with mem := s.mem } = s := by
  induction n generalizing s pa bs with
  | zero => rfl
  | succ n ih =>
    unfold State.devPutGo
    simp only
    split
    · exact ih s _ _
    · exact congrArg (fun t : State => { t with mem := s.mem }) (ih { s with mem := memWrite s.mem pa (bs.take (2048 - pa % 2048)) } _ _)

theorem devPutGo_wf (n : Nat) (s : State) (pa : Nat) (bs : List Byte) (h : memWf s.mem = true) : memWf (State.devPutGo n s pa bs).mem = true := by
  induction n generalizing s pa bs with
  | zero => exact h
  | succ n ih =>
    unfold State.devPutGo
    simp only
    split
    · exact ih s _ _ h
    · exact ih _ _ _ (memWrite_wf _ _ _ h)
theorem devPut_frame (s : State) (pa : Nat) (bs : List Byte) : { s.devPut pa bs with mem := s.mem, pline := s.pline } = s :=
  congrArg (fun t : State => { t with pline := s.pline }) (devPutGo_frame (bs.length / 2048 + 2) s pa bs)

/-- It keeps the memory in its canonical form. -/
theorem devPut_wf (s : State) (pa : Nat) (bs : List Byte) (h : memWf s.mem = true) : memWf (s.devPut pa bs).mem = true :=
  devPutGo_wf _ s pa bs h

end Sys2Proof.Machine
end

