-- ==== Sys2Proof/Laws/Boundary.lean ====
section
/-! SUPPORT. What the operations of a bundle boundary, of a frame of the Milliners and of pre-emption can do. -/

namespace Sys2Proof.Machine

/-! Rows as they stood before a bundle's raw stores (R45). -/

theorem rowBefore_fresh (s : State) (r : Nat) (h : s.iss.before = []) : s.rowBefore r = s.row s.ctx.core r := by
  simp [State.rowBefore, h]

/-- Keeping a row for later slots changes `iss` alone. -/
theorem keepRow_iss (s : State) (r : Nat) : ∃ i, s.keepRow r = { s with iss := i } := by
  unfold State.keepRow
  split
  · exact ⟨s.iss, rfl⟩
  · exact ⟨_, rfl⟩

/-! Results that become visible (R45, R342). -/

/-- A context without a port region stands as it is. -/
theorem fixRegion_none (s : State) (c : Ctx) (h : c.fz.region = none) : s.fixRegion c = c := by
  simp [State.fixRegion, h]

/-- A port region moves nothing of its context but itself. -/
theorem fixRegion_frame (s : State) (c : Ctx) : ∃ r, s.fixRegion c = { c with fz := { c.fz with region := r } } := by
  unfold State.fixRegion
  split
  · exact ⟨_, rfl⟩
  · exact ⟨c.fz.region, rfl⟩

/-- Results that are no special registers move no port region. -/
theorem windowsMoved_other (s : State) (ps : List Pend) (h : ∀ p ∈ ps, p.dest.kind ≠ 4) : s.windowsMoved ps = s := by
  have hn : ps.any (fun p => p.dest.kind == 4 && 0x102 ≤ p.dest.num && p.dest.num ≤ 0x104) = false := by
    rw [List.any_eq_false]
    intro p hp
    simp [h p hp]
  simp [State.windowsMoved, hn]

/-- While a due result has not arrived, none becomes visible (R48). -/
theorem settle_late (s : State) (h : s.ctx.late = true) : s.settle = s := by
  unfold State.settle
  rw [if_neg]
  obtain ⟨p, hp, hq⟩ := List.any_eq_true.mp h
  simp only [Bool.and_eq_true, Bool.not_eq_true'] at hq
  intro ha
  have := List.all_eq_true.mp ha p (List.mem_filter.mpr ⟨hp, hq.1⟩)
  rw [hq.2] at this
  exact absurd this (by decide)

/-! Frames of the Milliners (R285). -/

@[simp] theorem frame_loaded (x : Milli) : x.frame.loaded = x.loaded := by unfold Milli.frame; grind
@[simp] theorem frame_stopped (x : Milli) : x.frame.stopped = x.stopped := by unfold Milli.frame; grind
@[simp] theorem frame_takes (x : Milli) : x.frame.takes = x.takes := by unfold Milli.frame; grind
@[simp] theorem frame_due (x : Milli) : x.frame.due = false := by unfold Milli.frame; grind
@[simp] theorem frame_serving (x : Milli) : x.frame.serving = (x.serving || x.due) := by unfold Milli.frame; grind

/-! The gang that makes way (R308). -/

/-- Whoever makes way was among the victims. -/
theorem mem_dropIdle (fits : List Gang → Bool) (ks gs : List Gang) (g : Gang) (h : g ∈ dropIdle fits ks gs) : g ∈ ks ∨ g ∈ gs := by
  induction gs generalizing ks with
  | nil => exact .inl h
  | cons x xs ih =>
    unfold dropIdle at h
    split at h
    · rcases ih ks h with h | h
      · exact .inl h
      · exact .inr (.tail _ h)
    · rcases ih (x :: ks) h with h | h
      · rcases List.mem_cons.mp h with rfl | h
        · exact .inr (.head _)
        · exact .inl h
      · exact .inr (.tail _ h)

end Sys2Proof.Machine
end

