-- ==== Sys2Proof/Laws/Lanes.lean ====
section
/-! SUPPORT. The laws of lanes: how rows and masks of lane values read back, and what the shared lane operations leave. -/

namespace Sys2Proof.Machine

/-! Numbers laid side by side. -/

theorem packW_lt (w : Nat) (xs : List Nat) : packW w xs < 2 ^ (w * xs.length) := by
  induction xs with
  | nil => simp [packW]
  | cons x xs ih =>
    have h1 : x % 2 ^ w < 2 ^ w := Nat.mod_lt _ (by positivity)
    have h2 : 2 ^ (w * (x :: xs).length) = 2 ^ w * 2 ^ (w * xs.length) := by
      rw [List.length_cons, Nat.mul_succ, Nat.add_comm, Nat.pow_add]
    rw [packW, h2]
    calc x % 2 ^ w + 2 ^ w * packW w xs < 2 ^ w + 2 ^ w * packW w xs := by omega
      _ = 2 ^ w * (packW w xs + 1) := by ring
      _ ≤ 2 ^ w * 2 ^ (w * xs.length) := Nat.mul_le_mul_left _ ih

/-- Number i of a packing. -/
theorem packW_get (w : Nat) (xs : List Nat) (i : Nat) : packW w xs / 2 ^ (w * i) % 2 ^ w = xs.getD i 0 % 2 ^ w := by
  induction xs generalizing i with
  | nil => simp [packW]
  | cons x xs ih =>
    have hp : 0 < 2 ^ w := by positivity
    cases i with
    | zero => simp [packW]
    | succ i =>
      have h1 : x % 2 ^ w / 2 ^ w = 0 := Nat.div_eq_of_lt (Nat.mod_lt _ hp)
      have h2 : 2 ^ (w * (i + 1)) = 2 ^ w * 2 ^ (w * i) := by rw [Nat.mul_succ, Nat.add_comm, Nat.pow_add]
      rw [packW, h2, ← Nat.div_div_eq_div_mul, Nat.add_mul_div_left _ _ hp, h1, Nat.zero_add, ih i]
      rfl

theorem laneAt_lt (w : Nat) (r : Row) (i : Nat) : laneAt w r i < 2 ^ w := Nat.mod_lt _ (by positivity)

/-- Lane i of packed lane values. -/
theorem laneAt_packRow (w : Nat) (xs : List Nat) (i : Nat) (h : w * xs.length ≤ 4608) :
    laneAt w (packRow w xs) i = xs.getD i 0 % 2 ^ w := by
  have hlt : packW w xs < 2 ^ 4608 := lt_of_lt_of_le (packW_lt w xs) (Nat.pow_le_pow_right (by norm_num) h)
  rw [laneAt, packRow, BitVec.toNat_ofNat, Nat.mod_eq_of_lt hlt, packW_get]

theorem lanes_length (w : Nat) (r : Row) : (lanes w r).length = 4608 / w := by simp [lanes]

theorem lanes_get (w : Nat) (r : Row) (i : Nat) (h : i < 4608 / w) : (lanes w r)[i]? = some (laneAt w r i) := by
  simp [lanes, h, laneAt]

theorem lanes_getD (w : Nat) (r : Row) (i : Nat) (h : i < 4608 / w) : (lanes w r).getD i 0 = laneAt w r i := by
  rw [List.getD_eq_getElem?_getD, lanes_get w r i h, Option.getD_some]

theorem actives_length (w : Nat) (m : Mask) : (actives w m).length = 4608 / w := by simp [actives]

theorem actives_get (w : Nat) (m : Mask) (i : Nat) (h : i < 4608 / w) : (actives w m)[i]? = some (maskBit w m i) := by
  simp [actives, h]

/-- Bit j of a row is bit j % w of its lane j / w. -/
theorem laneAt_testBit (w : Nat) (hw : 0 < w) (r : Row) (j : Nat) : (laneAt w r (j / w)).testBit (j % w) = r.getLsbD j := by
  rw [laneAt, Nat.testBit_mod_two_pow, Nat.testBit_div_two_pow, decide_eq_true (Nat.mod_lt j hw), Bool.true_and, Nat.add_comm,
    Nat.div_add_mod]
  rfl

/-- Two rows with equal lanes are equal. -/
theorem row_ext (w : Nat) (hw : 0 < w) (r q : Row) (hd : w ∣ 4608) (h : ∀ i, i < 4608 / w → laneAt w r i = laneAt w q i) : r = q := by
  apply BitVec.eq_of_getLsbD_eq
  intro j hj
  rw [← laneAt_testBit w hw, ← laneAt_testBit w hw, h]
  exact Nat.div_lt_div_of_lt_of_dvd hd hj

/-! Lane results. -/

/-- Lane i of a masked operation. -/
theorem laneMap_get (f : Nat → Nat → Nat → Nat → FR) (k : Nat) (bs : List Bool) (xs ys zs : List Nat) (i : Nat) (b : Bool) (x y z : Nat)
    (hb : bs[i]? = some b) (hx : xs[i]? = some x) (hy : ys[i]? = some y) (hz : zs[i]? = some z) :
    (laneMap f k bs xs ys zs)[i]? = some (if b then some (f (k + i) x y z) else none) := by
  induction i generalizing k bs xs ys zs with
  | zero =>
    cases bs <;> cases xs <;> cases ys <;> cases zs <;> simp_all [laneMap]
  | succ i ih =>
    cases bs with
    | nil => simp at hb
    | cons b0 bs => cases xs with
      | nil => simp at hx
      | cons x0 xs => cases ys with
        | nil => simp at hy
        | cons y0 ys => cases zs with
          | nil => simp at hz
          | cons z0 zs =>
            simp only [List.getElem?_cons_succ] at hb hx hy hz
            simp only [laneMap, List.getElem?_cons_succ]
            rw [ih (k + 1) bs xs ys zs hb hx hy hz]
            rw [show k + 1 + i = k + (i + 1) by omega]

theorem laneMap_length (f : Nat → Nat → Nat → Nat → FR) (k n : Nat) (bs : List Bool) (xs ys zs : List Nat)
    (hb : bs.length = n) (hx : xs.length = n) (hy : ys.length = n) (hz : zs.length = n) : (laneMap f k bs xs ys zs).length = n := by
  induction n generalizing k bs xs ys zs with
  | zero =>
    have := List.length_eq_zero_iff.mp hb
    subst this
    rfl
  | succ n ih =>
    cases bs with
    | nil => simp at hb
    | cons b0 bs => cases xs with
      | nil => simp at hx
      | cons x0 xs => cases ys with
        | nil => simp at hy
        | cons y0 ys => cases zs with
          | nil => simp at hz
          | cons z0 zs =>
            simp only [List.length_cons, Nat.add_right_cancel_iff] at hb hx hy hz
            simp only [laneMap, List.length_cons, ih (k + 1) bs xs ys zs hb hx hy hz]

theorem foldl_lor_testBit (fs : List Nat) (a k : Nat) :
    (fs.foldl Nat.lor a).testBit k = true ↔ a.testBit k = true ∨ ∃ f ∈ fs, f.testBit k = true := by
  induction fs generalizing a with
  | nil => simp
  | cons f fs ih =>
    rw [List.foldl_cons, ih, show (a.lor f).testBit k = (a.testBit k || f.testBit k) from Nat.testBit_or a f k]
    simp [or_assoc]

/-- A flag is in an OR of flag sets where one of them has it. -/
theorem orFlags_testBit (fs : List Nat) (k : Nat) : (orFlags fs).testBit k = true ↔ ∃ f ∈ fs, f.testBit k = true := by
  rw [orFlags, foldl_lor_testBit]
  simp

/-- What lane results stand for as a row. -/
theorem laneVals_of (w : Nat) (act : Nat → Bool) (f : Nat → FR) (rs : List (Option FR)) (hl : rs.length = 4608 / w)
    (h : ∀ i, i < 4608 / w → rs[i]? = some (if act i then some (f i) else none)) :
    LaneVals w act f (laneRow w rs) (laneMsk w rs) (laneFlags rs) := by
  have hm : w * (4608 / w) ≤ 4608 := Nat.mul_div_le 4608 w
  refine ⟨?_, ?_, ?_⟩
  · intro i hi ha
    have hr := h i hi
    rw [ha] at hr
    constructor
    · rw [laneMsk, laneMask, laneAt_packRow _ _ _ (by simpa [hl] using hm)]
      simp only [List.getD_eq_getElem?_getD, List.getElem?_map, hr]
      simp
    · rw [laneRow, laneAt_packRow _ _ _ (by simpa [hl] using hm)]
      simp [List.getD_eq_getElem?_getD, List.getElem?_map, hr]
  · intro i hi ha
    have hr := h i hi
    rw [ha] at hr
    rw [laneMsk, laneMask, laneAt_packRow _ _ _ (by simpa [hl] using hm)]
    simp [List.getD_eq_getElem?_getD, List.getElem?_map, hr]
  · intro k _
    rw [laneFlags, orFlags_testBit]
    constructor
    · rintro ⟨g, hg, hk⟩
      obtain ⟨r, hr, rfl⟩ := by simpa using hg
      obtain ⟨i, hi⟩ := List.mem_iff_getElem?.mp hr
      have hlt : i < 4608 / w := by
        rw [← hl]
        exact (List.getElem?_eq_some_iff.mp hi).1
      have hs := h i hlt
      rw [hi] at hs
      cases ha : act i with
      | false => simp [ha] at hs
      | true =>
        simp only [ha, if_true, Option.some.injEq] at hs
        exact ⟨i, hlt, ha, by rw [← hs]; exact hk⟩
    · rintro ⟨i, hi, ha, hk⟩
      have hr := h i hi
      rw [ha] at hr
      exact ⟨(f i).flags, by simpa using ⟨f i, List.mem_of_getElem? hr, rfl⟩, hk⟩

/-- A masked operation of two sources completes with one lane result. -/
theorem vec3_slot (s : State) (i : Instr) (w g : Nat) (cnt : Bool) (d a b : BitVec 6) (f : REnv → Nat → Nat → Nat → FR) (ra rb : Row) (m : Mask)
    (ha : s.rdV a = .ok ra) (hb : s.rdV b = .ok rb) (hm : s.rdMask = .ok m) (hd : s.dstV d = .ok ())
    (he : exec i s = vec3 s w g cnt d a b f) (r : Nat → FR) (hr : ∀ k, r k = f s.renv k (laneAt w ra k) (laneAt w rb k)) :
    LaneSlot s i cnt d g w (maskBit w m) r := by
  obtain rfl : r = fun k => f s.renv k (laneAt w ra k) (laneAt w rb k) := funext hr
  refine ⟨_, _, _, by rw [he]; simp only [vec3, ha, hb, hm, hd, both_ok, ok_bind, finish_pure, State.postLanes]; rfl, ?_⟩
  refine laneVals_of w _ _ _ (laneMap_length _ _ _ _ _ _ _ (actives_length w m) (lanes_length w ra) (lanes_length w rb) (lanes_length w ra)) ?_
  intro k hk
  rw [laneMap_get _ 0 _ _ _ _ k _ _ _ _ (actives_get w m k hk) (lanes_get w ra k hk) (lanes_get w rb k hk) (lanes_get w ra k hk), Nat.zero_add]

/-- The same with d as a third source. -/
theorem vec4_slot (s : State) (i : Instr) (w g : Nat) (cnt : Bool) (d a b : BitVec 6) (f : REnv → Nat → Nat → Nat → Nat → FR) (ra rb rd : Row)
    (m : Mask) (ha : s.rdV a = .ok ra) (hb : s.rdV b = .ok rb) (hr : s.rdV d = .ok rd) (hm : s.rdMask = .ok m) (hd : s.dstV d = .ok ())
    (he : exec i s = vec4 s w g cnt d a b f)
    (r : Nat → FR) (hf : ∀ k, r k = f s.renv k (laneAt w ra k) (laneAt w rb k) (laneAt w rd k)) :
    LaneSlot s i cnt d g w (maskBit w m) r := by
  obtain rfl : r = fun k => f s.renv k (laneAt w ra k) (laneAt w rb k) (laneAt w rd k) := funext hf
  refine ⟨_, _, _, by rw [he]; simp only [vec4, ha, hb, hm, hr, hd, both_ok, ok_bind, finish_pure, State.postLanes]; rfl, ?_⟩
  refine laneVals_of w _ _ _ (laneMap_length _ _ _ _ _ _ _ (actives_length w m) (lanes_length w ra) (lanes_length w rb) (lanes_length w rd)) ?_
  intro k hk
  rw [laneMap_get _ 0 _ _ _ _ k _ _ _ _ (actives_get w m k hk) (lanes_get w ra k hk) (lanes_get w rb k hk) (lanes_get w rd k hk), Nat.zero_add]

/-- The same with one source. -/
theorem vec2_slot (s : State) (i : Instr) (w g : Nat) (cnt : Bool) (d a : BitVec 6) (f : REnv → Nat → Nat → FR) (ra : Row) (m : Mask)
    (ha : s.rdV a = .ok ra) (hm : s.rdMask = .ok m) (hd : s.dstV d = .ok ()) (he : exec i s = vec2 s w g cnt d a f)
    (r : Nat → FR) (hr : ∀ k, r k = f s.renv k (laneAt w ra k)) : LaneSlot s i cnt d g w (maskBit w m) r := by
  obtain rfl : r = fun k => f s.renv k (laneAt w ra k) := funext hr
  refine ⟨_, _, _, by rw [he]; simp only [vec2, ha, hm, hd, both_ok, ok_bind, finish_pure, State.postLanes]; rfl, ?_⟩
  refine laneVals_of w _ _ _ (laneMap_length _ _ _ _ _ _ _ (actives_length w m) (lanes_length w ra) (lanes_length w ra) (lanes_length w ra)) ?_
  intro k hk
  rw [laneMap_get _ 0 _ _ _ _ k _ _ _ _ (actives_get w m k hk) (lanes_get w ra k hk) (lanes_get w ra k hk) (lanes_get w ra k hk), Nat.zero_add]

/-- Bit q of a mask of groups is that of its lane. -/
theorem groupMask_get (w : Nat) (bs : List Bool) (q : Nat) (hw : 0 < w / 9) (hl : w / 9 * bs.length ≤ 512) :
    (groupMask w bs).getLsbD q = bs.getD (q / (w / 9)) false := by
  have hlt : packW (w / 9) (bs.map (fun b => if b then 2 ^ (w / 9) - 1 else 0)) < 2 ^ 512 :=
    lt_of_lt_of_le (packW_lt _ _) (Nat.pow_le_pow_right (by norm_num) (by simpa using hl))
  rw [groupMask]
  have h1 := packW_get (w / 9) (bs.map (fun b => if b then 2 ^ (w / 9) - 1 else 0)) (q / (w / 9))
  have h2 : (packW (w / 9) (bs.map (fun b => if b then 2 ^ (w / 9) - 1 else 0)) / 2 ^ (w / 9 * (q / (w / 9))) % 2 ^ (w / 9)).testBit (q % (w / 9))
      = (packW (w / 9) (bs.map (fun b => if b then 2 ^ (w / 9) - 1 else 0))).testBit q := by
    rw [Nat.testBit_mod_two_pow, Nat.testBit_div_two_pow, decide_eq_true (Nat.mod_lt q hw), Bool.true_and, Nat.add_comm, Nat.div_add_mod]
  rw [BitVec.getLsbD_ofNat, ← h2, h1]
  simp only [List.getD_eq_getElem?_getD, List.getElem?_map]
  cases hb : bs[q / (w / 9)]? with
  | none => simp
  | some b =>
    have hi := (List.getElem?_eq_some_iff.mp hb).1
    have hq : q < 512 := by
      have := Nat.div_add_mod q (w / 9)
      have h3 := Nat.mod_lt q hw
      have h4 : w / 9 * (q / (w / 9)) + w / 9 ≤ w / 9 * bs.length := by
        calc w / 9 * (q / (w / 9)) + w / 9 = w / 9 * (q / (w / 9) + 1) := by ring
          _ ≤ w / 9 * bs.length := Nat.mul_le_mul_left _ hi
      omega
    cases b with
    | false => simp
    | true =>
      have : (2 ^ (w / 9) - 1).testBit (q % (w / 9)) = true := by
        rw [Nat.testBit_two_pow_sub_one]
        exact decide_eq_true (Nat.mod_lt q hw)
      simp [hq, Nat.mod_lt q hw]

/-- A compare completes with one mask result. -/
theorem vecCmp_slot (s : State) (i : Instr) (w g : Nat) (mm : BitVec 4) (a b : BitVec 6) (f : REnv → Nat → Nat → FR) (ra rb : Row) (m : Mask)
    (ha : s.rdV a = .ok ra) (hb : s.rdV b = .ok rb) (hm : s.rdMask = .ok m) (hw : w = 36 ∨ w = 18 ∨ w = 9)
    (he : exec i s = vecCmp s w g mm a b f) (rel : Nat → Bool) (fl : Nat → Nat)
    (h1 : ∀ k, rel k = ((f s.renv (laneAt w ra k) (laneAt w rb k)).bits == 1)) (h2 : ∀ k, fl k = (f s.renv (laneAt w ra k) (laneAt w rb k)).flags) :
    MaskSlot s i mm g w m rel fl := by
  obtain rfl := funext h1
  obtain rfl := funext h2
  have hw9 : 0 < w / 9 := by omega
  have hl : w / 9 * (4608 / w) = 512 := by rcases hw with rfl | rfl | rfl <;> decide
  let rs := laneMap (fun _ x y _ => f s.renv x y) 0 (actives w m) (lanes w ra) (lanes w rb) (lanes w ra)
  have hrl : rs.length = 4608 / w :=
    laneMap_length _ _ _ _ _ _ _ (actives_length w m) (lanes_length w ra) (lanes_length w rb) (lanes_length w ra)
  have hr : ∀ k, k < 4608 / w → rs[k]? = some (if maskBit w m k then some (f s.renv (laneAt w ra k) (laneAt w rb k)) else none) := fun k hk =>
    laneMap_get _ 0 _ _ _ _ k _ _ _ _ (actives_get w m k hk) (lanes_get w ra k hk) (lanes_get w rb k hk) (lanes_get w ra k hk)
  refine ⟨_, _, by rw [he]; simp only [vecCmp, ha, hb, hm, both_ok, ok_bind, finish_pure]; rfl, ?_, ?_⟩
  · intro q hq
    have hk : q / (w / 9) < 4608 / w := by
      rw [Nat.div_lt_iff_lt_mul hw9, Nat.mul_comm, hl]
      exact hq
    rw [groupMask_get w _ q hw9 (by rw [List.length_map]; exact (congrArg _ hrl).trans_le hl.le), List.getD_eq_getElem?_getD, List.getElem?_map,
      show (laneMap (fun _ x y _ => f s.renv x y) 0 (actives w m) (lanes w ra) (lanes w rb) (lanes w ra))[q / (w / 9)]? = _ from hr _ hk]
    cases maskBit w m (q / (w / 9)) <;> simp
  · exact (laneVals_of w _ _ rs hrl hr).2.2

end Sys2Proof.Machine
end

