-- ==== Sys2Proof/Laws/Layouts.lean ====
section
/-! SUPPORT. The laws of the encodings: each layout of Tables 7.5 to 7.13 reads back every field that the encoder writes. -/

namespace Sys2Proof

theorem fld_val (w lo : Nat) {n : Nat} (x : BitVec n) (h : w / 2 ^ lo % 2 ^ n = x.toNat) : fld w lo n = x := by
  apply BitVec.eq_of_toNat_eq
  simpa [fld] using h

theorem bitAt_val (w i : Nat) (b : Bool) (h : w / 2 ^ i % 2 = b.toNat) : bitAt w i = b := by
  cases b <;> simp_all [bitAt]

theorem nz_val (w lo n : Nat) (h : w / 2 ^ lo % 2 ^ n = 0) : nz w lo n = false := by
  simp [nz, h]

/-- A field as a number. -/
theorem fld_toNat (w lo n : Nat) : (fld w lo n).toNat = w / 2 ^ lo % 2 ^ n := by
  simp [fld]

theorem bitAt_toNat (w i : Nat) : (bitAt w i).toNat = w / 2 ^ i % 2 := by
  rcases Nat.mod_two_eq_zero_or_one (w / 2 ^ i) with h | h <;> simp [bitAt, h]

theorem nz_false (w lo n : Nat) (h : nz w lo n = false) : w / 2 ^ lo % 2 ^ n = 0 := by
  simpa [nz] using h

/-- A flag is a bit. -/
theorem flag_lt (b : Bool) : b.toNat < 2 := by cases b <;> decide

/-- Operand b reads back, whatever the fields above F[5:0]. -/
theorem bop_enc (b : BOp) (f : Nat) (hf : f % 64 = 0) : bopOf (f + (encBOp b).1) (encBOp b).2 = b
    ∧ bopRsv (f + (encBOp b).1) (encBOp b).2 = false ∧ (encBOp b).1 < 64 := by
  cases b with
  | reg r =>
    have := r.isLt
    refine ⟨?_, rfl, r.isLt⟩
    simp only [encBOp, bopOf]
    rw [fld_val (x := r) _ _ (by omega)]
  | imm1 i =>
    have := i.isLt
    refine ⟨?_, ?_, by simp [encBOp]⟩
    · simp only [encBOp, bopOf]
      rw [fld_val (x := i) _ _ (by omega)]
    · simp only [encBOp, bopRsv]
      rw [nz_val _ _ _ (by omega), Bool.and_false]
  | imm2 j i =>
    have := i.isLt
    have := j.isLt
    refine ⟨?_, ?_, by simp [encBOp]⟩
    · simp only [encBOp, bopOf]
      rw [fld_val (x := j) _ _ (by omega), fld_val (x := i) _ _ (by omega)]
    · simp only [encBOp, bopRsv]
      rw [nz_val _ _ _ (by omega), Bool.and_false]

theorem mext_enc (x : MExt) : mextOf (encMExt x) = x := by
  have := x.cp.isLt
  have := flag_lt x.u
  have := x.ord.isLt
  have := x.fmt.isLt
  have := x.disp.isLt
  simp only [encMExt, mextOf]
  rw [fld_val (x := x.cp) _ _ (by omega), bitAt_val _ _ x.u (by omega), fld_val (x := x.ord) _ _ (by omega), fld_val (x := x.fmt) _ _ (by omega),
    fld_val (x := x.disp) _ _ (by omega)]

/-- The address operand of an indexed form reads back. -/
theorem midx_enc (x : MIdx) (f : Nat) (hf : f % 64 = 0) : midxOf (f + (encMIdx x).1) (encMIdx x).2 = x ∧ (encMIdx x).1 < 64 := by
  cases x with
  | idx r =>
    have := r.isLt
    refine ⟨?_, r.isLt⟩
    simp only [encMIdx, midxOf]
    rw [fld_val (x := r) _ _ (by omega)]
  | disp1 lo y =>
    have := lo.isLt
    refine ⟨?_, lo.isLt⟩
    simp only [encMIdx, midxOf]
    rw [fld_val (x := lo) _ _ (by omega), mext_enc]
  | disp2 lo y hi =>
    have := lo.isLt
    have := hi.isLt
    refine ⟨?_, lo.isLt⟩
    simp only [encMIdx, midxOf]
    rw [fld_val (x := lo) _ _ (by omega), fld_val (x := hi) _ _ (by omega), mext_enc]

/-- The offset of a branch reads back. -/
theorem off_enc (o : Off) (f : Nat) (hf : f % 2 ^ 13 = 0) : offOf (f + o.lo.toNat) (encOff o) = o := by
  obtain ⟨lo, ext⟩ := o
  have := lo.isLt
  cases ext with
  | none =>
    simp only [encOff, offOf]
    rw [fld_val (x := lo) _ _ (by omega)]
  | some x =>
    have := x.isLt
    simp only [encOff, offOf]
    rw [fld_val (x := lo) _ _ (by omega), fld_val (x := x) _ _ (by omega)]

/-! The layouts without I slots. -/

theorem rawNK_enc (c : BitVec 8 → Instr) (h : Nat) (hh : h % 2 ^ 18 = 0) (k : BitVec 8) : ∃ word iws, encNK h k = word :: iws
    ∧ word / 2 ^ 18 = h / 2 ^ 18 ∧ rawNK c word = some ⟨c k, false, false, false⟩ := by
  have := k.isLt
  refine ⟨_, _, rfl, by omega, ?_⟩
  simp only [rawNK]
  rw [fld_val (x := k) _ _ (by omega), nz_val _ 8 10 (by omega)]

theorem rawTR2_enc (c : BitVec 5 → BitVec 6 → Instr) (h : Nat) (hh : h % 2 ^ 18 = 0) (d : BitVec 5) (a : BitVec 6) : ∃ word iws, encTR2 h d a = word :: iws
    ∧ word / 2 ^ 18 = h / 2 ^ 18 ∧ rawTR2 c word = some ⟨c d a, false, false, false⟩ := by
  have := d.isLt
  have := a.isLt
  refine ⟨_, _, rfl, by omega, ?_⟩
  simp only [rawTR2]
  rw [fld_val (x := d) _ _ (by omega), fld_val (x := a) _ _ (by omega), nz_val _ 17 1 (by omega), nz_val _ 0 6 (by omega)]
  rfl

theorem rawMV_enc (c : BitVec 5 → BitVec 6 → Bool → BitVec 4 → Instr) (h : Nat) (hh : h % 2 ^ 18 = 0) (d : BitVec 5) (a : BitVec 6) (n : Bool) (p : BitVec 4) : ∃ word iws, encMV h d a n p = word :: iws
    ∧ word / 2 ^ 18 = h / 2 ^ 18 ∧ rawMV c word = some ⟨c d a n p, false, false, false⟩ := by
  have := d.isLt
  have := a.isLt
  have := flag_lt n
  have := p.isLt
  refine ⟨_, _, rfl, by omega, ?_⟩
  simp only [rawMV]
  rw [fld_val (x := d) _ _ (by omega), fld_val (x := a) _ _ (by omega), bitAt_val _ 5 n (by omega), fld_val (x := p) _ _ (by omega), nz_val _ 17 1 (by omega), nz_val _ 4 1 (by omega)]
  rfl

theorem rawPL_enc (c : BitVec 4 → BitVec 4 → BitVec 4 → BitVec 4 → Instr) (h : Nat) (hh : h % 2 ^ 18 = 0) (d : BitVec 4) (f : BitVec 4) (x : BitVec 4) (y : BitVec 4) : ∃ word iws, encPL h d f x y = word :: iws
    ∧ word / 2 ^ 18 = h / 2 ^ 18 ∧ rawPL c word = some ⟨c d f x y, false, false, false⟩ := by
  have := d.isLt
  have := f.isLt
  have := x.isLt
  have := y.isLt
  refine ⟨_, _, rfl, by omega, ?_⟩
  simp only [rawPL]
  rw [fld_val (x := d) _ _ (by omega), fld_val (x := f) _ _ (by omega), fld_val (x := x) _ _ (by omega), fld_val (x := y) _ _ (by omega), nz_val _ 8 2 (by omega)]

theorem rawPM_enc (c : BitVec 4 → BitVec 6 → Instr) (h : Nat) (hh : h % 2 ^ 18 = 0) (p : BitVec 4) (a : BitVec 6) : ∃ word iws, encPM h p a = word :: iws
    ∧ word / 2 ^ 18 = h / 2 ^ 18 ∧ rawPM c word = some ⟨c p a, false, false, false⟩ := by
  have := p.isLt
  have := a.isLt
  refine ⟨_, _, rfl, by omega, ?_⟩
  simp only [rawPM]
  rw [fld_val (x := p) _ _ (by omega), fld_val (x := a) _ _ (by omega), nz_val _ 12 2 (by omega), nz_val _ 0 6 (by omega)]
  rfl

theorem rawD0_enc (c : BitVec 5 → Instr) (h : Nat) (hh : h % 2 ^ 18 = 0) (d : BitVec 5) : ∃ word iws, encD0 h d = word :: iws
    ∧ word / 2 ^ 18 = h / 2 ^ 18 ∧ rawD0 c word = some ⟨c d, false, false, false⟩ := by
  have := d.isLt
  refine ⟨_, _, rfl, by omega, ?_⟩
  simp only [rawD0]
  rw [fld_val (x := d) _ _ (by omega), nz_val _ 17 1 (by omega), nz_val _ 0 12 (by omega)]
  rfl

theorem rawSG_enc (c : BitVec 5 → BitVec 12 → Instr) (h : Nat) (hh : h % 2 ^ 18 = 0) (d : BitVec 5) (n : BitVec 12) : ∃ word iws, encSG h d n = word :: iws
    ∧ word / 2 ^ 18 = h / 2 ^ 18 ∧ rawSG c word = some ⟨c d n, false, false, false⟩ := by
  have := d.isLt
  have := n.isLt
  refine ⟨_, _, rfl, by omega, ?_⟩
  simp only [rawSG]
  rw [fld_val (x := d) _ _ (by omega), fld_val (x := n) _ _ (by omega), nz_val _ 17 1 (by omega)]

theorem rawSP_enc (c : BitVec 12 → BitVec 6 → Instr) (h : Nat) (hh : h % 2 ^ 18 = 0) (n : BitVec 12) (a : BitVec 6) : ∃ word iws, encSP h n a = word :: iws
    ∧ word / 2 ^ 18 = h / 2 ^ 18 ∧ rawSP c word = some ⟨c n a, false, false, false⟩ := by
  have := n.isLt
  have := a.isLt
  refine ⟨_, _, rfl, by omega, ?_⟩
  simp only [rawSP]
  rw [fld_val (x := n) _ _ (by omega), fld_val (x := a) _ _ (by omega)]

theorem rawV3_enc (c : BitVec 6 → BitVec 6 → BitVec 6 → Instr) (h : Nat) (hh : h % 2 ^ 18 = 0) (d : BitVec 6) (a : BitVec 6) (b : BitVec 6) : ∃ word iws, encV3 h d a b = word :: iws
    ∧ word / 2 ^ 18 = h / 2 ^ 18 ∧ rawV3 c word = some ⟨c d a b, false, false, false⟩ := by
  have := d.isLt
  have := a.isLt
  have := b.isLt
  refine ⟨_, _, rfl, by omega, ?_⟩
  simp only [rawV3]
  rw [fld_val (x := d) _ _ (by omega), fld_val (x := a) _ _ (by omega), fld_val (x := b) _ _ (by omega)]

theorem rawV2_enc (c : BitVec 6 → BitVec 6 → Instr) (h : Nat) (hh : h % 2 ^ 18 = 0) (d : BitVec 6) (a : BitVec 6) : ∃ word iws, encV2 h d a = word :: iws
    ∧ word / 2 ^ 18 = h / 2 ^ 18 ∧ rawV2 c word = some ⟨c d a, false, false, false⟩ := by
  have := d.isLt
  have := a.isLt
  refine ⟨_, _, rfl, by omega, ?_⟩
  simp only [rawV2]
  rw [fld_val (x := d) _ _ (by omega), fld_val (x := a) _ _ (by omega), nz_val _ 0 6 (by omega)]

theorem rawVC_enc (c : BitVec 4 → BitVec 6 → BitVec 6 → Instr) (h : Nat) (hh : h % 2 ^ 18 = 0) (m : BitVec 4) (a : BitVec 6) (b : BitVec 6) : ∃ word iws, encVC h m a b = word :: iws
    ∧ word / 2 ^ 18 = h / 2 ^ 18 ∧ rawVC c word = some ⟨c m a b, false, false, false⟩ := by
  have := m.isLt
  have := a.isLt
  have := b.isLt
  refine ⟨_, _, rfl, by omega, ?_⟩
  simp only [rawVC]
  rw [fld_val (x := m) _ _ (by omega), fld_val (x := a) _ _ (by omega), fld_val (x := b) _ _ (by omega), nz_val _ 12 2 (by omega)]

theorem rawCX_enc (c : BitVec 6 → BitVec 6 → Bool → Bool → BitVec 3 → Instr) (h : Nat) (hh : h % 2 ^ 18 = 0) (d : BitVec 6) (a : BitVec 6) (dir : Bool) (ty : Bool) (k : BitVec 3) : ∃ word iws, encCX h d a dir ty k = word :: iws
    ∧ word / 2 ^ 18 = h / 2 ^ 18 ∧ rawCX c word = some ⟨c d a dir ty k, false, false, false⟩ := by
  have := d.isLt
  have := a.isLt
  have := flag_lt dir
  have := flag_lt ty
  have := k.isLt
  refine ⟨_, _, rfl, by omega, ?_⟩
  simp only [rawCX]
  rw [fld_val (x := d) _ _ (by omega), fld_val (x := a) _ _ (by omega), bitAt_val _ 4 dir (by omega), bitAt_val _ 3 ty (by omega), fld_val (x := k) _ _ (by omega), nz_val _ 5 1 (by omega)]

theorem rawVF_enc (c : BitVec 5 → BitVec 4 → BitVec 2 → Instr) (h : Nat) (hh : h % 2 ^ 18 = 0) (d : BitVec 5) (m : BitVec 4) (w : BitVec 2) : ∃ word iws, encVF h d m w = word :: iws
    ∧ word / 2 ^ 18 = h / 2 ^ 18 ∧ rawVF c word = some ⟨c d m w, false, false, false⟩ := by
  have := d.isLt
  have := m.isLt
  have := w.isLt
  refine ⟨_, _, rfl, by omega, ?_⟩
  simp only [rawVF]
  rw [fld_val (x := d) _ _ (by omega), fld_val (x := m) _ _ (by omega), fld_val (x := w) _ _ (by omega), nz_val _ 17 1 (by omega), nz_val _ 10 2 (by omega), nz_val _ 0 4 (by omega)]
  rfl

theorem rawDS3_enc (c : BitVec 5 → BitVec 6 → BitVec 6 → Instr) (h : Nat) (hh : h % 2 ^ 18 = 0) (d : BitVec 5) (a : BitVec 6) (b : BitVec 6) : ∃ word iws, encDS3 h d a b = word :: iws
    ∧ word / 2 ^ 18 = h / 2 ^ 18 ∧ rawDS3 c word = some ⟨c d a b, false, false, false⟩ := by
  have := d.isLt
  have := a.isLt
  have := b.isLt
  refine ⟨_, _, rfl, by omega, ?_⟩
  simp only [rawDS3]
  rw [fld_val (x := d) _ _ (by omega), fld_val (x := a) _ _ (by omega), fld_val (x := b) _ _ (by omega), nz_val _ 17 1 (by omega)]

theorem rawN4_enc (c : BitVec 4 → Instr) (h : Nat) (hh : h % 2 ^ 18 = 0) (n : BitVec 4) : ∃ word iws, encN4 h n = word :: iws
    ∧ word / 2 ^ 18 = h / 2 ^ 18 ∧ rawN4 c word = some ⟨c n, false, false, false⟩ := by
  have := n.isLt
  refine ⟨_, _, rfl, by omega, ?_⟩
  simp only [rawN4]
  rw [fld_val (x := n) _ _ (by omega), nz_val _ 4 14 (by omega)]

theorem rawMN_enc (c : BitVec 4 → BitVec 6 → BitVec 2 → Instr) (h : Nat) (hh : h % 2 ^ 18 = 0) (m : BitVec 4) (a : BitVec 6) (w : BitVec 2) : ∃ word iws, encMN h m a w = word :: iws
    ∧ word / 2 ^ 18 = h / 2 ^ 18 ∧ rawMN c word = some ⟨c m a w, false, false, false⟩ := by
  have := m.isLt
  have := a.isLt
  have := w.isLt
  refine ⟨_, _, rfl, by omega, ?_⟩
  simp only [rawMN]
  rw [fld_val (x := m) _ _ (by omega), fld_val (x := a) _ _ (by omega), fld_val (x := w) _ _ (by omega), nz_val _ 12 2 (by omega), nz_val _ 0 4 (by omega)]
  rfl

theorem rawMP_enc (c : BitVec 5 → BitVec 2 → BitVec 4 → Instr) (h : Nat) (hh : h % 2 ^ 18 = 0) (d : BitVec 5) (w : BitVec 2) (m : BitVec 4) : ∃ word iws, encMP h d w m = word :: iws
    ∧ word / 2 ^ 18 = h / 2 ^ 18 ∧ rawMP c word = some ⟨c d w m, false, false, false⟩ := by
  have := d.isLt
  have := w.isLt
  have := m.isLt
  refine ⟨_, _, rfl, by omega, ?_⟩
  simp only [rawMP]
  rw [fld_val (x := d) _ _ (by omega), fld_val (x := w) _ _ (by omega), fld_val (x := m) _ _ (by omega), nz_val _ 17 1 (by omega), nz_val _ 6 6 (by omega)]
  rfl

theorem rawVT_enc (c : BitVec 6 → BitVec 6 → Instr) (h : Nat) (hh : h % 2 ^ 18 = 0) (a : BitVec 6) (b : BitVec 6) : ∃ word iws, encVT h a b = word :: iws
    ∧ word / 2 ^ 18 = h / 2 ^ 18 ∧ rawVT c word = some ⟨c a b, false, false, false⟩ := by
  have := a.isLt
  have := b.isLt
  refine ⟨_, _, rfl, by omega, ?_⟩
  simp only [rawVT]
  rw [fld_val (x := a) _ _ (by omega), fld_val (x := b) _ _ (by omega), nz_val _ 12 6 (by omega)]

theorem rawZ0_enc (c : Instr) (h : Nat) (hh : h % 2 ^ 18 = 0)  : ∃ word iws, encZ0 h = word :: iws
    ∧ word / 2 ^ 18 = h / 2 ^ 18 ∧ rawZ0 c word = some ⟨c, false, false, false⟩ := by
  refine ⟨_, _, rfl, by omega, ?_⟩
  simp only [rawZ0]
  rw [nz_val _ 0 18 (by omega)]

theorem rawSACC_enc (c : BitVec 4 → BitVec 4 → Bool → BitVec 6 → BitVec 2 → Instr) (h : Nat) (hh : h % 2 ^ 18 = 0) (t : BitVec 4) (ts : BitVec 4) (i : Bool) (a : BitVec 6) (k : BitVec 2) : ∃ word iws, encSACC h t ts i a k = word :: iws
    ∧ word / 2 ^ 18 = h / 2 ^ 18 ∧ rawSACC c word = some ⟨c t ts i a k, false, false, false⟩ := by
  have := t.isLt
  have := ts.isLt
  have := flag_lt i
  have := a.isLt
  have := k.isLt
  refine ⟨_, _, rfl, by omega, ?_⟩
  simp only [rawSACC]
  rw [fld_val (x := t) _ _ (by omega), fld_val (x := ts) _ _ (by omega), bitAt_val _ 9 i (by omega), fld_val (x := a) _ _ (by omega), fld_val (x := k) _ _ (by omega), nz_val _ 8 1 (by omega)]

theorem rawTK_enc (c : BitVec 4 → BitVec 2 → Instr) (h : Nat) (hh : h % 2 ^ 18 = 0) (t : BitVec 4) (k : BitVec 2) : ∃ word iws, encTK h t k = word :: iws
    ∧ word / 2 ^ 18 = h / 2 ^ 18 ∧ rawTK c word = some ⟨c t k, false, false, false⟩ := by
  have := t.isLt
  have := k.isLt
  refine ⟨_, _, rfl, by omega, ?_⟩
  simp only [rawTK]
  rw [fld_val (x := t) _ _ (by omega), fld_val (x := k) _ _ (by omega), nz_val _ 2 12 (by omega)]

theorem rawTCVT_enc (c : BitVec 4 → BitVec 2 → BitVec 6 → Bool → BitVec 2 → Instr) (h : Nat) (hh : h % 2 ^ 18 = 0) (t : BitVec 4) (f : BitVec 2) (a : BitVec 6) (i : Bool) (k : BitVec 2) : ∃ word iws, encTCVT h t f a i k = word :: iws
    ∧ word / 2 ^ 18 = h / 2 ^ 18 ∧ rawTCVT c word = some ⟨c t f a i k, false, false, false⟩ := by
  have := t.isLt
  have := f.isLt
  have := a.isLt
  have := flag_lt i
  have := k.isLt
  refine ⟨_, _, rfl, by omega, ?_⟩
  simp only [rawTCVT]
  rw [fld_val (x := t) _ _ (by omega), fld_val (x := f) _ _ (by omega), fld_val (x := a) _ _ (by omega), bitAt_val _ 5 i (by omega), fld_val (x := k) _ _ (by omega), nz_val _ 2 3 (by omega)]

theorem rawTF_enc (c : BitVec 4 → BitVec 2 → BitVec 6 → BitVec 2 → Instr) (h : Nat) (hh : h % 2 ^ 18 = 0) (t : BitVec 4) (f : BitVec 2) (a : BitVec 6) (k : BitVec 2) : ∃ word iws, encTF h t f a k = word :: iws
    ∧ word / 2 ^ 18 = h / 2 ^ 18 ∧ rawTF c word = some ⟨c t f a k, false, false, false⟩ := by
  have := t.isLt
  have := f.isLt
  have := a.isLt
  have := k.isLt
  refine ⟨_, _, rfl, by omega, ?_⟩
  simp only [rawTF]
  rw [fld_val (x := t) _ _ (by omega), fld_val (x := f) _ _ (by omega), fld_val (x := a) _ _ (by omega), fld_val (x := k) _ _ (by omega), nz_val _ 2 4 (by omega)]

theorem rawSSC_enc (c : BitVec 4 → BitVec 6 → BitVec 2 → Instr) (h : Nat) (hh : h % 2 ^ 18 = 0) (t : BitVec 4) (v : BitVec 6) (k : BitVec 2) : ∃ word iws, encSSC h t v k = word :: iws
    ∧ word / 2 ^ 18 = h / 2 ^ 18 ∧ rawSSC c word = some ⟨c t v k, false, false, false⟩ := by
  have := t.isLt
  have := v.isLt
  have := k.isLt
  refine ⟨_, _, rfl, by omega, ?_⟩
  simp only [rawSSC]
  rw [fld_val (x := t) _ _ (by omega), fld_val (x := v) _ _ (by omega), fld_val (x := k) _ _ (by omega), nz_val _ 2 6 (by omega)]

theorem rawTCP_enc (c : BitVec 4 → BitVec 4 → BitVec 2 → Instr) (h : Nat) (hh : h % 2 ^ 18 = 0) (t : BitVec 4) (ts : BitVec 4) (k : BitVec 2) : ∃ word iws, encTCP h t ts k = word :: iws
    ∧ word / 2 ^ 18 = h / 2 ^ 18 ∧ rawTCP c word = some ⟨c t ts k, false, false, false⟩ := by
  have := t.isLt
  have := ts.isLt
  have := k.isLt
  refine ⟨_, _, rfl, by omega, ?_⟩
  simp only [rawTCP]
  rw [fld_val (x := t) _ _ (by omega), fld_val (x := ts) _ _ (by omega), fld_val (x := k) _ _ (by omega), nz_val _ 2 8 (by omega)]

theorem rawXP_enc (c : Bool → BitVec 6 → Instr) (h : Nat) (hh : h % 2 ^ 18 = 0) (l : Bool) (a : BitVec 6) : ∃ word iws, encXP h l a = word :: iws
    ∧ word / 2 ^ 18 = h / 2 ^ 18 ∧ rawXP c word = some ⟨c l a, false, false, false⟩ := by
  have := flag_lt l
  have := a.isLt
  refine ⟨_, _, rfl, by omega, ?_⟩
  simp only [rawXP]
  rw [bitAt_val _ 12 l (by omega), fld_val (x := a) _ _ (by omega), nz_val _ 13 5 (by omega), nz_val _ 0 6 (by omega)]
  rfl

theorem rawVD0_enc (c : BitVec 6 → Instr) (h : Nat) (hh : h % 2 ^ 18 = 0) (d : BitVec 6) : ∃ word iws, encVD0 h d = word :: iws
    ∧ word / 2 ^ 18 = h / 2 ^ 18 ∧ rawVD0 c word = some ⟨c d, false, false, false⟩ := by
  have := d.isLt
  refine ⟨_, _, rfl, by omega, ?_⟩
  simp only [rawVD0]
  rw [fld_val (x := d) _ _ (by omega), nz_val _ 0 12 (by omega)]

theorem rawXPL_enc (c : BitVec 5 → BitVec 6 → Bool → Instr) (h : Nat) (hh : h % 2 ^ 18 = 0) (d : BitVec 5) (a : BitVec 6) (tr : Bool) : ∃ word iws, encXPL h d a tr = word :: iws
    ∧ word / 2 ^ 18 = h / 2 ^ 18 ∧ rawXPL c word = some ⟨c d a tr, false, false, false⟩ := by
  have := d.isLt
  have := a.isLt
  have := flag_lt tr
  refine ⟨_, _, rfl, by omega, ?_⟩
  simp only [rawXPL]
  rw [fld_val (x := d) _ _ (by omega), fld_val (x := a) _ _ (by omega), bitAt_val _ 0 tr (by omega), nz_val _ 17 1 (by omega), nz_val _ 1 5 (by omega)]
  rfl

theorem rawBX_enc (c : BitVec 4 → Bool → BitVec 6 → Instr) (h : Nat) (hh : h % 2 ^ 18 = 0) (p : BitVec 4) (n : Bool) (a : BitVec 6) : ∃ word iws, encBX h p n a = word :: iws
    ∧ word / 2 ^ 18 = h / 2 ^ 18 ∧ rawBX c word = some ⟨c p n a, false, false, false⟩ := by
  have := p.isLt
  have := flag_lt n
  have := a.isLt
  refine ⟨_, _, rfl, by omega, ?_⟩
  simp only [rawBX]
  rw [fld_val (x := p) _ _ (by omega), bitAt_val _ 13 n (by omega), fld_val (x := a) _ _ (by omega), nz_val _ 12 1 (by omega), nz_val _ 0 6 (by omega)]
  rfl

theorem rawBN_enc (c : BitVec 4 → Bool → Instr) (h : Nat) (hh : h % 2 ^ 18 = 0) (p : BitVec 4) (n : Bool) : ∃ word iws, encBN h p n = word :: iws
    ∧ word / 2 ^ 18 = h / 2 ^ 18 ∧ rawBN c word = some ⟨c p n, false, false, false⟩ := by
  have := p.isLt
  have := flag_lt n
  refine ⟨_, _, rfl, by omega, ?_⟩
  simp only [rawBN]
  rw [fld_val (x := p) _ _ (by omega), bitAt_val _ 13 n (by omega), nz_val _ 0 13 (by omega)]

theorem rawECP_enc (c : BitVec 5 → BitVec 6 → BitVec 2 → Instr) (h : Nat) (hh : h % 2 ^ 18 = 0) (d : BitVec 5) (a : BitVec 6) (ch : BitVec 2) : ∃ word iws, encECP h d a ch = word :: iws
    ∧ word / 2 ^ 18 = h / 2 ^ 18 ∧ rawECP c word = some ⟨c d a ch, false, false, false⟩ := by
  have := d.isLt
  have := a.isLt
  have := ch.isLt
  refine ⟨_, _, rfl, by omega, ?_⟩
  simp only [rawECP]
  rw [fld_val (x := d) _ _ (by omega), fld_val (x := a) _ _ (by omega), fld_val (x := ch) _ _ (by omega), nz_val _ 17 1 (by omega), nz_val _ 2 4 (by omega)]
  rfl

theorem rawTLR_enc (c : BitVec 5 → BitVec 4 → Instr) (h : Nat) (hh : h % 2 ^ 18 = 0) (d : BitVec 5) (tl : BitVec 4) : ∃ word iws, encTLR h d tl = word :: iws
    ∧ word / 2 ^ 18 = h / 2 ^ 18 ∧ rawTLR c word = some ⟨c d tl, false, false, false⟩ := by
  have := d.isLt
  have := tl.isLt
  refine ⟨_, _, rfl, by omega, ?_⟩
  simp only [rawTLR]
  rw [fld_val (x := d) _ _ (by omega), fld_val (x := tl) _ _ (by omega), nz_val _ 17 1 (by omega), nz_val _ 4 8 (by omega)]
  rfl

theorem rawC2A_enc (f : BitVec 2 → BitVec 6 → Instr) (h : Nat) (hh : h % 2 ^ 18 = 0) (c : BitVec 2) (a : BitVec 6) : ∃ word iws, encC2A h c a = word :: iws
    ∧ word / 2 ^ 18 = h / 2 ^ 18 ∧ rawC2A f word = some ⟨f c a, false, false, false⟩ := by
  have := c.isLt
  have := a.isLt
  refine ⟨_, _, rfl, by omega, ?_⟩
  simp only [rawC2A]
  rw [fld_val (x := c) _ _ (by omega), fld_val (x := a) _ _ (by omega), nz_val _ 12 4 (by omega), nz_val _ 0 6 (by omega)]
  rfl

theorem rawA0_enc (c : BitVec 6 → Instr) (h : Nat) (hh : h % 2 ^ 18 = 0) (a : BitVec 6) : ∃ word iws, encA0 h a = word :: iws
    ∧ word / 2 ^ 18 = h / 2 ^ 18 ∧ rawA0 c word = some ⟨c a, false, false, false⟩ := by
  have := a.isLt
  refine ⟨_, _, rfl, by omega, ?_⟩
  simp only [rawA0]
  rw [fld_val (x := a) _ _ (by omega), nz_val _ 12 6 (by omega), nz_val _ 0 6 (by omega)]
  rfl

theorem rawB1_enc (c : Bool → Instr) (h : Nat) (hh : h % 2 ^ 18 = 0) (s : Bool) : ∃ word iws, encB1 h s = word :: iws
    ∧ word / 2 ^ 18 = h / 2 ^ 18 ∧ rawB1 c word = some ⟨c s, false, false, false⟩ := by
  have := flag_lt s
  refine ⟨_, _, rfl, by omega, ?_⟩
  simp only [rawB1]
  rw [bitAt_val _ 0 s (by omega), nz_val _ 1 17 (by omega)]

/-! The layouts with I slots. -/

theorem rawTR3_enc (c : BitVec 5 → BitVec 6 → BOp → Instr) (h : Nat) (hh : h % 2 ^ 18 = 0) (d : BitVec 5) (a : BitVec 6) (b : BOp) : ∃ w iws, encTR3 h d a b = w :: iws
    ∧ w / 2 ^ 18 = h / 2 ^ 18 ∧ rawTR3 c w iws = some ⟨c d a b, false, false, false⟩ := by
  have := d.isLt
  have := a.isLt
  obtain ⟨h1, h2, h3⟩ := bop_enc b (h + d.toNat * 2 ^ 12 + a.toNat * 2 ^ 6) (by omega)
  refine ⟨_, _, rfl, by omega, ?_⟩
  simp only [rawTR3]
  rw [h1, h2, fld_val (x := d) _ _ (by omega), fld_val (x := a) _ _ (by omega), nz_val _ 17 1 (by omega)]
  rfl

theorem rawPC_enc (c : BitVec 4 → Bool → BitVec 6 → BOp → Instr) (h : Nat) (hh : h % 2 ^ 18 = 0) (p : BitVec 4) (k : Bool) (a : BitVec 6) (b : BOp) : ∃ w iws, encPC h p k a b = w :: iws
    ∧ w / 2 ^ 18 = h / 2 ^ 18 ∧ rawPC c w iws = some ⟨c p k a b, false, false, false⟩ := by
  have := p.isLt
  have := flag_lt k
  have := a.isLt
  obtain ⟨h1, h2, h3⟩ := bop_enc b (h + p.toNat * 2 ^ 14 + k.toNat * 2 ^ 13 + a.toNat * 2 ^ 6) (by omega)
  refine ⟨_, _, rfl, by omega, ?_⟩
  simp only [rawPC]
  rw [h1, h2, fld_val (x := p) _ _ (by omega), bitAt_val _ _ k (by omega), fld_val (x := a) _ _ (by omega), nz_val _ 12 1 (by omega)]
  rfl

theorem rawCT_enc (c : BitVec 6 → BOp → Instr) (h : Nat) (hh : h % 2 ^ 18 = 0) (a : BitVec 6) (b : BOp) : ∃ w iws, encCT h a b = w :: iws
    ∧ w / 2 ^ 18 = h / 2 ^ 18 ∧ rawCT c w iws = some ⟨c a b, false, false, false⟩ := by
  have := a.isLt
  obtain ⟨h1, h2, h3⟩ := bop_enc b (h + a.toNat * 2 ^ 6) (by omega)
  refine ⟨_, _, rfl, by omega, ?_⟩
  simp only [rawCT]
  rw [h1, h2, fld_val (x := a) _ _ (by omega), nz_val _ 12 6 (by omega)]
  rfl

theorem rawIM_enc (c : BitVec 5 → MovImm → Instr) (h : Nat) (hh : h % 2 ^ 18 = 0) (d : BitVec 5) (i : MovImm) : ∃ w iws, encIM h d i = w :: iws
    ∧ w / 2 ^ 18 = h / 2 ^ 18 ∧ rawIM c w iws = some ⟨c d i, false, false, false⟩ := by
  have := d.isLt
  cases i with
  | i0 m =>
    have := m.isLt
    refine ⟨_, _, rfl, by omega, ?_⟩
    simp only [rawIM]
    rw [fld_val (x := d) _ _ (by omega), fld_val (x := m) _ _ (by omega), nz_val _ 17 1 (by omega)]
  | i1 m x =>
    have := m.isLt
    have := x.isLt
    refine ⟨_, _, rfl, by omega, ?_⟩
    simp only [rawIM]
    rw [fld_val (x := d) _ _ (by omega), fld_val (x := m) _ _ (by omega), fld_val (x := x) _ _ (by omega), nz_val _ 17 1 (by omega)]
  | i2 m y x =>
    have := m.isLt
    have := x.isLt
    have := y.isLt
    refine ⟨_, _, rfl, by omega, ?_⟩
    simp only [rawIM]
    rw [fld_val (x := d) _ _ (by omega), fld_val (x := m) _ _ (by omega), fld_val (x := y) _ _ (by omega), fld_val (x := x) _ _ (by omega),
      nz_val _ 17 1 (by omega)]

theorem rawLD_enc (c : BitVec 5 → BitVec 6 → MIdx → Instr) (h : Nat) (hh : h % 2 ^ 18 = 0) (d : BitVec 5) (b : BitVec 6) (x : MIdx) : ∃ w iws, encLD h d b x = w :: iws
    ∧ w / 2 ^ 18 = h / 2 ^ 18 ∧ rawLD c w iws = some ⟨c d b x, false, false, false⟩ := by
  have := d.isLt
  have := b.isLt
  obtain ⟨h1, h2⟩ := midx_enc x (h + d.toNat * 2 ^ 12 + b.toNat * 2 ^ 6) (by omega)
  refine ⟨_, _, rfl, by omega, ?_⟩
  simp only [rawLD]
  rw [h1, fld_val (x := d) _ _ (by omega), fld_val (x := b) _ _ (by omega), nz_val _ 17 1 (by omega)]

theorem rawSTS_enc (c : BitVec 6 → BitVec 6 → MIdx → Instr) (h : Nat) (hh : h % 2 ^ 18 = 0) (v b : BitVec 6) (x : MIdx) : ∃ w iws, encSTS h v b x = w :: iws
    ∧ w / 2 ^ 18 = h / 2 ^ 18 ∧ rawSTS c w iws = some ⟨c v b x, false, false, false⟩ := by
  have := v.isLt
  have := b.isLt
  obtain ⟨h1, h2⟩ := midx_enc x (h + v.toNat * 2 ^ 12 + b.toNat * 2 ^ 6) (by omega)
  refine ⟨_, _, rfl, by omega, ?_⟩
  simp only [rawSTS]
  rw [h1, fld_val (x := v) _ _ (by omega), fld_val (x := b) _ _ (by omega)]

theorem rawVM_enc (c : BitVec 6 → BitVec 6 → MIdx → Instr) (h : Nat) (hh : h % 2 ^ 18 = 0) (v b : BitVec 6) (x : MIdx) : ∃ w iws, encVM h v b x = w :: iws
    ∧ w / 2 ^ 18 = h / 2 ^ 18 ∧ rawVM c w iws = some ⟨c v b x, false, false, false⟩ := by
  exact rawSTS_enc c h hh v b x

theorem rawPF_enc (c : BitVec 6 → MIdx → Instr) (h : Nat) (hh : h % 2 ^ 18 = 0) (b : BitVec 6) (x : MIdx) : ∃ w iws, encPF h b x = w :: iws
    ∧ w / 2 ^ 18 = h / 2 ^ 18 ∧ rawPF c w iws = some ⟨c b x, false, false, false⟩ := by
  have := b.isLt
  obtain ⟨h1, h2⟩ := midx_enc x (h + b.toNat * 2 ^ 6) (by omega)
  refine ⟨_, _, rfl, by omega, ?_⟩
  simp only [rawPF]
  rw [h1, fld_val (x := b) _ _ (by omega), nz_val _ 12 6 (by omega)]

theorem rawVX_enc (c : BitVec 6 → BitVec 6 → BitVec 6 → VIdx → Instr) (h : Nat) (hh : h % 2 ^ 18 = 0) (d b o : BitVec 6) (x : VIdx) : ∃ w iws, encVX h d b o x = w :: iws
    ∧ w / 2 ^ 18 = h / 2 ^ 18 ∧ rawVX c w iws = some ⟨c d b o x, false, false, false⟩ := by
  have := d.isLt
  have := b.isLt
  have := o.isLt
  obtain ⟨x, hi⟩ := x
  refine ⟨_, _, rfl, by omega, ?_⟩
  cases hi with
  | none =>
    simp only [rawVX]
    rw [fld_val (x := d) _ _ (by omega), fld_val (x := b) _ _ (by omega), fld_val (x := o) _ _ (by omega), mext_enc]
    rfl
  | some y =>
    have := y.isLt
    simp only [rawVX]
    rw [fld_val (x := d) _ _ (by omega), fld_val (x := b) _ _ (by omega), fld_val (x := o) _ _ (by omega), mext_enc,
      fld_val (x := y) _ _ (by omega)]
    rfl

theorem rawAMO_enc (c : BitVec 5 → BitVec 6 → BitVec 6 → AmoX → Instr) (h : Nat) (hh : h % 2 ^ 18 = 0) (d : BitVec 5) (b o : BitVec 6) (x : AmoX) : ∃ w iws, encAMO h d b o x = w :: iws
    ∧ w / 2 ^ 18 = h / 2 ^ 18 ∧ rawAMO c w iws = some ⟨c d b o x, false, false, false⟩ := by
  have := d.isLt
  have := b.isLt
  have := o.isLt
  obtain ⟨aop, size, sord, ford, scope, ps⟩ := x
  have := aop.isLt
  have := size.isLt
  have := sord.isLt
  have := ford.isLt
  have := scope.isLt
  have := ps.isLt
  refine ⟨_, _, rfl, by omega, ?_⟩
  simp only [rawAMO, amoxOf, List.headD_cons]
  rw [fld_val (x := d) _ _ (by omega), fld_val (x := b) _ _ (by omega), fld_val (x := o) _ _ (by omega), fld_val (x := aop) _ _ (by omega),
    fld_val (x := size) _ _ (by omega), fld_val (x := sord) _ _ (by omega), fld_val (x := ford) _ _ (by omega),
    fld_val (x := scope) _ _ (by omega), fld_val (x := ps) _ _ (by omega), nz_val _ 17 1 (by omega), nz_val _ 0 5 (by omega)]
  rfl

theorem rawCAS_enc (c : BitVec 5 → BitVec 6 → BitVec 6 → AmoX → Instr) (h : Nat) (hh : h % 2 ^ 18 = 0) (d : BitVec 5) (b o : BitVec 6) (x : AmoX) : ∃ w iws, encCAS h d b o x = w :: iws
    ∧ w / 2 ^ 18 = h / 2 ^ 18 ∧ rawCAS c w iws = some ⟨c d b o x, false, false, false⟩ := by
  exact rawAMO_enc c h hh d b o x

theorem rawMMA_enc (c : BitVec 4 → BitVec 6 → BitVec 6 → BitVec 2 → Option RemX → Instr) (h : Nat) (hh : h % 2 ^ 18 = 0) (t : BitVec 4) (a b : BitVec 6) (k : BitVec 2) (r : Option RemX) : ∃ w iws, encMMA h t a b k r = w :: iws
    ∧ w / 2 ^ 18 = h / 2 ^ 18 ∧ rawMMA c w iws = some ⟨c t a b k r, false, false, false⟩ := by
  have := t.isLt
  have := a.isLt
  have := b.isLt
  have := k.isLt
  refine ⟨_, _, rfl, by omega, ?_⟩
  cases r with
  | none =>
    simp only [rawMMA]
    rw [fld_val (x := t) _ _ (by omega), fld_val (x := a) _ _ (by omega), fld_val (x := b) _ _ (by omega), fld_val (x := k) _ _ (by omega)]
    rfl
  | some y =>
    obtain ⟨ra, rb, mc, off⟩ := y
    have := flag_lt ra
    have := flag_lt rb
    have := flag_lt mc
    have := off.isLt
    simp only [rawMMA, List.headD_cons]
    rw [fld_val (x := t) _ _ (by omega), fld_val (x := a) _ _ (by omega), fld_val (x := b) _ _ (by omega), fld_val (x := k) _ _ (by omega),
      bitAt_val _ _ ra (by omega), bitAt_val _ _ rb (by omega), bitAt_val _ _ mc (by omega), fld_val (x := off) _ _ (by omega),
      nz_val _ 0 17 (by omega)]

theorem rawBO_enc (c : BitVec 4 → Bool → Off → Instr) (h : Nat) (hh : h % 2 ^ 18 = 0) (p : BitVec 4) (n : Bool) (o : Off) : ∃ w iws, encBO h p n o = w :: iws
    ∧ w / 2 ^ 18 = h / 2 ^ 18 ∧ rawBO c w iws = some ⟨c p n o, false, false, false⟩ := by
  have := p.isLt
  have := flag_lt n
  have := o.lo.isLt
  refine ⟨_, _, rfl, by omega, ?_⟩
  simp only [rawBO]
  rw [off_enc o _ (by omega), fld_val (x := p) _ _ (by omega), bitAt_val _ _ n (by omega)]

theorem rawCR_enc (c : Off → Instr) (h : Nat) (hh : h % 2 ^ 18 = 0) (o : Off) : ∃ w iws, encCR h o = w :: iws
    ∧ w / 2 ^ 18 = h / 2 ^ 18 ∧ rawCR c w iws = some ⟨c o, false, false, false⟩ := by
  have := o.lo.isLt
  refine ⟨_, _, rfl, by omega, ?_⟩
  simp only [rawCR]
  rw [off_enc o _ (by omega), nz_val _ 13 5 (by omega)]

end Sys2Proof
end

