-- ==== Sys2Proof/Tests/Slice0.lean ====
section
/-! SUPPORT. Tests: ill-formed instructions that WellFormed refuses, words written out from the manual's encodings, a witness for the
hypotheses of every statement, and single steps with results worked out from the manual. -/

set_option Elab.async false

namespace Sys2Proof.Tests

open Sys2Proof Sys2Proof.Machine

/-! WellFormed refuses (R101, R102). -/

theorem test_wf_reduction_code : (Instr.vred 1 2 9).wf = false := by decide
theorem test_wf_conversion_code : (Instr.vcvt 1 2 14).wf = false := by decide
theorem test_wf_atomic_code : (Instr.amo 1 2 3 ⟨9, 0, 0, 0, 0, 0⟩).wf = false := by decide
theorem test_wf_atomic_size : (Instr.amo 1 2 3 ⟨0, 2, 0, 0, 0, 0⟩).wf = false := by decide
theorem test_wf_atomic_order : (Instr.cas 1 2 3 ⟨0, 0, 5, 0, 0, 0⟩).wf = false := by decide
theorem test_wf_atomic_scope : (Instr.cas 1 2 3 ⟨0, 0, 0, 0, 6, 0⟩).wf = false := by decide
theorem test_wf_load_order : (Instr.ldD 1 2 (.disp1 0 ⟨0, false, 2, 0, 0⟩)).wf = false := by decide
theorem test_wf_load_format : (Instr.ldD 1 2 (.disp1 0 ⟨0, false, 0, 1, 0⟩)).wf = false := by decide
theorem test_wf_remote_empty : (Instr.mmaI8 1 2 3 0 (some ⟨false, false, false, 1⟩)).wf = false := by decide
theorem test_wf_multicast_without_b : (Instr.mmaI8 1 2 3 0 (some ⟨true, false, true, 1⟩)).wf = false := by decide
theorem test_wf_good : (Instr.add 3 1 (.imm1 100000)).wf = true := by decide

/-! Decoding: one word for each family, bit by bit (Tables 7.2 to 7.13; class [27:24], opcode [23:18], d [17:12], a [11:6], b [5:0]). -/

theorem test_dec_scalar : decodeSlot 0b0000_0000_000010_000011_000001_000010 [] = .ok (.sub 3 1 (.reg 2)) := by decide
theorem test_dec_vector : decodeSlot 0b0000_0001_000011_010000_000100_000101 [] = .ok (.vfmaf 16 4 5) := by decide
theorem test_dec_narrow : decodeSlot 0b0000_0010_000000_000001_000010_000011 [] = .ok (.naddB 1 2 3) := by decide
theorem test_dec_shuffle : decodeSlot 0b0000_0011_000000_010100_001000_000010 [] = .ok (.vcvt 20 8 2) := by decide
theorem test_dec_special_function : decodeSlot 0b0000_0100_000011_000001_000010_000000 [] = .ok (.fexp2 1 2) := by decide
theorem test_dec_transposer : decodeSlot 0b1000_0111_000001_000001_011110_000000 [] = .ok (.xpush18 true 30) := by decide
theorem test_dec_transposer_reset : decodeSlot 0b0000_0111_001100_000000_000000_000000 [] = .ok .xrst := by decide
theorem test_dec_branch : decodeSlot 0b0000_1000_000000_001001_111111_111010 [] = .ok (.br 2 false ⟨0x1FFA, none⟩) := by decide
theorem test_dec_engine : decodeSlot 0b0000_1001_000000_000111_001001_000001 [] = .ok (.copy 7 9 1) := by decide
theorem test_dec_load : decodeSlot 0b0000_0101_000110_000011_000100_000000 [0b0000_1111_0000_1001_0000_0000_0000_0001] = .ok (.ldD 3 4 (.disp1 0 ⟨0, true, 1, 0, 1⟩)) := by decide
theorem test_dec_system : decodeSlot 0b0000_1010_000000_000000_000000_000111 [] = .ok (.trap 7) := by decide
theorem test_dec_operand_word_missing : decodeSlot 0x00043040 [] ≠ .ok (.add 3 1 (.imm1 0)) := by decide
/-! Witnesses: for each statement with hypotheses, concrete states and operands that meet them. -/

/-- Whether a result is a value, and whether an outcome is a next state. -/
def isOk {α : Type} (r : SlotR α) : Bool := match r with
  | .ok _ => true
  | .error _ => false
def goes (r : Res) : Bool := match r with
  | .next _ => true
  | .fault _ => false
  | .refused _ => false
theorem ok_of {α : Type} (r : SlotR α) (h : isOk r = true) : ∃ x, r = .ok x := by
  cases r with
  | ok x => exact ⟨x, rfl⟩
  | error e => simp [isOk] at h
theorem goes_next (r : Res) (h : goes r = true) : ∃ t, r = .next t := by
  cases r with
  | next t => exact ⟨t, rfl⟩
  | fault e => simp [goes] at h
  | refused e => simp [goes] at h

def full (v : Word) : SReg := { val := v, valid := true }

/-- A context with registers, tiles and windows, alone in the machine. -/
def witCtx : Ctx :=
  { probeCtx with
    s := [(1, full 5), (2, full 7), (3, full 0x1300000000000100), (4, full 0x1000000000000000), (5, full 0x8000000000000000),
          (6, full 0xFFFFFFFFFFFFFFFF), (8, full 0x4000), (9, full 0x1000000000004000), (10, full 0x1300000000000000), (31, full 0x4000)]
    p := [(1, ⟨true, true⟩), (2, ⟨false, true⟩)], k := [(0, ⟨0x0000000000010101, true⟩)]
    zown := 0x10FFFF, tmap := 0xFEDCBA9876543210, wwin := 0x4000000, awin := 0x3000000, swin := 0x1000000 }

def zrow (n : Nat) : ZRow := { bits := BitVec.ofNat 4608 n, valid := true }

def wit : State :=
  { State.reset with ctx := witCtx, rows := [(0, zrow 3), (1, zrow 4), (2, zrow 5), (3, zrow 6), (128, zrow 7), (256, zrow 8), (384, zrow 9)] }

/-- The same with usable device memory and the words of the probe (a leaf that maps the first GiB to itself). -/
def witDev : State := let t := State.reset.probe [0x8E000000]; { t with ctx := witCtx, rows := wit.rows }

theorem test_wit_EncodeDecodeOneWord : 0x010D0105 < 2 ^ 28 ∧ decodeSlot 0x010D0105 [] = .ok (.vfmaf 16 4 5) := by decide
theorem test_wit_DecodeEncodeSlots : (Instr.bfx 31 63 (.imm2 0xFFFFFF 0xFFFFFF)).isSlot = true ∧ (Instr.bfx 31 63 (.imm2 0xFFFFFF 0xFFFFFF)).wf = true := by
  decide
theorem test_wit_BundleUnitLimits : ∃ b, decodeBundle [0x00043040, 0x8F0186A0] = .ok b := ⟨_, rfl⟩
def prb : State := State.reset.probe [0x8E000000]
theorem test_wit_StepTakesInputsThenBundles_select : prb.select = some prb := by decide +kernel
theorem test_wit_StepTakesInputsThenBundles : prb.inputs = [] ∧ prb.since < 64 ∧ prb.ctx.trapped = false ∧ prb.ctx.yielded = false
    ∧ prb.joinedWith prb.ctx = none := by decide +kernel
theorem test_wit_StepTakesInputsThenBundles_goes : goes prb.issue = true := by decide +kernel
theorem test_wit_StepTakesInputsThenBundles_issue : ∃ v, prb.issue = .next v := goes_next _ test_wit_StepTakesInputsThenBundles_goes
/-- Whether the next bundle is one slot of path 0 that runs. -/
def oneSlot (s : State) : Bool := match s.fetch with
  | .ok (u, ⟨[x], 1⟩) => x.path == 0 && u.ctx.nrank ≤ 1 && goes (exec x.instr { u with iss := { npc := u.ctx.pc + 4, ord := x.ord, word := x.word } })
  | _ => false
theorem test_wit_FetchedSlotRunsExec : (State.reset.probe [0x88009FFA]).mayFetch = true ∧ oneSlot (State.reset.probe [0x88009FFA]) = true := by
  decide +kernel
theorem test_wit_FetchedSlotRunsExec_form (s : State) (h : oneSlot s = true) : ∃ (u t : State) (x : Slot), s.fetch = .ok (u, ⟨[x], 1⟩) ∧ x.path = 0
    ∧ u.ctx.nrank ≤ 1 ∧ exec x.instr { u with iss := { npc := u.ctx.pc + 4, ord := x.ord, word := x.word } } = .next t := by
  unfold oneSlot at h
  split at h
  · next u x hf =>
    simp only [Bool.and_eq_true, beq_iff_eq, decide_eq_true_eq] at h
    obtain ⟨t, ht⟩ := goes_next _ h.2
    exact ⟨u, t, x, hf, h.1.1, h.1.2, ht⟩
  · simp at h
/-- The state after an outcome. -/
def after (r : Res) : State := match r with
  | .next t => t
  | .fault _ => State.reset
  | .refused _ => State.reset
/-- Two contexts of one core: the first at a branch slot, the second at the given word. -/
def two (w : Nat) : State :=
  let s := State.reset.probe [0x88009FFA, w]
  let c : Ctx := { s.ctx with p := [(2, ⟨false, true⟩)] }
  { s with ctx := c, parked := [{ c with pc := 0x4004, cid := 1, gang := 1 }] }
/-- What the second one of `two` issues in, after the first. -/
def second (w : Nat) : State := (((after ((two w).select.getD State.reset).issue).grow 0 [0]).focus 0 1).getD State.reset
theorem test_wit_StepTakesInputsThenBundles_beside : let t := (two 0x8E000000).select.getD State.reset
    let n := second 0x8E000000
    (two 0x8E000000).select.isSome = true ∧ t.ctx.trapped = false ∧ t.joinedWith t.ctx = none ∧ (t.aside.map unitsOf) = some [(8, 0)]
      ∧ ((t.liveOn t.ctx.core).filter (fun x => t.ready x && x.cid % 4 != t.ctx.cid % 4)).length = 1
      ∧ (n.aside.map unitsOf) = some [] ∧ ((second 0x88009FFA).aside.map unitsOf) = some [(8, 0)] ∧ n.joinedWith n.ctx = none ∧ goes n.issue = true := by
  decide +kernel
theorem test_wit_FetchedSlotRunsExec_drain : let l : State := after (exec (.ldD 1 8 (.disp1 0 ⟨0, true, 0, 0, 0⟩)) witDev)
    ∃ x ∈ l.loads, x.gang = l.ctx.gang ∧ x.core = l.ctx.core := by decide +kernel
theorem test_wit_FetchedSlotRunsExec_error : ∃ e, State.reset.fetch = .error e := ⟨_, rfl⟩
theorem test_wit_BundleTakesEffect : wit.iss.hold = none ∧ wit.iss.traps = [] ∧ wit.closing wit = none
    ∧ wit.ctx.pendingAt wit.iss.advance (sortOut wit.iss.out) + wit.trappedResults ⟨[], 1⟩ ≤ 64 := by decide
theorem test_wit_StepKeepsMemForms_goes : goes (step prb) = true := by decide +kernel
theorem test_wit_StepKeepsMemForms_forms : MemForms prb := ⟨by decide +kernel, rfl, rfl, rfl, rfl, rfl⟩
theorem test_wit_StepKeepsMemForms : MemForms prb ∧ ∃ t, step prb = .next t :=
  ⟨test_wit_StepKeepsMemForms_forms, goes_next _ test_wit_StepKeepsMemForms_goes⟩
theorem test_wit_RegisterOnlyFrame : (Instr.add 3 1 (.reg 2)).dests wit = some [⟨0, 3⟩] ∧ ∃ t, exec (.add 3 1 (.reg 2)) wit = .next t :=
  ⟨rfl, _, rfl⟩
theorem test_wit_RegisterOnlyFrame_wpset : goes (exec (.wpset 0 10) { wit with sbuf := [] }) = true := by decide +kernel
/-- An operation of class X that writes row 0. -/
def someX : XOp :=
  { core := 0, cid := 0, gang := 0, arr := 0, task := 0, rank := 0, pc := 0, step := 0, ftrap := 0, lidx := 0, depth := 0, tiles := [0], tgt := [0], cost := 8,
    writes := [⟨0, 0, allRow⟩], bufs := [], flags := 0, leaf := [], fail := none, win := (0, 0), m64 := none, dropped := false }
/-- Registers that no result has filled, a row of a busy tile, and a register with a deferred fault. -/
def witBare : State :=
  { wit with ctx := { witCtx with s := [(3, { full := false }), (4, { valid := true, fault := some ⟨0x0A, 0, 0, 0, 0, 0⟩ })], p := [], m := [] },
             rows := [(0, { full := false }), (1, { full := false, pol := true }), (2, { valid := true, fault := some ⟨0x0F, 0, 0, 0, 0, 0⟩ })] }
theorem test_wit_VisibleResult_reads : (witBare.ctx.sreg 2).valid = false ∧ (witBare.ctx.sreg 2).full = true ∧ (witBare.ctx.sreg 3).full = false
    ∧ (witBare.ctx.sreg 4).fault.isSome = true ∧ (witBare.ctx.preg (physP witBare.ctx 1)).valid = false ∧ (witBare.ctx.mreg (physP witBare.ctx 15)).valid = false
    ∧ witBare.rdS 0 = .ok 0 ∧ witBare.busy 0 0 = false ∧ (witBare.row 0 0).pol = false ∧ (witBare.row 0 1).pol = true ∧ (witBare.row 0 1).full = false
    ∧ (witBare.row 0 2).fault.isSome = true ∧ (witBare.row 0 3).valid = false
    ∧ ({ wit with xq := [someX] } : State).busy 0 0 = true := by decide +kernel
theorem test_wit_ScalarArithmeticResults : wit.rdS 6 = .ok 0xFFFFFFFFFFFFFFFF ∧ wit.bop (.imm1 64) = .ok 64 ∧ wit.dstS 0 = .ok () := by decide
theorem test_wit_DivisionResults : wit.rdS 5 = .ok 0x8000000000000000 ∧ wit.bop (.reg 6) = .ok 0xFFFFFFFFFFFFFFFF ∧ wit.bop (.reg 0) = .ok 0
    ∧ wit.dstS 31 = .ok () := by decide
theorem test_wit_BitFieldMoviNop : wit.rdS 6 = .ok 0xFFFFFFFFFFFFFFFF ∧ wit.bop (.imm1 0x1040) = .ok 0x1040 ∧ wit.bop (.imm1 0x103F) = .ok 0x103F
    ∧ wit.bop (.imm1 0x0FC0) = .ok 0x0FC0 ∧ wit.rdSn 1 false = .ok 5 ∧ wit.iss.nk = 0 := by decide
theorem test_wit_ScalarComparesAndPredicates : wit.rdP 1 = .ok true ∧ wit.rdP 2 = .ok false ∧ wit.rdP 0 = .ok true ∧ wit.rdS 0 = .ok 0
    ∧ wit.dstS 1 = .ok () := by decide
theorem test_wit_ScalarComparesAndPredicates_pget : let c := { witCtx with p := (List.range 16).map (fun n => (n, ⟨n % 2 == 0, true⟩)) }
    ∀ n, n < 16 → ({ wit with ctx := c } : State).rdP n = .ok (n % 2 == 0) := by decide
theorem test_wit_SpecialRegisterReads_clip : (witCtx.kreg 7).valid = false ∧ (witCtx.kreg 0).valid = true := by decide
theorem test_wit_SpecialRegisterReads : (witCtx.priv = false) ∧ (({ witCtx with priv := true, k := [(7, ⟨1, true⟩)] } : Ctx).kreg 7).valid = true := by
  decide
theorem test_wit_SpecialRegisterWrites : modeOk 0x1000 = true ∧ modeOk 0xFFFFFFFF = false ∧ windowOk witCtx.zown 0 = true
    ∧ tmapOk witCtx.zown 0xFEDCBA9876543210 = true ∧ winOk 0x1000000 256 = true := by decide
theorem test_wit_CompareTraps : wit.rdV 0 = .ok (3 : Row) ∧ wit.rdV 1 = .ok (4 : Row) ∧ wit.rdMask = .ok (BitVec.allOnes 512)
    ∧ (BitVec.allOnes 512).getLsbD 0 = true ∧ laneAt 9 3 0 ≠ laneAt 9 4 0 := ⟨rfl, rfl, rfl, by decide +kernel, by decide +kernel⟩
theorem test_wit_BranchTests : wit.rdP 1 = .ok true ∧ wit.iss.taken = none ∧ wit.dstS 31 = .ok () ∧ wit.rdS 8 = .ok 0x4000
    ∧ (0x4000 : Word).toNat % 4 = 0 ∧ wit.rdSn 31 false = .ok 0x4000 ∧ wit.ctx.regions = [] ∧ wit.rdS 1 = .ok 5 := by decide
theorem test_wit_LoopsRotate : wit.rdP 1 = .ok true ∧ wit.iss.taken = none ∧ wit.ctx.lc = 0 ∧ ({ witCtx with lc := 1 } : Ctx).lc ≠ 0 := by decide
theorem test_wit_lanes : ∃ ra rb m, wit.rdV 0 = .ok ra ∧ wit.rdV 1 = .ok rb ∧ wit.rdMask = .ok m ∧ wit.dstV 63 = .ok () ∧ wit.rdV 2 = .ok (5 : Row) :=
  ⟨_, _, _, rfl, rfl, rfl, rfl, rfl⟩
theorem test_wit_Conversions : cvtShape 0 ≠ cvtShape 13 ∧ wit.dstV 62 = .ok () ∧ wit.dstV 63 = .ok () ∧ wit.rdV 1 = .ok (4 : Row) := ⟨by decide, rfl, rfl, rfl⟩
theorem test_wit_ExchangeAndHistograms : (∃ bins, rdVs wit 0 4 = .ok bins) ∧ (6 : BitVec 3) ≠ 7 ∧ 0 + (4 : BitVec 6).toNat ≤ 64 := ⟨⟨_, rfl⟩, by decide⟩
theorem test_wit_LaneAccess : wit.rdM 0 = .ok (BitVec.allOnes 512) ∧ wit.rdV 0 = .ok (3 : Row) ∧ wit.rdS 1 = .ok 5 ∧ wit.rdS 31 = .ok 0x4000
    ∧ (0x4000 : Word).toNat / 512 % 4 = 0 ∧ (0x4000 : Word).toNat % 512 = 0 := ⟨rfl, rfl, rfl, rfl, by decide, by decide⟩
theorem test_wit_MaskInstructions : wit.rdM 0 = .ok (BitVec.allOnes 512) ∧ wit.rdS 1 = .ok 5 ∧ wit.dstS 1 = .ok () := ⟨rfl, rfl, rfl⟩
def dx (u : Bool) (o d : Nat) : MIdx := .disp1 0 ⟨0, u, BitVec.ofNat 3 o, 0, BitVec.ofNat 12 d⟩

theorem test_wit_ScalarLoadsComplete : wit.rdS 3 = .ok 0x1300000000000100 ∧ wit.mdisp (dx true 0 0) = .ok 0 ∧ wit.dstS 1 = .ok ()
    ∧ srcNum 3 ≠ 1 ∧ wit.issueCheck .ld 0x1300000000000100 8 = .ok () ∧ wit.elemHold 0x1300000000000100 8 = .ok () ∧ wit.room 0 = true
    ∧ (∃ bs, (wit.loadElem 0x1300000000000100 8).2 = .ok bs) ∧ wit.watchFault 0x1300000000000100 8 (some 0) = none :=
  ⟨by decide, by decide, by decide, by decide, by decide, by decide, by decide, ⟨_, rfl⟩, by decide⟩
theorem test_wit_ScalarLoadsComplete_device : witDev.issueCheck .ld 0x4000 4 = .ok () ∧ witDev.elemHold 0x4000 4 = .ok () ∧ witDev.room 1 = true
    ∧ (witDev.loadElem 0x4000 4).2 = .ok [0x00, 0x00, 0x00, 0x8E] := by decide +kernel
theorem test_wit_LoadsFrame : ∃ t, exec (.ldD 1 3 (dx true 0 0)) wit = .next t := ⟨_, rfl⟩
theorem test_wit_ScalarStoresWriteTheirBytes : witDev.rdS 1 = .ok 5 ∧ witDev.rdS 8 = .ok 0x4000 ∧ witDev.mdisp (dx false 0 0) = .ok 0
    ∧ witDev.issueCheck .st 0x4000 8 = .ok () ∧ witDev.storeHold 0x4000 8 = .ok () ∧ (witDev.storePlace 0x4000).map Prod.snd = .ok (.dev 0x4000)
    ∧ witDev.dead 0x4000 = false := by decide +kernel
theorem test_wit_ScalarStoresWriteTheirBytes_buffer : wit.issueCheck .st 0x1300000000000100 1 = .ok () ∧ wit.storeHold 0x1300000000000100 1 = .ok ()
    ∧ (wit.storePlace 0x1300000000000100).map Prod.snd = .ok (.buf 3 0x100) := by decide +kernel
theorem test_wit_ScalarStoresWriteTheirBytes_wake : let s : State := { witDev with ctx := { witCtx with priv := true } }
    s.issueCheck .st 0x2000000000000008 8 = .ok () ∧ (s.storePlace 0x2000000000000008).map Prod.snd = .ok (.wake 1) := by decide +kernel
theorem test_wit_ScalarStoresWriteTheirBytes_control : let s : State := { witDev with ctx := { witCtx with priv := true } }
    s.issueCheck .st 0x3000000000003000 8 = .ok () ∧ (s.storePlace 0x3000000000003000).map Prod.snd = .ok (.ctl 0x3000) := by decide +kernel
theorem test_wit_AccessCheckOrder : wit.pathPass .ld (selOf 0x1300000000000101) = true ∧ zeroBits 0x1300000000000101 = true
    ∧ wit.ctx.inBounds 0x1300000000000101 = true ∧ (0x1300000000000101 : Word).toNat % 8 ≠ 0 ∧ wit.pathPass .ld 0x50 = false := by decide +kernel
theorem test_wit_VectorLoadsComplete : wit.rdS 4 = .ok 0x1000000000000000 ∧ isOk wit.rdMask = true ∧ wit.dstV 63 = .ok () ∧ wit.mdisp (dx false 0 0) = .ok 0
    ∧ wit.issueCheck .vld 0x1000000000000000 4 = .ok ()
    ∧ (let as := laneAddrs [0, 127] (fun i => 0x1000000000000000 + BitVec.ofNat 64 (i * 4))
       wit.checkLanes .vld 4 as = .ok () ∧ wit.holdLanes 4 false as = .ok () ∧ wit.room 0 = true ∧ wit.watchLanes true 4 as = none
         ∧ (readLanes 4 as wit).fault = none) := by decide +kernel
theorem test_wit_VectorLoadsComplete_raw : wit.rawCheck .rawLd 0x1000000000000000 = .ok () ∧ wit.watchLanes true 576 [(0, 0x1000000000000000)] = none
    ∧ wit.holdLanes 8 false (rawUnits 0x1000000000000000) = .ok () ∧ (readLanes 8 (rawUnits 0x1000000000000000) wit).fault = none := by decide +kernel
theorem test_wit_VectorLoadsComplete_row : wit.rawCheck .rawLd 0x1200000000000000 = .ok ()
    ∧ isOk (wit.rdRow (128 * tileOf wit.ctx (lowOf 0x1200000000000000 / 73728) + lowOf 0x1200000000000000 / 576 % 128)) = true := by decide +kernel
theorem test_wit_VectorStoresWriteTheirLanes : let as := laneAddrs [0, 127] (fun i => 0x1000000000000000 + BitVec.ofNat 64 (i * 4))
    wit.issueCheck .vst 0x1000000000000000 4 = .ok () ∧ wit.checkLanes .vst 4 as = .ok () ∧ wit.holdLanes 4 true as = .ok ()
      ∧ isOk ((wit.placeLanes as).bind (fun q => q.1.putLanes 4 (fun _ => 1) q.2)) = true := by decide +kernel
theorem test_wit_VectorStoresWriteTheirLanes_raw : wit.rawCheck .rawSt 0x1000000000000000 = .ok ()
    ∧ wit.holdLanes 8 true (rawUnits 0x1000000000000000) = .ok ()
    ∧ isOk ((wit.placeLanes (rawUnits 0x1000000000000000)).bind (fun q => q.1.putLanes 8 (fun _ => 1) q.2)) = true := by decide +kernel
theorem test_wit_AtomicsComplete : witDev.rdS 8 = .ok 0x4000 ∧ witDev.rdS 1 = .ok 5 ∧ witDev.storeHold 0x4000 8 = .ok ()
    ∧ witDev.issueCheck (.amo true) 0x4000 8 = .ok () ∧ witDev.issueCheck (.amo false) 0x4000 8 = .ok () ∧ witDev.dstS 3 = .ok ()
    ∧ (witDev.storePlace 0x4000).map Prod.snd = .ok (.dev 0x4000) ∧ (witDev.readPlace 0 (.dev 0x4000) 8).isOk = true
    ∧ witDev.rdSn 2 false = .ok 7 := by decide +kernel
theorem test_wit_ElementStoresFrame : witDev.shadowed 0 = false ∧ selOf 0x4000 ≠ 0x30 ∧ (witDev.storePlace 0x4000).map Prod.snd = .ok (.dev 0x4000)
    ∧ goes (exec (.stD 1 8 (dx false 0 0)) witDev) = true := by decide +kernel
theorem test_wit_OrderingInstructions : wit.tcvtOut = false ∧ wit.loads = [] ∧ wit.rdS 8 = .ok 0x4000 ∧ wit.mdisp (dx true 0 0) = .ok 0 := by decide +kernel
/-- A context with a descriptor's bytes at the start of its S window. -/
def witS (bs : List Byte) : State := { wit with sbuf := memWrite [] 0 bs }

theorem test_wit_TransfersIssue : let ds := leBytes 8 0x10000000 ++ leBytes 8 0x20000000 ++ leBytes 4 64 ++ leBytes 4 1 ++ List.replicate 40 0
    let s := witS ds
    s.ctx.inh = false ∧ s.rdS 10 = .ok 0x1300000000000000 ∧ s.dstS 3 = .ok () ∧ s.leafGate = .ok () ∧ s.portOf s.ctx = none
      ∧ (s.readDesc s.ctx 0x1300000000000000 64).map Prod.snd = .ok ds ∧ copyBad ds = none ∧ s.tlRoom 3 = .ok () := by decide +kernel
theorem test_wit_TransfersIssue_bad : copyBad (List.replicate 16 0 ++ leBytes 4 (2 ^ 24 + 1) ++ List.replicate 44 0) = some (2 ^ 24 + 1) := by decide +kernel
theorem test_wit_TransfersIssue_coll : collBad (List.replicate 0x1C 0 ++ leBytes 4 1 ++ List.replicate 32 0) = none ∧ wit.tlRoom 5 = .ok () := by decide +kernel
theorem test_wit_TransfersIssue_xplane : let b : XDrain := ⟨36, List.replicate 128 (List.replicate 128 0), 0, 0⟩
    let s : State := { wit with ctx := { witCtx with drain := some b } }
    s.rdS 4 = .ok 0x1000000000000000 ∧ (0 : Nat) ≤ s.ctx.step.toNat ∧ selOf 0x1000000000000000 = 0x10 ∧ (0x1000000000000000 : Word).toNat % 2048 = 0
      ∧ lowOf 0x1000000000000000 + 16384 ≤ winSize (s.ctx.win 0) ∧ s.tlRoom 4 = .ok () := by decide +kernel
theorem test_wit_TimelineInstructions : let c : Ctx := { witCtx with tls := [{ issued := 6, done := 5 }, { issued := 9, done := 7, fails := [5, 6] }], wps := [⟨5, 64, 5⟩] }
    let s : State := { wit with ctx := c }
    s.rdS 1 = .ok 5 ∧ s.rdS 2 = .ok 7 ∧ (5 ≤ (c.tl 0).issued ∧ 5 ≤ (c.tl 0).done ∧ (c.tl 0).fails = [])
      ∧ (7 ≤ (c.tl 1).issued ∧ 7 ≤ (c.tl 1).done ∧ 5 ∈ (c.tl 1).fails) ∧ (c.tl 0).issued < 7 ∧ (c.wps.getD 0 {}).num ≠ 0
      ∧ 5 ≤ (c.wps.getD 0 {}).val.toNat ∧ (c.wps.getD 0 {}).num ≤ (c.tl 0).done ∧ (c.wps.getD 1 {}).num = 0 := by decide
theorem test_wit_TimelineInstructions_wait : let c : Ctx := { witCtx with tls := [{ issued := 5, done := 4 }] }
    (5 : Word).toNat ≤ (c.tl 0).issued ∧ (c.tl 0).done < (5 : Word).toNat := by decide

/-- Copies and the other engines' operations under way. -/
def copyDesc : List Byte := leBytes 8 0x1000000000000000 ++ leBytes 8 0x1100000000000040 ++ leBytes 4 16 ++ leBytes 4 1 ++ List.replicate 40 0
def someEng : EngOp :=
  { core := 0, cid := 0, gang := 0, arr := 0, task := 0, rank := 0, ord := 0, words := [], tl := 1, num := 1, desc := copyDesc, lidx := 0, pc := 0, text := 0,
    step := 0, mode := 0, depth := 0, block := none, dst := 0, delivered := 0, srcBytes := [], dropped := false, port := none, iter := 0 }
def engs (tl : Nat) (e : EngOp) : State :=
  { wit with ctx := { witCtx with tls := List.replicate tl {} ++ [{ issued := 1 }], wps := [{}, ⟨0, 16, 1⟩] }, engs := [{ e with tl := tl }], wbuf := [(0, 0x11), (15, 0x33)] }
theorem test_wit_TimelineInstructions_copy : let s := engs 1 someEng
    s.nextEng 0 1 = some someEng ∧ (s.ownerOf 0 0).isSome = true ∧ s.engReady someEng = true ∧ s.elided s.ctx someEng = false ∧ s.dump = none ∧ s.pbuf = []
      ∧ numAt copyDesc 8 8 = 0x11 * 2 ^ 56 + 0x40 ∧ numAt copyDesc 0x10 4 = 16 ∧ 16 ≤ winSize witCtx.wwin ∧ 0x50 ≤ winSize witCtx.awin
      ∧ s.engReady { someEng with num := 2 } = true := by decide +kernel
/-- A copy moves its row, and by its write pointer the first unit of it (R186, R213). -/
theorem test_copy_row : (after (exec (.engineFinish 0 1) (engs 1 someEng))).abuf = [(0x40, 0x11), (0x4F, 0x33)]
    ∧ (after (exec (.wpAdvance 0 1 8) (engs 1 someEng))).abuf = [(0x40, 0x11)] := by decide +kernel
theorem test_wit_TimelineInstructions_planes : let e : EngOp := { someEng with desc := [1], block := some ⟨18, [], 0, 0⟩, dst := 0x1000000000000000 }
    (engs 4 e).nextEng 0 4 = some { e with tl := 4 } ∧ (engs 4 e).engReady { e with tl := 4 } = true ∧ selOf e.dst = 0x10 := by decide +kernel
def collDesc : List Byte :=
  leBytes 8 0x1000000000000000 ++ leBytes 8 0x1100000000000040 ++ leBytes 4 4 ++ [2, 0, 0, 0] ++ leBytes 4 0 ++ leBytes 4 1 ++ List.replicate 32 0
theorem test_wit_TimelineInstructions_coll : let s := engs 5 { someEng with desc := collDesc }
    (s.nextEng 0 5).isSome = true ∧ s.collRooted 0 = false ∧ (s.setReg 0x604008 1).collRooted 0 = true ∧ s.collWide 0 = false ∧ s.shadowed 0 = false
      ∧ numAt collDesc 0x14 1 = 2 ∧ numAt collDesc 0x1C 4 = 1 ∧ numAt collDesc 0x20 4 = 0 ∧ numAt collDesc 0x10 4 * collSize 0 = 16
      ∧ s.engs.filter (fun x => x.tl == 5) = s.engs := by decide +kernel

/-- A launch record that names an RCB at 0x8000, whose pool at 0x9000 has room for one entry. -/
def witLaunch : State :=
  let t := ((((witDev.devPut 0x9000 (leBytes 4 1)).devPut 0x8000 (leBytes 8 0 ++ leBytes 8 0x1FF)).devNat 0x8020 8 10).devNat 0x8030 8 1000).devNat 0x8048 8 0x9000
  { t with sbuf := memWrite [] 0 (leBytes 8 0 ++ leBytes 8 0x8000 ++ List.replicate 112 0) }
theorem test_wit_LaunchInstructions : let s := witLaunch
    s.ctx.inh = false ∧ s.rdS 10 = .ok 0x1300000000000000 ∧ s.dstS 3 = .ok () ∧ s.tcvtOut = false ∧ s.wide = false ∧ s.gang? s.ctx.gang = none
      ∧ s.isLead = true ∧ s.shadowed s.ctx.arr = false
      ∧ (({ s with iss := { s.iss with gangOp := true } } : State).readDesc s.ctx 0x1300000000000000 128).isOk = true := by decide +kernel
def placed (p : Placed) : Nat := match p with
  | .accepted _ => 0
  | .full => 1
  | .badRec => 2
  | .budget => 3
  | .overflow => 4
theorem test_wit_LaunchInstructions_accepted :
    placed (witLaunch.placeRec witLaunch.ctx (leBytes 8 0 ++ leBytes 8 0x8000 ++ List.replicate 112 0)) = 0 := by decide +kernel
theorem test_wit_LaunchInstructions_record :
    placed (witLaunch.placeRec witLaunch.ctx (List.replicate 128 0)) = 2 := by decide +kernel
theorem test_wit_LaunchInstructions_budget :
    placed (witLaunch.placeRec witLaunch.ctx (leBytes 8 0 ++ leBytes 8 0x8000 ++ List.replicate 24 0 ++ leBytes 4 11 ++ List.replicate 84 0)) = 3 := by
  decide +kernel
theorem test_wit_LaunchInstructions_overflow :
    placed ((witLaunch.devNat 0x9010 8 1).placeRec witLaunch.ctx (leBytes 8 0 ++ leBytes 8 0x8000 ++ List.replicate 112 0)) = 4 := by decide +kernel
theorem test_wit_LaunchInstructions_full :
    placed (((((witLaunch.devNat 0x9010 8 1).devNat 0x9018 8 1).devNat 0x8050 8 0xA000).devNat 0xA000 4 1).placeRec witLaunch.ctx
      (leBytes 8 0 ++ leBytes 8 0x8000 ++ List.replicate 112 0)) = 1 := by decide +kernel
theorem test_wit_JoinsBarsSignals : witDev.tcvtOut = false ∧ isOk witDev.gangGate = true ∧ witDev.isLead = true ∧ witDev.issueCheck .join 0x4000 8 = .ok ()
    ∧ witDev.storeHold 0x4000 8 = .ok () ∧ (witDev.storePlace 0x4000).map Prod.snd = .ok (.dev 0x4000) ∧ witDev.poisoned 0x4000 = false
    ∧ memNat witDev.mem 0x4000 8 ≠ 0 ∧ memNat witDev.mem 0x5000 8 = 0 ∧ witDev.issueCheck .sig 0x4000 8 = .ok () ∧ witDev.ctx.inh = false := by decide +kernel
theorem test_wit_JoinsBarsSignals_follower : let s : State := { wit with parked := [{ probeCtx with rank := 0, cid := 1 }], ctx := { witCtx with rank := 1 } }
    s.isLead = false := by decide +kernel
theorem test_wit_SystemInstructions : witCtx.inh = false ∧ witCtx.regions.length < 4 ∧ witCtx.scalarPending = false ∧ witCtx.scalarsFull = true
    ∧ wit.regionBusy = false ∧ modeOk 0x1000 = true ∧ (0 : Word).toNat < 2 ^ 11 ∧ windowOk witCtx.zown 0 = true
    ∧ isOk (wit.readDesc witCtx 0x1300000000000000 64) = true ∧ watchBad (List.replicate 64 0) = none ∧ wit.isLead = true ∧ wit.rdS 0 = .ok 0
    ∧ wit.rdS 1 = .ok 5 := by decide +kernel
theorem test_wit_SystemInstructions_regions : let r := wit.checkpoint 0
    let c : Ctx := { witCtx with regions := [r, r, r, r] }
    4 ≤ c.regions.length ∧ ({ wit with ctx := c } : State).regionBusy = false := by decide +kernel
theorem test_wit_ReturnFromTrap : let c : Ctx := { witCtx with inh := true, area := 0x100000 }
    let s : State := { witDev with ctx := c }
    let bs := List.replicate 0x198 (0 : Byte) ++ leBytes 8 0x1000
    (s.readArea c 0 0 10).isOk = true ∧ modeOk 0x1000 = true ∧ (restoreFrame c [] [] bs 0).isOk = true := by decide +kernel
theorem test_wit_TrapEntry : let c : Ctx := { witCtx with tvec := 0x4000, area := 0x100000, stat := .stopped (some { cause := 0x0B }) }
    let s : State := { witDev with ctx := c }
    c.live = true ∧ c.rank < 16 ∧ s.parked ++ s.saved = [] ∧ s.mateOf c = none ∧ ({ s with ctx := c } : State).writeArea c 0 1 [] ≠ none := by decide +kernel
theorem test_wit_TrapEntry_delivery : let tr : Trap := { cause := 0x13, code := 7 }
    let c : Ctx := { witCtx with tvec := 0x4000, area := 0x100000, compl := [tr] }
    let s : State := { witDev with ctx := c }
    s.atBoundary = true ∧ c.live = true ∧ s.mateOf c = none ∧ s.m64Out c = false ∧ c.consumes = false ∧ c.regions = []
      ∧ ((({ s.clearGate 0 with ctx := c } : State).gangStopped 0).writeArea c 0 1 []).isSome = true := by decide +kernel
/-- With TVEC 0 a completion trap ends its rank; a consumption of poison in a region goes on at the region's handler (R297, R349). -/
theorem test_unhandled_and_unwind :
    (after (exec (.trapDelivery 0) { witDev with ctx := { witCtx with compl := [{ cause := 0x13 }] } })).ctx.stat = .exited
    ∧ (after (exec (.unwind 0) { wit with ctx := { witCtx with regions := [wit.checkpoint 0x77], compl := [{ cause := 0x0F, cons := true }] } })).ctx.pc = 0x77 := by
  decide +kernel
theorem test_wit_TransposerPushesAndPops : isOk (wit.rdV 1) = true ∧ wit.ctx.fill.w = 0 ∧ wit.dstV 63 = .ok () ∧ wit.ctx.drain = none
    ∧ (List.replicate 128 (List.replicate 128 (0 : BitVec 36))).length = 128 := by decide +kernel
theorem test_wit_MatrixProductsStart : let v : Word := 0x0000000000010101
    wit.rdK 0 = .ok v ∧ wit.rdS 4 = .ok 0x1000000000000000 ∧ wit.tileCheck 15 = .ok 15 ∧ wit.pendCheck [15] = .ok () ∧ wit.clipCheck v true true false 128 = .ok ()
      ∧ bufCheck 0x1000000000000000 1 (clAS v) = .ok () ∧ wit.windowCheck 0x1000000000000000 1 true = .ok () ∧ wit.xdests 15 1 = .ok ()
      ∧ wit.xgate 128 [(0x1000000000000000, 1), (0x1000000000000000, 1)] = .ok () ∧ isOk (wit.xreads 1 1) = true ∧ isOk wit.gangGate = true
      ∧ wit.clipCheck v true true false 64 = .ok () ∧ wit.xgate 256 [(0x1000000000000000, 1), (0x1000000000000000, 1)] = .ok () := by decide +kernel
theorem test_wit_MatrixProductsStart_planes : let v : Word := 0x0000000002010101
    wit.clipCheck v true true true 128 = .ok () ∧ bufCheck 0x1000000000000000 2048 0 = .ok () ∧ wit.windowCheck 0x1000000000000000 4096 true = .ok () := by
  decide +kernel
theorem test_wit_TileOperationsStart : let v : Word := 0x0000000000000101
    wit.clipCheck v true false false 128 = .ok () ∧ wit.tileCheck 0 = .ok 0 ∧ wit.tileCheck 1 = .ok 1 ∧ wit.pendCheck [0, 1] = .ok ()
      ∧ isOk (wit.xreads 0 1) = true ∧ isOk (wit.xreads 1 1) = true ∧ wit.xdests 0 1 = .ok () ∧ wit.xgate 32 [(0x1000000000000000, 2)] = .ok ()
      ∧ bufCheck 0x1000000000000000 4 (clAS v) = .ok () ∧ wit.windowCheck 0x1000000000000000 4 true = .ok () ∧ wit.xdest 0 = .ok ()
      ∧ wit.aliasBusy wit.ctx 0 (wit.ctx.bufSegs 0 0 4) = false := by decide +kernel
theorem test_wit_TileOperationsStart_scan : let v : Word := 0x0000000000010101
    wit.clipCheck v true true false 128 = .ok () ∧ wit.tileCheck 3 = .ok 3 ∧ tileOf wit.ctx 0 = 0 ∧ tileOf wit.ctx 3 = 3
      ∧ wit.pendCheck [0, 1, 2, 3, 4] = .ok () ∧ isOk (wit.xreads 0 1) = true ∧ isOk (wit.xreads 1 1) = true ∧ isOk (wit.xreads 2 1) = true
      ∧ isOk (wit.xreads 3 1) = true ∧ wit.xgate 8 [] = .ok () ∧ physV { witCtx with vwb := 512 } 0 / 128 = 4 := by decide +kernel
/-- A state whose valve zones hold the given words. -/
def wet (f : Nat → Word) : State := { State.reset with ctl := (List.range 120).map (fun n => (zoneOff n, f n)) }
theorem test_wit_ControlStores_zones : (wet (fun _ => 0xFF00)).sysstate = 2 ∧ (∀ m, m < 120 → zState ((wet (fun _ => 0xFF00)).zone m) = 0)
    ∧ (wet (fun _ => 0xFF00)).reg (zoneOff 119 - 8) = 0 ∧ zState ((wet (fun n => zoneWord 7 (if n = 0 then 2 else 4) 0 255 0)).zone 0) = 2
    ∧ zState ((wet (fun n => zoneWord 7 (if n = 0 then 2 else 4) 0 255 0)).zone 119) = 4 := by decide +kernel
theorem test_wit_ControlStores : State.reset.sysstate ≠ 4 ∧ State.reset.sysstate = 2 ∧ State.reset.reg 0x600140 = 0
    ∧ State.reset.ctlWrite 0x3000 5 = .ok (State.reset.setReg 0x3000 5) ∧ wfld 0x10000 0 2 ≠ 3 ∧ wfld 0x10000 2 14 = 0 ∧ wfld 0x10000 48 16 = 0
    ∧ wfld 0x80 40 24 = 0 ∧ wfld 0x80 0 7 = 0 ∧ State.reset.loadq.length < 64
    ∧ State.reset.coreFenced 383 = false ∧ State.reset.reg 0x200018 = 0 ∧ State.reset.reg 0x200020 = 0 := by
  decide +kernel
theorem test_wit_ControlStores_debug : ((State.reset.setReg 0x600140 1).setReg 0x600120 0x100).feat 8 = true := by decide +kernel
theorem test_wit_StartsComplete : State.reset.launches = [] ∧ State.reset.dump = none ∧ State.reset.devSize = 0 ∧ (State.reset.reg 0x60).getLsbD 15 = false
    ∧ (State.reset.reg 0x600010).getLsbD 15 = false ∧ (State.reset.reg 0x600018).getLsbD 23 = false ∧ (State.reset.reg 0x50).getLsbD 55 = false
    ∧ (State.reset.reg 0x58).getLsbD 23 = false ∧ (State.reset.reg 0x600010).getLsbD 47 = false := by decide +kernel
def someLaunch : Launch :=
  { arr := 1, packet := List.replicate 50 0 ++ [1], queue := 0, prio := 0, root := 0, ptroot := 0x1000, priv := false, cpol := 2, fdfl := 1,
    eroute := 0, cabase := 0, casize := 0, chain := 0, code := {}, placed := 0, ended := 0, status := 0, faults := 0, start := none, fin := 0, used := 0,
    cflags := 0, attempt := 0, inHeap := true, tasks := [], held := [], stopped := true, replay := true, banned := [], fuse := none, capture := none,
    own := [], cool := 0, runq := [] }
theorem test_wit_StartsComplete_refused : let s : State := { State.reset.setReg 0x600000 3 with launches := [someLaunch] }
    s.sysstate = 3 ∧ s.launches ≠ [] := by decide +kernel
theorem test_wit_launches : let s : State := { ((State.reset.setReg 0x600140 1).setReg 0x600120 2) with launches := [someLaunch] }
    s.launch? 1 = some someLaunch ∧ someLaunch.fdfl.testBit 0 = true ∧ s.feat 1 = true ∧ (numAt someLaunch.packet 0x32 2).testBit 0 = true
      ∧ someLaunch.placed = 0 ∧ someLaunch.inHeap = true ∧ s.mayReplay { someLaunch with placed := 0 } = (s.mayReplay someLaunch) := by decide +kernel
theorem test_wit_FacilitiesComplete : let s : State := { prb with vfOn := true }
    s.vfOn = true ∧ s.reg (0x600800 + 16 * 63) = 0 ∧ s.sysstate ≠ 4 ∧ wfld (s.reg 0x600038) 32 8 * 2 ^ 32 + 0x100 + 4 ≤ s.devSize
      ∧ (s.reg 0x60).toNat = s.stackMap ∧ (∀ j, j < 4 → tabGet 0 s.trips (4 * 23 + j) = 0) := by decide +kernel
theorem test_wit_FacilitiesComplete_zones : let a := wet (fun _ => zoneWord 2 1 5 255 0)
    let b := wet (fun _ => zoneWord 4 1 5 255 0)
    let c := wet (fun _ => zoneWord 6 1 0 255 0)
    let d := wet (fun _ => zoneWord 1 3 0 255 7)
    zState (a.zone 0) = 1 ∧ zStep (a.zone 0) = 2 ∧ a.zoneBusy 0 = false ∧ zState (b.zone 119) = 1 ∧ zStep (b.zone 119) = 4 ∧ zState (c.zone 0) = 1
      ∧ zStep (c.zone 0) = 6 ∧ zState (d.zone 119) = 3 := by decide +kernel
theorem test_wit_ReliabilityComplete : prb.devSize = 0x1000000000 ∧ prb.poisoned 0xFFFFFFFFF = false ∧ (prb.row 383 2047).mark = false
    ∧ prb.launches = [] ∧ wfld (prb.reg 0x243000) 0 32 = 0 ∧ (prb.reg (atOff 383)).getLsbD 1 = true ∧ (prb.reg (atOff 383)).getLsbD 0 = false
    ∧ (prb.reg (atOff 383)).getLsbD 2 = false ∧ prb.coreFenced 383 = false ∧ prb.idleCore 383 = true ∧ prb.reserved = [] ∧ tabGet 0 prb.testEnd 383 = 0
    ∧ ((prb.setBit 0x600010 47 true).reg 0x600010).getLsbD (24 + 23) = true
    ∧ ((prb.setBit (atOff 383) 0 true).reg (atOff 383)).getLsbD 0 = true
    ∧ ((prb.setReg 0x211000 0x10000).setReg 0x211008 192).reg 0x211008 = 192 := by decide +kernel
theorem test_wit_ContextEventsComplete : let p (r : Nat) : Pend := { dest := ⟨0, 1⟩, val := 0, msk := 0, rem := r, flags := 0, ftrap := 0, fault := none, arrived := false,
                                                                     srcpc := 0, srcstep := 0, pool := none }
    let c : Ctx := { witCtx with dq := [p 0, p 0], age := 64, regions := [wit.checkpoint 0], compl := [{ cause := 0x0F, cons := true }] }
    c.live = true ∧ c.dq[0]? = some (p 0) ∧ c.dq[1]? = some (p 0) ∧ (p 0).rem = 0 ∧ c.cid < 4 ∧ c.trapped = true := by decide +kernel
theorem test_wit_ContextEventsComplete_boundary : let c : Ctx := { witCtx with regions := [wit.checkpoint 0], compl := [{ cause := 0x0F, cons := true }] }
    let s : State := { wit with ctx := c }
    (s.focus 0 0).isSome = true ∧ s.atBoundary = true ∧ c.trapped = true ∧ c.inh = false
      ∧ ({ wit with ctx := { witCtx with age := 64 } } : State).ready { witCtx with age := 64 } = true := by decide +kernel
theorem test_wit_ContextEventsComplete_end : let s : State := { wit with ctx := { witCtx with stat := .exited } }
    s.rankDone s.ctx = true ∧ s.ctx ∈ s.ctxs ++ s.saved := by decide +kernel
theorem test_wit_ContextEventsComplete_arrival : let p : Pend := { dest := ⟨0, 31⟩, val := 9, msk := 0, rem := 0, flags := 0, ftrap := 0, fault := none, arrived := false,
                                                                    srcpc := 0, srcstep := 0, pool := none }
    ({ witCtx with dq := [p] } : Ctx).dq[0]? = some p ∧ (after (exec (.resultArrival 0 0) { wit with ctx := { witCtx with dq := [p] } })).ctx.sreg 31 = full 9 := by
  decide +kernel
/-- A load that waits for a walk. -/
def walking : State := after (exec (.ldD 1 8 (dx true 0 0)) witDev)
theorem test_wit_ContextEventsComplete_walk : (walking.loadsOf 0).map PLoad.pages = [[0]]
    ∧ walking.walks.map (fun w => (w.die, w.root, w.page)) = [(0, 0x1000, 0)] ∧ walking.loads.map (fun l => (l.root, l.core, l.dest)) = [(0x1000, 0, ⟨0, 1⟩)] := by
  decide +kernel
/-- Its reply, once the walk is done, is the doubleword at its address. -/
theorem test_reply_after_walk : let t := after (exec (.pageWalk 0 0) walking)
    t.loads.map PLoad.pages = [[]] ∧ t.walks = [] ∧ t.tlb.length = 1 ∧ after (exec (.loadReply 0 0 false) walking) = walking
      ∧ (after (exec (.loadReply 0 0 false) t)).ctx.sreg 1 = full 0x8E000000 := by decide +kernel
theorem test_wit_ContextEventsComplete_x : ({ wit with xq := [someX] } : State).nextX 0 = some someX ∧ someX.dropped = false ∧ someX.fail = none
    ∧ someX.m64 = none ∧ someX.writes.map XWrite.row = [0] := by decide +kernel
def someTree : RankTree := ⟨1, 0, 0, [], 0, 0, false, 0, none⟩
def hashing : State := { wit with launches := [someLaunch], trees := [someTree], leaves := [⟨0, 1, 0, 0, 0, some (List.replicate 128 0)⟩] }
theorem test_wit_ContextEventsComplete_leaf : (hashing.nextHash 0).isSome = true ∧ hashing.tree? 1 0 0 = some someTree ∧ hashing.launch? 1 = some someLaunch
    ∧ hashing.anyTree = true ∧ hashing.logWaits 1 = false ∧ someLaunch.coarsen = false
    ∧ logAll hashing 0 false (leafEntries someTree 0 (List.replicate 128 0) [0]) = none
    ∧ (logAll (hashing.setReg 0x200010 0x10000) 0 false (leafEntries someTree 0 (List.replicate 128 0) [0])).isSome = true := by decide +kernel
def someGang : Gang :=
  { id := 1, arr := 1, task := 0, cores := [0], dec := [], gate := [], opened := [], shared := [], mcast := [], snap := none,
    began := none, acc := 0, saved := false, drained := false, relock := [], mate := 0 }
theorem test_wit_ContextEventsComplete_rank : let s : State := { wit with ctx := { witCtx with stat := .exited, gang := 1, arr := 1 }, gangs := [someGang],
                                                                          launches := [someLaunch] }
    s.ctx.live = true ∧ s.gang? 1 = some someGang ∧ someGang.arr = s.ctx.arr ∧ s.launch? 1 = some someLaunch ∧ s.ctx.active = false ∧ s.xq = [] ∧ s.leaves = []
      ∧ s.parked ++ s.saved = [] ∧ s.ctx.dq = [] := by decide +kernel
/-- A queue with one launch packet in a space whose first GiB is mapped to itself. -/
def onePacket : List Byte :=
  [1, 1, 0, 0] ++ leBytes 4 0 ++ leBytes 8 0x8000 ++ leBytes 8 0x4000 ++ leBytes 8 0x40 ++ leBytes 8 0 ++ leBytes 4 1 ++ leBytes 2 4 ++ leBytes 2 4 ++ leBytes 2 1
    ++ List.replicate 78 0
def queued (pkt : List Byte) : State :=
  let t := ((prb.devPut 0x8000 (leBytes 8 0 ++ leBytes 8 0x1FF ++ leBytes 8 0x1000 ++ [47, 0, 0, 0] ++ leBytes 4 0 ++ leBytes 8 1000 ++ leBytes 8 0
    ++ leBytes 8 0x1000000 ++ leBytes 8 0x100000 ++ List.replicate 40 0 ++ leBytes 8 0x100000 ++ leBytes 8 81920)).devPut 0xB000 (leBytes 8 0xC000 ++ leBytes 4 2
    ++ leBytes 4 1 ++ leBytes 8 0 ++ leBytes 8 1 ++ leBytes 8 0x8000)).devPut 0xC000 pkt
  { (((t.setReg 0x600000 3).setReg 0x100000 0xB000).setReg 0x200000 0x8000).setReg 0x200010 0x10000 with
    ctx := {}, wake := [(0, 1)], millis := List.replicate 8 { loaded := true },
    registry := [{ ptroot := 0x1000, text := 0x4000, gw := 1, tiles := 1, lat := lat14 }] }
theorem test_wit_SchedulingComplete_slot : let s := queued onePacket
    s.sysstate = 3 ∧ (s.qdesc 0).map (fun d => (d.flags, d.ridx, d.widx)) = some (1, 0, 1) ∧ ((s.qdesc 0).bind s.queueSpace) = some 0x1000
      ∧ (s.useRead 0x1000 4 0xC000 128).map Prod.snd = some onePacket ∧ (tabGet 0 s.wake 0).toNat = 1 ∧ s.pools = [] ∧ (s.reg 0x60).toNat = s.stackMap := by
  decide +kernel
theorem test_wit_SchedulingComplete_admission : let s := queued onePacket
    s.check1 ⟨0, 0x8000, none, (0, 0)⟩ onePacket = true ∧ (s.check2 onePacket).map Prod.snd = some 0 ∧ (s.codeAt 0x1000 0x4000).isSome = true
      ∧ (s.registry.all (codeFits onePacket)) = true ∧ pkNdep onePacket = 0 ∧ (s.chain 0x8000).map (fun c => s.budgets c 1) = some true
      ∧ s.admits 47 0 1 = true := by decide +kernel
/-- A gang to place, a gang that runs, and one whose core is to be drained. -/
def placing : State :=
  { (queued onePacket).setReg 0x600018 1 with
    launches := [{ someLaunch with packet := onePacket, cabase := 0x100000, casize := 81920, code := { ptroot := 0x1000, text := 0x4000, gw := 1, tiles := 1, lat := lat14 },
                                   prio := 47, root := 0x8000, own := [⟨0x8000, some 1000, some 0x1000000, some 0x100000⟩], stopped := false, replay := false,
                                   runq := [wholeRun onePacket { ptroot := 0x1000, text := 0x4000, gw := 1, tiles := 1, lat := lat14 }] }] }
/-- The same with the given coolant for zone 0 and none for the others. -/
def cooled (set : Nat) : State :=
  { placing with ctl := placing.ctl ++ (List.range 96).map (fun n => (zoneOff n, zoneWord 0 0 (if n = 0 then set else 0) 255 0)) }
theorem test_wit_SchedulingComplete_dispatch : let s := cooled 8
    let l := s.launches.getD 0 someLaunch
    s.anyTree = true ∧ s.launches.filter (fun x => x.inHeap) = [l] ∧ l.fuse = none ∧ (s.seats l [] 0).length = 1 ∧ (s.areas l).length = 1
      ∧ (s.chargeOwn l 81920).isSome = true := by decide +kernel
theorem test_wit_SchedulingComplete_reserve : let s := cooled 7
    let l := s.launches.getD 0 someLaunch
    (∀ k, k < 24 → (s.seats l [] k).length ≠ pkGW l.packet) ∧ s.gangs = [] ∧ s.resvFor ≠ l.arr := by decide +kernel
def placed1 : State := after (exec .dispatch (cooled 255))
theorem test_wit_SchedulingComplete_preempt : let s := after (exec (.scan 0) placed1)
    let g := s.gangs.getD 0 someGang
    placed1.gangs.map (fun g => (g.id, g.cores, g.mate)) = [(1, [0], 0)] ∧ placed1.mayPreempt g false = false ∧ s.mayPreempt g true = true
      ∧ (((s.gangStopped 1).quiet 1).images g).isSome = true := by decide +kernel
theorem test_wit_SchedulingComplete_pop : let s := placed1
    (s.launch? 1).map (fun l => (l.unplaced, l.capture, l.fdfl.testBit 0, s.mayEnd l)) = some (0, none, true, false) := by decide +kernel
theorem test_wit_SchedulingComplete_end : let l : Launch := { someLaunch with placed := 1, ended := 1, inHeap := false, fdfl := 0, stopped := false, replay := false, packet := onePacket }
    let s : State := { State.reset with launches := [l] }
    s.launch? 1 = some l ∧ s.mayEnd l = true ∧ l.chain < 64 ∧ s.allEnded { l with capture := none } = true
      ∧ s.allEnded { someLaunch with replay := false } = true := by decide +kernel
/-- A pair for the Fuller: P copies behind a bundle of its loop, C copies and waits, over one region of 64 bytes; C waits for P's join counter. -/
def note (kind copy sync : Nat) : List Byte :=
  leBytes 8 0 ++ leBytes 4 0 ++ leBytes 4 8 ++ leBytes 4 copy ++ leBytes 4 sync ++ [BitVec.ofNat 8 kind, 0x10, 0, 0] ++ leBytes 4 0 ++ leBytes 4 64 ++ leBytes 12 0
def pairObj (text : Nat) (d : List Byte) : CodeObj :=
  { ptroot := 0x1000, text := BitVec.ofNat 64 text, tsize := 16, gw := 1, tiles := 1, lat := lat14, splice := some d, use := [List.replicate 48 0] }
def pairPacket (code flags ndep deps jctr : Nat) : List Byte :=
  onePacket.take 16 ++ leBytes 8 code ++ (onePacket.drop 24).take 26 ++ leBytes 2 flags ++ leBytes 2 ndep ++ leBytes 2 0 ++ leBytes 8 deps ++ List.replicate 56 0
    ++ leBytes 8 jctr
def pairP : Launch :=
  { someLaunch with packet := pairPacket 0x4000 1 0 0 0x200, prio := 47, root := 0x8000, code := pairObj 0x4000 (note 0 4 0), fdfl := 0, stopped := false,
                    replay := false }
def pairState (kind : Nat) : State :=
  let s := queued (pairPacket 0x5000 2 1 0x100 0)
  let t := (((s.putWords 0x4000 [0x8E000000, 0x89007241, 0x88141FFE, 0x881C0000]).putWords 0x5000 [0x89007241, 0x890841C0, 0x88141FFE, 0x881C0000]).devPut 0x40
    (leBytes 8 3)).devPut 0x100 (leBytes 8 2 ++ leBytes 8 0x200)
  { (((((t.devPut 0x200 (leBytes 8 1)).setReg 0x220000 0x200000).setReg 0x220008 64).setReg 0x600140 1).setReg 0x600120 2) with
    launches := [pairP], nextArr := 2, registry := [pairP.code, pairObj 0x5000 (note kind 0 4)] }
/-- What a pair meets before it is judged, and then: the packet is blocked at one dependence, on the counter of the launch. -/
def judged (s : State) (f : State → Blocked → Launch → Bool) : Bool :=
  match s.blockedAt 0 with
  | none => false
  | some b => match b.at_.depsOf b.space b.packet with
    | none => false
    | some (u, ds) => match u.depTest b.src b.space 0 ds with
      | (v, [j]) => (numAt b.packet 0x32 2).testBit 1 && v.sameCounter b.space (ds.getD j []) pairP && f v b (v.newLaunch b.src b.packet b.chain b.link 0 b.code)
      | _ => false
theorem test_wit_SchedulingComplete_pair : (pairState 1).feat 1 = true ∧ (numAt pairP.packet 0x32 2).testBit 0 = true ∧ pairP.placed = 0 ∧ pairP.inHeap = true
    ∧ pairP.fuse = none ∧ pairP.capture = none ∧ (pairState 1).launch? 1 = some pairP ∧ (pairState 1).noSplice = []
    ∧ judged (pairState 0) (fun v _ c => v.refusal pairP c == 1) = true := by decide +kernel
theorem test_wit_SchedulingComplete_fused : judged (pairState 1) (fun v b c => v.refusal pairP c == 0 && v.nextArr != 1
    && (match v.checks567 b.src b.packet b.chain b.link b.code with
      | none => false
      | some w => w.nextArr == v.nextArr + 1 && ((b.take w).launch? v.nextArr).any (fun m => m.code.splice.isSome)
        && ((b.take w).launch? 1).any (fun p => p.code.splice.isSome))) = true := by decide +kernel
theorem test_wit_SchedulingComplete : let m : Milli := { loaded := true, missed := 2 }
    let s : State := { State.reset with millis := List.replicate 7 m ++ [{ loaded := true, takes := some 0 }], spills := [0x8000], tlbq := [(1, 0, 0, 0)], loadq := [0x80] }
    (s.millis.getD 6 {}).loaded = true ∧ (s.millis.getD 6 {}).stopped = false ∧ 2 ≤ (s.millis.getD 6 {}).missed ∧ (s.millis.getD 7 {}).takes.isSome = true
      ∧ 0x8000 ∈ s.spills ∧ s.dead 0xA0 = false ∧ descOk (leBytes 8 2 ++ List.replicate 120 0) = true ∧ numAt (leBytes 8 2 ++ List.replicate 120 0) 0 8 = 2 := by
  decide +kernel
theorem test_wit_SpdmResponses : State.reset.spdm.signed = [] ∧ (1 : Nat) ≤ 15 ∧ (192 : Nat) ≠ 255 := by decide
theorem test_wit_ControlStores_tlb : let w (n : Nat) : WalkEnt := ⟨0, 0, 0, n, none, 0x0A, 1⟩
    let s : State := { State.reset with tlbq := [(2, 0, 0, 0)], walks := [w 1, w 2] }
    (∃ x ∈ s.walks, x.inv < 2) ∧ ∀ x ∈ ({ s with walks := [w 2] } : State).walks, 2 ≤ x.inv := by decide
theorem test_wit_ControlStores_loads : let s : State := { queued onePacket with loadq := [0xD000] }
    let d := memRead s.mem 0xD000 128
    (s.reg 0x60).toNat = s.stackMap ∧ numAt d 0 8 ≠ 2 ∧ (match s.loadObj d with
      | .ok _ => false
      | .error _ => true) = true ∧ descOk (leBytes 8 2 ++ List.replicate 119 0 ++ [1]) = false := by decide +kernel
theorem test_wit_ControlStores_dump : let d : Dump := { desc := 0x80, wait := false, arr := 0, task := 0, dest := 0x100000, size := 131200, out := 65600, hold := false,
                                                        root := 0, todo := [(0, 0)], pages := 1 }
    d.out + 65600 ≤ d.size ∧ ({ d with size := 131199 } : Dump).size < d.out + 65600 ∧ d.todo = [(0, 0)] ∧ (State.reset.reg 0x60).toNat = State.reset.stackMap := by
  decide +kernel
theorem test_wit_ReliabilityComplete_flits : let fl := leBytes 64 3
    let c := crc32c (fl ++ [0, 0, 0, 0])
    c < 2 ^ 32 ∧ crc32c (fl ++ leBytes 4 (BitVec.ofNat 64 (c * 2 ^ 32)).toNat) = (BitVec.ofNat 64 (c * 2 ^ 32)).toNat / 2 ^ 32
      ∧ crc32c (fl ++ leBytes 4 (BitVec.ofNat 64 ((c + 1) % 2 ^ 32 * 2 ^ 32)).toNat) ≠ (c + 1) % 2 ^ 32
      ∧ ((State.reset.setReg 0x600010 0x1000000).reg 0x600010).getLsbD 24 = true ∧ tabGet 0 [(0, 7)] 0 = 7 := by decide +kernel
theorem test_wit_SpdmResponses_space : let s := queued onePacket
    s.spaceOf 0x8000 = some 0x1000 ∧ argPath 0x1000 = true ∧ argPath 0x1300000000000000 = false ∧ (s.useRead 0x1000 3 0x1000 128).isSome = true
      ∧ (s.useAddr 0x1000 0x100000 true).map Prod.fst = some (.dev 0x100000) ∧ s.shadow? 0 0x100000 = none ∧ (s.useRead 0x1000 5 0x1000 256).isSome = true
      ∧ (((s.setReg 0x600140 1).setReg 0x600120 0x60).feat 6) = true ∧ (((s.setReg 0x600140 1).setReg 0x600120 0x60).feat 5) = true := by decide +kernel
theorem test_wit_SpdmResponses_capture : let s := queued onePacket
    numAt onePacket 0 1 = 1 ∧ (s.chain (pkRcb onePacket)).map (chainOk (pkGW onePacket)) = some true ∧ pkTasks onePacket = 1 ∧ pkGW onePacket = 1
      ∧ (s.useRead 0x1000 4 0xC000 128).map Prod.snd = some onePacket ∧ s.launches.length < 256 := by decide +kernel
theorem test_wit_SpdmResponses_interval : let s : State := (((({ State.reset with tb := 5 } : State).setReg 0x600140 1).setReg 0x600120 0x20).setReg 0x200028 5).setReg 0x200030 1
    s.feat 5 = true ∧ (tabGet 0 s.signedAt 0).toNat + (s.reg 0x200028).toNat ≤ s.tb.toNat ∧ s.reg 0x200030 ≠ tabGet 0 s.lastSign 0
      ∧ (s.reg 0x200010).toNat < 36224 + 4096 ∧ 36224 + 4096 ≤ ((s.setReg 0x200010 0x10000).reg 0x200010).toNat := by decide +kernel
theorem test_wit_VisibleResultWritesItsRegister : let p : Pend := { dest := ⟨0, 31⟩, val := 0, msk := 0, rem := 0, flags := 0, ftrap := 0, fault := none,
                                                                    arrived := true, srcpc := 0, srcstep := 0, pool := none }
    p.fault = none ∧ p.dest = ⟨0, 31⟩ ∧ ({ p with dest := ⟨3, 2047⟩ } : Pend).fault = none := by decide
theorem test_wit_BranchTests_traps : let s : State := { wit with ctx := { witCtx with regions := [wit.checkpoint 0] } }
    wit.rdS 1 = .ok 5 ∧ (5 : Word).toNat % 4 ≠ 0 ∧ wit.rdS 4 = .ok 0x1000000000000000 ∧ (0x1000000000000000 : Word).toNat % 4 = 0
      ∧ 2 ^ 56 ≤ (0x1000000000000000 : Word).toNat ∧ s.ctx.regions ≠ [] ∧ s.ctx.inh = false ∧ s.rdP 1 = .ok true
      ∧ (({ witCtx with s := [(31, full 6)] } : Ctx).sreg 31).val.toNat % 4 ≠ 0 := by decide +kernel
theorem test_wit_Conversions_rows : wit.rdV 2 = .ok (5 : Row) ∧ (∃ sw dw, cvtShape 2 = .narrowing sw dw) ∧ (∃ sw dw, cvtShape 11 = .widening sw dw) := ⟨rfl, ⟨_, _, rfl⟩, ⟨_, _, rfl⟩⟩
theorem test_wit_ScalarLoadsComplete_base : (midxExt (dx true 0 0)).u = true ∧ srcNum 3 = (3 : BitVec 5).toNat ∧ wit.dstS 3 = .ok () := by decide
theorem test_wit_ScalarLoadsComplete_fault : witDev.issueCheck .ld 0x40000000 8 = .ok () ∧ witDev.elemHold 0x40000000 8 = .ok ()
    ∧ (witDev.loadElem 0x40000000 8).2.isOk = false := by decide +kernel
theorem test_wit_VectorLoadsComplete_fault : let as := laneAddrs [0, 127] (fun i => 0x40000000 + BitVec.ofNat 64 (i * 4))
    witDev.checkLanes .vld 4 as = .ok () ∧ witDev.holdLanes 4 false as = .ok () ∧ witDev.room (granuleCount as) = true ∧ witDev.watchLanes true 4 as = none
      ∧ (readLanes 4 as witDev).fault.isSome = true := by decide +kernel
theorem test_wit_stores_room : witDev.room 1 = true ∧ witDev.room 8192 = true ∧ witDev.room 8193 = false ∧ wit.room 0 = true
    ∧ witDev.farFails 0 (.dev 0x4000) true = false ∧ witDev.farFails 0 (.host 0) false = false := by decide +kernel
theorem test_wit_OrderingInstructions_tcvt : ({ wit with xq := [{ someX with win := (0, 1), pc := 4 }] } : State).tcvtOut = true := by decide +kernel
theorem test_wit_TransfersIssue_coll_bad : let ds := List.replicate 0x1C 0 ++ leBytes 4 1 ++ List.replicate 32 0
    collBad (leBytes 16 0 ++ leBytes 4 32769 ++ ds.drop 20) = some 32769 ∧ isOk ((witS ds).readDesc witCtx 0x1300000000000000 64) = true := by decide +kernel
theorem test_wit_TransfersIssue_xplane_traps : let b (c : Nat) (r : Word) : State := { wit with ctx := { witCtx with drain := some ⟨36, [], c, r⟩ } }
    wit.rdS 3 = .ok 0x1300000000000100 ∧ selOf 0x1300000000000100 = 0x13 ∧ (0x1000000000000400 : Word).toNat % 2048 ≠ 0
      ∧ winSize (wit.ctx.win 0) < lowOf 0x10000000000FF800 + 16384 ∧ wit.ctx.drain = none ∧ (b 1 0).ctx.drain.isSome = true
      ∧ (b 0 1).ctx.step.toNat < (1 : Word).toNat := by decide +kernel
theorem test_wit_TimelineInstructions_waitwp : let c : Ctx := { witCtx with tls := [{ issued := 6, done := 5, fails := [5] }], wps := [⟨3, 64, 5⟩] }
    let w := c.wps.getD 0 {}
    let e : Ctx := { witCtx with tls := [{ issued := 6, done := 4 }], wps := [⟨3, 64, 5⟩] }
    w.num ≠ 0 ∧ w.val.toNat < (5 : Word).toNat ∧ w.num ≤ (c.tl 0).done ∧ w.num ∈ (c.tl 0).fails ∧ (e.tl 0).done < (e.wps.getD 0 {}).num
      ∧ (e.wps.getD 0 {}).num ∉ (e.tl 0).fins ∧ w.num ∉ (e.tl 0).fails := by decide
theorem test_wit_SystemInstructions_handler : ({ witCtx with inh := true } : Ctx).inh = true := rfl
theorem test_wit_ControlStores_poisoned : let s : State := { queued onePacket with loadq := [0xD000] }
    let t := s.markLine 0xD040 true
    t.loadq = [0xD000] ∧ (t.reg 0x60).toNat = t.stackMap ∧ t.poisoned (0xD000 + 64) = true := by decide +kernel
theorem test_wit_StartsComplete_recovery : let s := State.reset.setReg 0x600000 4
    s.sysstate = 4 ∧ State.reset.trained 15 = false ∧ State.reset.trained 47 = false ∧ State.reset.sysstate ≠ 5 := by decide +kernel
theorem test_wit_ReliabilityComplete_uncontained : let l : Launch := { someLaunch with stopped := false }
    let s : State := { wit with ctx := { witCtx with arr := 1, compl := [{ cause := 0x0C }] }, launches := [l] }
    s.launch? 1 = some l ∧ l.fdfl.testBit 0 = true ∧ l.cpol = 2 ∧ s.uncontainedCause 1 = true ∧ s.gangs = [] ∧ s.shadows = []
      ∧ ({ s with ctx := { s.ctx with inh := true, compl := [{ cause := 0x0F, defer := true }] } } : State).uncontainedCause 1 = false := by decide +kernel
theorem test_wit_StartsComplete_warm : let s := (wet (fun _ => 0xFF00)).takeMeasure 2 1
    s.sysstate = 2 ∧ s.launches = [] ∧ s.dump = none ∧ (0 : BitVec 384) ≠ s.measurement 2 ∧ (List.range 120).all (fun n => zState (s.zone n) = 0) = true := by
  decide +kernel
theorem test_wit_ReliabilityComplete_up : let s := State.reset.setReg 0x600010 0x800001000000
    s.brimUp 0 = true ∧ s.brimUp 23 = true ∧ State.reset.brimUp 0 = false := by decide +kernel
theorem test_wit_ReliabilityComplete_type4 : let s := (((State.reset.setReg 0x604010 0x1000000).setReg 0x600140 1).setReg 0x600120 0x10)
    let fl := leBytes 64 (4 + 1 * 2 ^ 64)
    s.feat 4 = true ∧ numAt fl 0 1 = 4 ∧ numAt fl 8 4 = 1 ∧ 0 ∈ s.downPorts 1 ∧ tabGet 0 s.collSeq 1 ≤ numAt fl 4 4
      ∧ s.collFlit 1 (numAt fl 4 4) (numAt fl 12 4) 0 = none := by decide +kernel
theorem test_wit_ReliabilityComplete_peer : let s := (State.reset.setReg 0x211000 0x10000).setReg 0x211008 192
    (s.reg 0x60).toNat = s.stackMap ∧ s.poisoned 0x40 = false := by decide +kernel
theorem test_wit_MatrixProductsStart_remote : let r : Option RemX := some ⟨true, true, false, 0⟩
    let q : Option RemX := some ⟨false, true, true, 0⟩
    (wit.srcA r).isSome = true ∧ (wit.srcB r).isSome = true ∧ (wit.srcB q).isSome = true ∧ remMc q = true ∧ wit.mcastBad = [] := by decide +kernel
theorem test_wit_TileOperationsStart_planes : let v : Word := 0x0000000008000101
    wit.clipCheck v true false true 128 = .ok () ∧ clPlanes v = 8 ∧ bufCheck 0x1000000000000000 2048 0 = .ok ()
      ∧ wit.windowCheck 0x1000000000000000 (2048 * 8) true = .ok () ∧ wit.xgate 64 [] = .ok ()
      ∧ wit.aliasBusy wit.ctx 0 (wit.ctx.bufSegs 0 0 16384) = false := by decide +kernel

/-! Single steps and numbers, with results worked out in the manual. -/

/-- The scalar results that a slot leaves, and the causes of the traps that it notes. -/
def outS (r : Res) : List (Nat × Word) := match r with
  | .next t => t.iss.out.map (fun x => (x.2.dest.num, x.2.val.truncate 64))
  | .fault _ => []
  | .refused _ => []
def causes (r : Res) : List Nat := match r with
  | .next t => t.iss.traps.map Trap.cause
  | .fault _ => []
  | .refused _ => []

/-- Table 9.3. -/
def div7 (a b : Int) : State := { wit with ctx := { witCtx with s := [(1, full (BitVec.ofInt 64 a)), (2, full (BitVec.ofInt 64 b))] } }
theorem test_div_toward_zero : outS (exec (.div 3 1 (.reg 2)) (div7 7 (-2))) = [(3, BitVec.ofInt 64 (-3))] := by decide +kernel
theorem test_rem_sign_of_dividend : outS (exec (.rem 3 1 (.reg 2)) (div7 (-7) 2)) = [(3, BitVec.ofInt 64 (-1))] := by decide +kernel
theorem test_divu_unsigned : outS (exec (.divu 3 1 (.reg 2)) (div7 (-7) 2)) = [(3, 0x7FFFFFFFFFFFFFFC)] := by decide +kernel
theorem test_remu_overflow_pair : outS (exec (.remu 3 1 (.reg 2)) (div7 (-(2 ^ 63)) (-1))) = [(3, 0x8000000000000000)] := by decide +kernel
theorem test_div_by_zero_traps : causes (exec (.div 3 1 (.reg 0)) (div7 7 0)) = [0x16] := by decide +kernel

/-- The conversions of the chapter "Arithmetic Worked by Hand": RM 0 is RNE, 4 is RNA. -/
def env (rm : Nat) : REnv := ⟨rm, 0, false, false, fun _ => 0⟩
theorem test_cvt_200_5_to_i8 : cvtI (env 0) 0 8 (.fin false 401 (-1)) = ⟨127, fSAT + fINX⟩ := by decide +kernel
theorem test_cvt_ties_to_even : cvtI (env 0) 0 8 (.fin true 5 (-1)) = ⟨encI 8 (-2), fINX⟩ := by decide +kernel
theorem test_cvt_500_to_e4m3 : cvtV (env 0) E4M3 0 (.fin false 500 0) = ⟨0x7E, fOVF + fINX⟩ := by decide +kernel
theorem test_cvt_inf_to_e4m3 : cvtV (env 0) E4M3 0 (.inf true) = ⟨0xFF, fINV⟩ := by decide +kernel
theorem test_cvt_inf_to_e5m2 : cvtV (env 0) E5M2 0 (.inf false) = ⟨0x7C, 0⟩ := by decide +kernel
/-- An I36 part of 37 with scales 0.75 and 1 adds exactly 27.75 (131 is 127 + 4, and 27.75 is 2⁴ × (1 + 0.734375)). -/
theorem test_sacc_exact : saccElem (env 0) 0 (.fin false 0 0) (intV 37) (s12 0x07E8) (s12 0xA7F0) = ⟨131 * 2 ^ 27 + 98566144, 0⟩ := by decide +kernel
/-- The block sum of 1, 2⁻⁶², 3 × 2⁻⁶² and −3 × 2⁻⁶² is 1 with INX. -/
theorem test_block_sum_truncates : (mmaFloat (env 0) false [(.fin false 1 0, .fin false 1 0), (.fin false 1 (-31), .fin false 1 (-31)),
    (.fin false 3 (-31), .fin false 1 (-31)), (.fin true 3 (-31), .fin false 1 (-31))] 0 0) = ⟨127 * 2 ^ 27, fINX⟩ := by decide +kernel
/-- The planes of −75 = 0b1011_0101: four of them read −5. -/
theorem test_plane_prefix : decI 4 0b1011 = -5 := by decide
/-- A store writes its low bytes upward, little-endian. -/
theorem test_store_little_endian : (match exec (.stW 6 8 (.disp1 0 ⟨0, false, 0, 0, 0⟩)) { witDev with ctx := { witCtx with s := [(6, full 0x11223344), (8, full 0x4000)] } } with
    | .next t => memRead t.mem 0x3FFF 6
    | .fault _ => []
    | .refused _ => []) = [0x00, 0x44, 0x33, 0x22, 0x11, 0x00] := by decide +kernel
/-- A loop with LC 0 falls through: no exit is taken (R142). -/
theorem test_loop_falls_through : (match exec (.loop 0 false ⟨0x1FF8, none⟩) wit with
    | .next t => t.iss.taken.isSome
    | .fault _ => true
    | .refused _ => true) = false := by decide +kernel
/-- A trap slot leaves cause 0x13 with its code for the boundary after its bundle (R146). -/
theorem test_trap_completes : (match exec (.trap 7) wit with
    | .next t => t.iss.compl.map (fun x => (x.cause, x.code))
    | .fault _ => []
    | .refused _ => []) = [(0x13, 7)] := by decide +kernel
/-- rft outside a handler is privileged (R148). -/
theorem test_rft_outside_handler : causes (exec .rft wit) = [0x04] := by decide +kernel

end Sys2Proof.Tests
end

/-! ## Control registers, fields of words, and frames of the device's own writes -/

namespace Sys2Proof.Machine

/-! ### Registers -/

@[simp] theorem reg_setReg_same (s : State) (o : Nat) (v : Word) : (s.setReg o v).reg o = v := by
  by_cases h : v = ctlReset o <;> simp [State.reg, State.setReg, tabFind_tabPut_same, h]

theorem reg_setReg_other (s : State) {o x : Nat} (v : Word) (h : x ≠ o) : (s.setReg o v).reg x = s.reg x := by
  simp [State.reg, State.setReg, tabFind_tabPut_other _ _ _ _ h]

theorem reg_setReg (s : State) (o x : Nat) (v : Word) : (s.setReg o v).reg x = if x = o then v else s.reg x := by
  split
  · next h => rw [h, reg_setReg_same]
  · next h => exact reg_setReg_other s v h

/-- A register reads from the control table alone. -/
theorem reg_eq_of_ctl {s t : State} (h : t.ctl = s.ctl) (o : Nat) : t.reg o = s.reg o := by
  unfold State.reg; rw [h]

theorem reg_setBit_other (s : State) {o x : Nat} (b : Nat) (v : Bool) (h : x ≠ o) : (s.setBit o b v).reg x = s.reg x :=
  reg_setReg_other s _ h

theorem getLsbD_bit (b i : Nat) (hb : b < 64) : (BitVec.ofNat 64 (2 ^ b)).getLsbD i = decide (i = b) := by
  rw [BitVec.getLsbD_ofNat, Nat.testBit_two_pow, Bool.eq_iff_iff]
  simp
  omega

/-- Setting a bit of a register changes that bit and no other. -/
theorem getLsbD_setBit (s : State) (o b i : Nat) (v : Bool) (hb : b < 64) :
    ((s.setBit o b v).reg o).getLsbD i = if i = b then v else (s.reg o).getLsbD i := by
  cases v <;>
    simp only [State.setBit, reg_setReg_same, BitVec.getLsbD_or, BitVec.getLsbD_and, BitVec.getLsbD_not, getLsbD_bit _ _ hb, if_true,
      Bool.false_eq_true, if_false] <;>
    by_cases h : i = b <;> simp only [h, decide_true, decide_false, if_true, if_false, Bool.or_true, Bool.or_false, Bool.not_true,
      Bool.not_false, Bool.and_false, Bool.and_true]
  by_cases hi : i < 64
  · simp only [hi, decide_true, Bool.and_true]
  · rw [BitVec.getLsbD_of_ge _ _ (Nat.le_of_not_lt hi), Bool.false_and]

/-! ### Fields -/

theorem testBit_wfld (w : Word) (lo n i : Nat) : (wfld w lo n).testBit i = (decide (i < n) && w.getLsbD (lo + i)) := by
  rw [wfld, Nat.testBit_mod_two_pow, Nat.testBit_div_two_pow, BitVec.getLsbD, Nat.add_comm]

/-- Two words that agree on a field's bits have the same field. -/
theorem wfld_congr {v w : Word} {lo n : Nat} (h : ∀ i, i < n → v.getLsbD (lo + i) = w.getLsbD (lo + i)) : wfld v lo n = wfld w lo n := by
  refine Nat.eq_of_testBit_eq (fun i => ?_)
  rw [testBit_wfld, testBit_wfld]
  by_cases hi : i < n <;> simp [hi, h]

theorem getLsbD_putFld (w : Word) (lo n v i : Nat) (h : lo + n ≤ 64) :
    (putFld w lo n v).getLsbD i = if lo ≤ i ∧ i < lo + n then v.testBit (i - lo) else w.getLsbD i := by
  by_cases hi : i < 64
  · have hn : i < lo + n ↔ i - lo < n ∨ i < lo := by omega
    by_cases h1 : lo ≤ i <;> by_cases h2 : i - lo < n <;>
      simp only [putFld, BitVec.getLsbD_or, BitVec.getLsbD_and, BitVec.getLsbD_not, BitVec.getLsbD_ofNat, hi, Nat.testBit_mul_two_pow,
        Nat.testBit_two_pow_sub_one, Nat.testBit_mod_two_pow, h1, h2, hn] <;>
      simp [h1]
  · rw [BitVec.getLsbD_of_ge _ _ (Nat.le_of_not_lt hi), BitVec.getLsbD_of_ge _ _ (Nat.le_of_not_lt hi), if_neg (by omega)]

/-- A field reads back as it was put. -/
theorem wfld_putFld_same (w : Word) (lo n v : Nat) (h : lo + n ≤ 64) : wfld (putFld w lo n v) lo n = v % 2 ^ n := by
  refine Nat.eq_of_testBit_eq (fun i => ?_)
  rw [testBit_wfld, getLsbD_putFld _ _ _ _ _ h, Nat.testBit_mod_two_pow]
  by_cases hi : i < n <;> simp [hi]

/-- A field apart from the one that is put stays. -/
theorem wfld_putFld_other (w : Word) (lo n v l m : Nat) (h : lo + n ≤ 64) (hd : l + m ≤ lo ∨ lo + n ≤ l) :
    wfld (putFld w lo n v) l m = wfld w l m := by
  refine wfld_congr (fun i hi => ?_)
  rw [getLsbD_putFld _ _ _ _ _ h, if_neg (by omega)]

section
variable (step state set ceil floor : Nat)

theorem zoneWord_toNat : (zoneWord step state set ceil floor).toNat
    = step % 256 * 2 ^ 32 + state % 256 * 2 ^ 24 + set % 256 * 2 ^ 16 + ceil % 256 * 2 ^ 8 + floor % 256 := by
  rw [zoneWord, BitVec.toNat_ofNat]
  omega

@[simp] theorem zStep_zoneWord : zStep (zoneWord step state set ceil floor) = step % 256 := by
  rw [zStep, wfld, zoneWord_toNat]; omega

@[simp] theorem zState_zoneWord : zState (zoneWord step state set ceil floor) = state % 256 := by
  rw [zState, wfld, zoneWord_toNat]; omega

@[simp] theorem zSet_zoneWord : zSet (zoneWord step state set ceil floor) = set % 256 := by
  rw [zSet, wfld, zoneWord_toNat]; omega
end

theorem zSet_lt (w : Word) : zSet w < 256 := Nat.mod_lt _ (by decide)
theorem zFloor_lt (w : Word) : zFloor w < 256 := Nat.mod_lt _ (by decide)

@[simp] theorem zone_setZone_same (s : State) (n st step set : Nat) :
    (s.setZone n st step set).zone n = zoneWord step st set (zCeil (s.zone n)) (zFloor (s.zone n)) := reg_setReg_same _ _ _

/-! ### Frames

The device's own writes reach device memory with its marks, the wake registers, a dump's progress and control registers. `Frame L s t` says
that `t` differs from `s` in nothing else, and among the registers at most in those of `L`. -/

/-- A state without the parts that the device writes on its own behalf. -/
def State.rest (s : State) : State := { s with mem := [], pline := [], wake := [], dump := none, ctl := [] }

theorem rest_of_mem (s : State) (m : Memory) (p : Tab Bool) : ({ s with mem := m, pline := p } : State).rest = s.rest := rfl

/-- `t` is `s` but for device memory and its marks, wake registers, the dump, and the registers in `L`. -/
structure Frame (L : List Nat) (s t : State) : Prop where
  rest : t.rest = s.rest
  reg : ∀ o, o ∉ L → t.reg o = s.reg o

namespace Frame
variable {L M : List Nat} {s t u : State}

theorem refl (L : List Nat) (s : State) : Frame L s s := ⟨rfl, fun _ _ => rfl⟩

theorem trans (h : Frame L s t) (k : Frame L t u) : Frame L s u :=
  ⟨k.rest.trans h.rest, fun o ho => (k.reg o ho).trans (h.reg o ho)⟩

theorem mono (h : Frame L s t) (hs : L ⊆ M) : Frame M s t := ⟨h.rest, fun o ho => h.reg o (fun hm => ho (hs hm))⟩

/-- Frames in sequence, over both lists. -/
theorem seq (h : Frame L s t) (k : Frame M t u) : Frame (L ++ M) s u :=
  (h.mono (List.subset_append_left L M)).trans (k.mono (List.subset_append_right L M))

theorem of_ctl (h : t.rest = s.rest) (hc : t.ctl = s.ctl) : Frame L s t := ⟨h, fun o _ => reg_eq_of_ctl hc o⟩

theorem foldl {α : Type} (f : State → α → State) (h : ∀ s x, Frame L s (f s x)) (xs : List α) (s : State) : Frame L s (xs.foldl f s) := by
  induction xs generalizing s with
  | nil => exact refl L s
  | cons x xs ih => exact (h s x).trans (ih _)

theorem ctx (h : Frame L s t) : t.ctx = s.ctx := (congrArg State.ctx h.rest : _)
theorem parked (h : Frame L s t) : t.parked = s.parked := (congrArg State.parked h.rest : _)
theorem saved (h : Frame L s t) : t.saved = s.saved := (congrArg State.saved h.rest : _)
theorem rows (h : Frame L s t) : t.rows = s.rows := (congrArg State.rows h.rest : _)
theorem pbuf (h : Frame L s t) : t.pbuf = s.pbuf := (congrArg State.pbuf h.rest : _)
theorem stackMap (h : Frame L s t) : t.stackMap = s.stackMap := (congrArg State.stackMap h.rest : _)
theorem tb (h : Frame L s t) : t.tb = s.tb := (congrArg State.tb h.rest : _)
theorem gangs (h : Frame L s t) : t.gangs = s.gangs := (congrArg State.gangs h.rest : _)
theorem launches (h : Frame L s t) : t.launches = s.launches := (congrArg State.launches h.rest : _)
theorem millis (h : Frame L s t) : t.millis = s.millis := (congrArg State.millis h.rest : _)
theorem clock (h : Frame L s t) : t.clock = s.clock := (congrArg State.clock h.rest : _)
theorem trips (h : Frame L s t) : t.trips = s.trips := (congrArg State.trips h.rest : _)
theorem retries (h : Frame L s t) : t.retries = s.retries := (congrArg State.retries h.rest : _)
theorem vfOn (h : Frame L s t) : t.vfOn = s.vfOn := (congrArg State.vfOn h.rest : _)
theorem inputs (h : Frame L s t) : t.inputs = s.inputs := (congrArg State.inputs h.rest : _)
theorem measure (h : Frame L s t) : t.measure = s.measure := (congrArg State.measure h.rest : _)

theorem row (h : Frame L s t) (core r : Nat) : t.row core r = s.row core r := by unfold State.row; rw [h.rows]
theorem zone (h : Frame L s t) (n : Nat) (hn : zoneOff n ∉ L) : t.zone n = s.zone n := h.reg _ hn

end Frame

theorem frame_setReg (s : State) (o : Nat) (v : Word) : Frame [o] s (s.setReg o v) :=
  ⟨rfl, fun _ hx => reg_setReg_other s v (by simpa using hx)⟩

theorem frame_setBit (s : State) (o b : Nat) (v : Bool) : Frame [o] s (s.setBit o b v) := frame_setReg s o _

theorem frame_devPut (s : State) (pa : Nat) (bs : List Byte) : Frame [] s (s.devPut pa bs) :=
  have h := devPut_frame s pa bs
  Frame.of_ctl ((rest_of_mem _ _ _).symm.trans (congrArg State.rest h :)) (congrArg State.ctl h :)

theorem frame_devNat (s : State) (pa n v : Nat) : Frame [] s (s.devNat pa n v) := frame_devPut s pa _

theorem frame_touch (s : State) (ea : Nat) (wr : Bool) : Frame [] s (s.touch ea wr) := by
  unfold State.touch
  split
  · exact Frame.refl _ s
  · exact ⟨rfl, fun _ _ => rfl⟩

theorem frame_wakePut (s : State) (q : Nat) (v : Word) : Frame [] s (s.wakePut q v) := ⟨rfl, fun _ _ => rfl⟩

theorem frame_setDump (s : State) (d : Option Dump) : Frame [] s { s with dump := d } := ⟨rfl, fun _ _ => rfl⟩

theorem frame_endDump (s : State) (d : Dump) (stat : Nat) : Frame [] s (s.endDump d stat) :=
  ((frame_devNat s _ _ _).trans (frame_devNat _ _ _ _)).trans (frame_setDump _ _)

theorem frame_dumpMarks (s : State) (d : Dump) (pa dst : Nat) : Frame [] s (s.dumpMarks d pa dst) := by
  refine Frame.foldl _ (fun t i => ?_) _ s
  split
  · exact ⟨rfl, fun _ _ => rfl⟩
  · exact Frame.refl _ t

theorem frame_dumpCopy (s : State) : Frame [] s s.dumpCopy := by
  unfold State.dumpCopy
  split
  · exact Frame.refl _ s
  · next d _ =>
    split
    · exact frame_endDump s d 2
    · simp only
      split
      · exact frame_endDump s d 3
      · next t e hput =>
        unfold Dump.put at hput
        split at hput
        · cases hput
        · cases hput
          exact ((frame_devPut s _ _).trans (frame_dumpMarks _ _ _ _)).trans (frame_setDump _ _)

theorem frame_dumpPast (held : State → Bool) (n : Nat) (s : State) : Frame [] s (State.dumpPast held n s) := by
  induction n generalizing s with
  | zero => exact Frame.refl _ s
  | succ n ih =>
    unfold State.dumpPast
    split
    · exact (frame_dumpCopy s).trans (ih _)
    · exact Frame.refl _ s

theorem frame_dumpFirst (s : State) (held : State → Bool) : Frame [] s (s.dumpFirst held) := by
  unfold State.dumpFirst
  split
  · exact Frame.refl _ s
  · exact frame_dumpPast _ _ s

theorem frame_dumpVa (s : State) (root : Word) (va n : Nat) : Frame [] s (s.dumpVa root va n) := frame_dumpFirst s _

theorem frame_sendTo (s t : State) (q : Nat) (b : List Byte) (h : s.sendTo q b = some t) : Frame [] s t := by
  unfold State.sendTo at h
  split at h
  · cases h
  · split at h
    · cases h
    · split at h
      · cases h
      · simp only at h
        split at h
        · cases h
          exact ((((frame_dumpVa s _ _ _).trans (frame_touch _ _ _)).trans (frame_devPut _ _ _)).trans (frame_devNat _ _ _ _)).trans
            (frame_wakePut _ _ _)
        · cases h

/-- The counter of dropped records, the only register that a record may change. -/
abbrev errDrop : Nat := 0x231008

theorem frame_sendMgt (s : State) (b : List Byte) : Frame [errDrop] s (s.sendMgt b) := by
  unfold State.sendMgt
  split
  · next t h => exact (frame_sendTo s t _ b h).mono (List.nil_subset _)
  · exact frame_setReg s _ _

/-- A record changes device memory, wake registers and the drop count, and nothing else (R356). -/
theorem frame_sendRec (s : State) (r : ErrRec) (route : Option Nat) : Frame [errDrop] s (s.sendRec r route) := by
  unfold State.sendRec
  split
  · exact frame_sendMgt s _
  · next q =>
    have hroute : Frame [errDrop] s (match s.sendTo q (r.bytes s.tb) with
        | some t => t
        | none => s.sendMgt (r.bytes s.tb)) := by
      split
      · next t h => exact (frame_sendTo s t _ _ h).mono (List.nil_subset _)
      · exact frame_sendMgt s _
    simp only
    split
    · exact hroute.trans (frame_sendMgt _ _)
    · exact hroute

end Sys2Proof.Machine

namespace Sys2Proof.Machine

/-! ### Fences (R25, R26, R395) -/

/-- The registers that fences change: the fence maps, READY0 and the drop count. -/
def fenceRegs : List Nat := [0x20, 0x28, 0x30, 0x38, 0x40, 0x48, 0x50, 0x58, 0x60, 0x600010, errDrop]

theorem frame_fenceRec (s : State) (u i d : Nat) : Frame [errDrop] s (s.fenceRec u i d) := frame_sendRec s _ _

theorem frame_fenceCoreFor (s : State) (n : Nat) (r : ErrRec) : Frame [0x20 + 8 * (n / 64), errDrop] s (s.fenceCoreFor n r) := by
  unfold State.fenceCoreFor
  split
  · exact Frame.refl _ s
  · exact (frame_setBit s _ _ _).seq (frame_sendRec _ _ _)

theorem frame_fenceCore (s : State) (n : Nat) : Frame [0x20 + 8 * (n / 64), errDrop] s (s.fenceCore n) := frame_fenceCoreFor s n _

theorem frame_fenceStack (s : State) (k : Nat) : Frame [0x60, 0x600010, errDrop] s (s.fenceStack k) := by
  unfold State.fenceStack
  split
  · exact Frame.refl _ s
  · exact ((frame_setBit s _ _ _).seq (frame_setBit _ _ _ _)).seq (frame_fenceRec _ _ _ _)

theorem frame_portDown (s : State) (p : Nat) : Frame [0x58, 0x600010, errDrop] s (s.portDown p) := by
  unfold State.portDown
  split
  · exact Frame.refl _ s
  · exact ((frame_setBit s _ _ _).seq (frame_setBit _ _ _ _)).seq (frame_fenceRec _ _ _ _)

theorem frame_fenceReferee (s : State) (i : Nat) : Frame [0x50, errDrop] s (s.fenceReferee i) := by
  unfold State.fenceReferee
  split
  · exact Frame.refl _ s
  · exact (frame_setBit s _ _ _).seq (frame_fenceRec _ _ _ _)

theorem frame_fenceMilliner (s : State) (m : Nat) : Frame [0x50, errDrop] s (s.fenceMilliner m) := by
  unfold State.fenceMilliner
  split
  · exact Frame.refl _ s
  · exact (frame_setBit s _ _ _).seq (frame_fenceRec _ _ _ _)

/-- A state without its Milliners, which a fence of an I/O die's zone stops as well. -/
def State.noMillis (s : State) : State := { s with millis := [] }

/-- What holds outside the Milliners, too. -/
theorem Frame.noMillis {L : List Nat} {s t : State} (h : Frame L s t) : Frame L s.noMillis t.noMillis :=
  ⟨congrArg (fun u : State => { u with millis := [] }) h.rest, h.reg⟩

theorem frame_updMilli (L : List Nat) (s : State) (m : Nat) (f : Milli → Milli) : Frame L s.noMillis (s.updMilli m f).noMillis :=
  Frame.refl L s.noMillis

/-- A fold of steps that each stay in a frame but for the Milliners. -/
theorem Frame.foldl_noMillis {α : Type} {L : List Nat} (f : State → α → State) (xs : List α)
    (h : ∀ s, ∀ x ∈ xs, Frame L s.noMillis (f s x).noMillis) (s : State) : Frame L s.noMillis (xs.foldl f s).noMillis := by
  induction xs generalizing s with
  | nil => exact Frame.refl L _
  | cons x xs ih => exact (h s x (by simp)).trans (ih (fun u y hy => h u y (by simp [hy])) _)

theorem frame_fenceCore_lt (s : State) (n : Nat) (h : n < 384) : Frame fenceRegs s (s.fenceCore n) := by
  refine (frame_fenceCore s n).mono (List.cons_subset.mpr ⟨?_, by decide⟩)
  have h6 : n / 64 < 6 := by omega
  interval_cases n / 64 <;> decide

/-- The fences of a zone's units change the fence registers and the Milliners alone. -/
theorem frame_fenceZone (s : State) (n : Nat) : Frame fenceRegs s.noMillis (s.fenceZone n).noMillis := by
  unfold State.fenceZone
  split
  · refine Frame.foldl_noMillis _ _ (fun t i hi => (frame_fenceCore_lt t _ ?_).noMillis) s
    have := List.mem_range.mp hi
    omega
  · split
    · exact ((frame_fenceStack s _).mono (by decide)).noMillis
    · simp only
      split
      · exact Frame.foldl_noMillis _ _
          (fun t m _ => ((frame_fenceMilliner t _).mono (by decide)).noMillis.trans (frame_updMilli _ _ _ _)) s
      · exact Frame.foldl_noMillis _ _ (fun t p _ => ((frame_portDown t _).mono (by decide)).noMillis) s
      · exact ((frame_fenceReferee s _).mono (by decide)).noMillis
      · exact Frame.refl _ _

theorem zoneOff_notMem_fenceRegs (n : Nat) : zoneOff n ∉ fenceRegs := by simp [fenceRegs, zoneOff, errDrop]; omega

theorem zone_fenceZone (s : State) (n m : Nat) : (s.fenceZone n).zone m = s.zone m := (frame_fenceZone s n).zone m (zoneOff_notMem_fenceRegs m)

theorem frame_zoneRec (s : State) (n k : Nat) : Frame [errDrop] s (s.zoneRec n k) := frame_sendRec s _ _

theorem zone_zoneRec (s : State) (n k m : Nat) : (s.zoneRec n k).zone m = s.zone m :=
  (frame_zoneRec s n k).zone m (by simp [zoneOff, errDrop]; omega)

theorem frame_publishBinding (s : State) : Frame [] s s.publishBinding := by
  unfold State.publishBinding
  split
  · exact Frame.refl _ s
  · exact frame_devPut s _ _

/-- Device memory's publication sets DMSIZE and no other register. -/
theorem reg_publishMem (s : State) {o : Nat} (h : o ≠ 0x600020) : s.publishMem.reg o = s.reg o := by
  unfold State.publishMem
  simp only
  split
  · exact ((frame_publishBinding _).reg o (List.not_mem_nil)).trans (reg_setReg_other s _ h)
  · rfl

theorem zone_publishMem (s : State) (n : Nat) : s.publishMem.zone n = s.zone n := reg_publishMem s (by unfold zoneOff; omega)

end Sys2Proof.Machine

namespace Sys2Proof.Machine

/-! ### What a write of the device leaves in memory -/

/-- No line is lost while the fence map is the one of the last cold start (R26). -/
theorem dead_eq_false (s : State) (pa : Nat) (h : (s.reg 0x60).toNat = s.stackMap) : s.dead pa = false := by
  simp [State.dead, h]

theorem memByte_memWrite (m : Memory) (a : Nat) (bs : List Byte) (j : Nat) :
    memByte (memWrite m a bs) j = if a ≤ j ∧ j < a + bs.length then bs.getD (j - a) 0 else memByte m j := by
  split
  · next h =>
    obtain ⟨i, rfl⟩ := Nat.exists_eq_add_of_le h.1
    rw [memByte_memWrite_in _ _ _ _ (by omega), Nat.add_sub_cancel_left]
  · next h => exact memByte_memWrite_out _ _ _ _ (by omega)

theorem memByte_devPutGo (n : Nat) (s : State) (pa : Nat) (bs : List Byte) (j : Nat) (h : (s.reg 0x60).toNat = s.stackMap)
    (hn : bs.length + pa % 2048 ≤ 2048 * n) :
    memByte (State.devPutGo n s pa bs).mem j = if pa ≤ j ∧ j < pa + bs.length then bs.getD (j - pa) 0 else memByte s.mem j := by
  induction n generalizing s pa bs with
  | zero =>
    unfold State.devPutGo
    rw [if_neg (by omega)]
  | succ n ih =>
    unfold State.devPutGo
    simp only [dead_eq_false s pa h, Bool.false_eq_true, if_false]
    refine (ih { s with mem := memWrite s.mem pa (bs.take (2048 - pa % 2048)) } _ _ h (by rw [List.length_drop]; omega)).trans ?_
    rw [memByte_memWrite, List.length_drop, List.length_take]
    by_cases h1 : pa + (2048 - pa % 2048) ≤ j
    · rw [if_neg (c := pa ≤ j ∧ _) (by omega)]
      by_cases h2 : j < pa + bs.length
      · rw [if_pos (by omega), if_pos (by omega), List.getD_eq_getElem?_getD, List.getElem?_drop, List.getD_eq_getElem?_getD,
          show 2048 - pa % 2048 + (j - (pa + (2048 - pa % 2048))) = j - pa by omega]
      · rw [if_neg (by omega), if_neg (by omega)]
    · rw [if_neg (by omega)]
      by_cases h2 : pa ≤ j ∧ j < pa + bs.length
      · rw [if_pos (by omega), if_pos h2, List.getD_eq_getElem?_getD, List.getElem?_take_of_lt (by omega), List.getD_eq_getElem?_getD]
      · rw [if_neg (by omega), if_neg h2]

/-- A write of the device while no stack is lost: its bytes stand in memory, and no other byte has changed. -/
theorem memByte_devPut (s : State) (pa : Nat) (bs : List Byte) (j : Nat) (h : (s.reg 0x60).toNat = s.stackMap) :
    memByte (s.devPut pa bs).mem j = if pa ≤ j ∧ j < pa + bs.length then bs.getD (j - pa) 0 else memByte s.mem j :=
  memByte_devPutGo _ s pa bs j h (by omega)

/-! ### Virtual functions and the aperture (R378, R379) -/

/-- A write of 0 to a queue's doorbell clears it. -/
theorem ctlPut_doorbell (s : State) (q : Nat) (hq : q < 4096) (hs : s.sysstate ≠ 4) :
    s.ctlPut (0x100000 + 8 * q) 0 = { s.setReg (0x100000 + 8 * q) 0 with
      deadq := s.deadq.filter (fun k => k ≠ q), depSeen := s.depSeen.filter (fun x => x.1 ≠ q), noSplice := s.noSplice.filter (fun x => x.2.1.1 ≠ q) } := by
  have hd : (0x100000 + 8 * q - 0x100000) / 8 = q := by omega
  unfold State.ctlPut State.ctlWrite
  rw [if_neg hs, if_neg (by omega), if_neg (by omega), if_neg (by omega), if_pos (by omega), hd]
  rfl

/-- Cleared doorbells read 0; nothing else that a launch or the state machine reads has changed. -/
theorem foldl_ctlPut_doorbells (qs : List Nat) (s : State) (hq : ∀ q ∈ qs, q < 4096) (hs : s.sysstate ≠ 4) :
    let t := qs.foldl (fun u q => u.ctlPut (0x100000 + 8 * q) 0) s
    t.launches = s.launches ∧ (∀ q, s.reg (0x100000 + 8 * q) = 0 → t.reg (0x100000 + 8 * q) = 0) ∧ ∀ q ∈ qs, t.reg (0x100000 + 8 * q) = 0 := by
  induction qs generalizing s with
  | nil => exact ⟨rfl, fun _ h => h, by simp⟩
  | cons q qs ih =>
    have hput := ctlPut_doorbell s q (hq q (by simp)) hs
    have hreg (x : Nat) : (s.ctlPut (0x100000 + 8 * q) 0).reg x = if x = 0x100000 + 8 * q then 0 else s.reg x := by
      rw [hput]; exact reg_setReg s _ x 0
    have hsys : (s.ctlPut (0x100000 + 8 * q) 0).sysstate ≠ 4 := by
      unfold State.sysstate
      rw [hreg, if_neg (by have := hq q (by simp); omega)]
      exact hs
    obtain ⟨hl, hkeep, hset⟩ := ih (s.ctlPut (0x100000 + 8 * q) 0) (fun k hk => hq k (by simp [hk])) hsys
    refine ⟨hl.trans (by rw [hput]; rfl), fun k hk => hkeep k ?_, fun k hk => ?_⟩
    · rw [hreg, hk, ite_self]
    · rcases List.mem_cons.mp hk with rfl | hk
      · exact hkeep _ (by rw [hreg, if_pos rfl])
      · exact hset k hk

@[simp] theorem unblock_reg (s : State) (o : Nat) : s.unblock.reg o = s.reg o := rfl
@[simp] theorem unblock_launches (s : State) : s.unblock.launches = s.launches := rfl
@[simp] theorem unblock_mem (s : State) : s.unblock.mem = s.mem := rfl

/-- With no gang anywhere, the reset of its function ends the only launch where it stands. -/
theorem flrLaunch_alone (s : State) (l : Launch) (hl : s.launches = [l]) (hg : s.gangs = []) :
    s.flrLaunch l = { s with launches := [{ l with status := 6, stopped := true, replay := false, inHeap := false }] } := by
  simp [State.flrLaunch, hg, State.launch?, hl, State.setLaunch]

/-- The launches after a function's reset where at most one launch is there. -/
theorem foldl_flrLaunch (s : State) (root : Nat) (hg : s.gangs = []) (hl : ∀ l ∈ s.launches, s.launches = [l]) :
    ∃ ls, (s.launches.filter (fun l => l.below root)).foldl State.flrLaunch s = { s with launches := ls }
      ∧ ∀ l, s.launches = [l] → l.below root = true → ls = [{ l with status := 6, stopped := true, replay := false, inHeap := false }] := by
  rcases hs : s.launches with _ | ⟨l, ls⟩
  · exact ⟨[], by rw [← hs, hs]; exact congrArg (fun x => { s with launches := x }) hs, by simp⟩
  · have h1 : s.launches = [l] := hl l (by simp [hs])
    obtain rfl : ls = [] := by simpa [hs] using h1
    by_cases hb : l.below root = true
    · refine ⟨_, by rw [List.filter_cons_of_pos (p := fun l : Launch => l.below root) hb]; exact flrLaunch_alone s l h1 hg, ?_⟩
      rintro k hk -
      cases hk
      rfl
    · refine ⟨[l], by rw [List.filter_cons_of_neg (p := fun l : Launch => l.below root) hb, ← h1]; rfl, ?_⟩
      rintro k hk hk'
      cases hk
      exact absurd hk' hb

/-- A reset of a virtual function (R379). -/
theorem exec_vfFlr (s : State) (v : Nat) (hon : s.vfOn = true) (h1 : 1 ≤ v) (h2 : v ≤ 63) (hs : s.sysstate ≠ 4)
    (h : (s.reg (0x600800 + 16 * v) = 0 ∧ s.reg (0x600808 + 16 * v) ≠ 0)
      ∨ (s.reg (0x600800 + 16 * v) ≠ 0 ∧ s.gangs = [] ∧ ∀ l ∈ s.launches, s.launches = [l])) : ∃ t, exec (.vfFlr v) s = .next t
    ∧ (∀ l, s.launches = [l] → l.below (s.reg (0x600800 + 16 * v)).toNat = true → s.reg (0x600800 + 16 * v) ≠ 0 →
        t.launches = [{ l with status := 6, stopped := true, replay := false, inHeap := false }])
    ∧ ∀ i, i < wfld (s.reg (0x600808 + 16 * v)) 16 12 → t.reg (0x100000 + 8 * ((wfld (s.reg (0x600808 + 16 * v)) 0 12 + i) % 4096)) = 0 := by
  have hlive : s.vfLive v = true := by
    simp only [State.vfLive, hon, h1, h2, decide_true, Bool.true_and, Bool.or_eq_true, bne_iff_ne]
    exact h.elim (fun h => .inr h.2) (fun h => .inl h.1)
  obtain ⟨ls, hls, hend⟩ : ∃ ls, (if (s.reg (0x600800 + 16 * v)).toNat = 0 then s
      else (s.launches.filter (fun l => l.below (s.reg (0x600800 + 16 * v)).toNat)).foldl State.flrLaunch s) = { s with launches := ls }
      ∧ (s.reg (0x600800 + 16 * v) ≠ 0 → ∀ l, s.launches = [l] → l.below (s.reg (0x600800 + 16 * v)).toNat = true →
        ls = [{ l with status := 6, stopped := true, replay := false, inHeap := false }]) := by
    rcases h with ⟨h, _⟩ | ⟨h, hg, hl⟩
    · exact ⟨s.launches, by simp [h], fun hn => absurd h hn⟩
    · obtain ⟨ls, hls, hend⟩ := foldl_flrLaunch s _ hg hl
      exact ⟨ls, by rw [if_neg (by simpa [BitVec.toNat_eq] using h), hls], fun _ => hend⟩
  have hfold := foldl_ctlPut_doorbells ((List.range (wfld (s.reg (0x600808 + 16 * v)) 16 12)).map
    (fun i => (wfld (s.reg (0x600808 + 16 * v)) 0 12 + i) % 4096)) { s with launches := ls }
    (by simp only [List.mem_map]; rintro _ ⟨_, _, rfl⟩; omega) hs
  rw [List.foldl_map] at hfold
  obtain ⟨hlaunch, -, hbells⟩ := hfold
  refine ⟨_, by show execVfFlr v s = _; simp only [execVfFlr, hlive, if_true, hls]; rfl, ?_, ?_⟩
  · intro l hl hb hn
    rw [unblock_launches, hlaunch]
    exact hend hn l hl hb
  · intro i hi
    exact hbells _ (List.mem_map.mpr ⟨i, List.mem_range.mpr hi, rfl⟩)

/-- The physical function's aperture leads straight into device memory. -/
theorem aperturePlace_zero (s x : State) (off pa : Nat) (wr : Bool) (h : s.aperturePlace 0 off wr = some (x, pa)) : x = s := by
  simp only [State.aperturePlace, if_true] at h
  split at h
  · cases h
  · split at h
    · cases h; rfl
    · cases h

theorem aperturePlace_inside (s : State) (base off : Nat) (wr : Bool) (hb : wfld (s.reg 0x600038) 32 8 * 2 ^ 32 = base) (hs : s.sysstate ≠ 4)
    (ho : off < 2 ^ 32) (hp : base + off < s.devSize) : s.aperturePlace 0 off wr = some (s, base + off) := by
  simp only [State.aperturePlace, if_true, hb]
  rw [if_neg (by omega), if_pos hp]

/-- Bytes stored through the physical function's aperture, which stands at `base`. -/
theorem memByte_apertureGo (bs : List Byte) (s : State) (base o j : Nat) (hb : wfld (s.reg 0x600038) 32 8 * 2 ^ 32 = base)
    (ho : o + bs.length ≤ 2 ^ 32) (hp : base + o + bs.length ≤ s.devSize) (hm : (s.reg 0x60).toNat = s.stackMap) (hs : s.sysstate ≠ 4) :
    memByte (s.apertureGo 0 o bs).mem j
      = if base + o ≤ j ∧ j < base + o + bs.length then bs.getD (j - (base + o)) 0 else memByte s.mem j := by
  induction bs generalizing s o with
  | nil =>
    rw [if_neg (by simp only [List.length_nil]; omega)]
    rfl
  | cons b bs ih =>
    rw [List.length_cons] at ho hp
    have hf := frame_devPut s (base + o) [b]
    have hreg (x : Nat) : (s.devPut (base + o) [b]).reg x = s.reg x := hf.reg x List.not_mem_nil
    have hsize : (s.devPut (base + o) [b]).devSize = s.devSize := congrArg BitVec.toNat (hreg _)
    have hstate : (s.devPut (base + o) [b]).sysstate = s.sysstate := congrArg (fun w => wfld w 0 3) (hreg _)
    unfold State.apertureGo
    rw [aperturePlace_inside s base o true hb hs (by omega) (by omega)]
    simp only
    rw [ih _ (o + 1) (by rw [hreg, hb]) (by omega) (by rw [hsize]; omega) (by rw [hreg, hf.stackMap, hm]) (by rwa [hstate]),
      memByte_devPut s _ [b] j hm, List.length_singleton, List.length_cons]
    by_cases h1 : base + o + 1 ≤ j ∧ j < base + o + (bs.length + 1)
    · rw [if_pos (by omega), if_pos (by omega), show j - (base + o) = (j - (base + (o + 1))) + 1 by omega]
      rfl
    · rw [if_neg (by omega)]
      by_cases h2 : j = base + o
      · rw [if_pos (by omega), if_pos (by omega), h2, Nat.sub_self]
        rfl
      · rw [if_neg (by omega), if_neg (by omega)]

/-- What no step of a fold changes, the fold does not change. -/
theorem foldl_keeps {α β : Type} (g : State → β) (f : State → α → State) (h : ∀ u x, g (f u x) = g u) (xs : List α) (s : State) :
    g (xs.foldl f s) = g s := by
  induction xs generalizing s with
  | nil => rfl
  | cons x xs ih => rw [List.foldl_cons, ih, h]

/-! ### Cooling (R392 to R396) -/

/-- A trip of a wet zone notes its kind and slows the cluster of a core's zone. -/
theorem exec_zoneTrip (s : State) (n k : Nat) (hn : n < 120) (hk : k ≤ 2) (hz : zState (s.zone n) = 0) : ∃ t, exec (.zoneTrip n k) s = .next t
    ∧ (tabGet 0 t.trips n).testBit k = true ∧ (n < 96 → tabGet 0 t.clock (n / 4) = min 3 (tabGet 0 s.clock (n / 4) + 1)) := by
  refine ⟨_, by show execZoneTrip n k s = _; unfold execZoneTrip; rw [if_neg (by omega), if_neg (by simpa using hz)], ?_⟩
  have hbit : (tabGet 0 (tabSet 0 (s.zoneRec n k).trips n (Nat.lor (tabGet 0 (s.zoneRec n k).trips n) (2 ^ k))) n).testBit k = true := by
    rw [tabGet_tabSet_same]
    exact (Nat.testBit_or _ _ k).trans (by simp)
  have hclock : (s.zoneRec n k).clock = s.clock := (frame_zoneRec s n k).clock
  by_cases h96 : n < 96
  · rw [if_pos h96]
    refine ⟨hbit, fun _ => ?_⟩
    have := tabGet_tabSet_same 0 (s.zoneRec n k).clock (n / 4) (min 3 (tabGet 0 (s.zoneRec n k).clock (n / 4) + 1))
    rw [← hclock]
    exact this
  · rw [if_neg h96]
    exact ⟨hbit, fun h => absurd h h96⟩

/-- A step of an evacuation that ends by itself (R395). -/
theorem evacDrained_step (s : State) (n : Nat) {a b : Nat} (hz : zState (s.zone n) = 1) (ha : zStep (s.zone n) = a)
    (h : (a = 1 ∧ b = 2) ∨ (a = 2 ∧ b = 3 ∧ s.zoneBusy n = false) ∨ (a = 3 ∧ b = 4) ∨ (a = 5 ∧ b = 6)) :
    s.evacDrained n = s.setZone n 1 b (if a < 3 then zSet (s.zone n) else 0) := by
  unfold State.evacDrained
  rw [if_neg (by simp [hz]), ha]
  rcases h with ⟨rfl, rfl⟩ | ⟨rfl, rfl, hb⟩ | ⟨rfl, rfl⟩ | ⟨rfl, rfl⟩ <;> simp [*]

end Sys2Proof.Machine

section
open Sys2Proof Sys2Proof.Machine

/-- Settles O56: each facility's operation is one of the cases above; an event that is not due leaves the state as it is. -/
theorem facilitiesComplete : Obligations.FacilitiesComplete := by
  unfold Obligations.FacilitiesComplete
  intro s
  refine ⟨fun on => rfl, fun v hon h1 h2 hs h => exec_vfFlr s v hon h1 h2 hs h, ?_, ?_, fun n => rfl, ?_⟩
  case refine_1 =>
    intro o bs pa ho hp hm hd hs
    refine ⟨⟨_, rfl, fun j => ?_⟩, ?_⟩
    · refine (congrArg (fun m => memByte m j) (foldl_keeps State.mem _ (fun u x => ?_) _ _)).trans (memByte_apertureGo bs s _ o j rfl ho hp hm hs)
      split
      · next v q h =>
        rw [aperturePlace_zero u v x q true h]
        split <;> rfl
      · rfl
    · show Host.Outcome.next _ = _
      split
      · next u pa' h => rw [aperturePlace_zero s u o pa' false h]
      · rfl
  case refine_2 =>
    intro cl hcl
    refine ⟨fun set hset => ?_, ?_, fun hcool => ?_, fun j hj hne => ?_⟩
    · show Host.Outcome.next _ = _
      rw [if_pos ⟨hcl, hset⟩]
      rfl
    · show Host.Outcome.next _ = _
      rw [if_pos hcl]
      rfl
    · have hc : s.coolCluster cl = true := by simpa [State.coolCluster] using hcool
      show Host.Outcome.next _ = _
      rw [if_pos (by simp [hcl, hc])]
      rfl
    · have hc : s.coolCluster cl = false := by
        simp only [State.coolCluster, List.all_eq_false, List.mem_range]
        exact ⟨j, hj, by simpa using hne⟩
      show Host.Outcome.next _ = _
      rw [if_neg (by simp [hc])]
  case refine_3 =>
    intro n hn
    refine ⟨fun k hk hz => exec_zoneTrip s n k hn hk hz, ?_, ?_, ?_, ?_, ?_⟩
    · intro a b hz ha h
      refine ⟨_, by show execEvacDrainDone n s = _; unfold execEvacDrainDone; rw [if_pos hn, evacDrained_step s n hz ha h], ?_⟩
      have hset := zSet_lt (s.zone n)
      simp only [zone_setZone_same, zState_zoneWord, zStep_zoneWord, zSet_zoneWord]
      refine ⟨trivial, by omega, ?_⟩
      split <;> omega
    · intro hz h2 hb
      show Host.Outcome.next _ = _
      simp [hn, State.evacDrained, hz, h2, hb]
    · intro hz h4
      refine ⟨s.setZone n 1 5 0, ?_, by simp, by simp⟩
      show Host.Outcome.next _ = _
      simp [hn, State.evacClosed, hz, h4]
    · intro hz h6
      refine ⟨⟨_, rfl, ?_⟩, _, rfl, ?_⟩
      · have hw : (if n < 120 then (if s.sysstate = 4 then s.evacDry n else (s.evacDry n).publishMem) else s).zone n
            = zoneWord 7 2 0 (zCeil (s.zone n)) (zFloor (s.zone n)) := by
          rw [if_pos hn]
          split
          · simp [State.evacDry, hz, h6, zone_fenceZone]
          · simp [State.evacDry, hz, h6, zone_fenceZone, zone_publishMem]
        rw [hw]
        simp
      · simp [hn, State.evacLate, hz, h6, zone_zoneRec]
    · intro hz
      have hfloor := zFloor_lt (s.zone n)
      refine ⟨⟨_, rfl, ?_, ?_⟩, _, rfl, ?_⟩
      · simp [hn, State.refillDone, hz]
      · simp [hn, State.refillDone, hz, Nat.mod_eq_of_lt hfloor]
      · simp [hn, State.refillLate, hz]

end

namespace Sys2Proof.Machine

/-! ### Starts (R25, R26, R330, R381 to R384, R397) -/

/-- What a cold start has reached while it looks at the zones and the referees: every register that names its phase still holds its first
value, and nothing runs. -/
structure Starting (ins : List Instr) (t : State) : Prop where
  phase : t.reg 0x600000 = 2
  features : t.reg 0x600100 = 0x3FF
  tb : t.tb = 0
  launches : t.launches = []
  gangs : t.gangs = []
  ctx : t.ctx = {}
  parked : t.parked = []
  inputs : t.inputs = ins

/-- A frame that spares SYSSTATE and FEATSUP keeps a start, whatever it does to the Milliners. -/
theorem Starting.of_frame {ins : List Instr} {L : List Nat} {s t : State} (h : Starting ins s) (f : Frame L s.noMillis t.noMillis)
    (h0 : 0x600000 ∉ L) (h1 : 0x600100 ∉ L) : Starting ins t where
  phase := (f.reg _ h0).trans h.phase
  features := (f.reg _ h1).trans h.features
  tb := f.tb.trans h.tb
  launches := f.launches.trans h.launches
  gangs := f.gangs.trans h.gangs
  ctx := f.ctx.trans h.ctx
  parked := f.parked.trans h.parked
  inputs := f.inputs.trans h.inputs

theorem Starting.setZone {ins : List Instr} {s : State} (h : Starting ins s) (n st step set : Nat) : Starting ins (s.setZone n st step set) := by
  refine h.of_frame (frame_setReg s _ _).noMillis ?_ ?_ <;> simp [zoneOff] <;> omega

theorem Starting.fenceZone {ins : List Instr} {s : State} (h : Starting ins s) (n : Nat) : Starting ins (s.fenceZone n) :=
  h.of_frame (frame_fenceZone s n) (by decide) (by decide)

theorem Starting.coldZone {ins : List Instr} {s : State} (h : Starting ins s) (n : Nat) : Starting ins (s.coldZone n) := by
  unfold State.coldZone
  split
  · exact h
  · exact ((h.setZone n 2 0 0).fenceZone n).of_frame (frame_zoneRec _ n 1).noMillis (by decide) (by decide)
  · exact (h.setZone n 4 0 0).fenceZone n

/-- A property that every step of a fold keeps holds of the fold. -/
theorem foldl_induction {α : Type} (P : State → Prop) (f : State → α → State) (xs : List α) (h : ∀ u, P u → ∀ x ∈ xs, P (f u x)) (s : State)
    (hs : P s) : P (xs.foldl f s) := by
  induction xs generalizing s with
  | nil => exact hs
  | cons x xs ih => exact ih (fun u hu y hy => h u hu y (by simp [hy])) _ (h s hs x (by simp))

theorem Starting.takeMeasure {ins : List Instr} {s : State} (h : Starting ins s) (i : Nat) (v : BitVec 384) : Starting ins (s.takeMeasure i v) :=
  ⟨h.phase, h.features, h.tb, h.launches, h.gangs, h.ctx, h.parked, h.inputs⟩

/-- A cold start comes to HOLD, or to RECOVERY without a feature bit; nothing runs, and TB is 0. -/
theorem coldStart_reaches (s : State) : (s.coldStart.sysstate = 2 ∨ s.coldStart.sysstate = 4) ∧ s.coldStart.tb = 0 ∧ s.coldStart.launches = []
    ∧ s.coldStart.gangs = [] ∧ s.coldStart.live = [] ∧ s.coldStart.inputs = s.inputs
    ∧ (s.coldStart.sysstate = 4 → s.coldStart.reg 0x600100 = 0) ∧ (s.coldStart.sysstate = 2 → s.coldStart.reg 0x600100 = 0x3FF) := by
  have hlive (t : State) (hc : t.ctx = {}) (hp : t.parked = []) : t.live = [] := by
    simp [State.live, State.ctxs, hc, hp]
  have h0 : Starting s.inputs { State.reset with
      host := s.host, peer := s.peer, inputs := s.inputs, free := s.free + 1, measure := s.measure.filter (fun x => x.1 < 6) } :=
    ⟨rfl, rfl, rfl, rfl, rfl, rfl, rfl, rfl⟩
  have h1 := foldl_induction _ State.coldZone (List.range 120) (fun u hu n _ => hu.coldZone n) _ h0
  have h2 := foldl_induction _ (fun t i => if Config.refereePasses s.free i then t else t.fenceReferee i) (List.range 2) (fun u hu i _ => by
    split
    · exact hu
    · exact hu.of_frame (frame_fenceReferee u i).noMillis (by decide) (by decide)) _ h1
  unfold State.coldStart
  simp only
  generalize List.foldl _ _ (List.range 2) = t at h2
  have h3 : Starting s.inputs ((if (s.recov.flatMap (fun x => leBytes 8 x.2.toNat)).isEmpty then t
      else t.takeMeasure 2 (Config.sha384 (s.recov.flatMap (fun x => leBytes 8 x.2.toNat)))).takeMeasure 6 (Config.sha384 t.fenceBytes)) := by
    split
    · exact h2.takeMeasure _ _
    · exact (h2.takeMeasure _ _).takeMeasure _ _
  generalize State.takeMeasure _ 6 _ = u at h3
  split
  · have hp : u.sysstate = 2 := by rw [State.sysstate, h3.phase]; rfl
    exact ⟨.inl hp, h3.tb, h3.launches, h3.gangs, hlive _ h3.ctx h3.parked, h3.inputs, fun h => absurd (hp.symm.trans h) (by decide), fun _ => h3.features⟩
  · have hp : ((u.setReg 0x600100 0).setReg 0x600000 4).sysstate = 4 := by rw [State.sysstate, reg_setReg_same]; rfl
    refine ⟨.inr hp, h3.tb, h3.launches, h3.gangs, hlive _ h3.ctx h3.parked, h3.inputs, fun _ => ?_, fun h => absurd (hp.symm.trans h) (by decide)⟩
    rw [reg_setReg_other _ _ (by decide), reg_setReg_same]

/-! Warm starts (R383, R384). -/

/-- A warm start that is accepted stops the Milliners and clears the ready bits. -/
theorem warmRequest_accepted (s : State) (hs : s.sysstate = 2 ∨ s.sysstate = 3) (hl : s.launches = []) (hd : s.dump = none)
    (hz : ∀ n, n < 120 → zState (s.zone n) = 0) :
    s.warmRequest = (((({ s with
        wasReady := (s.reg 0x600010, s.reg 0x600018)
        millis := s.millis.map (fun m => { m with loaded := false, missed := 0 }) } : State).setReg 0x600010 0).setReg 0x600018 0).setReg
          0x600008 0x100).setReg 0x600000 5 := by
  have hc : ((s.sysstate == 2 || s.sysstate == 3) && s.launches.isEmpty && s.dump.isNone
      && (List.range 120).all (fun n => zState (s.zone n) == 0)) = true := by
    simpa [hl, hd, hs] using hz
  unfold State.warmRequest
  rw [if_pos hc]

theorem exec_warmStart_refused (s : State) (ch : List (Nat × BitVec 384 × Bool)) (hs : s.sysstate = 3) (hl : s.launches ≠ []) :
    exec (.warmStart ch) s = .next (s.setReg 0x600008 0x200) := by
  have hr : s.warmRequest = s.setReg 0x600008 0x200 := by
    unfold State.warmRequest
    rw [if_neg (by simp [hl])]
  have hs' : (s.setReg 0x600008 0x200).sysstate = 3 := by
    rw [← hs]
    exact congrArg (fun w => wfld w 0 3) (reg_setReg_other s _ (by decide))
  show execWarmStart ch s = _
  unfold execWarmStart
  simp only
  rw [if_neg (c := s.sysstate = 5) (by omega), hr, if_neg (c := (s.setReg 0x600008 0x200).sysstate = 5) (by omega)]

/-- An image that has been verified changes its own measurement, or fences units. -/
theorem frame_reverified (s : State) (x : Nat × BitVec 384 × Bool) :
    Frame fenceRegs { s with measure := [] } { s.reverified x with measure := [] } := by
  have hm {L : List Nat} {u v : State} (h : Frame L u v) : Frame L { u with measure := [] } { v with measure := [] } :=
    ⟨congrArg (fun w : State => { w with measure := [] }) h.rest, h.reg⟩
  unfold State.reverified
  split
  · exact Frame.refl _ _
  · split
    · exact hm (Frame.foldl _ (fun t m => (frame_fenceMilliner t m).mono (by decide)) _ s)
    · exact hm (Frame.foldl _ (fun t m => (frame_fenceReferee t m).mono (by decide)) _ s)
    · exact hm (Frame.foldl _ (fun t m => (frame_portDown t m).mono (by decide)) _ s)
    · exact Frame.refl _ _

theorem measurement_takeMeasure_other (s : State) (i j : Nat) (v : BitVec 384) (h : j ≠ i) :
    (s.takeMeasure i v).measurement j = s.measurement j := by
  unfold State.measurement
  rw [show tabFind (s.takeMeasure i v).measure j = tabFind s.measure j from tabFind_tabPut_other _ _ _ _ h]

theorem measurement_of_frame {L : List Nat} {s t : State} (h : Frame L s t) (i : Nat) : t.measurement i = s.measurement i := by
  unfold State.measurement
  rw [h.measure]

/-- The measurement of the ROM's own image stays, since only the images of the firmware are verified again. -/
theorem measurement_reverified (s : State) (x : Nat × BitVec 384 × Bool) (h : 2 ≤ x.1) : (s.reverified x).measurement 1 = s.measurement 1 := by
  unfold State.reverified
  split
  · exact measurement_takeMeasure_other _ _ _ _ (by omega)
  · split
    · exact measurement_of_frame (Frame.foldl (L := fenceRegs) _ (fun t m => (frame_fenceMilliner t m).mono (by decide)) _ s) 1
    · exact measurement_of_frame (Frame.foldl (L := fenceRegs) _ (fun t m => (frame_fenceReferee t m).mono (by decide)) _ s) 1
    · exact measurement_of_frame (Frame.foldl (L := fenceRegs) _ (fun t m => (frame_portDown t m).mono (by decide)) _ s) 1
    · rfl

/-- What every step of an accepted warm start keeps, once the features are open again. -/
structure Unlocked (s t : State) : Prop where
  lock : t.reg 0x600140 = 0
  features : ∀ i, i < 4 → t.reg (0x600120 + 8 * i) = 0
  vf : t.vfOn = false
  rom : t.measurement 1 = s.measurement 1

theorem Unlocked.of_regs {s t u : State} (h : Unlocked s t) (hr : ∀ o, 0x600120 ≤ o → o ≤ 0x600140 → u.reg o = t.reg o) (hv : u.vfOn = t.vfOn)
    (hm : u.measurement 1 = t.measurement 1) : Unlocked s u where
  lock := (hr _ (by decide) (by decide)).trans h.lock
  features i hi := (hr _ (by omega) (by omega)).trans (h.features i hi)
  vf := hv.trans h.vf
  rom := hm.trans h.rom

theorem Unlocked.setReg {s t : State} (h : Unlocked s t) (o : Nat) (v : Word) (ho : o < 0x600120 ∨ 0x600140 < o) : Unlocked s (t.setReg o v) :=
  h.of_regs (fun x _ _ => reg_setReg_other t v (by omega)) rfl rfl

theorem reg_reverified (s : State) (x : Nat × BitVec 384 × Bool) {o : Nat} (ho : o ∉ fenceRegs) : (s.reverified x).reg o = s.reg o :=
  (frame_reverified s x).reg o ho

/-- The registers that fences change lie outside the features'. -/
theorem notMem_fenceRegs {o : Nat} (h : 0x600018 ≤ o) : o ∉ fenceRegs := by
  simp [fenceRegs, errDrop]
  omega

theorem Unlocked.reverified {s t : State} (h : Unlocked s t) (x : Nat × BitVec 384 × Bool) (hx : 2 ≤ x.1) : Unlocked s (t.reverified x) :=
  h.of_regs (fun _ ho _ => reg_reverified t x (notMem_fenceRegs (by omega)))
    (congrArg State.vfOn (frame_reverified t x).rest :) (measurement_reverified t x hx)

theorem getD_millis_updMilli (s : State) (m k : Nat) (f : Milli → Milli) (hk : k < 8) :
    (s.updMilli m f).millis.getD k {} = if k = m then f (s.millis.getD k {}) else s.millis.getD k {} := by
  simp [State.updMilli, List.getD_eq_getElem?_getD, hk]

/-- Milliners loaded again, one by one. -/
theorem loaded_foldl_updMilli (g : Nat → Bool) (ms : List Nat) (s : State) (k : Nat) (hk : k < 8) :
    (((ms.foldl (fun t m => t.updMilli m (fun x => { x with loaded := g m })) s).millis).getD k {}).loaded
      = if k ∈ ms then g k else (s.millis.getD k {}).loaded := by
  induction ms generalizing s with
  | nil => rfl
  | cons m ms ih =>
    rw [List.foldl_cons, ih, getD_millis_updMilli s m k _ hk]
    by_cases h1 : k ∈ ms <;> by_cases h2 : k = m <;> simp [h1, h2]

/-! READY0 as a warm start puts it together. -/

theorem bitsOf_succ (n : Nat) (f : Nat → Bool) : bitsOf (n + 1) f = bitsOf n f + (f n).toNat * 2 ^ n := by
  simp [bitsOf, List.range_succ]

theorem bitsOf_lt (n : Nat) (f : Nat → Bool) : bitsOf n f < 2 ^ n := by
  induction n with
  | zero => simp [bitsOf]
  | succ n ih =>
    rw [bitsOf_succ, Nat.pow_succ]
    cases f n <;> simp <;> omega

theorem testBit_bitsOf (n i : Nat) (f : Nat → Bool) (h : i < n) : (bitsOf n f).testBit i = f i := by
  induction n with
  | zero => cases h
  | succ n ih =>
    rw [bitsOf_succ, Nat.add_comm, Nat.mul_comm, Nat.testBit_two_pow_mul_add _ (bitsOf_lt n f)]
    split
    · next hi => exact ih hi
    · obtain rfl : i = n := by omega
      cases f i <;> simp

/-- MILR of a Milliner after a warm start: set unless the Milliner is fenced. -/
theorem getLsbD_readyAgain (s : State) (m : Nat) (hm : m < 8) : s.readyAgain.getLsbD (16 + m) = !(s.reg 0x50).getLsbD (48 + m) := by
  unfold State.readyAgain
  simp only [Nat.pow_zero, Nat.mul_one, BitVec.getLsbD_ofNat]
  have hstk := bitsOf_lt 16 (fun i => (s.reg 0x600010 ||| s.wasReady.1).getLsbD (0 + i) && !(s.reg 0x60).getLsbD (if (0x60 : Nat) = 0x50 then 48 + i else i))
  have hmil := bitsOf_lt 8 (fun i => !(s.reg 0x50).getLsbD (48 + i))
  have hbit := testBit_bitsOf 8 m (fun i => !(s.reg 0x50).getLsbD (48 + i)) hm
  generalize bitsOf 16 _ = a at *
  generalize bitsOf 24 _ = c at *
  generalize bitsOf 8 _ = b at *
  rw [show a + b * 2 ^ 16 + c * 2 ^ 24 = 2 ^ 16 * (2 ^ 8 * c + b) + a by omega, Nat.testBit_two_pow_mul_add _ hstk, if_neg (by omega),
    Nat.add_sub_cancel_left, Nat.testBit_two_pow_mul_add _ hmil, if_pos hm, hbit]
  simp
  omega

end Sys2Proof.Machine

namespace Sys2Proof.Machine

/-- The state in which an accepted warm start has opened the features and disabled the virtual functions. -/
def State.warmOpened (r : State) : State :=
  { (List.range 4).foldl (fun t i => t.setReg (0x600120 + 8 * i) 0) (r.setReg 0x600140 0) with vfOn := false }

/-- A warm start's images verified, its Milliners loaded again and READY0 and READY1 set. -/
def State.warmLoaded (r s2 : State) : State :=
  let s3 := (List.range 8).foldl (fun t m => t.updMilli m (fun x => { x with loaded := !(s2.reg 0x50).getLsbD (48 + m) })) s2
  (s3.setReg 0x600010 s3.readyAgain).setReg 0x600018 (s3.reg 0x600018 ||| r.wasReady.2)

theorem warmFinish_failed (r : State) (ch : List (Nat × BitVec 384 × Bool)) (h : (ch.filter r.differs).any (fun x => x.1 == 2 && !x.2.2) = true) :
    r.warmFinish ch = ((ch.filter r.differs).foldl State.reverified r.warmOpened).setReg 0x600000 4 := by
  unfold State.warmFinish
  simp only
  rw [if_pos h]
  rfl

theorem warmFinish_passed (r : State) (ch : List (Nat × BitVec 384 × Bool)) (h : (ch.filter r.differs).any (fun x => x.1 == 2 && !x.2.2) = false) :
    ∃ s5 b, r.warmFinish ch = (s5.takeMeasure 6 b).setReg 0x600000 2
      ∧ Frame [] (r.warmLoaded ((ch.filter r.differs).foldl State.reverified r.warmOpened)) s5
      ∧ (ch = [] → s5 = r.warmLoaded r.warmOpened) := by
  unfold State.warmFinish
  simp only
  rw [if_neg (by simp [h])]
  split
  · next hb =>
    refine ⟨_, _, rfl, frame_publishBinding _, ?_⟩
    rintro rfl
    cases hb
  · exact ⟨_, _, rfl, Frame.refl _ _, by rintro rfl; rfl⟩

/-- What an accepted warm start keeps through its images, and what it still has of the request. -/
structure Verified (r t : State) : Prop where
  unlocked : Unlocked r t
  ready1 : t.reg 0x600018 = r.reg 0x600018
  was : t.wasReady = r.wasReady

/-- Registers set one by one change the registers alone. -/
theorem foldl_setReg_frame (o : Nat → Nat) (v : Word) (xs : List Nat) (t : State) :
    ∃ c, xs.foldl (fun t i => t.setReg (o i) v) t = { t with ctl := c } := by
  induction xs generalizing t with
  | nil => exact ⟨t.ctl, rfl⟩
  | cons x xs ih =>
    obtain ⟨c, hc⟩ := ih (t.setReg (o x) v)
    exact ⟨c, hc⟩

theorem reg_foldl_setReg_other (o : Nat → Nat) (v : Word) (xs : List Nat) (t : State) (x : Nat) (h : ∀ i ∈ xs, x ≠ o i) :
    (xs.foldl (fun t i => t.setReg (o i) v) t).reg x = t.reg x := by
  induction xs generalizing t with
  | nil => rfl
  | cons y ys ih => rw [List.foldl_cons, ih _ (fun i hi => h i (.tail _ hi)), reg_setReg_other _ _ (h y (.head _))]

/-- What one step of a fold brings about and every other keeps, holds after the fold. -/
theorem foldl_reaches {α : Type} (P : State → Prop) (f : State → α → State) (xs : List α) (x : α) (hx : x ∈ xs) (hset : ∀ u, P (f u x))
    (hkeep : ∀ u, P u → ∀ y ∈ xs, P (f u y)) (s : State) : P (xs.foldl f s) := by
  induction xs generalizing s with
  | nil => cases hx
  | cons y ys ih =>
    rcases List.mem_cons.mp hx with rfl | hx
    · exact foldl_induction P f ys (fun u hu z hz => hkeep u hu z (.tail _ hz)) _ (hset s)
    · exact ih hx (fun u hu z hz => hkeep u hu z (.tail _ hz)) _

/-- A register that is set among them holds the value, and so it does where another sets it again. -/
theorem reg_foldl_setReg_same (o : Nat → Nat) (v : Word) (xs : List Nat) (t : State) (i : Nat) (h : i ∈ xs) :
    (xs.foldl (fun t i => t.setReg (o i) v) t).reg (o i) = v :=
  foldl_reaches (fun u => u.reg (o i) = v) _ xs i h (fun u => reg_setReg_same u (o i) v) (fun u hu z _ => by rw [reg_setReg, hu, ite_self]) t

theorem reg_withVf (t : State) (b : Bool) (o : Nat) : ({ t with vfOn := b } : State).reg o = t.reg o := rfl

/-- What the opening leaves in the registers, whatever it does to VF Enable. -/
theorem warmOpened_reg (r : State) (o : Nat) :
    r.warmOpened.reg o = ((List.range 4).foldl (fun t i => t.setReg (0x600120 + 8 * i) 0) (r.setReg 0x600140 0)).reg o := by
  unfold State.warmOpened
  exact reg_withVf _ _ _

/-- The features' registers are open again. -/
theorem reg_warmOpened_feature (r : State) (i : Nat) (hi : i < 4) : r.warmOpened.reg (0x600120 + 8 * i) = 0 :=
  (warmOpened_reg r _).trans <| reg_foldl_setReg_same (fun i => 0x600120 + 8 * i) 0 (List.range 4) _ i (List.mem_range.mpr hi)

theorem reg_warmOpened_apart (r : State) (o : Nat) (ho : o < 0x600120 ∨ 0x600140 ≤ o) :
    r.warmOpened.reg o = (r.setReg 0x600140 0).reg o :=
  (warmOpened_reg r _).trans <| reg_foldl_setReg_other (fun i => 0x600120 + 8 * i) 0 (List.range 4) _ _
    (fun i hi => by have := List.mem_range.mp hi; omega)

theorem warmOpened_eq (r : State) : ∃ c, r.warmOpened = { r with ctl := c, vfOn := false } := by
  obtain ⟨c, hc⟩ := foldl_setReg_frame (fun i => 0x600120 + 8 * i) 0 (List.range 4) (r.setReg 0x600140 0)
  exact ⟨c, congrArg (fun t : State => { t with vfOn := false }) hc⟩

theorem verified_warmOpened (r : State) : Verified r r.warmOpened := by
  obtain ⟨c, hc⟩ := warmOpened_eq r
  refine ⟨⟨?_, fun i hi => ?_, by rw [hc], by rw [hc]; rfl⟩, ?_, by rw [hc]⟩
  · rw [reg_warmOpened_apart r _ (by decide), reg_setReg_same]
  · exact reg_warmOpened_feature r i hi
  · rw [reg_warmOpened_apart r _ (by decide), reg_setReg_other _ _ (by decide)]

theorem Verified.reverified {r t : State} (h : Verified r t) (x : Nat × BitVec 384 × Bool) (hx : 2 ≤ x.1) : Verified r (t.reverified x) where
  unlocked := h.unlocked.reverified x hx
  ready1 := (reg_reverified t x (notMem_fenceRegs (by decide))).trans h.ready1
  was := (congrArg State.wasReady (frame_reverified t x).rest :).trans h.was

theorem verified_images (r : State) (ch : List (Nat × BitVec 384 × Bool)) :
    Verified r ((ch.filter r.differs).foldl State.reverified r.warmOpened) := by
  refine foldl_induction _ _ _ (fun u hu x hx => hu.reverified x ?_) _ (verified_warmOpened r)
  have hd := (List.mem_filter.mp hx).2
  simp only [State.differs, Bool.and_eq_true, decide_eq_true_eq] at hd
  exact hd.1.1

/-- Milliners changed one by one change the Milliners alone. -/
theorem foldl_updMilli_frame (f : Nat → Milli → Milli) (xs : List Nat) (t : State) :
    ∃ ms, xs.foldl (fun t m => t.updMilli m (f m)) t = { t with millis := ms } := by
  induction xs generalizing t with
  | nil => exact ⟨t.millis, rfl⟩
  | cons x xs ih =>
    obtain ⟨ms, h⟩ := ih (t.updMilli x (f x))
    exact ⟨ms, h⟩

/-- The reload changes the Milliners, READY0 and READY1. -/
theorem warmLoaded_eq (r t : State) :
    ∃ s3 : State, (∃ ms, s3 = { t with millis := ms })
      ∧ r.warmLoaded t = (s3.setReg 0x600010 s3.readyAgain).setReg 0x600018 (s3.reg 0x600018 ||| r.wasReady.2)
      ∧ ∀ m, m < 8 → (s3.millis.getD m {}).loaded = !(t.reg 0x50).getLsbD (48 + m) := by
  refine ⟨_, foldl_updMilli_frame (fun m x => { x with loaded := !(t.reg 0x50).getLsbD (48 + m) }) (List.range 8) t, rfl, fun m hm => ?_⟩
  rw [loaded_foldl_updMilli (fun m => !(t.reg 0x50).getLsbD (48 + m)) (List.range 8) t m hm, if_pos (List.mem_range.mpr hm)]

theorem warmLoaded_reg (r t : State) {o : Nat} (h0 : o ≠ 0x600010) (h1 : o ≠ 0x600018) : (r.warmLoaded t).reg o = t.reg o := by
  obtain ⟨s3, ⟨ms, hs⟩, h, -⟩ := warmLoaded_eq r t
  rw [h, reg_setReg_other _ _ h1, reg_setReg_other _ _ h0, hs]
  rfl

theorem Unlocked.warmLoaded {r s t : State} (h : Unlocked s t) : Unlocked s (r.warmLoaded t) := by
  obtain ⟨s3, ⟨ms, hs⟩, hl, -⟩ := warmLoaded_eq r t
  exact h.of_regs (fun o _ _ => warmLoaded_reg r t (by omega) (by omega)) (by rw [hl, hs]; rfl) (by rw [hl, hs]; rfl)

/-- Every Milliner that is not fenced is loaded and ready again. -/
theorem warmLoaded_millis (r t : State) (m : Nat) (hm : m < 8) :
    ((r.warmLoaded t).millis.getD m {}).loaded = !(t.reg 0x50).getLsbD (48 + m)
      ∧ ((r.warmLoaded t).reg 0x600010).getLsbD (16 + m) = !(t.reg 0x50).getLsbD (48 + m) := by
  obtain ⟨s3, ⟨ms, hs⟩, h, hload⟩ := warmLoaded_eq r t
  rw [h]
  refine ⟨hload m hm, ?_⟩
  rw [reg_setReg_other _ _ (by decide), reg_setReg_same, getLsbD_readyAgain _ m hm, hs]
  rfl

theorem warmLoaded_ready1 (r t : State) : (r.warmLoaded t).reg 0x600018 = t.reg 0x600018 ||| r.wasReady.2 := by
  obtain ⟨s3, ⟨ms, hs⟩, h, -⟩ := warmLoaded_eq r t
  rw [h, reg_setReg_same, hs]
  rfl

theorem warmLoaded_mem (r t : State) : (r.warmLoaded t).mem = t.mem := by
  obtain ⟨s3, ⟨ms, hs⟩, h, -⟩ := warmLoaded_eq r t
  rw [h, hs]
  rfl

theorem any_failed_iff (r : State) (ch : List (Nat × BitVec 384 × Bool)) :
    (ch.filter r.differs).any (fun x => x.1 == 2 && !x.2.2) = true ↔ ∃ x ∈ ch, x.1 = 2 ∧ x.2.2 = false ∧ x.2.1 ≠ r.measurement 2 := by
  simp only [List.any_eq_true, List.mem_filter, State.differs, Bool.and_eq_true, decide_eq_true_eq, beq_iff_eq, Bool.not_eq_true', bne_iff_ne]
  constructor
  · rintro ⟨x, ⟨hx, -, hne⟩, h2, hf⟩
    exact ⟨x, hx, h2, hf, h2 ▸ hne⟩
  · rintro ⟨x, hx, h2, hf, hne⟩
    exact ⟨x, ⟨hx, ⟨by omega, by omega⟩, h2 ▸ hne⟩, h2, hf⟩

/-- What an accepted warm start leaves (R383, R384, R386). -/
theorem exec_warmStart_accepted (s : State) (ch : List (Nat × BitVec 384 × Bool)) (hs : s.sysstate = 2 ∨ s.sysstate = 3) (hl : s.launches = [])
    (hd : s.dump = none) (hz : ∀ n, n < 120 → zState (s.zone n) = 0) :
    ∃ t, exec (.warmStart ch) s = .next t ∧ t.reg 0x600140 = 0 ∧ (∀ i, i < 4 → t.reg (0x600120 + 8 * i) = 0) ∧ t.vfOn = false
      ∧ ((∃ x ∈ ch, x.1 = 2 ∧ x.2.2 = false ∧ x.2.1 ≠ s.measurement 2) → t.sysstate = 4)
      ∧ t.measurement 1 = s.measurement 1
      ∧ ((∀ x ∈ ch, x.1 = 2 → x.2.2 = true) → t.sysstate = 2 ∧ t.reg 0x600018 = s.reg 0x600018
        ∧ (∀ m, m < 8 → (t.millis.getD m {}).loaded = !(t.reg 0x50).getLsbD (48 + m) ∧ (t.reg 0x600010).getLsbD (16 + m) = !(t.reg 0x50).getLsbD (48 + m)))
      ∧ (ch = [] → t.mem = s.mem ∧ t.reg 0x50 = s.reg 0x50) := by
  have hreq := warmRequest_accepted s hs hl hd hz
  generalize hr : s.warmRequest = r at hreq
  have hr5 : r.sysstate = 5 := by rw [hreq, State.sysstate, reg_setReg_same]; rfl
  have hmeas (i : Nat) : r.measurement i = s.measurement i := by rw [hreq]; rfl
  have hwas : r.wasReady.2 = s.reg 0x600018 := by rw [hreq]; rfl
  have hready : r.reg 0x600018 = 0 := by
    rw [hreq, reg_setReg_other _ _ (by decide), reg_setReg_other _ _ (by decide), reg_setReg_same]
  have hmem : r.mem = s.mem := by rw [hreq]; rfl
  have h50 : r.reg 0x50 = s.reg 0x50 := by
    rw [hreq]
    simp only [reg_setReg]
    rfl
  have hexec : exec (.warmStart ch) s = .next (r.warmFinish ch) := by
    show execWarmStart ch s = _
    unfold execWarmStart
    simp only
    rw [if_neg (c := s.sysstate = 5) (by omega), hr, if_pos hr5]
  refine ⟨_, hexec, ?_⟩
  obtain ⟨hu, h18, hw⟩ := verified_images r ch
  generalize hs2 : (ch.filter r.differs).foldl State.reverified r.warmOpened = s2 at hu h18 hw
  by_cases hfail : (ch.filter r.differs).any (fun x => x.1 == 2 && !x.2.2) = true
  · have hU : Unlocked r (s2.setReg 0x600000 4) := hu.setReg _ _ (by decide)
    have hx := (any_failed_iff r ch).mp hfail
    rw [warmFinish_failed r ch hfail, hs2]
    refine ⟨hU.lock, hU.features, hU.vf, fun _ => by rw [State.sysstate, reg_setReg_same]; rfl, hU.rom.trans (hmeas 1), fun hall => ?_, ?_⟩
    · obtain ⟨x, hx, h2, hf, -⟩ := hx
      exact absurd (hall x hx h2) (by simp [hf])
    · rintro rfl
      obtain ⟨x, hx, -⟩ := hx
      cases hx
  · obtain ⟨s5, b, ht, hframe, hnil⟩ := warmFinish_passed r ch (Bool.eq_false_iff.mpr hfail)
    rw [hs2] at hframe
    have hreg (o : Nat) : s5.reg o = (r.warmLoaded s2).reg o := hframe.reg o List.not_mem_nil
    have hU : Unlocked r ((s5.takeMeasure 6 b).setReg 0x600000 2) :=
      (hu.warmLoaded (r := r)).of_regs (fun o _ _ => (reg_setReg_other _ _ (by omega)).trans (hreg o)) hframe.vfOn
        ((measurement_takeMeasure_other s5 6 1 b (by decide)).trans (measurement_of_frame hframe 1))
    have hT (o : Nat) (ho : o ≠ 0x600000) : ((s5.takeMeasure 6 b).setReg 0x600000 2).reg o = (r.warmLoaded s2).reg o :=
      (reg_setReg_other _ _ ho).trans (hreg o)
    rw [ht]
    refine ⟨hU.lock, hU.features, hU.vf, fun hx => absurd ((any_failed_iff r ch).mpr ?_) hfail, hU.rom.trans (hmeas 1), fun _ => ⟨?_, ?_, ?_⟩, ?_⟩
    · rwa [hmeas]
    · rw [State.sysstate, reg_setReg_same]; rfl
    · rw [hT _ (by decide), warmLoaded_ready1, h18, hready, hwas]
      exact BitVec.zero_or
    · intro m hm
      obtain ⟨hload, hrdy⟩ := warmLoaded_millis r s2 m hm
      rw [hT 0x50 (by decide), hT 0x600010 (by decide), warmLoaded_reg r s2 (by decide) (by decide)]
      exact ⟨(congrArg (fun ms => (ms.getD m {}).loaded) hframe.millis).trans hload, hrdy⟩
    · rintro rfl
      rw [hT 0x50 (by decide), warmLoaded_reg r s2 (by decide) (by decide)]
      constructor
      · refine (congrArg State.mem (hnil rfl) :).trans ((warmLoaded_mem _ _).trans (Eq.trans ?_ hmem))
        obtain ⟨c, hc⟩ := warmOpened_eq r
        rw [hc]
      · rw [← h50, ← hs2]
        exact (reg_warmOpened_apart r 0x50 (by decide)).trans (reg_setReg_other _ _ (by decide))

end Sys2Proof.Machine

namespace Sys2Proof.Machine

/-! ### Units that report at start-up (R25, R26, R330) -/

theorem getLsbD_setBit_same (s : State) (o b : Nat) (v : Bool) (hb : b < 64) : ((s.setBit o b v).reg o).getLsbD b = v := by
  rw [getLsbD_setBit s o b b v hb, if_pos rfl]

/-- A bit that a fence sets stands behind the fence, whether or not it stood before. -/
theorem fenceStack_sets (s : State) (k : Nat) (hk : k < 64) : ((s.fenceStack k).reg 0x60).getLsbD k = true := by
  unfold State.fenceStack
  split
  · assumption
  · rw [(frame_fenceRec _ _ _ _).reg 0x60 (by decide), reg_setBit_other _ _ _ (by decide), getLsbD_setBit_same _ _ _ _ hk]

theorem exec_stackTrained (s : State) (k : Nat) (hk : k < 16) (hs : s.sysstate ≠ 4) (hd : s.devSize = 0) (hf : (s.reg 0x60).getLsbD k = false)
    (ht : s.trained k = false) : (∃ t, exec (.stackTrained k true) s = .next t ∧ (t.reg 0x600010).getLsbD k = true)
      ∧ ∃ t, exec (.stackTrained k false) s = .next t ∧ (t.reg 0x60).getLsbD k = true := by
  have hexec (ok : Bool) : exec (.stackTrained k ok) s = .next (if ok then s.setBit 0x600010 k true else s.fenceStack k).publishMem := by
    show execStackTrained k ok s = _
    unfold execStackTrained
    rw [if_pos ⟨hk, hs, hd, by simp [hf], by simp [ht]⟩]
  refine ⟨⟨_, hexec true, ?_⟩, _, hexec false, ?_⟩
  · rw [reg_publishMem _ (by decide), if_pos rfl, getLsbD_setBit_same _ _ _ _ (by omega)]
  · rw [reg_publishMem _ (by decide), if_neg (by decide), fenceStack_sets s k (by omega)]

/-- A fence sets its core's bit, and the fence bit of a core, once set, stays. -/
theorem coreFenced_fenceCoreFor (s : State) (n m : Nat) (r : ErrRec) (hm : m < 384) (h : s.coreFenced m = true ∨ m = n) :
    (s.fenceCoreFor n r).coreFenced m = true := by
  unfold State.fenceCoreFor
  split
  · next hn =>
    rcases h with h | rfl
    · exact h
    · exact hn
  · unfold State.coreFenced at h ⊢
    rw [(frame_sendRec _ _ _).reg _ (by simp [errDrop]; omega)]
    by_cases hw : m / 64 = n / 64
    · rw [hw, getLsbD_setBit _ _ _ _ _ (by omega)]
      split
      · rfl
      · rw [← hw]
        exact h.resolve_right (by omega)
    · rw [reg_setBit_other _ _ _ (by omega)]
      exact h.resolve_right (by rintro rfl; exact hw rfl)

theorem coreFenced_fenceCore (s : State) (n m : Nat) (hm : m < 384) (h : s.coreFenced m = true ∨ m = n) : (s.fenceCore n).coreFenced m = true := by
  unfold State.fenceCore
  exact coreFenced_fenceCoreFor s n m _ hm h

theorem exec_clusterReady (s : State) (cl : Nat) (bad : List Nat) (hc : cl < 24) (hs : s.sysstate ≠ 4) (hr : (s.reg 0x600018).getLsbD cl = false)
    (hw : s.sysstate = 5 → s.wasReady.2.getLsbD cl = false) :
    exec (.clusterReady cl bad) s
      = .next (((bad.filter (fun i => i < 16)).foldl (fun t i => t.fenceCore (16 * cl + i)) s).setBit 0x600018 cl true) := by
  show execClusterReady cl bad s = _
  unfold execClusterReady
  rw [if_pos ⟨hc, hs, by simp [hr], fun h => by simp [hw h.1] at h⟩]

/-- The cores that a cluster reports as bad are fenced. -/
theorem coreFenced_foldl_fenceCore (s : State) (cl : Nat) (bad : List Nat) (hc : cl < 24) (i : Nat) (hi : i ∈ bad) (h16 : i < 16) :
    ((bad.filter (fun i => i < 16)).foldl (fun t i => t.fenceCore (16 * cl + i)) s).coreFenced (16 * cl + i) = true :=
  foldl_reaches (fun u => u.coreFenced (16 * cl + i) = true) (fun t j => t.fenceCore (16 * cl + j)) _ i (List.mem_filter.mpr ⟨hi, by simpa using h16⟩)
    (fun u => coreFenced_fenceCore u _ _ (by omega) (.inr rfl)) (fun u hu j _ => coreFenced_fenceCore u _ _ (by omega) (.inl hu)) s

theorem exec_millinerLoaded (s : State) (m : Nat) (hm : m < 8) (hs : s.sysstate ≠ 4) (hf : (s.reg 0x50).getLsbD (48 + m) = false) :
    (∃ t, exec (.millinerLoaded m true) s = .next t ∧ (t.reg 0x600010).getLsbD (16 + m) = true ∧ (t.millis.getD m {}).loaded = true)
      ∧ exec (.millinerLoaded m false) s = .next (s.fenceMilliner m) := by
  have hexec (ok : Bool) : exec (.millinerLoaded m ok) s = .next (if ok then
      (s.updMilli m (fun x => { x with loaded := true, missed := 0, beat := true })).setBit 0x600010 (16 + m) true else s.fenceMilliner m) := by
    show execMillinerLoaded m ok s = _
    unfold execMillinerLoaded
    rw [if_pos ⟨hm, hs, by simp [hf]⟩]
  refine ⟨⟨_, hexec true, ?_, ?_⟩, hexec false⟩
  · rw [if_pos rfl, getLsbD_setBit_same _ _ _ _ (by omega)]
  · have h := getD_millis_updMilli s m m (fun x => { x with loaded := true, missed := 0, beat := true }) hm
    rw [if_pos rfl] at h
    exact congrArg Milli.loaded h

/-! Brim ports. -/

/-- What one lane's training writes, and what a port's does: the lanes in turn, and one free value used. -/
def trainEye (p : Nat) (m : Nat → Nat) (s : State) (l : Nat) : State :=
  s.setReg (0x242000 + 8 * (8 * p + l)) (putFld (s.reg (0x242000 + 8 * (8 * p + l))) 48 16 (m l))

theorem reg_withFree (t : State) (n o : Nat) : ({ t with free := n } : State).reg o = t.reg o := rfl

theorem reg_trainEyes (s : State) (p o : Nat) :
    (s.trainEyes p).reg o = ((List.range 8).foldl (trainEye p (fun l => (Config.eyeTrained s.free l).toNat)) s).reg o := by
  unfold State.trainEyes
  exact reg_withFree _ _ _

theorem reg_trainEyes_other (s : State) (p o : Nat) (h : ∀ l, l < 8 → o ≠ 0x242000 + 8 * (8 * p + l)) : (s.trainEyes p).reg o = s.reg o := by
  rw [reg_trainEyes]
  exact foldl_induction (fun u => u.reg o = s.reg o) _ _
    (fun u hu l hl => (reg_setReg_other _ _ (h l (List.mem_range.mp hl))).trans hu) s rfl

theorem eye_trainEye (p : Nat) (m : Nat → Nat) (s : State) (l : Nat) (h : m l < 2 ^ 16) :
    wfld ((trainEye p m s l).reg (0x242000 + 8 * (8 * p + l))) 48 16 = m l := by
  unfold trainEye
  rw [reg_setReg_same, wfld_putFld_same _ _ _ _ (by decide), Nat.mod_eq_of_lt h]

/-- Each lane register of a port shows the margins of its lane's training. -/
theorem eye_trainEyes (s : State) (p l : Nat) (hl : l < 8) :
    wfld ((s.trainEyes p).reg (0x242000 + 8 * (8 * p + l))) 48 16 = (Config.eyeTrained s.free l).toNat := by
  rw [reg_trainEyes]
  refine foldl_reaches (fun u => wfld (u.reg (0x242000 + 8 * (8 * p + l))) 48 16 = (Config.eyeTrained s.free l).toNat) _ (List.range 8) l
    (List.mem_range.mpr hl) (fun u => eye_trainEye p _ u l (Config.eyeTrained s.free l).isLt) (fun u hu k _ => ?_) s
  by_cases hk : k = l
  · rw [hk]
    exact eye_trainEye p _ u l (Config.eyeTrained s.free l).isLt
  · rw [trainEye, reg_setReg_other _ _ (by omega)]
    exact hu

theorem exec_brimTrained (s : State) (p : Nat) (hp : p < 24) (hs : s.sysstate ≠ 4) (hf : (s.reg 0x58).getLsbD p = false)
    (ht : s.trained (24 + p) = false) : (∃ t, exec (.brimTrained p true) s = .next t ∧ (t.reg 0x600010).getLsbD (24 + p) = true
      ∧ (∀ i, i < 6 → t.reg (0x210000 + 64 * p + 8 * i) = 0)
      ∧ ∀ l, l < 8 → wfld (t.reg (0x242000 + 8 * (8 * p + l))) 48 16 = (Config.eyeTrained s.free l).toNat)
    ∧ exec (.brimTrained p false) s = .next (s.portDown p) := by
  have hexec (ok : Bool) : exec (.brimTrained p ok) s = .next (if ok then
      ((List.range 6).foldl (fun t i => t.setReg (0x210000 + 64 * p + 8 * i) 0) (s.setBit 0x600010 (24 + p) true)).trainEyes p
      else s.portDown p) := by
    show execBrimTrained p ok s = _
    unfold execBrimTrained
    rw [if_pos ⟨hp, hs, by simp [hf], by simp [ht]⟩]
  refine ⟨⟨_, hexec true, ?_, fun i hi => ?_, fun l hl => ?_⟩, hexec false⟩
  · rw [if_pos rfl, reg_trainEyes_other _ _ _ (fun l _ => by omega),
      reg_foldl_setReg_other (fun i => 0x210000 + 64 * p + 8 * i) 0 (List.range 6) _ _ (fun i hi => by have := List.mem_range.mp hi; omega),
      getLsbD_setBit_same _ _ _ _ (by omega)]
  · rw [if_pos rfl, reg_trainEyes_other _ _ _ (fun l _ => by omega),
      reg_foldl_setReg_same (fun i => 0x210000 + 64 * p + 8 * i) 0 (List.range 6) _ i (List.mem_range.mpr hi)]
  · obtain ⟨c, hc⟩ := foldl_setReg_frame (fun i => 0x210000 + 64 * p + 8 * i) 0 (List.range 6) (s.setBit 0x600010 (24 + p) true)
    rw [if_pos rfl, eye_trainEyes _ p l hl, hc]
    rfl

end Sys2Proof.Machine

section
open Sys2Proof Sys2Proof.Machine

/-- Settles O55: the invariant `Starting` along a cold start, `Unlocked` and `Verified` along a warm one, and each unit's report by its case. -/
theorem startsComplete : Obligations.StartsComplete := by
  unfold Obligations.StartsComplete
  intro s
  refine ⟨?_, ?_, fun ch hs hl hd hz => exec_warmStart_accepted s ch hs hl hd hz, fun ch hs hl => exec_warmStart_refused s ch hs hl,
    fun k hk hs hd hf ht => exec_stackTrained s k hk hs hd hf ht, ?_, fun m hm hs hf => exec_millinerLoaded s m hm hs hf,
    fun p hp hs hf ht => exec_brimTrained s p hp hs hf ht⟩
  case refine_1 =>
    intro i hi
    have hexec : exec i s = .next s.coldStart := by
      rcases List.mem_cons.mp hi with rfl | hi
      · rfl
      · rcases List.mem_cons.mp hi with rfl | hi
        · rfl
        · rw [List.mem_singleton.mp hi]
          rfl
    exact ⟨_, hexec, coldStart_reaches s⟩
  case refine_2 =>
    intro hs
    refine ⟨fun k ok => ?_, fun cl bad => ?_, fun m ok => ?_, fun p ok => ?_⟩
    · exact congrArg Host.Outcome.next (if_neg (fun h => h.2.1 hs))
    · exact congrArg Host.Outcome.next (if_neg (fun h => h.2.1 hs))
    · exact congrArg Host.Outcome.next (if_neg (fun h => h.2.1 hs))
    · exact congrArg Host.Outcome.next (if_neg (fun h => h.2.1 hs))
  case refine_3 =>
    intro cl hc hs hr hw
    refine ⟨exec_clusterReady s cl [] hc hs hr hw, fun bad => ⟨_, exec_clusterReady s cl bad hc hs hr hw, ?_, fun i hi h16 => ?_⟩⟩
    · exact getLsbD_setBit_same _ _ _ _ (by omega)
    · unfold State.coreFenced
      rw [reg_setBit_other _ _ _ (by omega)]
      exact coreFenced_foldl_fenceCore s cl bad hc i hi h16

end

namespace Sys2Proof.Machine

/-! ### Byte strings of numbers -/

@[simp] theorem length_leBytes (n x : Nat) : (leBytes n x).length = n := by
  induction n generalizing x with
  | zero => rfl
  | succ n ih => simp [leBytes, ih]

@[simp] theorem length_beBytes (n x : Nat) : (beBytes n x).length = n := by simp [beBytes]

theorem take_leBytes (n m x : Nat) (h : n ≤ m) : (leBytes m x).take n = leBytes n x := by
  induction n generalizing m x with
  | zero => rfl
  | succ n ih =>
    obtain ⟨m, rfl⟩ := Nat.exists_eq_add_of_le' h
    show BitVec.ofNat 8 x :: (leBytes (m + n) (x / 256)).take n = _
    rw [ih _ _ (Nat.le_add_left n m)]
    rfl

theorem drop_leBytes (o m x : Nat) : (leBytes (o + m) x).drop o = leBytes m (x / 2 ^ (8 * o)) := by
  induction o generalizing x with
  | zero => simp
  | succ o ih =>
    rw [Nat.add_right_comm]
    show (leBytes (o + m) (x / 256)).drop o = _
    rw [ih, Nat.div_div_eq_div_mul, show (256 : Nat) = 2 ^ 8 from rfl, ← Nat.pow_add, show 8 + 8 * o = 8 * (o + 1) by omega]

/-- A number's bytes give the number back, as far as they reach. -/
theorem leNat_leBytes (n x : Nat) : leNat (leBytes n x) = x % 2 ^ (8 * n) := by
  induction n generalizing x with
  | zero => simp [leBytes, leNat, Nat.mod_one]
  | succ n ih =>
    rw [show 8 * (n + 1) = 8 + 8 * n by omega, Nat.pow_add, Nat.mod_mul, leBytes, leNat, ih, BitVec.toNat_ofNat]

/-- A byte string is the bytes of its number. -/
theorem leBytes_leNat (bs : List Byte) : leBytes bs.length (leNat bs) = bs := by
  induction bs with
  | nil => rfl
  | cons b bs ih =>
    have hb : b.toNat < 256 := b.isLt
    have h1 : BitVec.ofNat 8 (leNat (b :: bs)) = b := by
      apply BitVec.eq_of_toNat_eq
      rw [BitVec.toNat_ofNat, leNat]
      omega
    have h2 : leNat (b :: bs) / 256 = leNat bs := by rw [leNat]; omega
    rw [List.length_cons, leBytes, h1, h2, ih]

theorem leNat_lt (bs : List Byte) : leNat bs < 2 ^ (8 * bs.length) := by
  conv_lhs => rw [← leBytes_leNat bs]
  rw [leNat_leBytes]
  exact Nat.mod_lt _ (Nat.two_pow_pos _)

theorem beNat_append (as bs : List Byte) : beNat (as ++ bs) = beNat as * 256 ^ bs.length + beNat bs := by
  induction bs using List.reverseRecOn with
  | nil => simp [beNat]
  | append_singleton bs b ih =>
    have h (xs : List Byte) : beNat (xs ++ [b]) = beNat xs * 256 + b.toNat := by simp [beNat]
    rw [← List.append_assoc, h, ih, h, List.length_append, List.length_singleton, Nat.pow_succ]
    ring

theorem beNat_reverse (bs : List Byte) : beNat bs.reverse = leNat bs := by
  induction bs with
  | nil => rfl
  | cons b bs ih =>
    rw [List.reverse_cons, beNat_append, ih, leNat]
    simp [beNat]
    ring

theorem beNat_beBytes (n x : Nat) : beNat (beBytes n x) = x % 2 ^ (8 * n) := by rw [beBytes, beNat_reverse, leNat_leBytes]

/-- A field of a number's bytes. -/
theorem numAt_leBytes (m x o n : Nat) (h : o + n ≤ m) : numAt (leBytes m x) o n = x / 2 ^ (8 * o) % 2 ^ (8 * n) := by
  obtain ⟨k, rfl⟩ := Nat.exists_eq_add_of_le h
  rw [numAt, Nat.add_assoc, drop_leBytes, take_leBytes _ _ _ (Nat.le_add_right n k), leNat_leBytes]

/-- Bytes written with no stack lost are the bytes that stand there. -/
theorem memRead_devPut (s : State) (pa : Nat) (bs : List Byte) (h : (s.reg 0x60).toNat = s.stackMap) :
    memRead (s.devPut pa bs).mem pa bs.length = bs := by
  refine List.ext_getElem (by simp [memRead]) (fun i h1 h2 => ?_)
  simp only [memRead, List.getElem_map, List.getElem_range]
  rw [memByte_devPut s pa bs _ h, if_pos (by omega), Nat.add_sub_cancel_left, List.getD_eq_getElem _ _ h2]

end Sys2Proof.Machine

namespace Sys2Proof.Machine

/-! ### Uncorrectable and corrected errors (R348, R352, R360) -/

/-- With no launch there is none whose error is uncontained. -/
theorem coreError_idle (s : State) (n : Nat) (h : s.launches = []) : s.coreError n = s := by simp [State.coreError, h]

theorem frame_coreRec (s : State) (n u i v : Nat) (h : s.launches = []) : Frame [errDrop] s (s.coreRec n u i v) := by
  unfold State.coreRec
  have hf := frame_sendRec s (({ kind := 2, uclass := u, inst := i, synd := v } : ErrRec).atCore n) none
  rw [coreError_idle _ _ (by rw [hf.launches, h])]
  exact hf

@[simp] theorem unblock_row (s : State) (core r : Nat) : s.unblock.row core r = s.row core r := rfl
@[simp] theorem unblock_pbuf (s : State) : s.unblock.pbuf = s.pbuf := rfl

theorem exec_uncorrectable_line (s : State) (pa bg : Nat) (fab : Bool) (hp : pa < s.devSize) (hc : s.poisoned pa = false) :
    exec (.uncorrectable (.line pa fab bg)) s = .next ((s.markLine pa true).sendRec
      (if fab then { kind := 2, uclass := 10, inst := s.stackOf pa / 4, die := s.stackOf pa / 4, addr := pa }
        else { kind := 2, uclass := 8, inst := s.stackOf pa, die := s.stackOf pa / 4, addr := pa, synd := bg % 64 }) none).unblock := by
  show Host.Outcome.next (State.unblock (ite _ _ _)) = _
  rw [if_neg (by simp [hc, hp])]

theorem exec_uncorrectable_row (s : State) (core r : Nat) (hc : core < 384) (hr : r < 2048) (hm : (s.row core r).mark = false)
    (hl : s.launches = []) : ∃ t, exec (.uncorrectable (.row core r)) s = .next t
      ∧ (t.row core r).fault = some bareFault ∧ (t.row core r).mark = true ∧ (t.row core r).bits = (s.row core r).bits := by
  refine ⟨_, rfl, ?_⟩
  show (State.row (ite _ _ _) core r).fault = _ ∧ (State.row (ite _ _ _) core r).mark = _ ∧ (State.row (ite _ _ _) core r).bits = _
  have hframe := frame_coreRec (s.setRow core r { s.row core r with fault := some bareFault, mark := true }) core 7 2 (32 + r % 32) hl
  rw [if_neg (by simp [hm, hc, hr]), hframe.row, row_setRow_same]
  exact ⟨rfl, rfl, rfl⟩

theorem exec_uncorrectable_buf (s : State) (b core o : Nat) (hc : core < 384)
    (hb : (b = 0 ∧ o < 2 ^ 20) ∨ (b = 1 ∧ o < 786432) ∨ (b = 3 ∧ o < 262144)) (hl : s.launches = []) :
    ∃ t, exec (.uncorrectable (.buf core b o)) s = .next t ∧ tabGet false t.pbuf (unitKey b (bufKey core o)) = true := by
  refine ⟨_, rfl, ?_⟩
  show tabGet false (State.pbuf (ite _ _ _)) _ = true
  by_cases hset : tabGet false s.pbuf (unitKey b (bufKey core o)) = true
  · rwa [if_pos (.inr (.inr (.inr hset)))]
  · have hrange : ¬ (if b = 0 then 2 ^ 20 else if b = 1 then 786432 else 262144) ≤ o := by
      rcases hb with ⟨rfl, h⟩ | ⟨rfl, h⟩ | ⟨rfl, h⟩ <;> simpa using h
    have hframe := frame_coreRec { s with pbuf := tabSet false s.pbuf (unitKey b (bufKey core o)) true } core 7 (if b = 3 then 3 else b) (bankOf b o) hl
    rw [if_neg (by rintro (h | h | h | h) <;> [omega; omega; exact hrange h; exact hset h]), hframe.pbuf]
    exact tabGet_tabSet_same _ _ _ _

/-- The current context is the one that its core and number name. -/
theorem ctxAt_current (s : State) (h : s.ctx.live = true) : s.ctxAt s.ctx.core s.ctx.cid = some s.ctx := by
  simp [State.ctxAt, State.live, State.ctxs, h]

theorem ctx_updCtx_current (s : State) (f : Ctx → Ctx) (h : s.ctx.live = true) : (s.updCtx s.ctx.core s.ctx.cid f).ctx = f s.ctx := by
  simp [State.updCtx, State.mapCtx, h]

theorem sreg_withBlocked (c : Ctx) (b : Option Hold) (n : Nat) : ({ c with blocked := b } : Ctx).sreg n = c.sreg n := rfl

theorem exec_uncorrectable_sreg (s : State) (n : Nat) (h1 : 1 ≤ n) (h2 : n < 32) (hv : s.ctx.live = true) (hl : s.launches = []) :
    ∃ t, exec (.uncorrectable (.sreg s.ctx.core s.ctx.cid n)) s = .next t ∧ (t.ctx.sreg n).fault = some bareFault
      ∧ ∀ m, m ≠ n → t.ctx.sreg m = s.ctx.sreg m := by
  refine ⟨_, rfl, ?_⟩
  simp only [ctxAt_current s hv]
  by_cases hf : (s.ctx.sreg n).fault = some bareFault
  · rw [if_pos (.inr (.inr hf))]
    exact ⟨hf, fun _ _ => rfl⟩
  · rw [if_neg (by rintro (h | h | h) <;> [omega; omega; exact hf h])]
    have hctx := ctx_updCtx_current s (fun x => x.setS n { s.ctx.sreg n with fault := some bareFault }) hv
    have hlaunch : (s.updCtx s.ctx.core s.ctx.cid (fun x => x.setS n { s.ctx.sreg n with fault := some bareFault })).launches = [] := hl
    generalize s.updCtx s.ctx.core s.ctx.cid _ = u at *
    have hrec : Frame [errDrop] u (u.ctxRec s.ctx { kind := 2, uclass := 4, inst := 2, synd := n }) := frame_sendRec _ _ _
    rw [coreError_idle _ _ (by rw [hrec.launches, hlaunch])]
    have hsreg (m : Nat) : ((u.ctxRec s.ctx { kind := 2, uclass := 4, inst := 2, synd := n }).unblock.ctx).sreg m
        = (s.ctx.setS n { s.ctx.sreg n with fault := some bareFault }).sreg m := by
      rw [← hctx, ← hrec.ctx]
      exact sreg_withBlocked _ _ _
    refine ⟨?_, fun m hm => ?_⟩
    · rw [hsreg, sreg_setS_same _ _ _ (by omega)]
    · rw [hsreg, sreg_setS_other _ _ _ _ hm]

/-- A counter's step: the count, modulo its width; a record may go out, which leaves the counters alone (R361). -/
theorem reg_countUp_same (s : State) (o thr : Nat) (r : ErrRec) (ho : o ≠ errDrop) :
    wfld ((s.countUp o thr r).reg o) 0 32 = (wfld (s.reg o) 0 32 + 1) % 2 ^ 32 := by
  unfold State.countUp
  simp only
  split
  · rw [(frame_sendRec _ _ _).reg o (by simpa using ho), reg_setReg_same, wfld_putFld_same _ _ _ _ (by decide)]
  · rw [reg_setReg_same, wfld_putFld_same _ _ _ _ (by decide)]

theorem frame_countUp (s : State) (o thr : Nat) (r : ErrRec) : Frame [o, errDrop] s (s.countUp o thr r) := by
  unfold State.countUp
  simp only
  split
  · exact (frame_setReg s _ _).seq (frame_sendRec _ _ _)
  · exact (frame_setReg s _ _).mono (by simp)

theorem exec_corrected (s : State) (k bg : Nat) (hk : k < 16) (hb : bg < 64) : ∃ t, exec (.corrected k bg) s = .next t
    ∧ wfld (t.reg (0x240000 + 8 * (64 * k + bg))) 0 32 = (wfld (s.reg (0x240000 + 8 * (64 * k + bg))) 0 32 + 1) % 2 ^ 32 := by
  refine ⟨_, rfl, ?_⟩
  rw [if_pos ⟨hk, hb⟩]
  exact reg_countUp_same _ _ _ _ (by simp [errDrop]; omega)

theorem exec_eyeMargin (s : State) (p l w h : Nat) (hp : p < 24) (hl : l < 8) (hw : w < 256) (hh : h < 256) :
    ∃ t, exec (.eyeMargin p l w h) s = .next t
      ∧ wfld (t.reg (0x242000 + 8 * (8 * p + l))) 56 8 = w ∧ wfld (t.reg (0x242000 + 8 * (8 * p + l))) 48 8 = h := by
  refine ⟨_, rfl, ?_⟩
  rw [if_pos ⟨hp, hl⟩, reg_setReg_same]
  exact ⟨by rw [wfld_putFld_other _ _ _ _ _ _ (by decide) (by decide), wfld_putFld_same _ _ _ _ (by decide), Nat.mod_eq_of_lt (by omega)],
    by rw [wfld_putFld_same _ _ _ _ (by decide), Nat.mod_eq_of_lt (by omega)]⟩

end Sys2Proof.Machine

namespace Sys2Proof.Machine

/-! ### Links (R330, R389 to R391) -/

theorem trailerOk_iff (f : BitVec 512) (tr : Word) :
    trailerOk ⟨f, tr⟩ = true ↔ crc32c (leBytes 64 f.toNat ++ leBytes 4 tr.toNat) = tr.toNat / 2 ^ 32 := beq_iff_eq

/-- A port that goes down is fenced and no longer ready (R25). -/
theorem portDown_sets (s : State) (p : Nat) (hp : p < 24) (hf : (s.reg 0x58).getLsbD p = false) :
    ((s.portDown p).reg 0x58).getLsbD p = true ∧ ((s.portDown p).reg 0x600010).getLsbD (24 + p) = false := by
  unfold State.portDown
  rw [if_neg (by simp [hf])]
  have hr (o : Nat) (ho : o ≠ errDrop) (t : State) : (t.fenceRec 9 p (4 + p / 12)).reg o = t.reg o :=
    (frame_fenceRec _ _ _ _).reg o (by simpa using ho)
  rw [hr _ (by decide), hr _ (by decide), reg_setBit_other _ _ _ (by decide), getLsbD_setBit_same _ _ _ _ (by omega),
    getLsbD_setBit_same _ _ _ _ (by omega)]
  exact ⟨rfl, rfl⟩

theorem exec_flitReplay (s : State) (p l : Nat) (f : BitVec 512) (tr : Word) (hp : p < 24) (hl : l < 8) (hup : s.brimUp p = true) :
    (crc32c (leBytes 64 f.toNat ++ leBytes 4 tr.toNat) = tr.toNat / 2 ^ 32 → exec (.flitReplay p l ⟨f, tr⟩) s = .next s)
    ∧ (crc32c (leBytes 64 f.toNat ++ leBytes 4 tr.toNat) ≠ tr.toNat / 2 ^ 32 → ∃ t, exec (.flitReplay p l ⟨f, tr⟩) s = .next t
      ∧ wfld (t.reg (0x242000 + 8 * (8 * p + l))) 0 32 = (wfld (s.reg (0x242000 + 8 * (8 * p + l))) 0 32 + 1) % 2 ^ 32
      ∧ (tabGet 0 s.retries p < 7 → tabGet 0 t.retries p = tabGet 0 s.retries p + 1 ∧ t.reg 0x58 = s.reg 0x58)
      ∧ (7 ≤ tabGet 0 s.retries p → tabGet 0 t.retries p = 0 ∧ (t.reg 0x58).getLsbD p = true
        ∧ (t.reg 0x600010).getLsbD (24 + p) = false)) := by
  have hfence : (s.reg 0x58).getLsbD p = false := by
    simp only [State.brimUp, Bool.and_eq_true, Bool.not_eq_true'] at hup
    exact hup.2
  constructor
  · intro hok
    exact congrArg Host.Outcome.next (if_neg (fun h => h.2.2.2 ((trailerOk_iff f tr).mpr hok)))
  · intro hbad
    refine ⟨_, congrArg Host.Outcome.next (if_pos ⟨hp, hl, hup, fun h => hbad ((trailerOk_iff f tr).mp h)⟩), ?_⟩
    have hcount := reg_countUp_same s (0x242000 + 8 * (8 * p + l)) (wfld (s.reg 0x243000) 32 32)
      { kind := 1, uclass := 9, inst := p, die := 4 + p / 12 } (by simp [errDrop]; omega)
    have hframe := frame_countUp s (0x242000 + 8 * (8 * p + l)) (wfld (s.reg 0x243000) 32 32)
      { kind := 1, uclass := 9, inst := p, die := 4 + p / 12 }
    generalize s.countUp _ _ _ = t at hcount hframe
    have h58 : t.reg 0x58 = s.reg 0x58 := hframe.reg _ (by simp [errDrop]; omega)
    have hretry : tabGet 0 t.retries p = tabGet 0 s.retries p := by rw [hframe.retries]
    simp only
    split
    · next h8 =>
      have hport := frame_portDown { t with retries := tabSet 0 t.retries p 0 } p
      obtain ⟨hset, hclr⟩ := portDown_sets { t with retries := tabSet 0 t.retries p 0 } p hp (by rw [← hfence, ← h58]; rfl)
      refine ⟨?_, fun h => absurd h8 (by omega), fun _ => ⟨?_, hset, hclr⟩⟩
      · rw [hport.reg _ (by simp [errDrop]; omega)]
        exact hcount
      · rw [hport.retries]
        exact tabGet_tabSet_same _ _ _ _
    · next h8 =>
      refine ⟨hcount, fun _ => ⟨?_, h58⟩, fun h => absurd h (by omega)⟩
      exact (tabGet_tabSet_same _ _ _ _).trans (by rw [hretry])

/-- A tree engine that is fenced has its bit set. -/
theorem fenceTree_sets (s : State) (d e : Nat) (hd : d < 4) (he : e < 12) : ((s.fenceTree d e).reg 0x50).getLsbD (12 * d + e) = true := by
  unfold State.fenceTree
  split
  · assumption
  · rw [(frame_fenceRec _ _ _ _).reg 0x50 (by decide), getLsbD_setBit_same _ _ _ _ (by omega)]

/-! Running digests. -/

/-- A register pair holds a block, modulo its width. -/
theorem regBlock_setBlock_same (s : State) (o v : Nat) : (s.setBlock o v).regBlock o = v % 2 ^ 128 := by
  have hb : (beBytes 16 v).length = 16 := length_beBytes 16 v
  have h1 : leBytes 8 (BitVec.ofNat 64 (leNat ((beBytes 16 v).take 8))).toNat = (beBytes 16 v).take 8 := by
    have hlt := leNat_lt ((beBytes 16 v).take 8)
    have hlen : ((beBytes 16 v).take 8).length = 8 := by simp
    rw [hlen] at hlt
    rw [BitVec.toNat_ofNat, Nat.mod_eq_of_lt hlt]
    conv_lhs => rw [← hlen]
    exact leBytes_leNat _
  have h2 : leBytes 8 (BitVec.ofNat 64 (leNat ((beBytes 16 v).drop 8))).toNat = (beBytes 16 v).drop 8 := by
    have hlt := leNat_lt ((beBytes 16 v).drop 8)
    have hlen : ((beBytes 16 v).drop 8).length = 8 := by simp
    rw [hlen] at hlt
    rw [BitVec.toNat_ofNat, Nat.mod_eq_of_lt hlt]
    conv_lhs => rw [← hlen]
    exact leBytes_leNat _
  unfold State.setBlock State.regBlock
  simp only
  rw [reg_setReg_same, reg_setReg_other _ _ (by omega), reg_setReg_same, h1, h2, List.take_append_drop, beNat_beBytes]

theorem reg_setBlock_other (s : State) (o v x : Nat) (h1 : x ≠ o) (h2 : x ≠ o + 8) : (s.setBlock o v).reg x = s.reg x := by
  unfold State.setBlock
  simp only
  rw [reg_setReg_other _ _ h2, reg_setReg_other _ _ h1]

theorem regBlock_congr {s t : State} {o : Nat} (h1 : t.reg o = s.reg o) (h2 : t.reg (o + 8) = s.reg (o + 8)) : t.regBlock o = s.regBlock o := by
  unfold State.regBlock
  rw [h1, h2]

/-! What a flit asks of the package. -/

theorem flitFld_eq (f : BitVec 512) (o n : Nat) (h : o + n ≤ 64) : flitFld f o n = numAt (leBytes 64 f.toNat) o n := (numAt_leBytes 64 _ o n h).symm

theorem ofNat_leNat_flit (f : BitVec 512) : BitVec.ofNat 512 (leNat (leBytes 64 f.toNat)) = f := by
  rw [leNat_leBytes, Nat.mod_eq_of_lt f.isLt, BitVec.ofNat_toNat, BitVec.setWidth_eq]

/-- A contribution to a collective changes the flits that have come and those that wait to go out, and nothing else. -/
theorem flitIn_frame (s : State) (p : Nat) (f : BitVec 512) : ∃ rx tx, s.flitIn p f = { s with collRx := rx, txq := tx } := by
  unfold State.flitIn
  simp only
  split
  · exact ⟨_, _, rfl⟩
  · split
    · exact ⟨_, _, rfl⟩
    · split
      · exact ⟨_, _, rfl⟩
      · exact ⟨_, _, rfl⟩

/-- No flit changes a register or a count of replays. -/
theorem flitActs_keeps (s : State) (p : Nat) (fl : List Byte) : (s.flitActs p fl).ctl = s.ctl ∧ (s.flitActs p fl).retries = s.retries := by
  unfold State.flitActs
  simp only
  split
  · obtain ⟨rx, tx, h⟩ := flitIn_frame s p (BitVec.ofNat 512 (leNat fl))
    rw [h]
    exact ⟨rfl, rfl⟩
  · split
    · exact ⟨rfl, rfl⟩
    · split
      · split
        · exact ⟨(congrArg State.ctl (devPut_frame s _ _) :), (frame_devPut s _ _).retries⟩
        · exact ⟨rfl, rfl⟩
      · exact ⟨rfl, rfl⟩
      · exact ⟨rfl, rfl⟩

/-- A wake flit for this package merges its value into the register (R390). -/
theorem flitActs_wake (s : State) (p : Nat) (fl : List Byte) (h3 : s.feat 3 = true) (hd : numAt fl 2 1 = wfld (s.reg 0x600030) 0 8)
    (hk : numAt fl 0 1 = 3) (hlen : fl.length = 64) :
    (tabGet 0 (s.flitActs p fl).wake (numAt fl 8 8 / 8 % 4096)).toNat
      = max (tabGet 0 s.wake (numAt fl 8 8 / 8 % 4096)).toNat (numAt fl 16 8) := by
  have hlt : numAt fl 16 8 < 2 ^ 64 := by
    have := leNat_lt ((fl.drop 16).take 8)
    rwa [List.length_take, List.length_drop, hlen] at this
  have hv : (BitVec.ofNat 64 (numAt fl 16 8)).toNat = numAt fl 16 8 := by rw [BitVec.toNat_ofNat, Nat.mod_eq_of_lt hlt]
  have hacts : s.flitActs p fl = s.wakePut (numAt fl 8 8 / 8 % 4096) (BitVec.ofNat 64 (numAt fl 16 8)) := by
    unfold State.flitActs
    simp only
    rw [if_neg (by omega), if_neg (by simp [h3, hd]), hk]
    rfl
  rw [hacts]
  refine (congrArg BitVec.toNat (tabGet_tabSet_same _ _ _ _)).trans ?_
  rw [apply_ite BitVec.toNat, hv]
  split <;> omega

/-- A partial sum that the root's package has taken waits for the others (R391). -/
theorem flitActs_contribution (s : State) (p : Nat) (f : BitVec 512) (h4 : s.feat 4 = true) (hk : numAt (leBytes 64 f.toNat) 0 1 = 4)
    (hg : numAt (leBytes 64 f.toNat) 8 4 < 1024) (hp : p ∈ s.downPorts (numAt (leBytes 64 f.toNat) 8 4))
    (hs : tabGet 0 s.collSeq (numAt (leBytes 64 f.toNat) 8 4) ≤ numAt (leBytes 64 f.toNat) 4 4)
    (ho : Config.collOwn (numAt (leBytes 64 f.toNat) 8 4) (numAt (leBytes 64 f.toNat) 4 4) = true)
    (hc : s.collFlit (numAt (leBytes 64 f.toNat) 8 4) (numAt (leBytes 64 f.toNat) 4 4) (numAt (leBytes 64 f.toNat) 12 4) p = none) :
    s.flitActs p (leBytes 64 f.toNat) = { s with collRx := s.collRx ++ [(p, f)] } := by
  unfold State.flitActs
  simp only
  rw [if_pos hk, ofNat_leNat_flit]
  unfold State.flitIn
  simp only [flitFld_eq f 8 4 (by decide), flitFld_eq f 4 4 (by decide), flitFld_eq f 12 4 (by decide)]
  rw [if_neg (by simp [h4, hp, hc]; omega), if_pos (by simp [ho])]

end Sys2Proof.Machine

namespace Sys2Proof.Machine

/-- A flit counted and taken into the running digest of its direction: what the registers hold then. -/
theorem digested_regs (s u : State) (d k v : Nat) (w : Word) (hu : u.ctl = s.ctl) (hk : k ≠ d) (hk8 : k ≠ d + 8) :
    let t := (u.setBlock d v).setReg k w
    t.reg k = w ∧ t.regBlock d = v % 2 ^ 128 ∧ ∀ x, x ≠ k → x ≠ d → x ≠ d + 8 → t.reg x = s.reg x := by
  refine ⟨reg_setReg_same _ _ _, ?_, fun x h1 h2 h3 => ?_⟩
  · rw [regBlock_congr (reg_setReg_other _ _ hk.symm) (reg_setReg_other _ _ hk8.symm), regBlock_setBlock_same]
  · rw [reg_setReg_other _ _ h1, reg_setBlock_other _ _ _ _ h2 h3, reg_eq_of_ctl hu]

/-- What the digest's write leaves outside the registers. -/
theorem digested_rest (u : State) (d k v : Nat) (w : Word) : ∃ c, (u.setBlock d v).setReg k w = { u with ctl := c } := ⟨_, rfl⟩

/-- A flit sent: the oldest one that waits for the port, or what the event gives (log 105). -/
theorem exec_flitReceive_sent (s : State) (p : Nat) (f : BitVec 512) (tr : Word) (hp : p < 24) (hup : s.brimUp p = true) :
    let o := 0x210000 + 64 * p
    let sent := match s.txq.find? (fun x => x.1 == p) with
      | some x => leBytes 64 x.2.toNat
      | none => leBytes 64 f.toNat
    ∃ t, exec (.flitReceive p true ⟨f, tr⟩) s = .next t ∧ t.reg (o + 0x20) = s.reg (o + 0x20) + 1
      ∧ t.regBlock o = linkDigest (s.regBlock o) (s.regBlock (o + 0x30)) sent % 2 ^ 128
      ∧ ∀ x, x ≠ o + 0x20 → x ≠ o → x ≠ o + 8 → t.reg x = s.reg x := by
  intro o sent
  have hout : (s.flitOut p (leBytes 64 f.toNat)).1.ctl = s.ctl ∧ (s.flitOut p (leBytes 64 f.toNat)).2 = sent := by
    simp only [sent]
    unfold State.flitOut
    split <;> simp [*]
  have hregs := digested_regs s (s.flitOut p (leBytes 64 f.toNat)).1 o (o + 0x20)
    (linkDigest (s.regBlock o) (s.regBlock (o + 0x30)) (s.flitOut p (leBytes 64 f.toNat)).2) (s.reg (o + 0x20) + 1) hout.1 (by omega) (by omega)
  rw [hout.2] at hregs
  refine ⟨_, congrArg Host.Outcome.next (if_pos ⟨hp, hup, .inl rfl⟩), ?_⟩
  simp only [if_true, hout.2]
  exact hregs

/-- A flit received whose trailer checks: counted and digested, the replays over, and what it asks for done. -/
theorem exec_flitReceive_accepted (s : State) (p : Nat) (f : BitVec 512) (tr : Word) (hp : p < 24) (hup : s.brimUp p = true)
    (hok : crc32c (leBytes 64 f.toNat ++ leBytes 4 tr.toNat) = tr.toNat / 2 ^ 32) :
    let o := 0x210000 + 64 * p
    ∃ u : State, (∃ c, u = { s with ctl := c, retries := tabSet 0 s.retries p 0 })
      ∧ exec (.flitReceive p false ⟨f, tr⟩) s = .next (u.flitActs p (leBytes 64 f.toNat)).unblock
      ∧ u.reg (o + 0x28) = s.reg (o + 0x28) + 1
      ∧ u.regBlock (o + 0x10) = linkDigest (s.regBlock (o + 0x10)) (s.regBlock (o + 0x30)) (leBytes 64 f.toNat) % 2 ^ 128
      ∧ ∀ x, x ≠ o + 0x28 → x ≠ o + 0x10 → x ≠ o + 0x10 + 8 → u.reg x = s.reg x := by
  intro o
  have hregs := digested_regs s s (o + 0x10) (o + 0x28)
    (linkDigest (s.regBlock (o + 0x10)) (s.regBlock (o + 0x30)) (leBytes 64 f.toNat)) (s.reg (o + 0x28) + 1) rfl (by omega) (by omega)
  obtain ⟨c, hc⟩ := digested_rest s (o + 0x10) (o + 0x28)
    (linkDigest (s.regBlock (o + 0x10)) (s.regBlock (o + 0x30)) (leBytes 64 f.toNat)) (s.reg (o + 0x28) + 1)
  have hexec : exec (.flitReceive p false ⟨f, tr⟩) s
      = .next (({ (s.setBlock (o + 0x10) (linkDigest (s.regBlock (o + 0x10)) (s.regBlock (o + 0x30)) (leBytes 64 f.toNat))).setReg (o + 0x28)
          (s.reg (o + 0x28) + 1) with retries := tabSet 0 s.retries p 0 } : State).flitActs p (leBytes 64 f.toNat)).unblock :=
    congrArg Host.Outcome.next (if_pos ⟨hp, hup, .inr ((trailerOk_iff f tr).mpr hok)⟩)
  rw [hc] at hexec
  refine ⟨{ s with ctl := c, retries := tabSet 0 s.retries p 0 }, ⟨c, rfl⟩, hexec, ?_⟩
  rw [hc] at hregs
  exact hregs

theorem exec_flitReceive_refused (s : State) (p : Nat) (f : BitVec 512) (tr : Word)
    (hbad : ¬ crc32c (leBytes 64 f.toNat ++ leBytes 4 tr.toNat) = tr.toNat / 2 ^ 32) : exec (.flitReceive p false ⟨f, tr⟩) s = .next s :=
  congrArg Host.Outcome.next (if_neg (fun h => hbad ((trailerOk_iff f tr).mp (h.2.2.resolve_left (by decide)))))

/-! Peer entries (R330). -/

theorem length_peerRecord (arr task h k : Nat) (sent : Bool) (bs : List Byte) : (peerRecord arr task h k sent bs).length = 192 := by
  cases sent <;> simp [peerRecord, logHead, LeafRec.bytes, hashBytes, digest]

/-- Bytes that no poison hides are served as they stand. -/
theorem servedBytes_clean (s : State) (segs : List (Nat × Nat)) (h : ∀ x ∈ segs, ∀ i, i < x.2 → s.poisoned (x.1 + i) = false) :
    s.servedBytes segs = segs.flatMap (fun x => memRead s.mem x.1 x.2) := by
  have hall : (segs.flatMap (fun x => (List.range x.2).map (fun i => x.1 + i))).takeWhile (fun a => !s.poisoned a)
      = segs.flatMap (fun x => (List.range x.2).map (fun i => x.1 + i)) := by
    rw [List.takeWhile_eq_self_iff]
    intro a ha
    obtain ⟨x, hx, ha⟩ := List.mem_flatMap.mp ha
    obtain ⟨i, hi, rfl⟩ := List.mem_map.mp ha
    simp [h x hx i (List.mem_range.mp hi)]
  unfold State.servedBytes
  rw [hall, List.map_flatMap]
  simp [memRead]
  rfl

theorem frame_serve (segs : List (Nat × Nat)) (s : State) (bs : List Byte) : Frame [] s (s.serve segs bs) := by
  induction segs generalizing s bs with
  | nil => exact Frame.refl _ s
  | cons x xs ih => exact (frame_devPut s _ _).trans (ih _ _)

end Sys2Proof.Machine

namespace Sys2Proof.Machine

/-! ### Launches by their ARR value -/

theorem arr_of_launch? {s : State} {a : Nat} {l : Launch} (h : s.launch? a = some l) : l.arr = a := by
  simpa using List.find?_some h

/-- A launch that is replaced is found in its new form. -/
theorem launch?_setLaunch_same (s : State) (m : Launch) (h : (s.launch? m.arr).isSome = true) : (s.setLaunch m).launch? m.arr = some m := by
  unfold State.launch? State.setLaunch at *
  simp only at *
  generalize s.launches = ls at *
  induction ls with
  | nil => simp at h
  | cons x xs ih =>
    by_cases hx : x.arr = m.arr
    · simp [hx]
    · simp only [List.map_cons, if_neg hx, List.find?_cons, beq_eq_false_iff_ne.mpr hx] at h ⊢
      exact ih h

/-- Every other launch is found as it was. -/
theorem launch?_setLaunch_other (s : State) (m : Launch) (b : Nat) (h : b ≠ m.arr) : (s.setLaunch m).launch? b = s.launch? b := by
  unfold State.launch? State.setLaunch
  simp only
  generalize s.launches = ls
  induction ls with
  | nil => rfl
  | cons x xs ih =>
    by_cases hx : x.arr = m.arr
    · simp only [List.map_cons, if_pos hx, List.find?_cons, beq_eq_false_iff_ne.mpr h.symm, beq_eq_false_iff_ne.mpr (hx.trans_ne h.symm), ih]
    · simp only [List.map_cons, if_neg hx, List.find?_cons, ih]

theorem launch?_of_launches {s t : State} (h : t.launches = s.launches) (a : Nat) : t.launch? a = s.launch? a := by
  unfold State.launch?
  rw [h]

/-- A charge to a chain is the device's own write. -/
theorem frame_addOwn (gs : List Grant) (s : State) (o : Nat) (d : Int) : Frame [] s (s.addOwn o d gs) := by
  induction gs generalizing s with
  | nil => exact Frame.refl _ s
  | cons g gs ih =>
    unfold State.addOwn
    simp only
    split
    · exact ih s
    · exact (frame_devNat s _ _ _).trans (ih _)

theorem frame_freeOwn (s : State) (l : Launch) (n : Nat) : Frame [] s (s.freeOwn l n) := by
  unfold State.freeOwn
  split
  · exact Frame.refl _ s
  · exact frame_addOwn _ _ _ _

/-! ### Uncontained errors (R352) -/

/-- With neither gangs nor shadows, an uncontained error stops its launch: it is replayed once, and fails after that. -/
theorem exec_uncontained (s : State) (a : Nat) (l : Launch) (hl : s.launch? a = some l) (hf : l.fdfl.testBit 0 = true) (hc : l.cpol = 2)
    (hs : l.stopped = false) (hu : s.uncontainedCause a = true) (hg : s.gangs = []) (hh : s.shadows = []) :
    ∃ t m, exec (.uncontained a) s = .next t ∧ t.launch? a = some m
      ∧ m = { l with stopped := true, held := [], inHeap := false, replay := l.attempt == 0, status := if l.attempt = 0 then l.status else 7 } := by
  have harr := arr_of_launch? hl
  refine ⟨_, _, rfl, ?_, rfl⟩
  rw [hl]
  simp only
  rw [if_pos ⟨hf, hc, hu⟩]
  show State.launch? (s.uncontainedErr a none) a = _
  unfold State.uncontainedErr
  rw [hl]
  simp only [hs, Bool.false_eq_true, if_false, hg, hh, List.filter_nil, List.foldl_nil, List.length_nil, Nat.mul_zero, Option.toList_none,
    List.append_nil]
  rw [launch?_of_launches (frame_sendRec _ _ _).launches]
  subst harr
  exact launch?_setLaunch_same _ _ (by rw [launch?_of_launches (frame_freeOwn _ _ _).launches]; exact Option.isSome_iff_exists.mpr ⟨l, hl⟩)

/-! ### Self-tests and scans (R357 to R359) -/

/-- What the end of a test leaves in ATCTL: BUSY clear, the result, and one more run where it counts. -/
theorem atctl_testOver (s : State) (n res : Nat) (ran : Bool) :
    ((s.testOver n res ran).reg (atOff n)).getLsbD 0 = false
      ∧ wfld ((s.testOver n res ran).reg (atOff n)) 32 8 = res % 2 ^ 8
      ∧ wfld ((s.testOver n res ran).reg (atOff n)) 16 16 = (if ran then (wfld (s.reg (atOff n)) 16 16 + 1) % 2 ^ 16 else wfld (s.reg (atOff n)) 16 16)
      ∧ ((s.testOver n res ran).reg (atOff n)).getLsbD 2 = (s.reg (atOff n)).getLsbD 2 := by
  have hbits (w : Word) (i : Nat) (hi : i < 32) :
      (putFld (putFld w 0 1 0) 32 8 res).getLsbD i = if i < 1 then false else w.getLsbD i := by
    rw [getLsbD_putFld _ _ _ _ _ (by decide), if_neg (by omega), getLsbD_putFld _ _ _ _ _ (by decide)]
    by_cases h : i < 1 <;> simp [h]
  have hruns (w : Word) (v i : Nat) (hi : i < 16) : (putFld w 16 16 v).getLsbD i = w.getLsbD i := by
    rw [getLsbD_putFld _ _ _ _ _ (by decide), if_neg (by omega)]
  unfold State.testOver
  simp only
  rw [reg_setReg_same]
  cases ran
  · simp only [Bool.false_eq_true, if_false]
    rw [wfld_putFld_same _ _ _ _ (by decide), wfld_putFld_other _ _ _ _ _ _ (by decide) (by decide),
      wfld_putFld_other _ _ _ _ _ _ (by decide) (by decide), hbits _ 0 (by decide), hbits _ 2 (by decide)]
    exact ⟨rfl, rfl, rfl, rfl⟩
  · simp only [if_true]
    rw [wfld_putFld_other _ _ _ _ _ _ (by decide) (by decide), wfld_putFld_same _ _ _ _ (by decide), wfld_putFld_same _ _ _ _ (by decide),
      hruns _ _ 0 (by decide), hruns _ _ 2 (by decide), hbits _ 0 (by decide), hbits _ 2 (by decide)]
    exact ⟨rfl, rfl, rfl, rfl⟩

theorem atOff_notMem (n : Nat) (h : n < 384) : atOff n ∉ [errDrop] ++ [0x20 + 8 * (n / 64), errDrop] := by
  simp [atOff, errDrop]
  omega

/-- A core that failed is fenced; its test's result stands. -/
theorem failCore_sets (s : State) (n kind u i v : Nat) (hn : n < 384) :
    (s.failCore n kind u i v).coreFenced n = true ∧ (s.failCore n kind u i v).reg (atOff n) = s.reg (atOff n) := by
  unfold State.failCore
  simp only
  exact ⟨coreFenced_fenceCoreFor _ _ _ _ hn (.inr rfl),
    ((frame_sendRec s _ none).seq (frame_fenceCoreFor _ n _)).reg _ (atOff_notMem n hn)⟩

theorem coreUnit_of_table (u i : Nat) (h1 : 1 ≤ u) (h7 : u ≤ 7) (hi : i < [0, 1, 3, 1, 2, 2, 1, 4].getD u 0) : coreUnit u i = true := by
  interval_cases u <;> simp_all [coreUnit, unitOk]

theorem exec_selfTestStart (s : State) (n : Nat) (hn : n < 384) (h1 : (s.reg (atOff n)).getLsbD 1 = true) (h0 : (s.reg (atOff n)).getLsbD 0 = false)
    (h2 : (s.reg (atOff n)).getLsbD 2 = false) (hf : s.coreFenced n = false) (hi : s.idleCore n = true) (hr : n ∉ s.resv)
    (ht : tabGet 0 s.testEnd n = 0) : exec (.selfTestStart n) s = .next (s.setBit (atOff n) 0 true) :=
  congrArg Host.Outcome.next (if_pos ⟨hn, h1, Bool.eq_false_iff.mp h0, Bool.eq_false_iff.mp h2, Bool.eq_false_iff.mp hf, hi, by simpa using hr, .inl ht⟩)

theorem exec_selfTestEnd (s : State) (n : Nat) (hn : n < 384) (h0 : (s.reg (atOff n)).getLsbD 0 = true) (hs : tabGet false s.scans n = false)
    (u i y : Nat) :
    (∃ t, exec (.selfTestComplete n true u i y) s = .next t ∧ (t.reg (atOff n)).getLsbD 0 = false ∧ wfld (t.reg (atOff n)) 32 8 = 1
      ∧ wfld (t.reg (atOff n)) 16 16 = (wfld (s.reg (atOff n)) 16 16 + 1) % 2 ^ 16
      ∧ (t.reg (atOff n)).getLsbD 2 = (s.reg (atOff n)).getLsbD 2 ∧ tabGet 0 t.testEnd n = s.tb + 1)
    ∧ (1 ≤ u → u ≤ 7 → i < [0, 1, 3, 1, 2, 2, 1, 4].getD u 0 → ∃ t, exec (.selfTestComplete n false u i y) s = .next t
        ∧ t.coreFenced n = true ∧ wfld (t.reg (atOff n)) 32 8 = 2)
    ∧ (n ∈ s.resv → ∃ t, exec (.selfTestAbandon n) s = .next t ∧ wfld (t.reg (atOff n)) 32 8 = 3
        ∧ wfld (t.reg (atOff n)) 16 16 = wfld (s.reg (atOff n)) 16 16) := by
  refine ⟨?_, fun h1 h7 hi => ?_, fun hr => ?_⟩
  · obtain ⟨hbusy, hres, hruns, hscan⟩ := atctl_testOver s n 1 true
    refine ⟨_, congrArg Host.Outcome.next (if_pos ⟨hn, h0, Bool.eq_false_iff.mp hs⟩), hbusy, hres, hruns, hscan, ?_⟩
    exact tabGet_tabSet_same _ _ _ _
  · obtain ⟨hfence, hreg⟩ := failCore_sets (s.testEnds n 2 true) n 6 u i y hn
    refine ⟨_, (congrArg Host.Outcome.next (if_pos ⟨hn, h0, Bool.eq_false_iff.mp hs⟩)).trans (congrArg Host.Outcome.next ?_), hfence, ?_⟩
    · exact (if_neg (by decide)).trans (if_pos (coreUnit_of_table u i h1 h7 hi))
    · rw [hreg]
      exact (atctl_testOver s n 2 true).2.1
  · obtain ⟨-, hres, hruns, -⟩ := atctl_testOver s n 3 false
    exact ⟨_, congrArg Host.Outcome.next (if_pos ⟨hn, h0, Bool.eq_false_iff.mp hs, by simpa using hr⟩), hres, hruns⟩

/-- A scan that has begun is not begun again. -/
theorem beginScan_busy (s : State) (n : Nat) (h : (s.reg (atOff n)).getLsbD 0 = true) : s.beginScan n = s :=
  if_neg (by simp [h])

theorem row_wipeCore (s : State) (n r : Nat) (hr : r < 2048) : (s.wipeCore n).row n r = {} := by
  unfold State.row
  have hkey : rowKey n r / 2048 = n := by unfold rowKey; omega
  show tabGet {} (s.rows.filter _) _ = _
  rw [tabGet, tabFind_filter_none _ _ _ (fun z => by simp [hkey])]
  rfl

theorem testEnd_scanEnds (s : State) (n res : Nat) : (s.scanEnds n res).testEnd = s.testEnd := rfl
theorem row_scanEnds (s : State) (n res core r : Nat) : (s.scanEnds n res).row core r = s.row core r := rfl
theorem scans_scanEnds (s : State) (n res : Nat) : tabGet false (s.scanEnds n res).scans n = false := tabGet_tabSet_same _ _ _ _

theorem reg_withScans (t : State) (x : Tab Bool) (o : Nat) : ({ t with scans := x } : State).reg o = t.reg o := rfl

/-- What the end of a scan leaves in ATCTL. -/
theorem atctl_scanEnds (s : State) (n res : Nat) : wfld ((s.scanEnds n res).reg (atOff n)) 32 8 = res % 2 ^ 8
    ∧ ((s.scanEnds n res).reg (atOff n)).getLsbD 0 = false ∧ ((s.scanEnds n res).reg (atOff n)).getLsbD 2 = false := by
  obtain ⟨hbusy, hres, -, -⟩ := atctl_testOver s n res true
  have hbit (b : Nat) : ((s.scanEnds n res).reg (atOff n)).getLsbD b = if b = 2 then false else ((s.testOver n res true).reg (atOff n)).getLsbD b := by
    unfold State.scanEnds
    simp only
    rw [reg_withScans]
    exact getLsbD_setBit (s.testOver n res true) (atOff n) 2 b false (by decide)
  refine ⟨(wfld_congr (fun j _ => (hbit (32 + j)).trans (if_neg (by omega)))).trans hres, ?_, ?_⟩
  · exact (hbit 0).trans ((if_neg (by decide)).trans hbusy)
  · exact (hbit 2).trans (if_pos rfl)

theorem testEnd_wipeCore (s : State) (n : Nat) : (s.wipeCore n).testEnd = s.testEnd := rfl

theorem exec_scanComplete (s : State) (n : Nat) (hn : n < 384) (hs : tabGet false s.scans n = true) (h0 : (s.reg (atOff n)).getLsbD 0 = true)
    (u i y : Nat) :
    (∃ t, exec (.scanComplete n true u i y) s = .next t ∧ (t.reg (atOff n)).getLsbD 0 = false ∧ (t.reg (atOff n)).getLsbD 2 = false
      ∧ wfld (t.reg (atOff n)) 32 8 = 1 ∧ tabGet false t.scans n = false ∧ tabGet 0 t.testEnd n = tabGet 0 s.testEnd n
      ∧ ∀ r, r < 2048 → t.row n r = {})
    ∧ (1 ≤ u → u ≤ 7 → i < [0, 1, 3, 1, 2, 2, 1, 4].getD u 0 → ∃ t, exec (.scanComplete n false u i y) s = .next t
        ∧ t.coreFenced n = true ∧ wfld (t.reg (atOff n)) 32 8 = 2) := by
  have hbegin := beginScan_busy s n h0
  constructor
  · obtain ⟨hres, hbusy, hscan⟩ := atctl_scanEnds (s.wipeCore n) n 1
    refine ⟨(s.wipeCore n).scanEnds n 1, ?_, hbusy, hscan, hres, scans_scanEnds _ _ _, ?_, fun r hr => ?_⟩
    · show execScanComplete n true u i y s = _
      unfold execScanComplete
      simp only [hbegin]
      rw [if_pos ⟨hn, hs⟩]
      rfl
    · rw [testEnd_scanEnds, testEnd_wipeCore]
    · rw [row_scanEnds, row_wipeCore s n r hr]
  · intro h1 h7 hi
    obtain ⟨hfence, hreg⟩ := failCore_sets ((s.wipeCore n).scanEnds n 2) n 7 u i y hn
    refine ⟨_, ?_, hfence, by rw [hreg]; exact (atctl_scanEnds _ n 2).1⟩
    show execScanComplete n false u i y s = _
    unfold execScanComplete
    simp only [hbegin]
    rw [if_pos ⟨hn, hs⟩, if_neg (by decide), if_pos (coreUnit_of_table u i h1 h7 hi)]

end Sys2Proof.Machine

section
open Sys2Proof Sys2Proof.Machine

/-- Settles O57: an event's own case above; one that its condition does not allow leaves the state as it is. -/
theorem reliabilityComplete : Obligations.ReliabilityComplete := by
  unfold Obligations.ReliabilityComplete
  intro s
  refine ⟨fun pa bg hp hc => ⟨exec_uncorrectable_line s pa bg false hp hc, exec_uncorrectable_line s pa bg true hp hc⟩,
    fun core r hc hr hm hl => exec_uncorrectable_row s core r hc hr hm hl, fun b core o hc hb hl => exec_uncorrectable_buf s b core o hc hb hl,
    fun n h1 h2 hv hl => exec_uncorrectable_sreg s n h1 h2 hv hl, fun k bg hk hb _ => exec_corrected s k bg hk hb,
    fun p l w h hp hl hw hh => exec_eyeMargin s p l w h hp hl hw hh, fun p l f tr hp hl hup => exec_flitReplay s p l f tr hp hl hup,
    fun k hk hd => ⟨_, congrArg Host.Outcome.next (if_pos ⟨hk, hd⟩), fenceStack_sets s k (by omega)⟩,
    fun d e hd he => ⟨_, congrArg Host.Outcome.next (if_pos ⟨hd, he⟩), fenceTree_sets s d e hd he⟩,
    fun a l hl hf hc hs hu hg hh => exec_uncontained s a l hl hf hc hs hu hg hh, ?_, ?_,
    fun n hn => ⟨fun h1 h0 h2 hf hi hr ht => exec_selfTestStart s n hn h1 h0 h2 hf hi hr ht, fun h0 hs u i y => exec_selfTestEnd s n hn h0 hs u i y,
      fun hs h0 u i y => exec_scanComplete s n hn hs h0 u i y⟩⟩
  case refine_1 =>
    intro p tx f tr hp hup o d k fl sent ok
    cases tx with
    | true =>
      obtain ⟨t, hexec, hk, hd, hregs⟩ := exec_flitReceive_sent s p f tr hp hup
      exact ⟨fun _ => ⟨t, hexec, hk, hd, hregs, fun h => absurd h (by decide), fun h => absurd h (by decide), fun h => absurd h (by decide)⟩,
        fun h => absurd h (by decide)⟩
    | false =>
      refine ⟨fun hor => ?_, fun _ hbad => exec_flitReceive_refused s p f tr hbad⟩
      obtain ⟨u, ⟨c, hu⟩, hexec, hk, hd, hregs⟩ := exec_flitReceive_accepted s p f tr hp hup (hor.resolve_left (by decide))
      obtain ⟨hctl, hretries⟩ := flitActs_keeps u p fl
      have hreg (x : Nat) : (u.flitActs p fl).unblock.reg x = u.reg x := reg_eq_of_ctl hctl x
      have hfeat (b : Nat) : u.feat b = s.feat b := by
        unfold State.feat
        rw [hregs _ (by omega) (by omega) (by omega), hregs _ (by omega) (by omega) (by omega)]
      refine ⟨_, hexec, (hreg k).trans hk, (regBlock_congr (hreg d) (hreg (d + 8))).trans hd, fun x h1 h2 h3 => (hreg x).trans (hregs x h1 h2 h3),
        fun _ => ?_, fun _ h3 hdst hkind => ?_, fun _ h4 hkind hg hp hseq hown hcol => ?_⟩
      · show tabGet 0 (u.flitActs p fl).retries p = 0
        rw [hretries, hu]
        exact tabGet_tabSet_same _ _ _ _
      · have hw := flitActs_wake u p fl (by rw [hfeat, h3]) (by rw [hregs 0x600030 (by omega) (by omega) (by omega), hdst]) hkind
          (length_leBytes 64 _)
        have hwake : u.wake = s.wake := by rw [hu]
        rw [hwake] at hw
        exact hw
      · have hdown : u.downPorts (numAt fl 8 4) = s.downPorts (numAt fl 8 4) := by
          unfold State.downPorts
          rw [hregs _ (by omega) (by omega) (by omega)]
        have ha := flitActs_contribution u p f (by rw [hfeat, h4]) hkind hg (by rwa [hdown]) (by rw [hu]; exact hseq) hown (by rw [hu]; exact hcol)
        rw [ha, hu]
        exact ⟨rfl, rfl, rfl⟩
  case refine_2 =>
    intro arr task h k segs base at_ hn hm
    have hn0 : ¬ (s.reg 0x211008).toNat / 192 = 0 := by omega
    have hlen (sent : Bool) (bs : List Byte) := length_peerRecord arr task h.toNat k.toNat sent bs
    refine ⟨fun hclean => ?_, fun bs => ?_⟩
    · refine ⟨_, congrArg Host.Outcome.next (if_neg hn0), rfl, ?_, fun j hj => ?_⟩
      · have hread := memRead_devPut s at_ (peerRecord arr task h.toNat k.toNat true (s.servedBytes segs)) hm
        rw [hlen] at hread
        rw [← servedBytes_clean s segs hclean]
        exact hread
      · exact (memByte_devPut s at_ (peerRecord arr task h.toNat k.toNat true (s.servedBytes segs)) j hm).trans
          (if_neg (by rw [hlen]; omega))
    · have hf := frame_serve segs s bs
      have hread := memRead_devPut (s.serve segs bs) at_ (peerRecord arr task h.toNat k.toNat false bs)
        (by rw [hf.reg _ List.not_mem_nil, hf.stackMap, hm])
      rw [hlen] at hread
      exact ⟨_, congrArg Host.Outcome.next (if_neg hn0), rfl, hread⟩

end

namespace Sys2Proof.Machine

/-! ### The end of a rank that stands twice (R144)

The statement takes a context of the gang, parked or saved, that is the only one of its rank, for another rank that still has to end. Where the
record of the current context stands a second time among the parked ones, it is that context, and its rank ends with the current one. -/

/-- The launch, the gang and the exited rank of the counterexample: one task of one rank. -/
def twinLaunch : Launch :=
  { arr := 1, packet := [], queue := 0, prio := 0, root := 0, ptroot := 0, priv := false, cpol := 0, fdfl := 0, eroute := 0, cabase := 0, casize := 0,
    own := [], cool := 0, runq := [], chain := 0, code := {}, placed := 1, ended := 0, status := 0, faults := 0, start := none, fin := 0, used := 0,
    cflags := 0, attempt := 0, inHeap := false, tasks := [], held := [], stopped := false, replay := false, banned := [], fuse := none, capture := none }
def twinGang : Gang :=
  { id := 1, arr := 1, task := 0, cores := [0], dec := [], gate := [], opened := [], shared := [], mcast := [], snap := none,
    began := none, acc := 0, saved := false, drained := false, relock := [], mate := 0 }
def twinCtx : Ctx := { live := true, gang := 1, arr := 1, stat := .exited }

/-- The exited rank stands as the current context and once more among the parked ones. -/
def twinState : State := { State.reset with ctx := twinCtx, parked := [twinCtx], gangs := [twinGang], launches := [twinLaunch] }

/-- How many tasks of launch 1 have ended in the state that a step answers. -/
def endedAfter (r : Res) : Option Nat :=
  match r with
  | .next t => (t.launch? 1).map Launch.ended
  | .fault _ => none
  | .refused _ => none

/-- Both records of the rank end at once, and the task with them. -/
theorem endedAfter_twin : endedAfter (exec (.rankEnd 0) twinState) = some 1 := by decide +kernel

/-- The hypotheses of the statement's last clause hold there. -/
theorem twinState_rankDone :
    (∀ y ∈ twinState.ctxs ++ twinState.saved, y.gang = 1 → y.active = false) ∧ twinState.gang? 1 = some twinGang
      ∧ twinState.launch? 1 = some twinLaunch ∧ ((List.range 6).map (fun i => (twinState.ctx.tl i).fails.length)).foldl Nat.add 0 = 0 := by
  decide +kernel

/-- The parked record is the only context of its rank, since the current one equals it, and it has not ended. -/
theorem twinState_waits : ∃ y ∈ twinState.parked ++ twinState.saved, y.live = true ∧ y.gang = 1 ∧ y.rank < 16 ∧ y.stat ≠ .ended
    ∧ ∀ z ∈ twinState.ctxs ++ twinState.saved, z.live = true → z.gang = 1 → z.rank = y.rank → z = y :=
  ⟨twinCtx, by decide, rfl, rfl, by decide, by decide, by decide +kernel⟩

end Sys2Proof.Machine

section
open Sys2Proof Sys2Proof.Machine

/-- Refutes O58: the last clause says that a task goes on while a context that is the only one of its rank has not ended, and does not ask that
this be another rank than the one that ends. In `twinState` the current context's record stands among the parked ones too; both end at once, and
the task is counted as ended. -/
theorem not_contextEventsComplete : ¬ Obligations.ContextEventsComplete := by
  unfold Obligations.ContextEventsComplete
  intro h
  obtain ⟨hidle, hgang, hlaunch, hfails⟩ := twinState_rankDone
  obtain ⟨-, -, -, -, -, -, -, hend⟩ := h twinState
  obtain ⟨t, m, hexec, -, hm, -, -, hwait, -⟩ := hend twinLaunch 0 twinGang rfl (by decide) (by decide) hgang rfl hlaunch rfl hfails.symm hidle
    (fun y hy => by cases hy) (fun y hy => by cases hy) (fun y hy => by cases hy) (fun y hy => by cases hy) (fun y hy => by cases hy)
  have hended := endedAfter_twin
  rw [show exec (.rankEnd 0) twinState = .next t from hexec] at hended
  have hone : m.ended = 1 := by
    have : (t.launch? 1).map Launch.ended = some 1 := hended
    rw [show t.launch? 1 = some m from hm] at this
    exact Option.some.inj this
  have hzero : m.ended = 0 := (hwait twinState_waits).1
  omega

end

namespace Sys2Proof.Machine

/-! ### What the device writes beside its state (R293, R324, R400) -/

/-- A state without far memory, shadows, the log's queue and charges, and what the Milliner remembers of blocked packets: with `Frame`, what the
device's own writes on behalf of a launch or a queue leave as it is. -/
def State.bare (s : State) : State :=
  { s with host := [], peer := [], free := 0, shadows := [], logq := [], lused := [], depSeen := [], noSplice := [] }

/-- What holds beside these, too. -/
theorem Frame.bare {L : List Nat} {s t : State} (h : Frame L s t) : Frame L s.bare t.bare :=
  ⟨congrArg State.bare h.rest, h.reg⟩

theorem frame_newPeriod (s : State) (a : Nat) : Frame [] s.bare (s.newPeriod a).bare :=
  (frame_devNat s (a + 0x58) 8 _).bare.trans (Frame.refl [] (s.devNat (a + 0x58) 8 _).bare)

/-! ### Heartbeats, a takeover and the standby (R285) -/

theorem exec_millinerHeartbeat (s : State) (m : Nat) (hm : m < 7) (hl : (s.millis.getD m {}).loaded = true) (hs : (s.millis.getD m {}).stopped = false) :
    ∃ t, exec (.millinerHeartbeat m) s = .next t ∧ (t.millis.getD m {}).missed = 0 ∧ (t.millis.getD m {}).beat = true
      ∧ ∀ k, k < 8 → k ≠ m → t.millis.getD k {} = s.millis.getD k {} := by
  refine ⟨s.updMilli m (fun y => { y with missed := 0, beat := true }), congrArg Host.Outcome.next (if_pos ⟨hm, hl, Bool.eq_false_iff.mp hs⟩), ?_, ?_, ?_⟩
  · rw [getD_millis_updMilli s m m _ (by omega), if_pos rfl]
  · rw [getD_millis_updMilli s m m _ (by omega), if_pos rfl]
  · intro k hk hkm
    rw [getD_millis_updMilli s m k _ hk, if_neg hkm]

theorem exec_millinerTakeover_idle (s : State) (m : Nat) (h : (s.millis.getD m {}).missed < 2) : exec (.millinerTakeover m) s = .next s :=
  congrArg Host.Outcome.next (if_neg (fun hc => Nat.not_le.mpr h hc.2))

theorem fenceMilliner_sets (s : State) (m : Nat) (hm : m < 16) : ((s.fenceMilliner m).reg 0x50).getLsbD (48 + m) = true := by
  unfold State.fenceMilliner
  split
  · assumption
  · rw [(frame_fenceRec _ 13 m (4 + m / 4)).reg 0x50 (by decide)]
    exact getLsbD_setBit_same s 0x50 (48 + m) true (by omega)

/-- The Milliner that stops, with the standby that takes it over where one is free. -/
def State.stopMilli (s : State) (m : Nat) : State :=
  let t := (s.fenceMilliner m).updMilli m (fun y => { y with stopped := true })
  if m < 7 ∧ (s.millis.getD 7 {}).loaded ∧ ¬ (s.millis.getD 7 {}).stopped ∧ (s.millis.getD 7 {}).takes = none then
    t.updMilli 7 (fun y => { y with takes := some m, due := false, serving := false }) else t

theorem takeover_eq (s : State) (m : Nat) (hm : m < 7) (hs : (s.millis.getD m {}).stopped = false) :
    s.takeover m = (s.stopMilli m).sendRec { kind := 10, uclass := 13, inst := m, die := 4 + m / 4 } none := by
  unfold State.takeover State.stopMilli
  simp only
  rw [if_neg (not_or.mpr ⟨by omega, Bool.eq_false_iff.mp hs⟩)]

theorem exec_millinerTakeover (s : State) (m : Nat) (hm : m < 7) (h2 : 2 ≤ (s.millis.getD m {}).missed) (hs : (s.millis.getD m {}).stopped = false) :
    ∃ t, exec (.millinerTakeover m) s = .next t ∧ (t.millis.getD m {}).stopped = true ∧ (t.reg 0x50).getLsbD (48 + m) = true
      ∧ ((s.millis.getD 7 {}).loaded = true → (s.millis.getD 7 {}).stopped = false → (s.millis.getD 7 {}).takes = none →
          (t.millis.getD 7 {}).takes = some m ∧ (t.millis.getD 7 {}).serving = false) := by
  have hsend : Frame [errDrop] (s.stopMilli m) (s.takeover m) := takeover_eq s m hm hs ▸ frame_sendRec _ _ _
  have hreg : (s.stopMilli m).reg 0x50 = (s.fenceMilliner m).reg 0x50 := by
    unfold State.stopMilli
    simp only
    split <;> rfl
  refine ⟨s.takeover m, congrArg Host.Outcome.next (if_pos ⟨hm, h2⟩), ?_, ?_, ?_⟩
  · rw [hsend.millis]
    unfold State.stopMilli
    simp only
    split
    · rw [getD_millis_updMilli _ 7 m _ (by omega), if_neg (by omega), getD_millis_updMilli _ m m _ (by omega), if_pos rfl]
    · rw [getD_millis_updMilli _ m m _ (by omega), if_pos rfl]
  · rw [hsend.reg 0x50 (by decide), hreg]
    exact fenceMilliner_sets s m (by omega)
  · intro hl7 hs7 ht7
    rw [hsend.millis]
    unfold State.stopMilli
    rw [if_pos ⟨hm, hl7, Bool.eq_false_iff.mp hs7, ht7⟩, getD_millis_updMilli _ 7 7 _ (by omega), if_pos rfl]
    exact ⟨rfl, rfl⟩

theorem exec_standbyBegin (s : State) (ht : (s.millis.getD 7 {}).takes.isSome = true) (hs : (s.millis.getD 7 {}).serving = false) :
    ∃ t, exec .standbyBegin s = .next t ∧ (s.tb.toNat % 30720 = 0 → (t.millis.getD 7 {}).serving = true)
      ∧ (s.tb.toNat % 30720 ≠ 0 → (t.millis.getD 7 {}).serving = false ∧ (t.millis.getD 7 {}).due = true)
      ∧ ∀ k, k < 7 → t.millis.getD k {} = s.millis.getD k {} := by
  refine ⟨s.updMilli 7 (fun x => if s.frameEdge then { x with due := false, serving := true } else { x with due := true }),
    congrArg Host.Outcome.next (if_pos ⟨ht, Bool.eq_false_iff.mp hs⟩), ?_, ?_, ?_⟩
  · intro h0
    rw [getD_millis_updMilli s 7 7 _ (by omega), if_pos rfl, if_pos (by simpa [State.frameEdge] using h0)]
  · intro h0
    rw [getD_millis_updMilli s 7 7 _ (by omega), if_pos rfl, if_neg (by simpa [State.frameEdge] using h0)]
    exact ⟨hs, rfl⟩
  · intro k hk
    rw [getD_millis_updMilli s 7 k _ (by omega), if_neg (by omega)]

/-! ### The time base (R17, R282, R293, R359, R364) -/

/-- What a new value of TB leaves as it is: TB itself, the launches and the gangs; with the Milliners, which a frame's end changes. -/
def State.paced (s : State) : Word × List Launch × List Gang × List Milli := (s.tb, s.launches, s.gangs, s.millis)

theorem paced_of_frame {L : List Nat} {s t : State} (h : Frame L s t) : t.paced = s.paced := by
  unfold State.paced
  rw [h.tb, h.launches, h.gangs, h.millis]

theorem paced_periods (s : State) :
    ((s.charged.map Prod.fst).foldl (fun u a => if u.atPeriod a then u.newPeriod a else u) s).paced = s.paced := by
  refine foldl_keeps State.paced _ (fun u a => ?_) _ s
  split
  · exact paced_of_frame (s := u.bare) (t := (u.newPeriod a).bare) (frame_newPeriod u a)
  · rfl

theorem paced_scans (s : State) : (s.scansDue.foldl State.beginScan s).paced = s.paced :=
  foldl_keeps State.paced _ (fun u n => by unfold State.beginScan; simp only; split <;> rfl) _ s

theorem paced_writeSnap (s : State) : (s.writeSnap.getD s).paced = s.paced := by
  unfold State.writeSnap
  split
  · rfl
  · next n r _ =>
    have hput (v : State) (c : Prop) [Decidable c] (pa o : Nat) (bs : List Byte) (w : Word) :
        ((if c then v else v.devPut pa bs).setReg o w).paced = v.paced :=
      paced_of_frame (L := [o]) (Frame.seq (L := []) (by split; exacts [Frame.refl _ v, frame_devPut v pa bs]) (frame_setReg _ o w))
    exact hput { s with snaps := r } _ _ _ _ _

theorem frameEdge_of_paced {s t : State} (h : t.paced = s.paced) : t.frameEdge = s.frameEdge := by
  unfold State.frameEdge
  rw [show t.tb = s.tb from congrArg (fun x => x.1) h]

/-- Of all this, a tick changes the Milliners only, and those at a frame's end only. -/
theorem paced_onTick (s : State) : s.onTick.paced = (s.tb, s.launches, s.gangs, if s.frameEdge then s.millis.map Milli.frame else s.millis) := by
  unfold State.onTick
  simp only
  rw [paced_writeSnap, paced_scans, frameEdge_of_paced (paced_periods s)]
  have hp := paced_periods s
  generalize (s.charged.map Prod.fst).foldl _ s = t at hp ⊢
  unfold State.paced at hp
  simp only [Prod.mk.injEq] at hp
  obtain ⟨htb, hl, hg, hm⟩ := hp
  split
  · simp only [State.paced, State.frameOver, htb, hl, hg, hm]
  · simp only [State.paced, htb, hl, hg, hm]

theorem exec_tick (s : State) : ∃ t, exec .tick s = .next t ∧ t.tb = s.tb + 1 ∧ t.launches = s.launches ∧ t.gangs = s.gangs
    ∧ ((s.tb + 1).toNat % 30720 ≠ 0 → t.millis = s.millis)
    ∧ ((s.tb + 1).toNat % 30720 = 0 → t.millis.length = s.millis.length ∧ ∀ (k : Nat) (x : Milli), s.millis[k]? = some x → ∃ y : Milli, t.millis[k]? = some y
      ∧ y.serving = (x.serving || x.due) ∧ y.due = false ∧ y.loaded = x.loaded ∧ y.stopped = x.stopped ∧ y.takes = x.takes
      ∧ (x.loaded = true → x.stopped = false → y.beat = false ∧ y.missed = if x.beat then 0 else x.missed + 1)
      ∧ (x.loaded = false ∨ x.stopped = true → y.beat = x.beat ∧ y.missed = x.missed)) := by
  have hp := paced_onTick { s with tb := s.tb + 1 }
  unfold State.paced at hp
  simp only [Prod.mk.injEq] at hp
  obtain ⟨htb, hl, hg, hm⟩ := hp
  refine ⟨({ s with tb := s.tb + 1 } : State).onTick.unblock, rfl, htb, hl, hg, fun h0 => ?_, fun h0 => ?_⟩
  · exact hm.trans (if_neg (by simpa [State.frameEdge] using h0))
  · have hmap : ({ s with tb := s.tb + 1 } : State).onTick.unblock.millis = s.millis.map Milli.frame :=
      hm.trans (if_pos (by simpa [State.frameEdge] using h0))
    rw [hmap]
    refine ⟨List.length_map _, fun k x hx => ⟨x.frame, by rw [List.getElem?_map, hx]; rfl, ?_⟩⟩
    obtain ⟨loaded, stopped, missed, beat, takes, due, serving⟩ := x
    cases loaded <;> cases stopped <;> cases due <;> simp [Milli.frame]

end Sys2Proof.Machine

namespace Sys2Proof.Machine

/-! ### Memory used on behalf of a launch or queue (R400) -/

theorem frame_useRead (fuel : Nat) (s t : State) (root a : Word) (n : Nat) (bs : List Byte) (h : s.useRead root fuel a n = some (t, bs)) :
    Frame [] s t := by
  induction fuel generalizing s t a n bs with
  | zero => cases h; exact Frame.refl _ s
  | succ fuel ih =>
    unfold State.useRead at h
    split at h
    · cases h; exact Frame.refl _ s
    · simp only at h
      split at h
      · cases h
      · split at h
        · cases h
        · split at h
          · cases h
          · next hrec =>
            cases h
            exact (frame_touch s _ _).trans (ih _ _ _ _ _ hrec)

/-- A place in memory, the device's or another's. -/
def Place.isMem : Place → Prop
  | .dev _ => True
  | .host _ => True
  | .peer _ => True
  | _ => False

theorem isMem_useAddr (s : State) (root a : Word) (wr : Bool) (p : Place) (ea : Nat) (h : s.useAddr root a wr = some (p, ea)) : p.isMem := by
  unfold State.useAddr at h
  simp only at h
  split at h
  · split at h
    · cases h
    · split at h
      · cases h
      · cases h
        split
        · trivial
        · split <;> trivial
  · cases h

theorem frame_devWrite (s : State) (arr pa : Nat) (bs : List Byte) : Frame [] s.bare (s.devWrite arr pa bs).bare := by
  unfold State.devWrite
  split
  · exact Frame.refl _ s.bare
  · split
    · exact (frame_devPut s pa bs).bare
    · exact Frame.refl _ s.bare

theorem frame_writePlace (s : State) (arr : Nat) (p : Place) (bs : List Byte) (hp : p.isMem) : Frame [] s.bare (s.writePlace arr p bs).bare := by
  cases p with
  | dev pa => exact frame_devWrite s arr pa bs
  | host pa => exact Frame.refl _ s.bare
  | peer k => exact frame_devWrite s arr _ bs
  | _ => exact hp.elim

theorem frame_farUse (s : State) (p : Place) : Frame [] s.bare (s.farUse p).bare := by cases p <;> exact Frame.refl _ s.bare

theorem frame_dumpUse (s : State) (root a : Word) (n : Nat) : Frame [] s (s.dumpUse root a n) := by
  unfold State.dumpUse
  split
  · exact frame_dumpVa s _ _ _
  · exact Frame.refl _ s

theorem frame_useWrite (fuel : Nat) (s t : State) (root a : Word) (bs : List Byte) (h : s.useWrite root fuel a bs = some t) :
    Frame [] s.bare t.bare := by
  induction fuel generalizing s t a bs with
  | zero => cases h; exact Frame.refl _ _
  | succ fuel ih =>
    unfold State.useWrite at h
    split at h
    · cases h; exact Frame.refl _ _
    · simp only at h
      split at h
      · cases h
      · next p ea ha =>
        split at h
        · cases h
        · exact ((((frame_dumpUse s root a _).trans (frame_touch _ ea true)).bare.trans (frame_farUse _ p)).trans
            (frame_writePlace _ 0 p _ (isMem_useAddr _ _ _ _ _ _ ha))).trans (ih _ _ _ _ h)

/-! ### The end of a packet (R286, R296) -/

theorem frame_rec12 (s : State) (a : Word) (arr rcb : Nat) (route : Option Nat) : Frame [errDrop] s (s.rec12 a arr rcb route) := frame_sendRec s _ _

theorem frame_joinAt (s : State) (j : Joiner) (a : Word) (pa : Nat) : Frame [errDrop] s (s.joinAt j a pa) := by
  unfold State.joinAt
  split
  · exact frame_sendRec s _ _
  · simp only
    split
    · exact frame_sendRec s _ _
    · exact (frame_devNat s _ _ _).mono (List.nil_subset _)

theorem frame_putCrec (s t : State) (root : Option Word) (p bs : List Byte) (h : s.putCrec root p bs = some t) : Frame [] s.bare t.bare := by
  unfold State.putCrec at h
  split at h
  · obtain ⟨r, -, hw⟩ := Option.bind_eq_some_iff.mp h
    exact frame_useWrite 3 s t r _ bs hw
  · cases h

theorem frame_putSignal (s t : State) (root : Option Word) (p : List Byte) (h : s.putSignal root p = some t) : Frame [] s.bare t.bare := by
  have hwrite (o : Option State) (ho : o = root.bind (fun r => s.useWrite r 3 (pkSiga p) ((p.drop 0x70).take 8))) (h : o = some t) :
      Frame [] s.bare t.bare := by
    obtain ⟨r, -, hw⟩ := Option.bind_eq_some_iff.mp (ho ▸ h)
    exact frame_useWrite 3 s t r _ _ hw
  unfold State.putSignal at h
  simp only at h
  split at h
  · cases h; exact Frame.refl _ _
  · split at h
    · cases h
    · split at h
      · split at h
        · cases h; exact (frame_wakePut s _ _).bare
        · cases h
      · split at h
        · cases h
        · split at h
          · cases h
          · exact hwrite _ rfl h
        · exact hwrite _ rfl h

theorem frame_putJoin (s t : State) (root : Option Word) (j : Joiner) (a : Word) (h : s.putJoin root j a = some t) : Frame [errDrop] s t := by
  unfold State.putJoin at h
  split at h
  · cases h; exact Frame.refl _ _
  · split at h
    · cases h
    · split at h
      · cases h
        exact ((frame_dumpUse s _ a 8).trans (frame_touch _ _ true)).mono (List.nil_subset _) |>.trans (frame_joinAt _ j a _)
      · cases h

/-- A step that may fail, and what is done where it does. -/
theorem frame_getD {L : List Nat} {s u : State} {o : Option State} (h : ∀ t, o = some t → Frame L s.bare t.bare) (hu : Frame L s.bare u.bare) :
    Frame L s.bare (o.getD u).bare := by
  cases o with
  | none => exact hu
  | some t => exact h t rfl

/-- The completion of a packet: its record, its signal and its join counter. -/
theorem frame_tellEnd (s : State) (root : Option Word) (arr : Nat) (p bs : List Byte) (route : Option Nat) (ran : Bool) :
    Frame [errDrop] s.bare (s.tellEnd root arr p bs route ran).bare := by
  have hnil : ([] : List Nat) ⊆ [errDrop] := List.nil_subset _
  have hsteps (t : State) : Frame [errDrop] t.bare (((((t.putSignal root p).getD (t.rec12 (pkSiga p) arr (pkRcb p) route)).putJoin root
      ⟨arr, pkRcb p, route⟩ (pkJctr p)).getD (((t.putSignal root p).getD (t.rec12 (pkSiga p) arr (pkRcb p) route)).rec12 (pkJctr p) arr (pkRcb p)
      route))).bare :=
    (frame_getD (fun u hu => (frame_putSignal t u root p hu).mono hnil) (frame_rec12 t _ _ _ _).bare).trans
      (frame_getD (fun u hu => (frame_putJoin _ u root _ _ hu).bare) (frame_rec12 _ _ _ _ _).bare)
  unfold State.tellEnd
  simp only
  split
  · next t ht => exact ((frame_putCrec s t root p bs ht).mono hnil).trans (hsteps t)
  · split
    · exact (frame_rec12 s _ _ _ _).bare.trans (hsteps _)
    · exact (frame_rec12 s _ _ _ _).bare

theorem frame_refuse (s : State) (src : Source) (p : List Byte) (status : Nat) : Frame [errDrop] s.bare (s.refuse src p status).bare :=
  (frame_tellEnd s _ 0 p _ _ false).trans (Frame.refl _ (State.tellEnd s _ 0 p _ _ false).bare)

/-! ### The logs (R322 to R324) -/

/-- The write pointers of the chains whose entries wait. -/
def logRegs (es : List LogWait) : List Nat := es.map (fun e => chainOff e.chain + 0x20)

theorem frame_unless {L : List Nat} {s t : State} (c : Prop) [Decidable c] (h : Frame L s t) : Frame L s (if c then s else t) := by
  split
  · exact Frame.refl _ s
  · exact h

theorem frame_logPut (s t : State) (n : Nat) (low : Bool) (e : List Byte) (h : s.logPut n low e = some t) : Frame [chainOff n + 0x20] s t := by
  unfold State.logPut at h
  simp only [Option.ite_none_left_eq_some] at h
  obtain ⟨-, -, h⟩ := h
  cases h
  exact Frame.seq (L := []) (Frame.trans (frame_unless _ (frame_devPut s _ _)) (frame_devPut _ _ _)) (frame_setReg _ _ _)

theorem frame_logGo (es : List LogWait) (s : State) (stuck : List (Nat × Nat)) : Frame (logRegs es) s.bare (s.logGo stuck es).1.bare := by
  induction es generalizing s stuck with
  | nil => exact Frame.refl _ _
  | cons e es ih =>
    have hsub : logRegs es ⊆ logRegs (e :: es) := fun x hx => List.mem_cons_of_mem _ hx
    unfold State.logGo
    split
    · next t ht =>
      have hput : s.logPut e.chain e.low e.bytes = some t := by
        split at ht
        · cases ht
        · exact ht
      refine ((frame_logPut s t _ _ _ hput).bare.mono ?_).trans ((ih (t.chargeLog e.rcbs e.bytes.length) stuck).mono hsub)
      exact fun x hx => by rw [List.mem_singleton] at hx; exact hx ▸ List.mem_cons_self
    · exact (ih s _).mono hsub

/-- An entry moves write pointers of logs only, those of the entries that wait and its own. -/
theorem frame_logEntry (s : State) (l : Launch) (low : Bool) (e : List Byte) :
    Frame (logRegs s.logq ++ [chainOff l.chain + 0x20]) s.bare (s.logEntry l low e).bare := by
  unfold State.logEntry
  simp only
  split
  · exact Frame.refl _ _
  · have hgo := frame_logGo (s.logq ++ [⟨l.arr, l.chain, l.rcbs, low, e⟩]) { s with logq := s.logq ++ [⟨l.arr, l.chain, l.rcbs, low, e⟩] } []
    rw [show logRegs (s.logq ++ [⟨l.arr, l.chain, l.rcbs, low, e⟩]) = logRegs s.logq ++ [chainOff l.chain + 0x20] from List.map_append] at hgo
    exact hgo

/-- A register that is no log's write pointer is none of these. -/
theorem notMem_logRegs (es : List LogWait) (n o : Nat) (h : ∀ k, o ≠ chainOff k + 0x20) : o ∉ logRegs es ++ [chainOff n + 0x20] := by
  intro hm
  rcases List.mem_append.mp hm with hm | hm
  · obtain ⟨e, -, he⟩ := List.mem_map.mp hm
    exact h e.chain he.symm
  · exact h n (List.mem_singleton.mp hm)

/-! ### Admission (R288, R293) -/

theorem frame_addAll (rs : List Rcb) (s : State) (o : Nat) (d : Int) : Frame [] s (s.addAll o d rs) := by
  induction rs generalizing s with
  | nil => exact Frame.refl _ s
  | cons r rs ih => exact (frame_devNat s _ _ _).trans (ih _)

theorem frame_setDepths (rs : List Rcb) (s : State) : Frame [] s (s.setDepths rs) := by
  induction rs generalizing s with
  | nil => exact Frame.refl _ s
  | cons r rs ih => exact (frame_devNat s _ _ _).trans (ih _)

/-- Cores that are held, or not. -/
def State.unheld (s : State) : State := { s with reserved := [], resvFor := 0 }

theorem endReserve_cases (s : State) : s.endReserve = s ∨ s.endReserve = s.unheld := by
  unfold State.endReserve
  split
  · exact .inr rfl
  · exact .inl rfl

end Sys2Proof.Machine

namespace Sys2Proof.Machine

/-! ### The Milliner's slot (R283, R286) -/

theorem memNat_eq_leNat (m : Memory) (a n : Nat) : memNat m a n = leNat (memRead m a n) := by
  rw [memNat, memRead]
  induction List.range n with
  | nil => rfl
  | cons i is ih => rw [List.foldr_cons, ih, List.map_cons, leNat]

theorem memNat_lt (m : Memory) (a n : Nat) : memNat m a n < 2 ^ (8 * n) := by
  have h := leNat_lt (memRead m a n)
  rwa [show (memRead m a n).length = n by simp [memRead], ← memNat_eq_leNat] at h

/-- A number written with no stack lost is the number that stands there. -/
theorem memNat_devNat (s : State) (a n v : Nat) (h : (s.reg 0x60).toNat = s.stackMap) : memNat (s.devNat a n v).mem a n = v % 2 ^ (8 * n) := by
  have hr := memRead_devPut s a (leBytes n v) h
  rw [length_leBytes] at hr
  rw [memNat_eq_leNat, State.devNat, hr, leNat_leBytes]

theorem widx_lt {s : State} {q : Nat} {d : QDesc} (h : s.qdesc q = some d) : d.widx < 2 ^ 64 := by
  unfold State.qdesc at h
  split at h
  · cases h
  · split at h
    · cases h
    · cases h
      exact memNat_lt _ _ 8

theorem exec_slot_unserved (s : State) (m q : Nat)
    (h : s.sysstate ≠ 3 ∨ q ∈ s.deadq ∨ (s.millis.getD m {}).loaded = false ∨ (s.millis.getD m {}).stopped = true) :
    exec (.millinerSlot m q) s = .next s := by
  have hn : s.serves m q = false := by
    unfold State.serves
    simp only
    generalize s.millis.getD m {} = x at h ⊢
    rcases h with h | h | h | h <;> simp [h]
  show Host.Outcome.next _ = _
  rw [hn]
  rfl

theorem serves_bound (s : State) (m q : Nat) (hs : s.sysstate = 3) (hq : q < 4096) (hm : m < 7) (hl : (s.millis.getD m {}).loaded = true)
    (hst : (s.millis.getD m {}).stopped = false) (hd : q ∉ s.deadq) (hb : s.binding q ≠ 0xFFFFFFFF) (hbm : s.binding q % 8 = m) :
    s.serves m q = true := by
  simp only [State.serves, hs, hl, hst, if_pos hm, hbm, List.contains_eq_mem, hd, decide_false, hq, decide_true, bne_iff_ne.mpr hb]
  simp

theorem exec_slot_served (s : State) (m q : Nat) (h : s.serves m q = true) : exec (.millinerSlot m q) s = .next (s.slotOf q).unblock := by
  show Host.Outcome.next _ = _
  rw [h]
  rfl

theorem slotOf_disabled (s : State) (q : Nat) (d : QDesc) (hd : s.qdesc q = some d) (hf : d.flags % 2 = 0) : s.slotOf q = s := by
  unfold State.slotOf
  rw [hd]
  exact if_pos hf

theorem mem_deadq_slotOf (s : State) (q : Nat) (d : QDesc) (hd : s.qdesc q = some d) (hf : d.flags % 2 = 1) (hs : s.queueSpace d = none) :
    q ∈ (s.slotOf q).deadq := by
  unfold State.slotOf
  rw [hd]
  simp only
  rw [if_neg (by omega), hs]
  exact List.mem_append_right _ (List.mem_singleton_self q)

section
variable {s : State} {q : Nat} {d : QDesc} {root : Word} (hd : s.qdesc q = some d) (hf : d.flags % 2 = 1) (hs : s.queueSpace d = some root)
include hd hf hs

theorem slotOf_nothing (h : (tabGet 0 s.wake q).toNat ≤ d.ridx) : s.slotOf q = s := by
  unfold State.slotOf
  rw [hd]
  simp only
  rw [if_neg (by omega), hs]
  exact if_pos h

/-- The slot of a queue whose one pending packet is handled, where no pool holds a record: RIDX moves past the packet. -/
theorem slotOf_handled (hw : d.ridx < (tabGet 0 s.wake q).toNat) (hx : d.widx = d.ridx + 1) {u : State} {p : List Byte}
    (hu : s.useRead root 4 (d.slot d.ridx) 128 = some (u, p)) (hp : ¬ (numAt p 0 1 = 2 ∧ d.flags.testBit 1)) {v : State}
    (hv : u.handleLaunch ⟨q, d.qrcb, none, (q, d.ridx)⟩ p = (v, true)) (hpool : v.pools = []) :
    s.slotOf q = v.devNat (d.addr + 0x10) 8 (d.ridx + 1) := by
  have htake : s.takePackets q d root 4 d.ridx = (v, d.ridx + 1) := by
    rw [State.takePackets, if_neg (by omega), hu]
    simp only
    rw [if_neg hp, hv]
    simp only [if_true]
    rw [State.takePackets, if_pos (by omega)]
  have hdrain (t : State) (h : t.pools = []) : t.drainOne q d.qrcb = t := by
    unfold State.drainOne
    rw [h]
    rfl
  unfold State.slotOf
  rw [hd]
  simp only
  rw [if_neg (by omega), hs]
  simp only
  rw [if_neg (by omega), htake]
  simp only
  rw [if_neg (Nat.succ_ne_self _), hdrain (v.devNat (d.addr + 0x10) 8 (d.ridx + 1)) ((congrArg State.pools (frame_devNat v _ _ _).rest :).trans hpool),
    ite_self]

end

/-- What the slot then leaves, outside the queue's descriptor. -/
theorem devNat_ridx (v : State) (q : Nat) {s : State} {d : QDesc} (hd : s.qdesc q = some d) (hx : d.widx = d.ridx + 1)
    (hm : (v.reg 0x60).toNat = v.stackMap) :
    memNat (v.devNat (d.addr + 0x10) 8 (d.ridx + 1)).unblock.mem (d.addr + 0x10) 8 = d.ridx + 1 := by
  rw [unblock_mem, memNat_devNat _ _ _ _ hm]
  exact Nat.mod_eq_of_lt (hx ▸ widx_lt hd)

theorem handleLaunch_notLaunch (s : State) (src : Source) (p : List Byte) (h : numAt p 0 1 ≠ 1) : s.handleLaunch src p = (s.refuse src p 4, true) := by
  unfold State.handleLaunch
  rw [if_pos (by simp [State.check1, h])]

/-- A launch packet without dependences that passes its checks is admitted (R286, R288). -/
theorem handleLaunch_admitted (s : State) (src : Source) (p : List Byte) {ch : List Rcb} {n : Nat} {k : CodeObj} (h1 : s.check1 src p = true)
    (h2 : s.check2 p = some (ch, n)) (hk : s.codeAt (BitVec.ofNat 64 (effR 8 Rcb.ptroot ch)) (pkCode p) = some k) (hf : codeFits p k = true)
    (hn : pkNdep p = 0) (hheap : s.heap.length < 256) (hb : s.budgets ch (pkCost p) = true)
    (ha : s.admits (effR 0 Rcb.prio ch) (pkDeadl p) (pkCost p) = true) : s.handleLaunch src p = (s.takeIn src p ch n k false, true) := by
  have hdep (r : Word) : s.check4 src r p = (s, true) := by simp [State.check4, State.depsOf, hn, State.depTest]
  have hchk : s.checks567 src p ch n k = some (s.takeIn src p ch n k false) := by
    unfold State.checks567
    rw [if_neg (by omega), hb, ha]
    rfl
  unfold State.handleLaunch
  rw [h1, h2]
  simp only [hk, hf, hdep, hchk]
  rfl

/-- The launch of an admitted packet. -/
def State.admitted (s : State) (src : Source) (p : List Byte) (ch : List Rcb) (n : Nat) (k : CodeObj) : Launch :=
  let l0 := s.newLaunch src p ch n s.nextArr k
  { l0 with inHeap := true, cflags := Nat.lor l0.cflags 0 }

theorem refusedFlags_even (s : State) (key : Nat × Nat) : s.refusedFlags key % 2 = 0 := by
  unfold State.refusedFlags
  split <;> omega

/-- The state with the newcomer in the heap, before its header is logged. -/
def State.entered (s : State) (src : Source) (p : List Byte) (ch : List Rcb) (n : Nat) (k : CodeObj) : State :=
  let s1 := ((s.setDepths ch).addAll 0x58 (pkCost p) ch).addAll 0x60 32 ch
  { s1 with nextArr := s1.nextArr + 1, launches := s1.launches ++ [s.admitted src p ch n k], charged := periodsOf ch s1.charged }

theorem frame_charges (s : State) (p : List Byte) (ch : List Rcb) : Frame [] s (((s.setDepths ch).addAll 0x58 (pkCost p) ch).addAll 0x60 32 ch) :=
  ((frame_setDepths ch s).trans (frame_addAll ch _ _ _)).trans (frame_addAll ch _ _ _)

/-- What an admission leaves: the newcomer is the last launch, and the charges touch memory and the logs only. -/
theorem takeIn_leaves (s : State) (src : Source) (p : List Byte) (ch : List Rcb) (n : Nat) (k : CodeObj) :
    (s.takeIn src p ch n k false).launches = s.launches ++ [s.admitted src p ch n k]
      ∧ (s.takeIn src p ch n k false).nextArr = s.nextArr + 1 ∧ (s.takeIn src p ch n k false).pools = s.pools
      ∧ (s.takeIn src p ch n k false).stackMap = s.stackMap ∧ (s.takeIn src p ch n k false).reg 0x60 = s.reg 0x60 := by
  have hc := frame_charges s p ch
  have hl := frame_logEntry (s.entered src p ch n k) (s.admitted src p ch n k) false (s.admitted src p ch n k).header
  have hreg := hl.reg 0x60 (notMem_logRegs _ _ _ (fun k => by unfold chainOff; omega))
  have hend := endReserve_cases (((s.entered src p ch n k).logEntry (s.admitted src p ch n k) false (s.admitted src p ch n k).header).depDone src)
  have htake : s.takeIn src p ch n k false
      = (((s.entered src p ch n k).logEntry (s.admitted src p ch n k) false (s.admitted src p ch n k).header).depDone src).endReserve := rfl
  rw [htake]
  have hall : ∀ t : State, t.bare = ((s.entered src p ch n k).logEntry (s.admitted src p ch n k) false (s.admitted src p ch n k).header).bare →
      t.launches = s.launches ++ [s.admitted src p ch n k] ∧ t.nextArr = s.nextArr + 1 ∧ t.pools = s.pools ∧ t.stackMap = s.stackMap
        ∧ t.reg 0x60 = s.reg 0x60 := by
    intro t ht
    refine ⟨?_, ?_, ?_, ?_, ?_⟩
    · exact (congrArg State.launches ht :).trans (hl.launches.trans (congrArg (· ++ _) hc.launches))
    · exact (congrArg State.nextArr ht :).trans ((congrArg State.nextArr hl.rest :).trans (congrArg (· + 1) (congrArg State.nextArr hc.rest :)))
    · exact (congrArg State.pools ht :).trans ((congrArg State.pools hl.rest :).trans (congrArg State.pools hc.rest :))
    · exact (congrArg State.stackMap ht :).trans (hl.stackMap.trans hc.stackMap)
    · exact (reg_eq_of_ctl (s := State.bare _) (t := t.bare) (congrArg State.ctl ht :) 0x60).trans (hreg.trans (hc.reg 0x60 List.not_mem_nil))
  rcases hend with hend | hend
  · rw [hend]
    exact hall _ rfl
  · rw [hend]
    exact hall (((s.entered src p ch n k).logEntry (s.admitted src p ch n k) false (s.admitted src p ch n k).header).depDone src) rfl

end Sys2Proof.Machine

namespace Sys2Proof.Machine

/-! ### A slot with one pending packet (R283, R286, R288) -/

section
variable {s : State} {m q : Nat} {d : QDesc} {root : Word} (hserve : s.serves m q = true) (hd : s.qdesc q = some d) (hf : d.flags % 2 = 1)
  (hs : s.queueSpace d = some root) (hw : d.ridx < (tabGet 0 s.wake q).toNat) (hx : d.widx = d.ridx + 1) (hpools : s.pools = [])
  (hmap : (s.reg 0x60).toNat = s.stackMap) {u : State} {p : List Byte} (hu : s.useRead root 4 (d.slot d.ridx) 128 = some (u, p))
include hserve hd hf hs hw hx hpools hmap hu

/-- A packet that is neither launch nor management completes at once: no launch, and the queue moves on. -/
theorem exec_slot_notLaunch (h1 : numAt p 0 1 ≠ 1) (h2 : numAt p 0 1 ≠ 2 ∨ d.flags.testBit 1 = false) :
    ∃ t, exec (.millinerSlot m q) s = .next t ∧ t.launches = s.launches ∧ t.gangs = s.gangs ∧ t.nextArr = s.nextArr
      ∧ memNat t.mem (d.addr + 0x10) 8 = d.ridx + 1 := by
  have hread := frame_useRead 4 s u root _ 128 p hu
  have hfr : Frame [errDrop] s.bare (u.refuse ⟨q, d.qrcb, none, (q, d.ridx)⟩ p 4).bare :=
    (hread.bare.mono (List.nil_subset _)).trans (frame_refuse u _ p 4)
  have hput := frame_devNat (u.refuse ⟨q, d.qrcb, none, (q, d.ridx)⟩ p 4) (d.addr + 0x10) 8 (d.ridx + 1)
  refine ⟨_, exec_slot_served s m q hserve, ?_⟩
  rw [slotOf_handled hd hf hs hw hx hu (fun hc => h2.elim (absurd hc.1) (fun hb => absurd hc.2 (Bool.eq_false_iff.mp hb)))
    (handleLaunch_notLaunch u _ p h1) ((congrArg State.pools hfr.rest :).trans hpools)]
  refine ⟨hput.launches.trans hfr.launches, hput.gangs.trans hfr.gangs,
    (congrArg State.nextArr hput.rest :).trans (congrArg State.nextArr hfr.rest :), devNat_ridx _ q hd hx ?_⟩
  rw [show (u.refuse ⟨q, d.qrcb, none, (q, d.ridx)⟩ p 4).reg 0x60 = s.reg 0x60 from hfr.reg 0x60 (by decide)]
  exact hmap.trans hfr.stackMap.symm

/-- A launch packet that passes its checks makes the last launch of the heap. -/
theorem exec_slot_admitted {ch : List Rcb} {n : Nat} {k : CodeObj} (h1 : u.check1 ⟨q, d.qrcb, none, (q, d.ridx)⟩ p = true)
    (h2 : u.check2 p = some (ch, n)) (hk : u.codeAt (BitVec.ofNat 64 (effR 8 Rcb.ptroot ch)) (pkCode p) = some k) (hfit : codeFits p k = true)
    (hn : pkNdep p = 0) (hheap : (s.launches.filter (fun l => l.inHeap)).length < 256) (hb : u.budgets ch (pkCost p) = true)
    (ha : u.admits (effR 0 Rcb.prio ch) (pkDeadl p) (pkCost p) = true) : ∃ t l, exec (.millinerSlot m q) s = .next t
      ∧ t.launches = s.launches ++ [l] ∧ l.arr = s.nextArr ∧ t.nextArr = s.nextArr + 1 ∧ l.packet = p ∧ l.inHeap = true ∧ l.placed = 0
      ∧ l.prio = effR 0 Rcb.prio ch ∧ l.code = k ∧ l.chain = n ∧ l.cflags % 2 = 0 ∧ memNat t.mem (d.addr + 0x10) 8 = d.ridx + 1 := by
  have hread := frame_useRead 4 s u root _ 128 p hu
  have hkind : numAt p 0 1 = 1 := by
    unfold State.check1 at h1
    simp only [Bool.and_eq_true, beq_iff_eq] at h1
    tauto
  obtain ⟨hl, hna, hpl, hsm, hreg⟩ := takeIn_leaves u ⟨q, d.qrcb, none, (q, d.ridx)⟩ p ch n k
  have hput := frame_devNat (u.takeIn ⟨q, d.qrcb, none, (q, d.ridx)⟩ p ch n k false) (d.addr + 0x10) 8 (d.ridx + 1)
  have harr : u.nextArr = s.nextArr := (congrArg State.nextArr hread.rest :)
  have heven : Nat.lor (u.refusedFlags (q, d.ridx)) 0 % 2 = 0 := (congrArg (· % 2) (Nat.or_zero _)).trans (refusedFlags_even u _)
  refine ⟨_, u.admitted ⟨q, d.qrcb, none, (q, d.ridx)⟩ p ch n k, exec_slot_served s m q hserve, ?_⟩
  rw [slotOf_handled hd hf hs hw hx hu (fun hc => by omega)
    (handleLaunch_admitted u _ p h1 h2 hk hfit hn (by unfold State.heap; rw [hread.launches]; exact hheap) hb ha)
    (hpl.trans ((congrArg State.pools hread.rest :).trans hpools))]
  refine ⟨hput.launches.trans (hl.trans (congrArg (· ++ _) hread.launches)), harr,
    (congrArg State.nextArr hput.rest :).trans (hna.trans (congrArg (· + 1) harr)), rfl, rfl, rfl, rfl, rfl, rfl, heven, devNat_ridx _ q hd hx ?_⟩
  rw [hreg, hread.reg 0x60 List.not_mem_nil]
  exact hmap.trans (hread.stackMap.symm.trans hsm.symm)

end

/-! ### Spills (R295) -/

theorem exec_poolSpill_none (s : State) (r : Nat) (h : r ∉ s.spills) : exec (.poolSpill r) s = .next s :=
  congrArg Host.Outcome.next (if_neg (by simpa using h))

theorem exec_poolSpill_pending (s : State) (r : Nat) (h : r ∈ s.spills) : exec (.poolSpill r) s = .next (s.spillPool r).unblock :=
  congrArg Host.Outcome.next (if_pos (by simpa using h))

theorem spillPool_refused (s : State) (r : Nat) (h : s.canSpill r = false) :
    s.spillPool r = { s with spills := s.spills.filter (fun x => x ≠ r) } := if_neg (Bool.eq_false_iff.mp h)

theorem notMem_spills_spillPool (s : State) (r : Nat) : r ∉ (s.spillPool r).spills := by
  have hnot : r ∉ s.spills.filter (fun x => x ≠ r) := by simp
  unfold State.spillPool
  split <;> exact hnot

end Sys2Proof.Machine

namespace Sys2Proof.Machine

/-! ### Budget periods (R293) -/

theorem exec_budgetReset_between (s : State) (a : Nat) (h : tabGet 0 s.charged a = 0 ∨ s.tb.toNat % tabGet 0 s.charged a ≠ 0) :
    exec (.budgetReset a) s = .next s := by
  refine congrArg Host.Outcome.next (if_neg ?_)
  simp only [State.atPeriod, Bool.and_eq_true, bne_iff_ne, beq_iff_eq, not_and_or, not_not]
  exact h

theorem exec_budgetReset_due (s : State) (a : Nat) (hp : tabGet 0 s.charged a ≠ 0) (htb : s.tb.toNat % tabGet 0 s.charged a = 0)
    (hm : (s.reg 0x60).toNat = s.stackMap) : ∃ t, exec (.budgetReset a) s = .next t ∧ tabGet 0 t.lused a = 0
      ∧ (∀ b, b ≠ a → tabGet 0 t.lused b = tabGet 0 s.lused b)
      ∧ memNat t.mem (a + 0x58) 8
        = (((s.launches.filter (fun l => l.below a && l.capture.isNone)).map Launch.reserved).foldl Nat.add 0) % 2 ^ 64 := by
  refine ⟨s.newPeriod a, congrArg Host.Outcome.next (if_pos ?_), tabGet_tabSet_same _ _ _ _, fun b hb => tabGet_tabSet_other _ _ _ _ _ hb,
    memNat_devNat s (a + 0x58) 8 _ hm⟩
  simp only [State.atPeriod, Bool.and_eq_true, bne_iff_ne, beq_iff_eq]
  exact ⟨hp, htb⟩

/-! ### Chain heads (R322) -/

theorem reg_setHead (s : State) (n : Nat) (h : BitVec 256) (i : Nat) (hi : i < 4) :
    (s.setHead n h).reg (chainOff n + 0x40 + 8 * i) = BitVec.ofNat 64 (h.toNat / 2 ^ (64 * i)) := by
  unfold State.setHead
  simp only [List.range_succ, List.range_zero, List.nil_append, List.cons_append, List.foldl_cons, List.foldl_nil]
  simp only [reg_setReg, Nat.add_left_cancel_iff]
  interval_cases i <;> simp

theorem headOf_congr {s t : State} {n : Nat} (h : ∀ i, i < 4 → t.reg (chainOff n + 0x40 + 8 * i) = s.reg (chainOff n + 0x40 + 8 * i)) :
    t.headOf n = s.headOf n := by
  unfold State.headOf
  simp only
  congr 2
  exact List.flatMap_congr (fun i hi => by rw [h i (List.mem_range.mp hi)])

theorem leNat_append (as bs : List Byte) : leNat (as ++ bs) = leNat as + 256 ^ as.length * leNat bs := by
  induction as with
  | nil => simp [leNat]
  | cons a as ih =>
    rw [List.cons_append, leNat, ih, leNat, List.length_cons, Nat.pow_succ]
    ring

theorem headOf_setHead (s : State) (n : Nat) (h : BitVec 256) : (s.setHead n h).headOf n = h := by
  have hr (i : Nat) (hi : i < 4) : leBytes 8 ((s.setHead n h).reg (chainOff n + 0x40 + 8 * i)).toNat = leBytes 8 (h.toNat / 2 ^ (64 * i) % 2 ^ 64) := by
    rw [reg_setHead s n h i hi, BitVec.toNat_ofNat]
  unfold State.headOf
  simp only [List.range_succ, List.range_zero, List.nil_append, List.cons_append, List.flatMap_cons, List.flatMap_nil]
  rw [hr 0 (by omega), hr 1 (by omega), hr 2 (by omega), hr 3 (by omega)]
  refine BitVec.eq_of_toNat_eq ?_
  have hlt := h.isLt
  simp only [leNat_append, leNat_leBytes, length_leBytes, List.append_nil, BitVec.toNat_ofNat]
  generalize h.toNat = x at hlt ⊢
  norm_num
  omega

/-- The chain link of a launch: the head, its count and its time. -/
theorem chainAppend_sets (s : State) (n : Nat) (root desc : BitVec 256) :
    (s.chainAppend n root desc).reg (chainOff n + 0x30) = s.reg (chainOff n + 0x30) + 1 ∧ (s.chainAppend n root desc).reg (chainOff n + 0x38) = s.tb
      ∧ (s.chainAppend n root desc).headOf n = sha3V (0x03 :: (hashBytes (s.headOf n) ++ hashBytes root ++ hashBytes desc)) := by
  unfold State.chainAppend
  simp only
  refine ⟨?_, reg_setReg_same _ _ _, ?_⟩
  · rw [reg_setReg_other _ _ (by omega), reg_setReg_same]
  · refine (headOf_congr (fun i _ => ?_)).trans (headOf_setHead s n _)
    rw [reg_setReg_other _ _ (by omega), reg_setReg_other _ _ (by omega)]

/-! ### The end of a launch (R296) -/

/-- Nothing of a launch is left once it is forgotten, and no register changes. -/
theorem forget_leaves (s : State) (l : Launch) : (∀ x ∈ (s.forget l).launches, x.arr ≠ l.arr) ∧ (∀ x ∈ (s.forget l).trees, x.arr ≠ l.arr)
    ∧ (∀ x ∈ (s.forget l).leaves, x.arr ≠ l.arr) ∧ ∀ o, (s.forget l).reg o = s.reg o := by
  have hfree := frame_freeOwn { s with
    launches := s.launches.filter (fun x => x.arr != l.arr), trees := s.trees.filter (fun x => x.arr != l.arr)
    leaves := s.leaves.filter (fun x => x.arr != l.arr) } l (((s.gangs.filter (fun g => g.arr == l.arr)).map s.gangMem).foldl Nat.add 32)
  refine ⟨fun x hx => ?_, fun x hx => ?_, fun x hx => ?_, fun o => hfree.reg o List.not_mem_nil⟩
  · have hx := (List.mem_filter.mp (hfree.launches ▸ hx)).2
    exact bne_iff_ne.mp hx
  · have hx := (List.mem_filter.mp ((congrArg State.trees hfree.rest :) ▸ hx)).2
    exact bne_iff_ne.mp hx
  · have hx := (List.mem_filter.mp ((congrArg State.leaves hfree.rest :) ▸ hx)).2
    exact bne_iff_ne.mp hx

/-- A launch without shadows ends: its record, signal and join counter, then its chain link. -/
theorem endLaunch_plain (s : State) (l : Launch) (h : l.fdfl.testBit 0 = false) : ∃ t : State, Frame [errDrop] s.bare t.bare
    ∧ s.endLaunch l = some ((t.chainLaunch l l.rootHash).forget l) := by
  unfold State.endLaunch
  simp only [h]
  exact ⟨_, frame_tellEnd s _ _ _ _ _ _, rfl⟩

theorem exec_launchComplete_waits (s : State) (a : Nat) (l : Launch) (hl : s.launch? a = some l) (hc : l.capture = none) (hm : s.mayEnd l = false) :
    exec (.launchComplete a) s = .next s := by
  show Host.Outcome.next _ = _
  rw [hl]
  simp only [hc, hm]
  rfl

theorem exec_launchComplete (s : State) (a : Nat) (l : Launch) (hl : s.launch? a = some l) (hc : l.capture = none) (hm : s.mayEnd l = true)
    (hf : l.fdfl.testBit 0 = false) : ∃ t, exec (.launchComplete a) s = .next t
      ∧ (∀ x ∈ t.launches, x.arr ≠ a) ∧ (∀ x ∈ t.trees, x.arr ≠ a) ∧ (∀ x ∈ t.leaves, x.arr ≠ a)
      ∧ t.reg (chainOff l.chain + 0x30) = s.reg (chainOff l.chain + 0x30) + 1 ∧ t.reg (chainOff l.chain + 0x38) = s.tb
      ∧ t.headOf l.chain = sha3V (0x03 :: (hashBytes (s.headOf l.chain) ++ hashBytes l.rootHash ++ hashBytes l.descDigest)) := by
  obtain ⟨u, hu, hend⟩ := endLaunch_plain s l hf
  obtain ⟨hlaunch, htree, hleaf, hreg⟩ := forget_leaves (u.chainLaunch l l.rootHash) l
  have hexec : exec (.launchComplete a) s = .next ((u.chainLaunch l l.rootHash).forget l).unblock := by
    show Host.Outcome.next _ = _
    rw [hl]
    simp only [hc, hm, hend]
    rfl
  have hlog := hu.seq (frame_logEntry u l true (logHead 8 0 0 0 l.arr 0 0 l.rootHash))
  generalize hw : u.logEntry l true (logHead 8 0 0 0 l.arr 0 0 l.rootHash) = w at hlog
  have hchain : u.chainLaunch l l.rootHash = w.chainAppend l.chain l.rootHash l.descDigest := by rw [State.chainLaunch, hw]
  obtain ⟨hcount, htime, hhead⟩ := chainAppend_sets w l.chain l.rootHash l.descDigest
  have hkept (o : Nat) (ho : o ≠ errDrop) (hn : ∀ k, o ≠ chainOff k + 0x20) : w.reg o = s.reg o :=
    hlog.reg o (fun hm => (List.mem_append.mp hm).elim (fun h => ho (List.mem_singleton.mp h)) (notMem_logRegs _ _ _ hn))
  rw [arr_of_launch? hl] at hlaunch htree hleaf
  refine ⟨_, hexec, hlaunch, htree, hleaf, ?_, ?_, ?_⟩
  · rw [unblock_reg, hreg, hchain, hcount, hkept _ (by unfold chainOff errDrop; omega) (fun k => by unfold chainOff; omega)]
  · rw [unblock_reg, hreg, hchain, htime]
    exact hlog.tb
  · have hsame : (((u.chainLaunch l l.rootHash).forget l).unblock).headOf l.chain = (w.chainAppend l.chain l.rootHash l.descDigest).headOf l.chain :=
      headOf_congr (fun i _ => by rw [unblock_reg, hreg, hchain])
    have hbefore : w.headOf l.chain = s.headOf l.chain :=
      headOf_congr (fun i _ => hkept _ (by unfold chainOff errDrop; omega) (fun k => by unfold chainOff; omega))
    rw [hsame, hhead, hbefore]

theorem exec_launchComplete_capture (s : State) (a : Nat) (l : Launch) (k : Capture) (hl : s.launch? a = some l) (hc : l.capture = some k)
    (he : s.allEnded l = true) : ∃ t, exec (.launchComplete a) s = .next t ∧ ∀ x ∈ t.launches, x.arr ≠ a := by
  refine ⟨(s.endCapture l k).unblock, ?_, arr_of_launch? hl ▸ (forget_leaves _ l).1⟩
  show Host.Outcome.next _ = _
  rw [hl]
  simp only [hc, he]
  rfl

/-! ### Its replay (R353) -/

theorem exec_shadowReplay_waits (s : State) (a : Nat) (l : Launch) (hl : s.launch? a = some l) (hm : s.mayReplay l = false) :
    exec (.shadowReplay a) s = .next s := by
  show Host.Outcome.next _ = _
  rw [hl]
  simp only [hm]
  rfl

/-- A stopped launch as it enters the heap again. -/
def Launch.again (l : Launch) : Launch :=
  { l with attempt := 1, placed := 0, ended := 0, status := 0, faults := 0, tasks := [], held := [], stopped := false,
           replay := false, inHeap := true, runq := [wholeRun l.packet l.code] }

theorem frame_releaseShadows (s : State) (l : Launch) : Frame [] s.bare (s.releaseShadows l).bare :=
  (Frame.refl [] s.bare).trans (frame_freeOwn { s with shadows := s.shadows.filter (fun h => h.arr != l.arr) } l _).bare

theorem launches_endReserve (s : State) : s.endReserve.launches = s.launches := by
  rcases endReserve_cases s with h | h <;> rw [h]
  rfl

theorem launches_addCused (s : State) (l : Launch) (d : Int) : (s.addCused l d).launches = s.launches := by
  unfold State.addCused
  split
  · rfl
  · exact (frame_addOwn _ s _ _).launches

theorem launches_replayLaunch (s : State) (l : Launch) : (s.replayLaunch l).launches = (s.setLaunch l.again).launches := by
  have hrel := frame_releaseShadows s l
  have hheld : (if (s.releaseShadows l).resvFor = l.arr then (s.releaseShadows l).unheld else s.releaseShadows l).launches = s.launches := by
    split <;> exact hrel.launches
  unfold State.replayLaunch
  simp only
  rw [launches_endReserve]
  refine (frame_logEntry _ _ _ _).launches.trans ((launches_addCused _ l _).trans ?_)
  exact congrArg (List.map (fun x => if x.arr = l.arr then l.again else x)) hheld

theorem exec_shadowReplay (s : State) (a : Nat) (l : Launch) (hl : s.launch? a = some l) (hr : l.replay = true)
    (he : s.allEnded { l with replay := false } = true) (hh : s.heap.length < 256) : ∃ t, exec (.shadowReplay a) s = .next t
      ∧ t.launch? a = some l.again := by
  refine ⟨s.replayLaunch l, ?_, ?_⟩
  · show Host.Outcome.next _ = _
    rw [hl]
    simp only [State.mayReplay, hr, he, hh]
    rfl
  · rw [launch?_of_launches (launches_replayLaunch s l)]
    have harr : l.again.arr = a := show l.arr = a from arr_of_launch? hl
    exact harr ▸ launch?_setLaunch_same s l.again (harr.symm ▸ hl ▸ rfl)

end Sys2Proof.Machine

namespace Sys2Proof.Machine

/-! ### Pairs for the Fuller (R335, R336) -/

theorem frame_depsOf (s t : State) (root : Word) (p : List Byte) (ds : List (List Byte)) (h : s.depsOf root p = some (t, ds)) : Frame [] s t := by
  unfold State.depsOf at h
  split at h
  · cases h; exact Frame.refl _ _
  · obtain ⟨⟨u, bs⟩, hu, hx⟩ := Option.map_eq_some_iff.mp h
    cases hx
    exact frame_useRead _ s u root _ _ bs hu

theorem frame_depTest (ds : List (List Byte)) (s : State) (src : Source) (root : Word) (i : Nat) :
    Frame [] s.bare (s.depTest src root i ds).1.bare := by
  induction ds generalizing i with
  | nil => exact Frame.refl _ _
  | cons d ds ih =>
    unfold State.depTest
    simp only
    split
    · exact ih (i + 1)
    · split
      · exact ih (i + 1)
      · exact ih (i + 1)

theorem frame_blockedAt (s : State) (q : Nat) (b : Blocked) (h : s.blockedAt q = some b) : Frame [] s b.at_ := by
  unfold State.blockedAt at h
  split at h
  · cases h
  · split at h
    · cases h
    · split at h
      · cases h
      · split at h
        · cases h
        · next t p hread =>
          have hfr := frame_useRead 4 s t _ _ 128 p hread
          unfold State.passed3 at h
          split at h
          · cases h
          · split at h
            · cases h
            · simp only at h
              split at h
              · cases h
              · split at h
                · cases h; exact hfr
                · cases h

/-- The reason of a refusal stands in CFLAGS bits 4 to 7, beside bit 1. -/
theorem refusedBits (x e : Nat) (h : e < 16) : (Nat.lor (x % 16 + x / 256 * 256) (2 + 16 * e)).testBit 1 = true
    ∧ Nat.lor (x % 16 + x / 256 * 256) (2 + 16 * e) / 16 % 16 = e := by
  have hlow : (2 + 16 * e).testBit 1 = true := by
    rw [Nat.testBit_eq_decide_div_mod_eq, decide_eq_true_iff]
    omega
  have hor : Nat.lor (x % 16 + x / 256 * 256) (2 + 16 * e) = (x % 16 + x / 256 * 256) ||| (2 + 16 * e) := rfl
  refine ⟨by rw [hor, Nat.testBit_or, hlow, Bool.or_true], ?_⟩
  rw [hor, show (16 : Nat) = 2 ^ 4 from rfl, Nat.or_div_two_pow, Nat.or_mod_two_pow]
  have hz : (x % 2 ^ 4 + x / 256 * 256) / 2 ^ 4 % 2 ^ 4 = 0 := by omega
  have he : (2 + 2 ^ 4 * e) / 2 ^ 4 % 2 ^ 4 = e := by omega
  rw [hz, he, Nat.zero_or]

theorem offers_first (s t : State) (p : Launch) (q : Nat) (b : Blocked) (hb : s.blockedAt q = some b) (ho : s.offer p b = some t) : s.offers p q = t := by
  unfold State.offers
  rw [hb]
  simp only [Option.toList_some, List.cons_append, List.findSome?_cons, ho, Option.getD_some]

/-- A launch with its part of a pair. -/
def Launch.fusedBy (l : Launch) (f : Fuse) : Launch := { l with cflags := Nat.lor l.cflags 1, fuse := some f }

theorem fuse_eq (s : State) {p c : Launch} {dp dc : List Byte} (hdp : p.code.splice = some dp) (hdc : c.code.splice = some dc) :
    ∃ (u : State) (f k : Fuse), s.fuse p c = (u.setLaunch (p.fusedBy f)).setLaunch (c.fusedBy k) ∧ u.launches = s.launches ∧ f.origin = 1
      ∧ f.mate = c.arr ∧ k.origin = 2 ∧ k.mate = p.arr := by
  unfold State.fuse
  rw [hdp, hdc]
  simp only
  generalize roomOf (s.kernelOf p) (s.kernelOf c) = n
  generalize (s.codeRoom n).getD 0 = pa
  exact ⟨_, _, _, rfl, (frame_devPut s pa _).launches, rfl, rfl, rfl, rfl⟩

/-- The two launches of a pair as the Fuller leaves them. -/
theorem fuse_leaves (s : State) {p c : Launch} {dp dc : List Byte} (hne : p.arr ≠ c.arr) (hdp : p.code.splice = some dp)
    (hdc : c.code.splice = some dc) (hp : (s.launch? p.arr).isSome = true) (hc : (s.launch? c.arr).isSome = true) :
    ∃ p1 c1 f k, (s.fuse p c).launch? p.arr = some p1 ∧ (s.fuse p c).launch? c.arr = some c1 ∧ p1.fuse = some f ∧ c1.fuse = some k ∧ f.origin = 1
      ∧ f.mate = c.arr ∧ k.origin = 2 ∧ k.mate = p.arr ∧ p1.cflags.testBit 0 = true ∧ c1.cflags.testBit 0 = true := by
  have hbit (x : Nat) : (Nat.lor x 1).testBit 0 = true := by
    rw [show Nat.lor x 1 = x ||| 1 from rfl, Nat.testBit_or]
    simp
  have hset (u : State) (f k : Fuse) (hu : u.launches = s.launches) :
      ((u.setLaunch (p.fusedBy f)).setLaunch (c.fusedBy k)).launch? p.arr = some (p.fusedBy f)
        ∧ ((u.setLaunch (p.fusedBy f)).setLaunch (c.fusedBy k)).launch? c.arr = some (c.fusedBy k) := by
    have hpu : (u.setLaunch (p.fusedBy f)).launch? p.arr = some (p.fusedBy f) :=
      launch?_setLaunch_same u (p.fusedBy f) ((launch?_of_launches hu p.arr).symm ▸ hp)
    have hcu : (u.setLaunch (p.fusedBy f)).launch? c.arr = s.launch? c.arr :=
      (launch?_setLaunch_other u (p.fusedBy f) c.arr (fun h => hne h.symm)).trans (launch?_of_launches hu c.arr)
    exact ⟨(launch?_setLaunch_other _ (c.fusedBy k) p.arr hne).trans hpu, launch?_setLaunch_same _ (c.fusedBy k) (hcu.symm ▸ hc)⟩
  obtain ⟨u, f, k, hfuse, hu, hfo, hfm, hko, hkm⟩ := fuse_eq s hdp hdc
  rw [hfuse]
  exact ⟨p.fusedBy f, c.fusedBy k, f, k, (hset u f k hu).1, (hset u f k hu).2, rfl, rfl, hfo, hfm, hko, hkm, hbit p.cflags, hbit c.cflags⟩

section
variable {s : State} {a : Nat} {l : Launch} (hl : s.launch? a = some l)
include hl

theorem exec_splicePair_none (q : Nat)
    (h : s.feat 1 = false ∨ (numAt l.packet 0x32 2).testBit 0 = false ∨ l.placed ≠ 0 ∨ l.inHeap = false) : exec (.splicePair a q) s = .next s := by
  show Host.Outcome.next _ = _
  rw [hl]
  simp only
  rw [if_neg]
  rcases h with h | h | h | h <;> simp [h]

section
variable {q : Nat} {b : Blocked} {u v : State} {ds : List (List Byte)} {j : Nat} (h1 : s.feat 1 = true) (hprod : (numAt l.packet 0x32 2).testBit 0 = true)
  (hplaced : l.placed = 0) (hheap : l.inHeap = true) (hfuse : l.fuse = none) (hcap : l.capture = none) (hb : s.blockedAt q = some b)
  (hdeps : b.at_.depsOf b.space b.packet = some (u, ds)) (htest : u.depTest b.src b.space 0 ds = (v, [j]))
  (hcons : (numAt b.packet 0x32 2).testBit 1 = true) (hsame : v.sameCounter b.space (ds.getD j []) l = true)
  (hnew : ∀ x ∈ s.noSplice, ¬ (x.1 = a ∧ x.2.1 = b.src.key))

include h1 hprod hplaced hheap hfuse hcap hb in
theorem exec_splicePair_offer {t : State} (ho : s.offer l b = some t) : exec (.splicePair a q) s = .next t.unblock := by
  show Host.Outcome.next _ = _
  rw [hl]
  simp only
  rw [if_pos (by simp [h1, hprod, hplaced, hheap, hfuse, hcap]), offers_first s t l q b hb ho]

include hnew in
theorem not_offered : s.noSplice.any (fun x => x.1 == l.arr && x.2.1 == b.src.key) = false := by
  rw [List.any_eq_false]
  intro x hx
  simpa [arr_of_launch? hl] using hnew x hx

include hdeps htest hcons hsame hnew

theorem offer_refused (e : Nat) (he : v.refusal l (v.newLaunch b.src b.packet b.chain b.link 0 b.code) = e) (h0 : e ≠ 0) :
    s.offer l b = some (({ v with noSplice := v.noSplice ++ [(l.arr, b.src.key, e)] } : State).setLaunch
      { l with cflags := Nat.lor (l.cflags % 16 + l.cflags / 256 * 256) (2 + 16 * e) }) := by
  obtain ⟨k, rfl⟩ := Nat.exists_eq_succ_of_ne_zero h0
  unfold State.offer
  rw [hdeps]
  simp only [htest, hcons, hsame, not_offered hl hnew]
  rw [if_neg (by decide), he]
  rfl

theorem offer_accepted (he : v.refusal l (v.newLaunch b.src b.packet b.chain b.link 0 b.code) = 0) {w : State} {m p : Launch}
    (hw : v.checks567 b.src b.packet b.chain b.link b.code = some w) (harr : w.nextArr = v.nextArr + 1)
    (hm : (b.take w).launch? v.nextArr = some m) (hp : (b.take w).launch? l.arr = some p) :
    s.offer l b = some ((b.take w).fuse p m).endReserve := by
  unfold State.offer
  rw [hdeps]
  simp only [htest, hcons, hsame, not_offered hl hnew]
  rw [if_neg (by decide), he]
  simp only [hw, if_pos harr, hm, hp]

omit hcons hsame hnew in
include hb in
theorem launch?_tested : v.launch? a = some l := by
  have hread := (frame_blockedAt s q b hb).trans (frame_depsOf b.at_ u b.space b.packet ds hdeps)
  have htested := frame_depTest ds u b.src b.space 0
  rw [htest] at htested
  exact (launch?_of_launches ((htested.launches : v.launches = u.launches).trans hread.launches) a).trans hl

include h1 hprod hplaced hheap hfuse hcap hb

/-- A refused pair: CFLAGS keeps the reason, and the pair is not offered again. -/
theorem exec_splicePair_refused (e : Nat) (he : v.refusal l (v.newLaunch b.src b.packet b.chain b.link 0 b.code) = e) (h0 : e ≠ 0) (h16 : e < 16) :
    ∃ t m, exec (.splicePair a q) s = .next t ∧ t.launch? a = some m ∧ m.cflags.testBit 1 = true ∧ m.cflags / 16 % 16 = e ∧ m.fuse = none
      ∧ (a, b.src.key, e) ∈ t.noSplice := by
  have ho := offer_refused hl hdeps htest hcons hsame hnew e he h0
  have harr := arr_of_launch? hl
  refine ⟨_, { l with cflags := Nat.lor (l.cflags % 16 + l.cflags / 256 * 256) (2 + 16 * e) },
    exec_splicePair_offer hl h1 hprod hplaced hheap hfuse hcap hb ho, ?_, ?_, ?_, hfuse, ?_⟩
  · have hset := launch?_setLaunch_same { v with noSplice := v.noSplice ++ [(l.arr, b.src.key, e)] }
      { l with cflags := Nat.lor (l.cflags % 16 + l.cflags / 256 * 256) (2 + 16 * e) }
      (show (v.launch? l.arr).isSome = true from harr.symm ▸ launch?_tested hl hb hdeps htest ▸ rfl)
    exact harr ▸ hset
  · exact (refusedBits _ e h16).1
  · exact (refusedBits _ e h16).2
  · exact List.mem_append_right _ (harr ▸ List.mem_singleton_self _)

/-- An accepted pair: each launch holds its part of the fused code. -/
theorem exec_splicePair_accepted {w : State} {m p : Launch} {dp dc : List Byte}
    (he : v.refusal l (v.newLaunch b.src b.packet b.chain b.link 0 b.code) = 0) (hne : a ≠ v.nextArr)
    (hw : v.checks567 b.src b.packet b.chain b.link b.code = some w) (harr : w.nextArr = v.nextArr + 1)
    (hm : (b.take w).launch? v.nextArr = some m) (hp : (b.take w).launch? a = some p) (hdp : p.code.splice = some dp) (hdc : m.code.splice = some dc) :
    ∃ t p1 m1 f k, exec (.splicePair a q) s = .next t ∧ t.launch? a = some p1 ∧ t.launch? v.nextArr = some m1 ∧ p1.fuse = some f
      ∧ m1.fuse = some k ∧ f.origin = 1 ∧ f.mate = v.nextArr ∧ k.origin = 2 ∧ k.mate = a ∧ p1.cflags.testBit 0 = true
      ∧ m1.cflags.testBit 0 = true := by
  have hla := arr_of_launch? hl
  have ho := offer_accepted hl hdeps htest hcons hsame hnew he hw harr hm (hla.symm ▸ hp)
  obtain ⟨p1, m1, f, k, hp1, hm1, hf, hk, hfo, hfm, hko, hkm, hpc, hmc⟩ := fuse_leaves (b.take w) (ne_of_eq_of_ne (arr_of_launch? hp) (hne.trans_eq (arr_of_launch? hm).symm))
    hdp hdc ((arr_of_launch? hp).symm ▸ hp ▸ rfl) ((arr_of_launch? hm).symm ▸ hm ▸ rfl)
  rw [arr_of_launch? hp] at hp1 hkm
  rw [arr_of_launch? hm] at hm1 hfm
  refine ⟨_, p1, m1, f, k, exec_splicePair_offer hl h1 hprod hplaced hheap hfuse hcap hb ho, ?_, ?_, hf, hk, hfo, hfm, hko, hkm, hpc, hmc⟩
  · exact (launch?_of_launches (launches_endReserve _) a).trans hp1
  · exact (launch?_of_launches (launches_endReserve _) _).trans hm1

end
end

end Sys2Proof.Machine

namespace Sys2Proof.Machine

/-! ### Places for a launch (R290, R291) -/

theorem takeSeats_forall {α : Type} (P : α → Prop) (w : Nat) (seat : Nat → Nat → Option α) (ns : List Nat) (acc : List α) (hacc : ∀ x ∈ acc, P x)
    (h : ∀ n ∈ ns, ∀ i x, seat i n = some x → P x) : ∀ x ∈ takeSeats w seat ns acc, P x := by
  induction ns generalizing acc with
  | nil => exact hacc
  | cons n ns ih =>
    have hrest : ∀ m ∈ ns, ∀ i x, seat i m = some x → P x := fun m hm => h m (List.mem_cons_of_mem _ hm)
    unfold takeSeats
    split
    · exact hacc
    · split
      · next y hy =>
        refine ih _ (fun x hx => ?_) hrest
        rcases List.mem_append.mp hx with hx | hx
        · exact hacc x hx
        · exact List.mem_singleton.mp hx ▸ h n List.mem_cons_self _ y hy
      · exact ih _ hacc hrest

/-- What holds of a place on an open core of a list holds of every place picked there. -/
theorem pick_forall {α : Type} (P : α → Prop) (s : State) (l : Launch) (w : Nat) (seat : Nat → Nat → Option α) (cores : List Nat)
    (h : ∀ n ∈ cores, s.coreOpen l n = true → ∀ i x, seat i n = some x → P x) : ∀ x ∈ s.pick l w seat cores, P x := by
  unfold State.pick
  refine takeSeats_forall P w seat _ [] (fun x hx => by cases hx) (fun n hn => ?_)
  have hok := List.mem_filter.mp (List.mem_filter.mp hn).1
  exact h n hok.1 (Bool.and_eq_true_iff.mp hok.2).1

/-- A launch that is not fused has one place on a core. -/
theorem seatOn_alone (s : State) (l : Launch) (n : Nat) (hf : l.fuse = none) (r : List Seat) (h : s.seatOn l n = some r) :
    ∃ y : Seat, r = [y] ∧ y.core = n := by
  unfold State.seatOn at h
  rw [show s.mateLaunch l = none by simp [State.mateLaunch, hf]] at h
  simp only [Option.map_none, Option.bind_eq_bind, Option.bind_eq_some_iff] at h
  obtain ⟨cid, -, ts, -, wb, -, ab, -, sb, -, h⟩ := h
  cases h
  exact ⟨_, rfl, rfl⟩

/-- The places that a cluster offers stand on its open cores, one each. -/
theorem seats_alone (s : State) (l : Launch) (cl : Nat) (hf : l.fuse = none) :
    ∀ r ∈ s.seats l [] cl, ∃ y : Seat, r = [y] ∧ y.core / 16 = cl ∧ s.coreOpen l y.core = true := by
  refine pick_forall _ s l _ _ _ (fun n hn ho i r hr => ?_)
  obtain ⟨y, hy, hcore⟩ := seatOn_alone s l n hf r hr
  refine ⟨y, hy, ?_, hcore ▸ ho⟩
  obtain ⟨j, hj, hjn⟩ := List.mem_map.mp (List.mem_filter.mp hn).1
  have := List.mem_range.mp hj
  omega

theorem placeGo_none (s : State) (l : Launch) (cls : List Nat) (h : ∀ k ∈ cls, (s.seats l [] k).length ≠ pkGW l.packet) :
    s.placeGo l [] cls = none := by
  induction cls with
  | nil => rfl
  | cons cl cls ih =>
    unfold State.placeGo
    simp only
    rw [if_neg (h cl List.mem_cons_self)]
    exact ih (fun k hk => h k (List.mem_cons_of_mem _ hk))

/-- The first cluster that offers as many places as a launch has ranks takes its gang. -/
theorem placeGo_first (s t : State) (l : Launch) (cl : Nat) (hcl : cl < 24) (hno : ∀ k, k < cl → (s.seats l [] k).length ≠ pkGW l.packet)
    (hyes : (s.seats l [] cl).length = pkGW l.packet) (hs : s.seat l (s.seats l [] cl) = some t) : s.placeGo l [] (List.range 24) = some t := by
  have hpast (pre post : List Nat) (h : ∀ k ∈ pre, (s.seats l [] k).length ≠ pkGW l.packet) :
      s.placeGo l [] (pre ++ cl :: post) = some t := by
    induction pre with
    | nil =>
      rw [List.nil_append, State.placeGo]
      rw [if_pos hyes, hs]
    | cons k pre ih =>
      rw [List.cons_append, State.placeGo]
      rw [if_neg (h k List.mem_cons_self)]
      exact ih (fun j hj => h j (List.mem_cons_of_mem _ hj))
  obtain ⟨k, hk⟩ := Nat.exists_eq_add_of_lt hcl
  rw [hk, Nat.add_assoc, List.range_add, List.range_succ_eq_map, List.map_cons, Nat.add_zero]
  exact hpast _ _ (fun j hj => hno j (List.mem_range.mp hj))

theorem ordered_single (s : State) (l : Launch) (h : s.launches.filter (fun x => x.inHeap) = [l]) (hf : l.fuse = none) : s.ordered = [l] := by
  have hh : s.heap = [l] := h
  have hfo : s.follows l = false := by simp [State.follows, hf]
  unfold State.ordered
  rw [hh]
  simp [hfo, insertKey]

/-! ### A gang takes its places (R34, R62, R294) -/

theorem frame_chargeOwn (s u : State) (l : Launch) (n : Nat) (h : s.chargeOwn l n = some u) : Frame [] s u := by
  unfold State.chargeOwn at h
  split at h
  · cases h; exact Frame.refl _ _
  · split at h
    · cases h; exact frame_addOwn _ s _ _
    · cases h

/-- Where nothing is saved, nothing has to make way: only the rows of the tiles taken change. -/
theorem seatRows (l : Launch) (xs : List Seat) (s : State) (h : s.saved = []) : ∃ r, xs.foldl (fun o x => o.bind (fun u =>
    (u.makeWay x.core x.tiles [(0, x.wb, l.winKiB 0), (1, x.ab, l.winKiB 1), (3, x.sb, l.winKiB 3)]).map (fun v =>
      v.clearTiles x.core x.tiles))) (some s) = some { s with rows := r } := by
  induction xs generalizing s with
  | nil => exact ⟨s.rows, rfl⟩
  | cons x xs ih =>
    have hway : s.makeWay x.core x.tiles [(0, x.wb, l.winKiB 0), (1, x.ab, l.winKiB 1), (3, x.sb, l.winKiB 3)] = some s := by
      unfold State.makeWay State.left
      rw [h]
      rfl
    rw [List.foldl_cons, Option.bind_some, hway]
    exact ih (s.clearTiles x.core x.tiles) h

/-- The context of rank r of a new gang, at a place and with an area. -/
def State.newRank (s : State) (l : Launch) (r : Nat) (x : Seat) (a : Word) : Ctx :=
  { newCtx l s.nextGang l.nextTask r x.core x.cid (x.alloc l) a with fz := l.fz0, prio := s.ctxPrio l }

/-- The contexts of a new gang. -/
def State.newRanks (s : State) (l : Launch) (xs : List Seat) (as : List Word) : List Ctx :=
  (List.range (pkGW l.packet)).filterMap (fun r => match xs[r]?, as[r]? with
    | some x, some a => some (s.newRank l r x a)
    | _, _ => none)

/-- A new gang. -/
def State.newGang (s : State) (l : Launch) (xs : List Seat) : Gang :=
  { id := s.nextGang, arr := l.arr, task := l.nextTask, cores := xs.map Seat.core, dec := [], gate := [], opened := [], shared := [],
    mcast := [], snap := none, began := none, acc := 0, saved := false, drained := false, relock := [], mate := 0 }

/-- Contexts come to their cores: the first takes the current place where none has it. -/
def State.addCtxs (s : State) (cs : List Ctx) : State :=
  if s.ctx.live then { s with parked := s.parked ++ cs } else { s with ctx := cs.headD s.ctx, parked := s.parked ++ cs.drop 1 }

theorem mem_addCtxs (s : State) (cs : List Ctx) (c : Ctx) (h : c ∈ cs) : c ∈ (s.addCtxs cs).ctxs := by
  unfold State.addCtxs State.ctxs
  split
  · exact List.mem_cons_of_mem _ (List.mem_append_right _ h)
  · cases cs with
    | nil => cases h
    | cons d ds =>
      rcases List.mem_cons.mp h with rfl | h
      · exact List.mem_cons_self
      · exact List.mem_cons_of_mem _ (List.mem_append_right _ h)

/-- A state with a new gang and its trees, whose tiles left the rows `r`. -/
def State.gangIn (s : State) (l : Launch) (xs : List Seat) (r : List (Nat × ZRow)) : State :=
  { s with rows := r, nextGang := s.nextGang + 1, gangs := s.gangs ++ [s.newGang l xs], trees := s.trees ++ newTrees l l.nextTask }

/-- The same with its contexts, and with its task taken. -/
def State.withGang (s : State) (l : Launch) (xs : List Seat) (as : List Word) (r : List (Nat × ZRow)) : State :=
  ((s.gangIn l xs r).addCtxs (s.newRanks l xs as)).setLaunch l.takeTask

theorem seatGang_saved_nil (s : State) (l : Launch) (xs : List Seat) (as : List Word) (h : s.saved = []) :
    ∃ r, s.seatGang l xs as 0 = some (s.withGang l xs as r) := by
  obtain ⟨r, hr⟩ := seatRows l xs s h
  refine ⟨r, ?_⟩
  unfold State.seatGang
  simp only
  rw [hr]
  rfl

end Sys2Proof.Machine

namespace Sys2Proof.Machine

/-! ### The dispatcher (R25, R290, R291) -/

theorem dispatch_fenced (s : State) (h : s.anyTree = false) : s.dispatch = s := by
  unfold State.dispatch
  rw [h]
  rfl

theorem dispatch_empty (s : State) (h : s.anyTree = true) (hh : ∀ l ∈ s.launches, l.inHeap = false) : s.dispatch = s.unheld := by
  have hheap : s.heap = [] := List.filter_eq_nil_iff.mpr (fun l hl => Bool.eq_false_iff.mp (hh l hl))
  have hord : s.ordered = [] := by
    unfold State.ordered
    rw [hheap]
    rfl
  unfold State.dispatch
  rw [h, hord]
  rfl

theorem dispatch_places (s v : State) (l : Launch) (h : s.anyTree = true) (ho : s.ordered = [l])
    (hp : s.placeGo l [] (List.range 24) = some v) : s.dispatch = v.unheld := by
  unfold State.dispatch
  rw [h, ho]
  simp only [hp]
  rfl

/-! A gang for the top entry. -/

theorem seat_alone (s u : State) (l : Launch) (rows : List (List Seat)) (hf : l.fuse = none) (hsaved : s.saved = [])
    (ha : pkGW l.packet ≤ (s.areas l).length) (hu : s.chargeOwn l (81920 * pkGW l.packet) = some u) :
    ∃ r, s.seat l rows = some (u.withGang l (rows.filterMap (fun r => r[0]?)) (s.areas l) r).fixRegions := by
  obtain ⟨r, hr⟩ := seatGang_saved_nil u l (rows.filterMap (fun r => r[0]?)) (s.areas l) ((frame_chargeOwn s u l _ hu).saved.trans hsaved)
  refine ⟨r, ?_⟩
  unfold State.seat
  simp only
  rw [if_neg (by omega), hu, Option.bind_some, show u.mateLaunch l = none by simp [State.mateLaunch, hf]]
  simp only [hr]
  rfl

theorem fixRegion_fz (s : State) (c : Ctx) : ∃ z, s.fixRegion c = { c with fz := z } := by
  unfold State.fixRegion
  split
  · exact ⟨_, rfl⟩
  · exact ⟨c.fz, rfl⟩

/-- A context after its port region is set again and every rank may be tried again. -/
theorem mem_unblock_fixRegions (s : State) (c : Ctx) (h : c ∈ s.ctxs) : ∃ z, { c with fz := z, blocked := none } ∈ s.fixRegions.unblock.ctxs := by
  obtain ⟨z, hz⟩ := fixRegion_fz s c
  refine ⟨z, ?_⟩
  have hctxs : s.fixRegions.unblock.ctxs = (s.ctxs.map s.fixRegion).map (fun c => { c with blocked := none }) := rfl
  rw [hctxs, List.map_map]
  exact List.mem_map.mpr ⟨c, h, by rw [Function.comp_apply, hz]⟩

theorem mem_newRanks (s : State) (l : Launch) (xs : List Seat) (as : List Word) (r : Nat) (x : Seat) (a : Word) (hr : r < pkGW l.packet)
    (hx : xs[r]? = some x) (ha : as[r]? = some a) :
    s.newRank l r x a ∈ s.newRanks l xs as :=
  List.mem_filterMap.mpr ⟨r, List.mem_range.mpr hr, by rw [hx, ha]⟩

theorem mem_withGang (s : State) (l : Launch) (xs : List Seat) (as : List Word) (rows : List (Nat × ZRow)) (c : Ctx) (h : c ∈ s.newRanks l xs as) :
    c ∈ (s.withGang l xs as rows).ctxs := mem_addCtxs (s.gangIn l xs rows) _ c h

theorem sreg_newCtx_argument (l : Launch) (g task rank core cid : Nat) (alloc : List Nat × Word × Word × Word) (area : Word) :
    ((newCtx l g task rank core cid alloc area).sreg 1).val = BitVec.ofNat 64 (numAt l.packet 0x18 8)
      ∧ ((newCtx l g task rank core cid alloc area).sreg 1).valid = true := by
  unfold newCtx Ctx.setS Ctx.sreg
  simp only [Nat.one_ne_zero, if_false, tabGet_tabSet_same, and_self]

theorem sreg_newCtx_invalid (l : Launch) (g task rank core cid : Nat) (alloc : List Nat × Word × Word × Word) (area : Word) (i : Nat) (hi : 2 ≤ i) :
    ((newCtx l g task rank core cid alloc area).sreg i).valid = false := by
  unfold newCtx Ctx.setS Ctx.sreg
  simp only [Nat.one_ne_zero, if_false]
  rw [if_neg (by omega), tabGet_tabSet_other _ _ _ _ _ (by omega)]
  rfl

/-- One place of each row. -/
theorem firsts_of_single (P : Seat → Prop) (rows : List (List Seat)) (h : ∀ r ∈ rows, ∃ y : Seat, r = [y] ∧ P y) :
    (rows.filterMap (fun r => r[0]?)).length = rows.length ∧ ∀ y ∈ rows.filterMap (fun r => r[0]?), P y := by
  induction rows with
  | nil => exact ⟨rfl, fun y hy => by cases hy⟩
  | cons r rows ih =>
    obtain ⟨y, rfl, hy⟩ := h r List.mem_cons_self
    obtain ⟨hlen, hall⟩ := ih (fun r hr => h r (List.mem_cons_of_mem _ hr))
    have hcons : ([y] :: rows).filterMap (fun r => r[0]?) = y :: rows.filterMap (fun r => r[0]?) := rfl
    rw [hcons]
    exact ⟨congrArg (· + 1) hlen, fun z hz => (List.mem_cons.mp hz).elim (fun e => e ▸ hy) (hall z)⟩

theorem addCtxs_leaves (s : State) (cs : List Ctx) : (s.addCtxs cs).gangs = s.gangs ∧ (s.addCtxs cs).nextGang = s.nextGang
    ∧ (s.addCtxs cs).launches = s.launches := by
  unfold State.addCtxs
  split <;> exact ⟨rfl, rfl, rfl⟩

theorem withGang_leaves (s : State) (l : Launch) (xs : List Seat) (as : List Word) (r : List (Nat × ZRow)) :
    (s.withGang l xs as r).gangs = s.gangs ++ [s.newGang l xs] ∧ (s.withGang l xs as r).nextGang = s.nextGang + 1
      ∧ (s.withGang l xs as r).launches = (s.setLaunch l.takeTask).launches := by
  obtain ⟨hg, hn, hl⟩ := addCtxs_leaves (s.gangIn l xs r) (s.newRanks l xs as)
  exact ⟨hg, hn, congrArg (List.map (fun x : Launch => if x.arr = l.takeTask.arr then l.takeTask else x)) hl⟩

section
variable {s : State} {l : Launch} (htree : s.anyTree = true) (hheap : s.launches.filter (fun x => x.inHeap) = [l]) (hlaunch : s.launch? l.arr = some l)
  (hfuse : l.fuse = none)
include htree hheap hlaunch hfuse

theorem exec_dispatch_places {cl : Nat} {u : State} (hcl : cl < 24) (hsaved : s.saved = [])
    (hno : ∀ k, k < cl → (s.seats l [] k).length ≠ pkGW l.packet) (hyes : (s.seats l [] cl).length = pkGW l.packet)
    (ha : pkGW l.packet ≤ (s.areas l).length) (hu : s.chargeOwn l (81920 * pkGW l.packet) = some u) :
    ∃ t g, exec .dispatch s = .next t ∧ t.gangs = s.gangs ++ [g] ∧ g.arr = l.arr ∧ g.task = l.nextTask ∧ g.id = s.nextGang ∧ t.nextGang = s.nextGang + 1
      ∧ g.cores.length = pkGW l.packet ∧ (∀ n ∈ g.cores, n / 16 = cl ∧ s.coreOpen l n = true) ∧ t.reserved = []
      ∧ t.launch? l.arr = some { l with placed := l.placed + 1, runq := popCont l.runq, inHeap := decide (l.placed + 1 < l.ntasks) }
      ∧ ∀ r, r < pkGW l.packet → ∃ c ∈ t.ctx :: t.parked, c.live = true ∧ c.gang = g.id ∧ c.rank = r ∧ c.nrank = pkGW l.packet ∧ c.task = l.nextTask
        ∧ g.cores[r]? = some c.core ∧ c.pc = l.code.text + BitVec.ofNat 64 l.code.entry ∧ c.mode = 0x1000 ∧ c.step = 0 ∧ c.stat = .run
        ∧ c.tvec = l.code.trap ∧ c.inh = false ∧ (c.sreg 1).val = BitVec.ofNat 64 (numAt l.packet 0x18 8) ∧ (c.sreg 1).valid = true
        ∧ ∀ i, 2 ≤ i → i < 32 → (c.sreg i).valid = false := by
  have hfr := frame_chargeOwn s u l _ hu
  have hnext : u.nextGang = s.nextGang := (congrArg State.nextGang hfr.rest :)
  obtain ⟨rows, hseat⟩ := seat_alone s u l (s.seats l [] cl) hfuse hsaved ha hu
  obtain ⟨hlen, hcores⟩ := firsts_of_single _ _ (seats_alone s l cl hfuse)
  have hplace := placeGo_first s _ l cl hcl hno hyes hseat
  generalize (s.seats l [] cl).filterMap (fun r => r[0]?) = xs at hlen hcores hplace
  generalize hw : u.withGang l xs (s.areas l) rows = w at hplace
  obtain ⟨hgangs, hng, hls⟩ := withGang_leaves u l xs (s.areas l) rows
  rw [hw] at hgangs hng hls
  have hin : l.inHeap = true := (List.mem_filter.mp (hheap ▸ List.mem_singleton_self l)).2
  have htake : l.takeTask = { l with placed := l.placed + 1, runq := popCont l.runq, inHeap := decide (l.placed + 1 < l.ntasks) } := by
    unfold Launch.takeTask
    rw [hin, Bool.and_true]
  refine ⟨w.fixRegions.unheld.unblock, u.newGang l xs, congrArg (fun v : State => Host.Outcome.next v.unblock)
    (dispatch_places s _ l htree (ordered_single s l hheap hfuse) hplace), ?_, rfl, rfl, hnext, ?_, ?_, ?_, rfl, ?_, ?_⟩
  · exact hgangs.trans (congrArg (· ++ _) hfr.gangs)
  · exact hng.trans (congrArg (· + 1) hnext)
  · exact (List.length_map _).trans (hlen.trans hyes)
  · intro n hn
    obtain ⟨y, hy, rfl⟩ := List.mem_map.mp hn
    exact hcores y hy
  · refine (launch?_of_launches (t := w.fixRegions.unheld.unblock) hls l.arr).trans ((launch?_setLaunch_same u l.takeTask ?_).trans (congrArg some htake))
    rw [launch?_of_launches hfr.launches]
    exact (congrArg Option.isSome hlaunch :)
  · intro r hr
    have hx : xs[r]? = some (xs[r]'(by omega)) := List.getElem?_eq_getElem _
    have hmem := mem_newRanks u l xs (s.areas l) r _ _ hr hx (List.getElem?_eq_getElem (by omega))
    obtain ⟨z, hz⟩ := mem_unblock_fixRegions w _ (hw ▸ mem_withGang u l xs (s.areas l) rows _ hmem)
    refine ⟨_, hz, rfl, rfl, rfl, rfl, rfl, ?_, rfl, rfl, rfl, rfl, rfl, rfl, (sreg_newCtx_argument l _ _ _ _ _ _ _).1,
      (sreg_newCtx_argument l _ _ _ _ _ _ _).2, fun i hi _ => sreg_newCtx_invalid l _ _ _ _ _ _ _ i hi⟩
    exact (List.getElem?_map ..).trans (congrArg (Option.map Seat.core) hx)

end

end Sys2Proof.Machine

namespace Sys2Proof.Machine

/-! ### Cores held for the top entry (R291) -/

/-- The better of two clusters, by the places that they offer. -/
def State.betterOf (s : State) (l : Launch) (best : Nat × Nat) (cl : Nat) : Nat × Nat :=
  if best.2 < (s.seats l [] cl).length then (cl, (s.seats l [] cl).length) else best

theorem betterOf_best (s : State) (l : Launch) (cls : List Nat) (b : Nat × Nat) (hb : b.2 = (s.seats l [] b.1).length) :
    let r := cls.foldl (s.betterOf l) b
    r.2 = (s.seats l [] r.1).length ∧ (r.1 = b.1 ∨ r.1 ∈ cls) ∧ b.2 ≤ r.2 ∧ ∀ k ∈ cls, (s.seats l [] k).length ≤ r.2 := by
  induction cls generalizing b with
  | nil => exact ⟨hb, .inl rfl, Nat.le_refl _, fun k hk => by cases hk⟩
  | cons cl cls ih =>
    have hstep : (s.betterOf l b cl).2 = (s.seats l [] (s.betterOf l b cl).1).length ∧ ((s.betterOf l b cl).1 = b.1 ∨ (s.betterOf l b cl).1 = cl)
        ∧ b.2 ≤ (s.betterOf l b cl).2 ∧ (s.seats l [] cl).length ≤ (s.betterOf l b cl).2 := by
      unfold State.betterOf
      split
      · exact ⟨rfl, .inr rfl, by omega, Nat.le_refl _⟩
      · exact ⟨hb, .inl rfl, Nat.le_refl _, by omega⟩
    obtain ⟨hlen, hwhich, hge, hcl⟩ := hstep
    obtain ⟨h1, h2, h3, h4⟩ := ih _ hlen
    refine ⟨h1, ?_, hge.trans h3, fun k hk => (List.mem_cons.mp hk).elim (fun e => e ▸ hcl.trans h3) (h4 k)⟩
    rcases h2 with h2 | h2
    · exact hwhich.imp h2.trans (fun h => List.mem_cons.mpr (.inl (h2.trans h)))
    · exact .inr (List.mem_cons_of_mem _ h2)

theorem nearest_best (s : State) (l : Launch) : (s.nearest l).1 < 24 ∧ ∀ k, k < 24 → (s.seats l [] k).length ≤ (s.seats l [] (s.nearest l).1).length := by
  obtain ⟨hlen, hin, -, hall⟩ := betterOf_best s l (List.range 24) (0, (s.seats l [] 0).length) rfl
  refine ⟨?_, fun k hk => hlen ▸ hall k (List.mem_range.mpr hk)⟩
  exact hin.elim (fun h => h.trans_lt (by omega)) List.mem_range.mp

/-- With no gang there is none to pre-empt. -/
theorem victimFor_none (s : State) (l : Launch) (near : Nat) (h : s.gangs = []) : s.victimFor l near = none := by
  have hv (cl : Nat) : s.victims l.prio cl = [] := by
    unfold State.victims
    rw [h]
    rfl
  unfold State.victimFor
  simp only
  split
  · rw [hv]
    rfl
  · rfl

theorem exec_dispatch_holds {s : State} {l : Launch} (htree : s.anyTree = true) (hheap : s.launches.filter (fun x => x.inHeap) = [l])
    (hfuse : l.fuse = none) (hno : ∀ k, k < 24 → (s.seats l [] k).length ≠ pkGW l.packet) (hgangs : s.gangs = []) (hfor : s.resvFor ≠ l.arr) :
    ∃ t cl, exec .dispatch s = .next t ∧ t.gangs = [] ∧ cl < 24 ∧ t.reserved = (List.range 16).map (fun i => 16 * cl + i) ∧ t.resvFor = l.arr
      ∧ ∀ k, k < 24 → (s.seats l [] k).length ≤ (s.seats l [] cl).length := by
  obtain ⟨hcl, hbest⟩ := nearest_best s l
  have hhold : s.holdFor l = (s.nearest l).1 := if_neg (fun h => hfor h.1)
  have hvictim (near : Nat) : State.victimFor { s with reserved := (List.range 16).map (fun i => 16 * (s.nearest l).1 + i), resvFor := l.arr } l near = none :=
    victimFor_none _ l near hgangs
  have hdisp : s.dispatch = { s with reserved := (List.range 16).map (fun i => 16 * (s.nearest l).1 + i), resvFor := l.arr } := by
    unfold State.dispatch
    rw [htree, ordered_single s l hheap hfuse]
    simp only [placeGo_none s l (List.range 24) (fun k hk => hno k (List.mem_range.mp hk)), hhold]
    rw [hvictim]
    rfl
  refine ⟨s.dispatch.unblock, (s.nearest l).1, rfl, ?_, hcl, ?_, ?_, hbest⟩
  · rw [hdisp]; exact hgangs
  · rw [hdisp]; rfl
  · rw [hdisp]; rfl

end Sys2Proof.Machine

namespace Sys2Proof.Machine

/-! ### Gangs by their number -/

theorem id_of_gang? {s : State} {g : Nat} {x : Gang} (h : s.gang? g = some x) : x.id = g := by simpa using List.find?_some h

/-- A gang that is replaced is found in its new form. -/
theorem gang?_setGang_same (s : State) (m : Gang) (h : (s.gang? m.id).isSome = true) : (s.setGang m).gang? m.id = some m := by
  unfold State.gang? State.setGang at *
  simp only at *
  generalize s.gangs = gs at *
  induction gs with
  | nil => simp at h
  | cons x xs ih =>
    by_cases hx : x.id = m.id
    · simp [hx]
    · simp only [List.map_cons, if_neg hx, List.find?_cons, beq_eq_false_iff_ne.mpr hx] at h ⊢
      exact ih h

theorem gang?_of_gangs {s t : State} (h : t.gangs = s.gangs) (g : Nat) : t.gang? g = s.gang? g := by
  unfold State.gang?
  rw [h]

theorem party_alone (s : State) (x : Gang) (h : x.mate = 0) : s.party x = [x] := by
  unfold State.party
  rw [if_pos h]

/-- A rank of a gang is a live context of it, on its core or saved. -/
theorem mem_everyone {s : State} {g : Nat} {c : Ctx} (h : c ∈ s.everyone g) : c ∈ s.ctxs ++ s.saved ∧ c.live = true ∧ c.gang = g := by
  obtain ⟨r, -, hr⟩ := List.mem_filterMap.mp h
  have hp := List.find?_some hr
  simp only [Bool.and_eq_true, beq_iff_eq] at hp
  exact ⟨List.mem_of_find?_eq_some hr, hp.1.1, hp.1.2⟩

/-! ### The end of a gang (R294) -/

theorem parkOut_forall (s : State) (p : Ctx → Bool) : ∀ c ∈ (s.parkOut p).ctxs, c.live = true → p c = false := by
  have hrest : ∀ c ∈ s.parked.filter (fun c => !p c), p c = false := fun c hc => by simpa using (List.mem_filter.mp hc).2
  unfold State.parkOut State.ctxs
  simp only
  split
  · split
    · intro c hc hlive
      rw [List.mem_singleton.mp hc] at hlive
      cases hlive
    · next d ds hd =>
      exact fun c hc _ => hrest c (hd ▸ hc)
  · next hno =>
    intro c hc hlive
    rcases List.mem_cons.mp hc with rfl | hc
    · exact Bool.eq_false_iff.mpr (fun hp => hno (Bool.and_eq_true_iff.mpr ⟨hlive, hp⟩))
    · exact hrest c hc

/-- What a gang leaves behind is storage. -/
theorem dissolve_leaves (s : State) (x : Gang) : (∀ y ∈ (s.dissolve x).gangs, y.id ≠ x.id)
    ∧ (∀ y ∈ (s.dissolve x).ctxs ++ (s.dissolve x).saved, y.live = true → y.gang ≠ x.id) ∧ ∀ y ∈ (s.dissolve x).loads, y.gang ≠ x.id := by
  unfold State.dissolve
  simp only
  generalize (s.everyone x.id).foldl (fun u c => (u.clearTiles c.core c.stays).dropStore c) s = t
  generalize hu : ({ t.parkOut (fun c => c.gang == x.id) with
    saved := t.saved.filter (fun c => c.gang != x.id), gangs := t.gangs.filter (fun y => y.id != x.id)
    loads := t.loads.filter (fun y => y.gang != x.id) } : State) = u
  have hctxs : u.ctxs = (t.parkOut (fun c => c.gang == x.id)).ctxs := hu ▸ rfl
  have hfree (v : State) (hv : Frame [] u v) : (∀ y ∈ v.gangs, y.id ≠ x.id) ∧ (∀ y ∈ v.ctxs ++ v.saved, y.live = true → y.gang ≠ x.id)
      ∧ ∀ y ∈ v.loads, y.gang ≠ x.id := by
    refine ⟨fun y hy => ?_, fun y hy hlive => ?_, fun y hy => ?_⟩
    · rw [hv.gangs, ← hu] at hy
      exact bne_iff_ne.mp (List.mem_filter.mp hy).2
    · rw [show v.ctxs = u.ctxs by unfold State.ctxs; rw [hv.ctx, hv.parked], hv.saved] at hy
      rcases List.mem_append.mp hy with hy | hy
      · exact beq_eq_false_iff_ne.mp (parkOut_forall t (fun c => c.gang == x.id) y (hctxs ▸ hy) hlive)
      · rw [← hu] at hy
        exact bne_iff_ne.mp (List.mem_filter.mp hy).2
    · rw [show v.loads = u.loads from (congrArg State.loads hv.rest :), ← hu] at hy
      exact bne_iff_ne.mp (List.mem_filter.mp hy).2
  split
  · exact hfree _ (frame_freeOwn u _ _)
  · exact hfree _ (Frame.refl [] u)

/-! ### A gang on its next task -/

/-- A rank at the first bundle of its launch's next task, on the place that it has. -/
def State.restarted (s : State) (l : Launch) (g : Gang) (c : Ctx) : Ctx :=
  { newCtx l g.id l.nextTask c.rank c.core c.cid c.alloc c.area with fz := l.fz0, prio := s.ctxPrio l }

theorem clearedRows (f : Ctx → List Nat) (cs : List Ctx) (s : State) : ∃ r, cs.foldl (fun u c => u.clearTiles c.core (f c)) s = { s with rows := r } := by
  induction cs generalizing s with
  | nil => exact ⟨s.rows, rfl⟩
  | cons c cs ih => exact ih (s.clearTiles c.core (f c))

/-- The state in which a gang takes its places again, whose tiles left the rows `r`. -/
def State.regang (s : State) (l : Launch) (g : Gang) (r : List (Nat × ZRow)) : State :=
  (({ s with rows := r } : State).mapGang g.id (s.restarted l g)).setGang { g with task := l.nextTask, dec := [], shown := [], void := none }

theorem popGang_eq (s : State) (l : Launch) (g : Gang) (hl : s.launch? g.arr = some l) :
    ∃ r, s.popGang g = ({ s.regang l g r with trees := s.trees ++ newTrees l l.nextTask } : State).setLaunch l.takeTask := by
  obtain ⟨r, hr⟩ := clearedRows (fun c => c.owned ++ c.alloc.1) (s.members g.id) s
  refine ⟨r, ?_⟩
  unfold State.popGang
  rw [hl]
  simp only
  rw [hr]
  rfl

/-- A live context of the gang is one that has started again. -/
theorem mem_mapGang_live {s : State} {g : Nat} {f : Ctx → Ctx} {c : Ctx} (h : c ∈ (s.mapGang g f).ctxs) (hlive : c.live = true) (hg : c.gang = g) :
    ∃ d ∈ s.ctxs, c = f d := by
  obtain ⟨d, hd, rfl⟩ := List.mem_map.mp (show c ∈ s.ctxs.map (fun c => if c.live && c.gang == g then f c else c) from h)
  refine ⟨d, hd, if_pos ?_⟩
  by_contra hno
  rw [if_neg hno] at hlive hg
  exact hno (Bool.and_eq_true_iff.mpr ⟨hlive, beq_iff_eq.mpr hg⟩)

theorem mem_of_unblock_fixRegions {s : State} {c : Ctx} (h : c ∈ s.fixRegions.unblock.ctxs) :
    ∃ d ∈ s.ctxs, ∃ z, c = { d with fz := z, blocked := none } := by
  have hctxs : s.fixRegions.unblock.ctxs = (s.ctxs.map s.fixRegion).map (fun c => { c with blocked := none }) := rfl
  rw [hctxs, List.map_map] at h
  obtain ⟨d, hd, rfl⟩ := List.mem_map.mp h
  obtain ⟨z, hz⟩ := fixRegion_fz s d
  exact ⟨d, hd, z, by rw [Function.comp_apply, hz]⟩

section
variable {s : State} {g : Nat} {x : Gang} {l : Launch} (hx : s.gang? g = some x) (hmate : x.mate = 0) (hl : s.launch? x.arr = some l)
  (hended : ∀ y ∈ s.ctxs ++ s.saved, y.live = true → y.gang = g → y.stat = .ended)
include hx hmate hended

theorem exec_gangPop_ended : exec (.gangPop g) s = .next (s.popTask x).unblock := by
  have hall : (s.party x).all (fun y => (s.everyone y.id).all (fun c => c.stat == .ended)) = true := by
    rw [party_alone s x hmate, List.all_cons, List.all_nil, Bool.and_true, List.all_eq_true]
    intro c hc
    obtain ⟨hin, hlive, hgang⟩ := mem_everyone hc
    rw [beq_iff_eq]
    exact hended c hin hlive (hgang.trans (id_of_gang? hx))
  show Host.Outcome.next _ = _
  rw [hx]
  simp only
  rw [if_pos hall]

include hl

theorem exec_gangPop_leaves (h0 : l.unplaced = 0) : ∃ t, exec (.gangPop g) s = .next t ∧ (∀ y ∈ t.gangs, y.id ≠ g)
    ∧ (∀ y ∈ (t.ctx :: t.parked) ++ t.saved, y.live = true → y.gang ≠ g) ∧ ∀ y ∈ t.loads, y.gang ≠ g := by
  have hpop : s.popTask x = s.dissolve x := by
    unfold State.popTask
    simp only
    rw [party_alone s x hmate, if_neg]
    · rfl
    · simp [State.popsOn, hl, h0]
  obtain ⟨hgangs, hctxs, hloads⟩ := dissolve_leaves s x
  rw [id_of_gang? hx] at hgangs hctxs hloads
  refine ⟨_, exec_gangPop_ended hx hmate hended, ?_⟩
  rw [hpop]
  refine ⟨hgangs, fun y hy hlive => ?_, hloads⟩
  rcases List.mem_append.mp hy with hy | hy
  · obtain ⟨c, hc, rfl⟩ := List.mem_map.mp (show y ∈ (s.dissolve x).ctxs.map (fun c => { c with blocked := none }) from hy)
    exact hctxs c (List.mem_append_left _ hc) hlive
  · exact hctxs y (List.mem_append_right _ hy) hlive

/-! ### Its next task (R294) -/

theorem exec_gangPop_next (h0 : l.unplaced ≠ 0) (hstop : l.stopped = false) (hsaved : x.saved = false)
    (hcores : ∀ n ∈ x.cores, s.draining n = false ∧ n ∉ l.banned) (hfree : ∀ c ∈ s.members g, s.allocFree c = true) :
    ∃ t h, exec (.gangPop g) s = .next t ∧ t.gang? g = some h ∧ h.task = l.nextTask ∧ t.launch? x.arr = some l.takeTask
      ∧ ∀ c ∈ t.ctx :: t.parked, c.live = true → c.gang = g → c.task = l.nextTask ∧ c.stat = .run ∧ c.step = 0 ∧ c.mode = 0x1000
        ∧ c.pc = l.code.text + BitVec.ofNat 64 l.code.entry := by
  have hid := id_of_gang? hx
  have hon : s.popsOn x = true := by
    have hany : x.cores.any (fun n => s.draining n || l.banned.contains n) = false := List.any_eq_false.mpr (fun n hn => by simpa using hcores n hn)
    have hall : (s.members x.id).all s.allocFree = true := List.all_eq_true.mpr (hid ▸ hfree)
    unfold State.popsOn
    rw [hl]
    simp only
    rw [hstop, hsaved, hany, hall, beq_eq_false_iff_ne.mpr h0]
    rfl
  have hpop : s.popTask x = (s.popGang x).fixRegions := by
    unfold State.popTask
    simp only
    rw [party_alone s x hmate, if_pos (by simp [hon])]
    rfl
  obtain ⟨r, hr⟩ := popGang_eq s l x hl
  have hgang : (s.regang l x r).gang? g = some { x with task := l.nextTask, dec := [], shown := [], void := none } := by
    have hset := gang?_setGang_same (({ s with rows := r } : State).mapGang x.id (s.restarted l x))
      { x with task := l.nextTask, dec := [], shown := [], void := none } (show (s.gang? x.id).isSome = true from hid.symm ▸ hx ▸ rfl)
    exact hid ▸ hset
  refine ⟨_, { x with task := l.nextTask, dec := [], shown := [], void := none }, exec_gangPop_ended hx hmate hended, ?_⟩
  rw [hpop, hr]
  refine ⟨hgang, rfl, ?_, fun c hc hlive hg => ?_⟩
  · have harr := arr_of_launch? hl
    exact harr ▸ launch?_setLaunch_same s l.takeTask (show (s.launch? l.arr).isSome = true from harr.symm ▸ hl ▸ rfl)
  · obtain ⟨d, hd, z, rfl⟩ := mem_of_unblock_fixRegions hc
    obtain ⟨e, -, rfl⟩ := mem_mapGang_live (s := { s with rows := r }) (g := x.id) (f := s.restarted l x) hd hlive (hg.trans hid.symm)
    exact ⟨rfl, rfl, rfl, rfl, rfl⟩

end

end Sys2Proof.Machine

namespace Sys2Proof.Machine

/-! ### A saved rank and its core (R308) -/

section
variable {s : State} {c : Ctx} (hidle : s.ctx.live = false) (hparked : s.parked = [])
include hidle hparked

theorem liveOn_idle (n : Nat) : s.liveOn n = [] := by
  unfold State.liveOn State.live State.ctxs
  rw [hparked]
  simp [hidle]

theorem cidOn_idle (n : Nat) : s.cidOn n = some 0 := by
  unfold State.cidOn
  rw [liveOn_idle hidle hparked]
  rfl

theorem everyone_alone (hsaved : s.saved = [c]) (hlive : c.live = true) (hrank : c.rank = 0) : s.everyone c.gang = [c] := by
  have hfind (r : Nat) : (s.ctxs ++ s.saved).find? (fun y => y.live && y.gang == c.gang && y.rank == r) = if r = 0 then some c else none := by
    unfold State.ctxs
    rw [hparked, hsaved]
    by_cases hr : r = 0
    · simp [hidle, hlive, hrank, hr]
    · simp [hidle, hrank, hr, Ne.symm hr]
  unfold State.everyone
  simp only [hfind]
  rfl

theorem demandOf_idle (n : Nat) : s.demandOf n = 0 := by
  unfold State.demandOf
  rw [liveOn_idle hidle hparked]
  rfl

/-- A zone takes a launch where its cores are idle and its set point meets the demand. -/
theorem coolSet_idle (l : Launch) (n : Nat) (h : l.demand ≤ zSet (s.zone (zoneOfCore n))) : s.coolSet l.demand [n] = [n] := by
  have hadd (d m : Nat) : s.addsTo d m = d := by simp [State.addsTo, demandOf_idle hidle hparked]
  have horder : (List.range 33).flatMap (fun e => [n].filter (fun m => s.addsTo l.demand m == e)) = [n] := by
    simp only [hadd]
    unfold Launch.demand
    have hk : numAt l.packet 3 1 / 2 % 4 < 4 := Nat.mod_lt _ (by decide)
    generalize numAt l.packet 3 1 / 2 % 4 = k at hk ⊢
    interval_cases k <;> rfl
  unfold State.coolSet
  simp only [List.map_cons, List.map_nil, demandOf_idle hidle hparked]
  rw [show [zoneOfCore n].eraseDups = [zoneOfCore n] from rfl]
  simp only [List.flatMap_cons, List.flatMap_nil, List.append_nil]
  rw [show [n].filter (fun m => zoneOfCore m == zoneOfCore n) = [n] by simp, horder]
  have hgo : s.coolGo l.demand (zSet (s.zone (zoneOfCore n))) 0 [n] = [n] := by
    rw [State.coolGo, if_pos (by rw [hadd]; omega), State.coolGo]
  rw [show ((List.range 4).map (fun _ => 0)).foldl Nat.add 0 = 0 from rfl, hgo]
  simp

/-- On its own core, idle, a saved rank finds its tiles and its windows. -/
theorem backOn_idle (k : Nat) : ∃ x, s.backOn c c.core k = some x ∧ x.core = c.core := by
  have hroom (kept : List Nat) (free : List Nat) (hfree : free = (List.range 16).filter (fun t => !c.stays.contains t)) :
      (c.owned.filter (fun t => !c.stays.contains t)).length
        ≤ (free.filter (fun t => !kept.contains t) ++ free.filter (fun t => kept.contains t)).length := by
    have hlen := List.length_eq_length_filter_add (l := free) (fun t => kept.contains t)
    rw [List.length_append, Nat.add_comm, ← hlen, hfree]
    exact ((List.filter_sublist (l := List.range 16) (p := fun i => c.zown.getLsbD i)).filter _).length_le
  unfold State.backOn
  simp only [liveOn_idle hidle hparked, if_true, true_and, List.flatMap_nil, List.map_nil, List.all_nil, List.contains_nil, Bool.not_false, Bool.true_and,
    ite_self]
  simp only [Option.bind_eq_bind, Option.bind_some]
  rw [if_pos (hroom _ _ rfl)]
  exact ⟨_, rfl, rfl⟩

end

/-! ### It comes back (R308, R374) -/

/-- What storage, marks and locks do not hold: the contexts, saved or not, and the gangs. -/
def State.stands (s : State) : Ctx × List Ctx × List Ctx × List Gang := (s.ctx, s.parked, s.saved, s.gangs)

theorem stands_of_frame {L : List Nat} {s t : State} (h : Frame L s t) : t.stands = s.stands := by
  unfold State.stands
  rw [h.ctx, h.parked, h.saved, h.gangs]

theorem stands_setBuf (s : State) (b : Nat) (m : Memory) : (s.setBuf b m).stands = s.stands := by
  unfold State.setBuf
  split
  · rfl
  · split <;> rfl

theorem stands_moveBuf (s : State) (b src dst n : Nat) : (s.moveBuf b src dst n).stands = s.stands := stands_setBuf s b _

theorem stands_dropStore (s : State) (c : Ctx) : (s.dropStore c).stands = s.stands := by
  unfold State.dropStore
  refine foldl_keeps State.stands _ (fun u b => ?_) c.keptW s
  exact stands_setBuf u b _

theorem stands_fillWins (s : State) (c : Ctx) (x : Seat) : (s.fillWins c x).stands = s.stands := by
  unfold State.fillWins
  rw [stands_dropStore]
  refine foldl_keeps State.stands _ (fun u b => ?_) c.keptW s
  exact stands_moveBuf u b _ _ _

theorem stands_fillTiles (s : State) (c : Ctx) (x : Seat) : (s.fillTiles c x).stands = s.stands := by
  unfold State.fillTiles
  refine foldl_keeps State.stands _ (fun u k => ?_) c.keptZ s
  refine foldl_keeps State.stands _ (fun v i => ?_) _ u
  rfl

/-- Two bytes of a save image. -/
def State.imageFix (s : State) (x : ImagePos) (o : Nat) (f : Nat → Nat) : State :=
  match s.areaAddr x.home (40960 + o) with
  | none => s
  | some pa => s.devWrite x.home.arr pa (leBytes 2 (f (leNat ((List.range 2).map (fun i => s.devByte x.home.arr (pa + i))))))

theorem stands_imageFix (s : State) (x : ImagePos) (o : Nat) (f : Nat → Nat) : (s.imageFix x o f).stands = s.stands := by
  unfold State.imageFix
  split
  · rfl
  · exact stands_of_frame (s := s.bare) (t := (s.devWrite _ _ _).bare) (frame_devWrite s _ _ _)

theorem stands_imageRows (s : State) (c : Ctx) (r : Nat → Nat) : (s.imageRows c r).stands = s.stands := by
  have himage : s.imageRows c r = (List.range c.imgQ.length).foldl (fun t i => t.imageFix (s.imagePos c) (0x800 + 16 * ((s.imagePos c).skip + i))
        (fun v => if v / 4096 = 3 then 3 * 4096 + r (v % 4096) else v))
      ((s.dumpVa (s.imagePos c).home.ptroot ((s.imagePos c).home.area + 40960).toNat 4096).imageFix (s.imagePos c)
        (if (s.imagePos c).second then 0x2BA else 0x1B2) (fun v => v / 2048 * 2048 + r (v % 2048))) := rfl
  rw [himage, foldl_keeps State.stands _ (fun u _ => stands_imageFix u _ _ _), stands_imageFix]
  exact stands_of_frame (frame_dumpVa s _ _ _)

theorem comeBack_idle (s : State) (c : Ctx) (x : Seat) (hidle : s.ctx.live = false) (hsaved : s.saved = [c]) :
    ∃ t, s.comeBack c x = some t ∧ t.stands = (c.moved x, s.parked, [], s.gangs) := by
  have hnone : s.saved.filter (fun d => !(d.gang == c.gang && d.rank == c.rank)) = [] := by rw [hsaved]; simp
  have hway (ts : List Nat) (ws : List (Nat × Nat × Nat)) (n : Nat) : State.makeWay { s with saved := [] } n ts ws = some { s with saved := [] } := rfl
  unfold State.comeBack
  simp only
  rw [hnone, hway, Option.map_some]
  refine ⟨_, rfl, ?_⟩
  generalize hu : (State.fillWins (State.fillTiles (if c.stat = .debug then State.imageRows { s with saved := [] } c (renRow c.owned x.tiles)
    else { s with saved := [] }) c x) c x) = u
  have hstands : u.stands = (s.ctx, s.parked, [], s.gangs) := by
    rw [← hu, stands_fillWins, stands_fillTiles]
    split
    · exact stands_imageRows _ c _
    · rfl
  unfold State.stands at hstands
  simp only [Prod.mk.injEq] at hstands
  obtain ⟨hctx, hparked, hsv, hgangs⟩ := hstands
  have hlive : u.ctx.live = false := hctx ▸ hidle
  simp only [hlive]
  have hlast (v : State) (hv : v.stands = (c.moved x, s.parked, [], s.gangs)) : (match v.launch? c.arr with
      | some l => v.freeOwn l c.stored
      | none => v).stands = (c.moved x, s.parked, [], s.gangs) := by
    split
    · exact (stands_of_frame (frame_freeOwn v _ _)).trans hv
    · exact hv
  refine hlast _ ?_
  unfold State.stands
  simp only [Bool.false_eq_true, if_false, hparked, hsv, hgangs]

theorem stands_lockAgain (ks : List ILock) (s : State) (cl : Nat) : (s.lockAgain cl ks).stands = s.stands := by
  induction ks generalizing s with
  | nil => rfl
  | cons k ks ih =>
    unfold State.lockAgain
    simp only
    refine (ih _).trans ?_
    split <;> rfl

section
variable {s : State} {g : Nat} {x : Gang} {c : Ctx} {l : Launch} (hx : s.gang? g = some x) (hmate : x.mate = 0)

include hx hmate in
theorem exec_gangResume_placed (h : x.saved = false) : exec (.gangResume g) s = .next s.unblock := by
  have hno : s.resumeGang x = none := by
    unfold State.resumeGang
    simp only
    rw [party_alone s x hmate]
    simp [h]
  show Host.Outcome.next _ = _
  rw [hx]
  simp only
  rw [hno]
  rfl

variable (hidle : s.ctx.live = false) (hparked : s.parked = []) (hsaved : s.saved = [c]) (hlive : c.live = true) (hgang : c.gang = g)
include hx hmate hidle hparked hsaved hgang

/-- The saved rank comes back on its core. -/
theorem bringBack_idle : ∃ t y, s.bringBack [(c, c.core)] = some t ∧ y.core = c.core ∧ t.stands = (c.moved y, [], [], s.gangs) := by
  obtain ⟨y, hy, hcore⟩ := backOn_idle (c := c) hidle hparked 0
  obtain ⟨t, ht, hstands⟩ := comeBack_idle s c y hidle hsaved
  refine ⟨t, y, ?_, hcore, hparked ▸ hstands⟩
  unfold State.bringBack
  simp only [hgang, hx, hmate, true_or, if_true, cidOn_idle hidle hparked, Option.bind_some, hy, ht, State.bringBack]

variable (hrank : c.rank = 0) (hl : s.launch? x.arr = some l) (hheap : s.heap = []) (hopen : s.coreOpen l c.core = true)
  (hdemand : l.demand ≤ zSet (s.zone (zoneOfCore c.core)))
include hlive hrank hl hheap hopen hdemand

omit hl in
theorem backCores_idle (hdrained : x.drained = false) : s.backCores l x s.resv = some [c.core] := by
  have hresv : s.resv = [] := by
    unfold State.resv State.ordered
    rw [hheap]
    rfl
  have hevery : s.everyone x.id = [c] := id_of_gang? hx ▸ hgang ▸ everyone_alone hidle hparked hsaved hlive hrank
  obtain ⟨t, y, hback, -, -⟩ := bringBack_idle hx hmate hidle hparked hsaved hgang
  unfold State.backCores
  simp only [hevery, hdrained, hresv, party_alone s x hmate]
  have hpick (fits : Nat → Nat → Option Nat) (hfits : fits 0 c.core = some c.core) : s.pick l [c].length fits [c.core] = [c.core] := by
    unfold State.pick
    simp only [List.length_singleton]
    rw [show [c.core].filter (fun n => s.coreOpen l n && (List.range 1).any (fun i => (fits i n).isSome)) = [c.core] by
        simp [hopen, hfits], coolSet_idle hidle hparked l c.core hdemand]
    simp [takeSeats, hfits]
  rw [if_neg Bool.false_ne_true]
  simp only [List.map_cons, List.map_nil]
  rw [show [c.core].filter (fun n => !([] : List Nat).contains n) = [c.core] from rfl, if_pos (hpick _ ?_)]
  simp [hevery, hback]

theorem exec_gangResume (hxs : x.saved = true) (hdrained : x.drained = false) (hstat : c.stat ≠ .ended) :
    ∃ t h, exec (.gangResume g) s = .next t ∧ t.saved = [] ∧ t.ctx.live = true ∧ t.ctx.gang = g ∧ t.ctx.rank = 0 ∧ t.ctx.core = c.core
      ∧ t.ctx.pc = c.pc ∧ t.ctx.step = c.step ∧ t.ctx.s = c.s ∧ t.ctx.p = c.p ∧ t.ctx.stat = c.stat ∧ t.gang? g = some h ∧ h.saved = false
      ∧ h.cores = [c.core] := by
  have hid := id_of_gang? hx
  have hevery : s.everyone x.id = [c] := hid ▸ hgang ▸ everyone_alone hidle hparked hsaved hlive hrank
  obtain ⟨t, y, hback, hcore, hstands⟩ := bringBack_idle hx hmate hidle hparked hsaved hgang
  have hcores := backCores_idle hx hmate hidle hparked hsaved hlive hgang hrank hheap hopen hdemand hdrained
  have hresume : s.resumeGang x = some (t.backGang [c.core] x).fixRegions := by
    unfold State.resumeGang
    simp only
    rw [party_alone s x hmate]
    simp only [List.headD_cons, List.any_cons, List.any_nil, hevery, hxs, hl, hcores, bne_iff_ne.mpr hstat, State.backOf, party_alone s x hmate,
      List.flatMap_cons, List.flatMap_nil, List.zip_cons_cons, List.zip_nil_right, List.append_nil, hback]
    rfl
  unfold State.stands at hstands
  simp only [Prod.mk.injEq] at hstands
  obtain ⟨hctx, hpk, hsv, hgangs⟩ := hstands
  have htx : t.gang? x.id = some x := hid.symm ▸ (gang?_of_gangs hgangs g).trans hx
  have hbackg : t.backGang [c.core] x = (t.lockAgain (c.core / 16) x.relock).setGang { x with saved := false, drained := false, cores := [c.core], relock := [] } := by
    unfold State.backGang
    rw [htx]
    rfl
  have hlock := stands_lockAgain x.relock t (c.core / 16)
  generalize t.lockAgain (c.core / 16) x.relock = u at hlock hbackg
  unfold State.stands at hlock
  simp only [Prod.mk.injEq] at hlock
  obtain ⟨huctx, -, husaved, hugangs⟩ := hlock
  obtain ⟨z, hz⟩ := fixRegion_fz (t.backGang [c.core] x) (t.backGang [c.core] x).ctx
  have hnow : (t.backGang [c.core] x).fixRegions.unblock.ctx = { c.moved y with fz := z, blocked := none } := by
    show { (t.backGang [c.core] x).fixRegion (t.backGang [c.core] x).ctx with blocked := none } = _
    rw [hz, hbackg, show (u.setGang { x with saved := false, drained := false, cores := [c.core], relock := [] }).ctx = c.moved y from huctx.trans hctx]
  refine ⟨(t.backGang [c.core] x).fixRegions.unblock, { x with saved := false, drained := false, cores := [c.core], relock := [] }, ?_, ?_, ?_⟩
  · show Host.Outcome.next _ = _
    rw [hx]
    simp only
    rw [hresume]
    rfl
  · show (t.backGang [c.core] x).saved.map _ = []
    rw [hbackg]
    exact List.map_eq_nil_iff.mpr (husaved.trans hsv)
  · rw [hnow]
    refine ⟨hlive, hgang, hrank, hcore, rfl, rfl, rfl, rfl, rfl, ?_, rfl, rfl⟩
    have hset := gang?_setGang_same u { x with saved := false, drained := false, cores := [c.core], relock := [] }
      (show (u.gang? x.id).isSome = true from (gang?_of_gangs hugangs x.id).symm ▸ htx ▸ rfl)
    show (t.backGang [c.core] x).gang? g = _
    rw [hbackg]
    exact hid ▸ hset

end

end Sys2Proof.Machine

namespace Sys2Proof.Machine

/-! ### What a stop at a rank's boundary keeps (R49, R308) -/

/-- What pre-emption keeps of a context: whose it is, where it stands in its task, and whether it runs. -/
def Ctx.face (c : Ctx) : Bool × Nat × Nat × Nat × Word × CStat := (c.live, c.gang, c.rank, c.arr, c.pc, c.stat)

/-- `t` has the contexts of `s`, in any order, with its saved contexts, locks, gangs and the budgets of its launches. -/
structure Alike (s t : State) : Prop where
  faces : ∀ f, f.1 = true → (f ∈ t.ctxs.map Ctx.face ↔ f ∈ s.ctxs.map Ctx.face)
  saved : t.saved.map Ctx.face = s.saved.map Ctx.face
  locks : t.locks = s.locks
  ids : t.gangs.map Gang.id = s.gangs.map Gang.id
  owns : ∀ a, (t.launch? a).map Launch.own = (s.launch? a).map Launch.own

namespace Alike
variable {s t u : State}

theorem refl (s : State) : Alike s s := ⟨fun _ _ => Iff.rfl, rfl, rfl, rfl, fun _ => rfl⟩

theorem trans (h : Alike s t) (k : Alike t u) : Alike s u :=
  ⟨fun f hf => (k.faces f hf).trans (h.faces f hf), k.saved.trans h.saved, k.locks.trans h.locks, k.ids.trans h.ids,
    fun a => (k.owns a).trans (h.owns a)⟩

/-- Contexts whose faces are the same, with all else. -/
theorem of_faces (hf : t.ctxs.map Ctx.face = s.ctxs.map Ctx.face) (hs : t.saved.map Ctx.face = s.saved.map Ctx.face) (hl : t.locks = s.locks)
    (hg : t.gangs.map Gang.id = s.gangs.map Gang.id) (ho : t.launches = s.launches) : Alike s t :=
  ⟨fun f _ => by rw [hf], hs, hl, hg, fun a => by rw [launch?_of_launches ho]⟩

theorem of_bare {L : List Nat} (h : Frame L s.bare t.bare) : Alike s t :=
  of_faces (congrArg (fun v : State => v.ctxs.map Ctx.face) h.rest :) (congrArg (fun v : State => v.saved.map Ctx.face) h.rest :)
    (congrArg State.locks h.rest :) (congrArg (fun v : State => v.gangs.map Gang.id) h.rest :) (h.launches :)

theorem foldl {α : Type} (f : State → α → State) (h : ∀ u x, Alike u (f u x)) (xs : List α) (s : State) : Alike s (xs.foldl f s) := by
  induction xs generalizing s with
  | nil => exact refl s
  | cons x xs ih => exact (h s x).trans (ih _)

end Alike

theorem map_face (h : Ctx → Ctx) (hf : ∀ c, (h c).face = c.face) (cs : List Ctx) : (cs.map h).map Ctx.face = cs.map Ctx.face := by
  rw [List.map_map]
  exact List.map_congr_left (fun c _ => hf c)

theorem alike_mapCtx (s : State) (f : Ctx → Ctx) (h : ∀ c, (f c).face = c.face) : Alike s (s.mapCtx f) :=
  Alike.of_faces (map_face f h s.ctxs) rfl rfl rfl rfl

theorem alike_updCtx (s : State) (core cid : Nat) (f : Ctx → Ctx) (h : ∀ c, (f c).face = c.face) : Alike s (s.updCtx core cid f) :=
  alike_mapCtx s _ (fun c => by split; exacts [h c, rfl])

theorem alike_mapGang (s : State) (g : Nat) (f : Ctx → Ctx) (h : ∀ c, (f c).face = c.face) : Alike s (s.mapGang g f) :=
  Alike.of_faces (map_face (fun c => if c.live && c.gang == g then f c else c) (fun c => by split; exacts [h c, rfl]) s.ctxs)
    (map_face _ (fun c => by split; exacts [h c, rfl]) s.saved) rfl rfl rfl

theorem face_fixRegion (s : State) (c : Ctx) : (s.fixRegion c).face = c.face := by
  obtain ⟨z, hz⟩ := fixRegion_fz s c
  rw [hz]
  rfl

theorem alike_fixRegions (s : State) : Alike s s.fixRegions :=
  Alike.of_faces (map_face s.fixRegion (face_fixRegion s) s.ctxs) (map_face s.fixRegion (face_fixRegion s) s.saved) rfl rfl rfl

theorem alike_setGang (s : State) (m : Gang) : Alike s (s.setGang m) := by
  refine Alike.of_faces rfl rfl rfl ?_ rfl
  show (s.gangs.map (fun x => if x.id = m.id then m else x)).map Gang.id = _
  rw [List.map_map]
  exact List.map_congr_left (fun x _ => by
    rw [Function.comp_apply]
    split
    · next h => exact h.symm
    · rfl)

theorem alike_gangStopped (s : State) (g : Nat) : Alike s (s.gangStopped g) := by
  unfold State.gangStopped
  split
  · exact alike_setGang s _
  · exact Alike.refl s

/-! The current context and what it leaves behind. -/

/-- A change of the current context that keeps its face, with what no context holds. -/
theorem alike_current {s t : State} (hc : t.ctx.face = s.ctx.face) (hp : t.parked = s.parked) (hs : t.saved = s.saved) (hl : t.locks = s.locks)
    (hg : t.gangs = s.gangs) (ho : t.launches = s.launches) : Alike s t :=
  Alike.of_faces (by unfold State.ctxs; rw [List.map_cons, List.map_cons, hc, hp]) (by rw [hs]) hl (by rw [hg]) ho

theorem alike_focus (s t : State) (core cid : Nat) (h : s.focus core cid = some t) : Alike s t := by
  unfold State.focus at h
  split at h
  · cases h; exact Alike.refl s
  · split at h
    · cases h
    · next c hc =>
      cases h
      have hmem := List.mem_of_find?_eq_some hc
      refine ⟨fun f hf => ?_, rfl, rfl, rfl, fun _ => rfl⟩
      have hperm := (List.perm_cons_erase hmem).map Ctx.face
      have hcur : f ∈ (if s.ctx.live then [s.ctx] else []).map Ctx.face ↔ f = s.ctx.face := by
        cases hlive : s.ctx.live with
        | true => exact List.mem_singleton
        | false =>
          constructor
          · intro hx
            cases hx
          · intro hx
            rw [hx] at hf
            exact absurd (hlive.symm.trans hf) (by decide)
      show f ∈ ((c :: s.parked.erase c) ++ if s.ctx.live then [s.ctx] else []).map Ctx.face ↔ f ∈ (s.ctx :: s.parked).map Ctx.face
      rw [List.map_append, List.mem_append, hcur, ← hperm.mem_iff, List.map_cons, List.mem_cons]
      exact or_comm

theorem face_setSpecial (c : Ctx) (n : Nat) (v : Word) : (c.setSpecial n v).face = c.face := by
  have hclip (p : Prop) [Decidable p] : (if p then c.setK (n - 0x020) ⟨v, true⟩ else c).face = c.face := by split <;> rfl
  unfold Ctx.setSpecial
  split
  rotate_right
  · exact hclip _
  all_goals rfl

theorem face_setS (c : Ctx) (n : Nat) (r : SReg) : (c.setS n r).face = c.face := by
  unfold Ctx.setS
  split <;> rfl

theorem face_setP (c : Ctx) (n : Nat) (r : PReg) : (c.setP n r).face = c.face := by
  unfold Ctx.setP
  split <;> rfl

theorem face_setM (c : Ctx) (n : Nat) (r : MReg) : (c.setM n r).face = c.face := by
  unfold Ctx.setM
  split <;> rfl

theorem face_raise (c : Ctx) (flags ftrap : Nat) (pc step vis : Word) (x : Bool) : (c.raise flags ftrap pc step vis x).face = c.face := by
  unfold Ctx.raise
  simp only
  split <;> rfl

theorem alike_writeDest (s : State) (p : Pend) : Alike s (s.writeDest p) := by
  unfold State.writeDest
  simp only
  split
  · split <;> exact alike_current (face_setS _ _ _) rfl rfl rfl rfl rfl
  · exact alike_current (face_setP _ _ _) rfl rfl rfl rfl rfl
  · exact alike_current (face_setM _ _ _) rfl rfl rfl rfl rfl
  · split <;> exact alike_current rfl rfl rfl rfl rfl rfl
  · exact alike_current (face_setSpecial _ _ _) rfl rfl rfl rfl rfl
  · exact alike_current rfl rfl rfl rfl rfl rfl
  · exact Alike.refl s

theorem alike_visible (s : State) (p : Pend) : Alike s (s.visible p) := by
  unfold State.visible
  split
  · exact alike_current rfl rfl rfl rfl rfl rfl
  · simp only
    split
    · exact alike_writeDest s p
    · exact (alike_writeDest s p).trans (alike_current (face_raise _ _ _ _ _ _ _) rfl rfl rfl rfl rfl)

theorem alike_settle (s : State) : Alike s s.settle := by
  unfold State.settle
  simp only
  split
  · have hfirst : Alike s { s with ctx := { s.ctx with dq := s.ctx.dq.filter (fun p => p.rem != 0) } } := alike_current rfl rfl rfl rfl rfl rfl
    have hall : Alike s ((dueOrder (s.ctx.dq.filter (fun p => p.rem == 0))).foldl State.visible
        { s with ctx := { s.ctx with dq := s.ctx.dq.filter (fun p => p.rem != 0) } }) :=
      hfirst.trans (Alike.foldl State.visible alike_visible _ _)
    unfold State.windowsMoved
    split
    · exact hall.trans (alike_fixRegions _)
    · exact hall
  · exact Alike.refl s

theorem alike_settleAt (s : State) (core cid : Nat) : Alike s (s.settleAt core cid) := by
  unfold State.settleAt
  cases hf : s.focus core cid with
  | none => exact Alike.refl s
  | some t => exact (alike_focus s t core cid hf).trans (alike_settle t)

/-! Operations of class X that complete. -/

theorem alike_setLaunch (s : State) (l m : Launch) (hl : s.launch? m.arr = some l) (ho : m.own = l.own) : Alike s (s.setLaunch m) := by
  refine ⟨fun _ _ => Iff.rfl, rfl, rfl, rfl, fun a => ?_⟩
  by_cases ha : a = m.arr
  · rw [ha, launch?_setLaunch_same s m (hl ▸ rfl), hl, Option.map_some, Option.map_some, ho]
  · rw [launch?_setLaunch_other s m a ha]

theorem alike_retire (s : State) (arr task rank idx : Nat) (rec128 : List Byte) : Alike s (s.retire arr task rank idx rec128) := by
  have hnote : Alike s (s.noteLeaf arr task rank idx rec128) := by
    unfold State.noteLeaf
    split
    · exact Alike.refl s
    · next l hl =>
      split
      · exact Alike.refl s
      · split
        · exact alike_setLaunch s l _ (show s.launch? l.arr = some l from (arr_of_launch? hl).symm ▸ hl) rfl
        · exact Alike.refl s
  exact hnote.trans (Alike.of_faces rfl rfl rfl rfl rfl)

theorem alike_setBuf (s : State) (b : Nat) (m : Memory) : Alike s (s.setBuf b m) := by
  unfold State.setBuf
  split
  · exact Alike.of_faces rfl rfl rfl rfl rfl
  · split <;> exact Alike.of_faces rfl rfl rfl rfl rfl

theorem alike_putBuf (s : State) (b k : Nat) (bs : List Byte) : Alike s (s.putBuf b k bs) := by
  have hset := alike_setBuf s b (memWrite (s.bufMem b) k bs)
  unfold State.putBuf
  simp only
  generalize s.setBuf b (memWrite (s.bufMem b) k bs) = t at hset ⊢
  exact ⟨hset.faces, hset.saved, hset.locks, hset.ids, hset.owns⟩

theorem alike_completeX (s : State) (x : XOp) : Alike s (s.completeX x) := by
  unfold State.completeX
  split
  · split
    · exact Alike.refl s
    · exact alike_retire s _ _ _ _ _
  · simp only
    have hrows : Alike s (s.xrows x) := by
      unfold State.xrows
      exact Alike.foldl _ (fun u w => by split <;> exact Alike.of_faces rfl rfl rfl rfl rfl) _ _
    have hbufs : Alike s (x.bufs.foldl (fun t b => t.putBuf b.1 b.2.1 b.2.2) (s.xrows x)) :=
      hrows.trans (Alike.foldl _ (fun (u : State) (b : Nat × Nat × List Byte) => alike_putBuf u b.1 b.2.1 b.2.2) _ _)
    have hctx := hbufs.trans (alike_updCtx _ x.core x.cid (fun c =>
      let d := (c.raise x.flags x.ftrap x.pc x.step 0 true).wrote (x.writes.map XWrite.row)
      let e : Ctx := match x.failTrap with
        | some t => { d with compl := d.compl ++ [t] }
        | none => d
      match x.m64, x.fail with
      | some m, some _ => { e with susp := some m }
      | _, _ => e) (fun c => by
        have hd := face_raise c x.flags x.ftrap x.pc x.step 0 true
        simp only
        split <;> split <;> exact hd))
    split
    · exact hctx
    · exact hctx.trans (alike_retire _ _ _ _ _ _)

theorem alike_xDone (s : State) (core : Nat) : Alike s (s.xDone core) := by
  unfold State.xDone
  split
  · exact Alike.refl s
  · next x _ =>
    have hout : Alike s { s with xq := s.xq.erase x } := Alike.of_faces rfl rfl rfl rfl rfl
    exact hout.trans (alike_completeX { s with xq := s.xq.erase x } x)

theorem alike_drainX (n : Nat) (s : State) (g core : Nat) : Alike s (s.drainX g core n) := by
  induction n generalizing s with
  | zero => exact Alike.refl s
  | succ n ih =>
    unfold State.drainX
    split
    · exact (alike_xDone s core).trans (ih _)
    · exact Alike.refl s

/-- A context whose results have arrived. -/
def Ctx.arrive (c : Ctx) : Ctx := { c with dq := c.dq.map (fun p => { p with arrived := true }), blocked := none }

/-- What brings a gang to its boundary keeps its contexts. -/
theorem alike_quiet (s : State) (g : Nat) : Alike s (s.quiet g) := by
  have hdrain (cs : List Ctx) : Alike s (cs.foldl (fun t c => t.drainX g c.core (t.xq.length + 1)) s) :=
    Alike.foldl _ (fun (u : State) (c : Ctx) => alike_drainX (u.xq.length + 1) u g c.core) cs s
  have hsettle (cs : List Ctx) (t : State) : Alike t (cs.foldl (fun u c => u.settleAt c.core c.cid) t) :=
    Alike.foldl _ (fun (u : State) (c : Ctx) => alike_settleAt u c.core c.cid) cs t
  exact ((hdrain _).trans (alike_mapGang _ g Ctx.arrive (fun c => rfl))).trans (hsettle (s.members g) _)

/-! Images. -/

theorem frame_takeShadow (s t : State) (arr pa : Nat) (h : s.takeShadow arr pa = some t) : Frame [] s.bare t.bare := by
  unfold State.takeShadow at h
  split at h
  · cases h; exact Frame.refl _ _
  · simp only at h
    split at h
    · cases h
    · obtain ⟨u, hu, rfl⟩ := Option.map_eq_some_iff.mp h
      exact (frame_chargeOwn s u _ _ hu).bare.trans (Frame.refl [] u.bare)

theorem frame_writeArea (n : Nat) (s t : State) (c : Ctx) (o : Nat) (bs : List Byte) (h : s.writeArea c o n bs = some t) : Frame [] s.bare t.bare := by
  induction n generalizing s o bs with
  | zero => cases h; exact Frame.refl _ _
  | succ n ih =>
    unfold State.writeArea at h
    simp only at h
    split at h
    · cases h
    · split at h
      · cases h
      · next pa ea _ =>
        split at h
        · cases h
        · next s2 hs2 =>
          have htouch := ((frame_dumpVa s c.ptroot (c.area + BitVec.ofNat 64 o).toNat 4096).trans (frame_touch _ ea true)).bare
          generalize State.touch _ ea true = s1 at hs2 htouch
          have htake : Frame [] s1.bare s2.bare := by
            split at hs2
            · exact frame_takeShadow s1 s2 _ _ hs2
            · cases hs2; exact Frame.refl _ _
          exact ((htouch.trans htake).trans (frame_devWrite s2 _ _ _)).trans (ih _ _ _ h)

theorem alike_images (s u : State) (g : Gang) (h : s.images g = some u) : Alike s u := by
  have hfold (cs : List Ctx) (a b : State) (hb : cs.foldl (fun o c => o.bind (fun (u : State) =>
      if (u.mateOf c).isSome then u.writeFused c true { cause := 0 } 0 else u.writeFrame c true { cause := 0 } 0)) (some a) = some b) : Alike a b := by
    induction cs generalizing a with
    | nil => cases hb; exact Alike.refl _
    | cons c cs ih =>
      rw [List.foldl_cons, Option.bind_some] at hb
      have hnone (f : Option State → Ctx → Option State) (hf : ∀ c, f none c = none) (cs : List Ctx) : cs.foldl f none = none := by
        induction cs with
        | nil => rfl
        | cons c cs ih => rw [List.foldl_cons, hf, ih]
      cases hone : (if (a.mateOf c).isSome then a.writeFused c true { cause := 0 } 0 else a.writeFrame c true { cause := 0 } 0) with
      | none =>
        rw [hone, hnone _ (fun _ => rfl)] at hb
        cases hb
      | some v =>
        rw [hone] at hb
        refine Alike.trans (Alike.of_bare (L := []) ?_) (ih v hb)
        split at hone
        · unfold State.writeFused at hone
          split at hone
          · exact (Frame.refl [] a.bare).trans (frame_writeArea 10 { a with free := a.free + 1 } v _ _ _ hone)
          · cases hone
        · exact frame_writeArea 10 a v c _ _ hone
  exact hfold _ s u h

end Sys2Proof.Machine

namespace Sys2Proof.Machine

/-! ### Pre-emption (R308) -/

theorem mem_members {s : State} {g : Nat} {c : Ctx} (h : c ∈ s.members g) : c ∈ s.ctxs ∧ c.live = true ∧ c.gang = g ∧ c.rank < 16 := by
  obtain ⟨r, hr, hfind⟩ := List.mem_filterMap.mp h
  have hp := List.find?_some hfind
  simp only [Bool.and_eq_true, beq_iff_eq] at hp
  obtain ⟨hin, hlive⟩ := List.mem_filter.mp (List.mem_of_find?_eq_some hfind)
  exact ⟨hin, hlive, hp.1, hp.2 ▸ List.mem_range.mp hr⟩

/-- A gang has a member of each rank that a live context of it has. -/
theorem exists_member {s : State} {g : Nat} {c : Ctx} (hc : c ∈ s.ctxs) (hlive : c.live = true) (hg : c.gang = g) (hr : c.rank < 16) :
    ∃ e ∈ s.members g, e.rank = c.rank := by
  have hsome : (s.live.find? (fun e => e.gang == g && e.rank == c.rank)).isSome = true :=
    List.find?_isSome.mpr ⟨c, List.mem_filter.mpr ⟨hc, hlive⟩, by simp [hg]⟩
  obtain ⟨e, he⟩ := Option.isSome_iff_exists.mp hsome
  have hp := List.find?_some he
  simp only [Bool.and_eq_true, beq_iff_eq] at hp
  exact ⟨e, List.mem_filterMap.mpr ⟨c.rank, List.mem_range.mpr hr, he⟩, hp.2⟩

theorem parkOut_keeps (s : State) (p : Ctx → Bool) : (s.parkOut p).saved = s.saved ∧ (s.parkOut p).gangs = s.gangs ∧ (s.parkOut p).locks = s.locks
    ∧ (s.parkOut p).launches = s.launches := by
  unfold State.parkOut
  simp only
  split
  · split <;> exact ⟨rfl, rfl, rfl, rfl⟩
  · exact ⟨rfl, rfl, rfl, rfl⟩

/-- A rank as it is saved. -/
def Ctx.savedNow (c : Ctx) : Ctx := { c.keepImage with yielded := false }

theorem face_savedNow (c : Ctx) : c.savedNow.face = c.face := rfl

/-- A gang whose ranks have left their cores: no context of it is left there, and it stands saved with its locks. -/
theorem leaveCores_leaves (s : State) (x y : Gang) (hy : s.gang? x.id = some y) : ∃ h, (s.leaveCores x).gang? x.id = some h ∧ h.saved = true
    ∧ h.relock = s.locks.filter (fun k => k.gang == x.id) ∧ (s.leaveCores x).locks = s.locks.filter (fun k => k.gang != x.id)
    ∧ (s.leaveCores x).saved = s.saved ++ (s.members x.id).map Ctx.savedNow ∧ (s.leaveCores x).launches = s.launches
    ∧ ∀ c ∈ (s.leaveCores x).ctxs, c.live = true → c.gang ≠ x.id := by
  unfold State.leaveCores
  rw [hy]
  simp only
  generalize hh : ({ y with acc := y.acc + _, began := none, gate := [], saved := true, relock := s.locks.filter (fun k => k.gang == x.id) } : Gang) = h
  have hset : (s.setGang h).gang? x.id = some h := by
    have hid : h.id = x.id := hh ▸ (show y.id = x.id from id_of_gang? hy)
    exact hid ▸ gang?_setGang_same s h (hid.symm ▸ hy ▸ rfl)
  generalize ht : ({ s.setGang h with locks := s.locks.filter (fun k => k.gang != x.id)
                                      saved := s.saved ++ (s.members x.id).map (fun c => { c.keepImage with yielded := false }) } : State) = t
  obtain ⟨hsaved, hgangs, hlocks, hlaunches⟩ := parkOut_keeps t (fun c => c.gang == x.id)
  refine ⟨h, (gang?_of_gangs hgangs x.id).trans (ht ▸ hset), hh ▸ rfl, hh ▸ rfl, hlocks.trans (ht ▸ rfl), hsaved.trans (ht ▸ rfl),
    hlaunches.trans (ht ▸ rfl), fun c hc hlive => ?_⟩
  exact beq_eq_false_iff_ne.mp (parkOut_forall t (fun c => c.gang == x.id) c hc hlive)

/-! What a drain stores. -/

/-- What storing keeps: the contexts on cores, the gangs and the locks, the faces of what is saved, and the launches. -/
def State.poised (s : State) : List Ctx × List Gang × List ILock × List (Bool × Nat × Nat × Nat × Word × CStat) × List Launch :=
  (s.ctxs, s.gangs, s.locks, s.saved.map Ctx.face, s.launches)

theorem poised_of_frame {L : List Nat} {s t : State} (h : Frame L s t) : t.poised = s.poised := by
  unfold State.poised State.ctxs
  rw [h.ctx, h.parked, h.gangs, h.saved, h.launches, show t.locks = s.locks from (congrArg State.locks h.rest :)]

theorem poised_setBuf (s : State) (b : Nat) (m : Memory) : (s.setBuf b m).poised = s.poised := by
  unfold State.setBuf
  split
  · rfl
  · split <;> rfl

theorem poised_moveBuf (s : State) (b src dst n : Nat) : (s.moveBuf b src dst n).poised = s.poised := poised_setBuf s b _

theorem poised_updSaved (s : State) (c : Ctx) (f : Ctx → Ctx) (h : ∀ c, (f c).face = c.face) : (s.updSaved c f).poised = s.poised := by
  unfold State.poised
  rw [show (s.updSaved c f).saved.map Ctx.face = s.saved.map Ctx.face from
    map_face (fun x => if x.live ∧ x.gang = c.gang ∧ x.rank = c.rank then f x else x) (fun x => by split; exacts [h x, rfl]) s.saved]
  rfl

/-- A launch with no memory budget has room. -/
theorem chargeOwn_unbudgeted (s : State) (l : Launch) (n : Nat) (h : ∀ b ∈ l.own, b.mb = none) : ∃ t, s.chargeOwn l n = some t := by
  unfold State.chargeOwn
  split
  · exact ⟨s, rfl⟩
  · rw [if_pos]
    · exact ⟨_, rfl⟩
    · exact List.all_eq_true.mpr (fun b hb => by rw [h b hb])

theorem putAway_unbudgeted (s : State) (c : Ctx) (ts bs : List Nat) (h : ∀ l, s.launch? c.arr = some l → ∀ b ∈ l.own, b.mb = none) :
    ∃ t, s.putAway c ts bs = some t ∧ t.poised = s.poised := by
  have hgo (u : State) (ws : List Nat) (k : List (Nat × List ZRow)) : ((ws.foldl (fun u b =>
      u.moveBuf b (bufKey c.core (winBase (c.win b))) (storeKey c.gang c.rank 0) (winSize (c.win b))) u).updSaved c
        (fun x => { x with keptZ := x.keptZ ++ k, keptW := x.keptW ++ ws })).poised = u.poised := by
    refine (poised_updSaved _ c _ ?_).trans (foldl_keeps State.poised _ (fun v b => ?_) ws u)
    · exact fun _ => rfl
    · exact poised_moveBuf v b _ _ _
  unfold State.putAway
  simp only
  split
  · exact ⟨s, rfl, rfl⟩
  · split
    · exact ⟨_, rfl, hgo s _ _⟩
    · next l hl =>
      obtain ⟨u, hu⟩ := chargeOwn_unbudgeted s l _ (h l hl)
      rw [hu]
      exact ⟨_, rfl, (hgo u _ _).trans (poised_of_frame (frame_chargeOwn s u l _ hu))⟩

theorem putAway_all (cs : List Ctx) (s : State) (h : ∀ c ∈ cs, ∀ l, s.launch? c.arr = some l → ∀ b ∈ l.own, b.mb = none) :
    ∃ t, cs.foldl (fun o c => o.bind (fun (t : State) => t.putAway c c.owned [0, 1, 3])) (some s) = some t ∧ t.poised = s.poised := by
  induction cs generalizing s with
  | nil => exact ⟨s, rfl, rfl⟩
  | cons c cs ih =>
    obtain ⟨u, hu, hup⟩ := putAway_unbudgeted s c c.owned [0, 1, 3] (h c List.mem_cons_self)
    have hlaunch (a : Nat) : u.launch? a = s.launch? a := launch?_of_launches (congrArg (fun p => p.2.2.2.2) hup :) a
    obtain ⟨t, ht, htp⟩ := ih u (fun d hd l hl => h d (List.mem_cons_of_mem _ hd) l (hlaunch d.arr ▸ hl))
    exact ⟨t, by rw [List.foldl_cons, Option.bind_some, hu]; exact ht, htp.trans hup⟩

theorem storeParty_unbudgeted (s : State) (x : Gang) (hmate : x.mate = 0)
    (h : ∀ c ∈ s.saved, c.live = true → c.gang = x.id → ∀ l, s.launch? c.arr = some l → ∀ b ∈ l.own, b.mb = none) :
    ∃ t, s.storeParty x = some t ∧ t.ctxs.map Ctx.face = s.ctxs.map Ctx.face ∧ t.saved.map Ctx.face = s.saved.map Ctx.face ∧ t.gangs = s.gangs
      ∧ t.locks = s.locks := by
  have hmine : ∀ c ∈ s.saved.filter (fun c => c.live && c.gang == x.id), ∀ l, s.launch? c.arr = some l → ∀ b ∈ l.own, b.mb = none := by
    intro c hc
    obtain ⟨hin, hp⟩ := List.mem_filter.mp hc
    rw [Bool.and_eq_true, beq_iff_eq] at hp
    exact h c hin hp.1 hp.2
  obtain ⟨t, ht, hpoised⟩ := putAway_all _ s hmine
  unfold State.poised at hpoised
  simp only [Prod.mk.injEq] at hpoised
  obtain ⟨hctxs, hgangs, hlocks, hsaved, -⟩ := hpoised
  refine ⟨t.fixRegions, ?_, ?_, ?_, hgangs, hlocks⟩
  · unfold State.storeParty
    rw [party_alone s x hmate, List.flatMap_cons, List.flatMap_nil, List.append_nil, ht, Option.map_some]
  · exact (map_face t.fixRegion (face_fixRegion t) t.ctxs).trans (congrArg _ hctxs)
  · exact (map_face t.fixRegion (face_fixRegion t) t.saved).trans hsaved

theorem gang?_setDrained (s : State) (x h : Gang) (hmate : x.mate = 0) (hh : s.gang? x.id = some h) :
    (s.setDrained x).gang? x.id = some { h with drained := true } := by
  unfold State.gang? State.setDrained
  rw [party_alone s x hmate]
  simp only [List.map_cons, List.map_nil, List.find?_map]
  have hsame : (fun y : Gang => y.id == x.id) ∘ (fun y : Gang => if [x.id].contains y.id then { y with drained := true } else y) = fun y : Gang => y.id == x.id := by
    funext y
    rw [Function.comp_apply]
    split <;> rfl
  rw [hsame, show s.gangs.find? (fun y => y.id == x.id) = some h from hh, Option.map_some, if_pos (by simp [id_of_gang? hh])]

theorem exec_preempt_none (s : State) (g : Nat) (x : Gang) (d : Bool) (hx : s.gang? g = some x) (h : s.mayPreempt x d = false) :
    exec (.preempt g d) s = .next s := by
  show Host.Outcome.next _ = _
  rw [hx]
  simp only [h]
  rfl

section
variable {s u : State} {g : Nat} {x : Gang} (hx : s.gang? g = some x) (hmate : x.mate = 0)
  (hown : ∀ l, s.launch? x.arr = some l → ∀ b ∈ l.own, b.mb = none) (harr : ∀ y ∈ s.ctxs ++ s.saved, y.gang = g → y.arr = x.arr)
  (huniq : ∀ y ∈ s.ctxs, ∀ z ∈ s.ctxs, y.live = true → z.live = true → y.gang = g → z.gang = g → y.rank = z.rank → y = z)
  (hu : Alike s u)

include hu huniq in
/-- Each member of the gang is saved with its place and its state. -/
theorem mem_savedNow {c : Ctx} (hc : c ∈ s.members g) : c.face ∈ ((u.members g).map Ctx.savedNow).map Ctx.face := by
  obtain ⟨hin, hlive, hgang, hrank⟩ := mem_members hc
  obtain ⟨c', hc', hface⟩ := List.mem_map.mp ((hu.faces c.face hlive).mpr (List.mem_map_of_mem hin))
  unfold Ctx.face at hface
  simp only [Prod.mk.injEq] at hface
  obtain ⟨hl', hg', hr', -, -, -⟩ := hface
  obtain ⟨e, he, her⟩ := exists_member hc' (hl'.trans hlive) (hg'.trans hgang) (hr' ▸ hrank)
  obtain ⟨hein, helive, hegang, -⟩ := mem_members he
  obtain ⟨y, hy, hyface⟩ := List.mem_map.mp ((hu.faces e.face helive).mp (List.mem_map_of_mem hein))
  have hyface' := hyface
  unfold Ctx.face at hyface'
  simp only [Prod.mk.injEq] at hyface'
  obtain ⟨hyl, hyg, hyr, -, -, -⟩ := hyface'
  have hsame : y = c := huniq y hy c hin (hyl.trans helive) hlive (hyg.trans hegang) hgang (hyr.trans (her.trans hr'))
  rw [List.map_map]
  exact List.mem_map.mpr ⟨e, he, (face_savedNow e).trans (hyface.symm.trans (congrArg Ctx.face hsame))⟩

include hx hmate hown harr hu huniq

/-- A gang at its boundary leaves its cores, and with a drain its tiles and windows go to storage. -/
theorem leaves_of_alike (d : Bool) : ∃ t h, (if d then ((u.leaveCores x).storeParty x).map (fun w => w.setDrained x) else some (u.leaveCores x)) = some t
    ∧ (∀ c ∈ t.ctxs, c.live = true → c.gang ≠ g) ∧ t.gang? g = some h ∧ h.saved = true ∧ (d = true → h.drained = true)
    ∧ h.relock = s.locks.filter (fun k => k.gang == g) ∧ (∀ k ∈ t.locks, k.gang ≠ g)
    ∧ ∀ c ∈ s.members g, ∃ y ∈ t.saved, y.gang = g ∧ y.rank = c.rank ∧ y.pc = c.pc ∧ y.stat = c.stat := by
  obtain rfl := id_of_gang? hx
  obtain ⟨y, hy⟩ : ∃ y, u.gang? x.id = some y := by
    have hin : x.id ∈ u.gangs.map Gang.id := hu.ids ▸ List.mem_map_of_mem (List.mem_of_find?_eq_some hx)
    obtain ⟨y, hy, hid⟩ := List.mem_map.mp hin
    exact Option.isSome_iff_exists.mp (List.find?_isSome.mpr ⟨y, hy, beq_iff_eq.mpr hid⟩)
  obtain ⟨h, hh, hhs, hrelock, hlocks, hsaved, hlaunches, hctxs⟩ := leaveCores_leaves u x y hy
  generalize u.leaveCores x = v at hh hlocks hsaved hlaunches hctxs
  have hmembers : ∀ c ∈ s.members x.id, c.face ∈ v.saved.map Ctx.face := fun c hc => by
    rw [hsaved, List.map_append]
    exact List.mem_append_right _ (mem_savedNow huniq hu hc)
  have hfound (t : State) (ht : t.saved.map Ctx.face = v.saved.map Ctx.face) : ∀ c ∈ s.members x.id, ∃ y ∈ t.saved, y.gang = x.id ∧ y.rank = c.rank
      ∧ y.pc = c.pc ∧ y.stat = c.stat := by
    intro c hc
    obtain ⟨y, hy, hface⟩ := List.mem_map.mp (ht ▸ hmembers c hc)
    unfold Ctx.face at hface
    simp only [Prod.mk.injEq] at hface
    obtain ⟨-, hg, hr, -, hpc, hstat⟩ := hface
    exact ⟨y, hy, hg.trans (mem_members hc).2.2.1, hr, hpc, hstat⟩
  have hunlocked : ∀ k ∈ v.locks, k.gang ≠ x.id := by
    intro k hk
    rw [hlocks] at hk
    exact bne_iff_ne.mp (List.mem_filter.mp hk).2
  cases d with
  | false => exact ⟨v, h, rfl, hctxs, hh, hhs, (fun hd => by cases hd), hu.locks ▸ hrelock, hunlocked, hfound v rfl⟩
  | true =>
    have hbudget : ∀ c ∈ v.saved, c.live = true → c.gang = x.id → ∀ l, v.launch? c.arr = some l → ∀ b ∈ l.own, b.mb = none := by
      intro c hc hlive hgang l hl
      have hface : c.face ∈ (s.ctxs ++ s.saved).map Ctx.face := by
        rw [List.map_append, List.mem_append]
        have hmem : c.face ∈ v.saved.map Ctx.face := List.mem_map_of_mem hc
        rw [hsaved, List.map_append, List.mem_append] at hmem
        rcases hmem with hmem | hmem
        · exact .inr (hu.saved ▸ hmem)
        · rw [List.map_map] at hmem
          obtain ⟨e, he, hef⟩ := List.mem_map.mp hmem
          exact .inl (hef ▸ (hu.faces e.face (mem_members he).2.1).mp (List.mem_map_of_mem (mem_members he).1))
      obtain ⟨y, hy, hyf⟩ := List.mem_map.mp hface
      unfold Ctx.face at hyf
      simp only [Prod.mk.injEq] at hyf
      obtain ⟨-, hyg, -, hya, -, -⟩ := hyf
      have hca : c.arr = x.arr := hya.symm.trans (harr y hy (hyg.trans hgang))
      have hmap : (s.launch? x.arr).map Launch.own = some l.own := by
        rw [← hu.owns, ← launch?_of_launches hlaunches, ← hca, hl, Option.map_some]
      obtain ⟨m, hm, hmo⟩ := Option.map_eq_some_iff.mp hmap
      exact hmo ▸ hown m hm
    obtain ⟨w, hw, hwc, hws, hwg, hwl⟩ := storeParty_unbudgeted v x hmate hbudget
    refine ⟨w.setDrained x, { h with drained := true }, by rw [if_pos rfl, hw, Option.map_some], fun c hc hlive hgang => ?_,
      gang?_setDrained w x h hmate ((gang?_of_gangs hwg x.id).trans hh), hhs, fun _ => rfl, hu.locks ▸ hrelock, fun k hk => hunlocked k (hwl ▸ hk),
      hfound (w.setDrained x) hws⟩
    obtain ⟨e, he, hef⟩ := List.mem_map.mp (hwc ▸ List.mem_map_of_mem (f := Ctx.face) (show c ∈ w.ctxs from hc))
    unfold Ctx.face at hef
    simp only [Prod.mk.injEq] at hef
    exact hctxs e he (hef.1.trans hlive) (hef.2.1.trans hgang)

end

theorem exec_preempt (s u : State) (g : Nat) (x : Gang) (d : Bool) (hx : s.gang? g = some x) (hmate : x.mate = 0) (hmay : s.mayPreempt x d = true)
    (hsaved : x.saved = false) (hu : ((s.gangStopped g).quiet g).images x = some u) (hown : ∀ l, s.launch? x.arr = some l → ∀ b ∈ l.own, b.mb = none)
    (harr : ∀ y ∈ s.ctxs ++ s.saved, y.gang = g → y.arr = x.arr)
    (huniq : ∀ y ∈ s.ctxs, ∀ z ∈ s.ctxs, y.live = true → z.live = true → y.gang = g → z.gang = g → y.rank = z.rank → y = z) :
    ∃ t h, exec (.preempt g d) s = .next t
      ∧ (∀ c ∈ t.ctx :: t.parked, c.live = true → c.gang ≠ g) ∧ t.gang? g = some h ∧ h.saved = true ∧ (d = true → h.drained = true)
      ∧ h.relock = s.locks.filter (fun k => k.gang == g) ∧ (∀ k ∈ t.locks, k.gang ≠ g)
      ∧ ∀ c ∈ s.members g, ∃ y ∈ t.saved, y.gang = g ∧ y.rank = c.rank ∧ y.pc = c.pc ∧ y.stat = c.stat := by
  have hid := id_of_gang? hx
  have hboundary : ∃ v, Alike s v
      ∧ s.preemptGang x d = if d then ((v.leaveCores x).storeParty x).map (fun w => w.setDrained x) else some (v.leaveCores x) := by
    unfold State.preemptGang
    simp only
    rw [party_alone s x hmate]
    simp only [List.any_cons, List.any_nil, Bool.or_false, List.foldl_cons, List.foldl_nil, List.headD_cons, hid]
    split
    · next hnone =>
      split at hnone
      · cases hnone
      · rw [hu] at hnone
        cases hnone
    · next v hv =>
      refine ⟨v, ?_, rfl⟩
      split at hv
      · cases hv
        exact Alike.refl s
      · rw [hu] at hv
        cases hv
        exact ((alike_gangStopped s g).trans (alike_quiet _ g)).trans (alike_images _ u x hu)
  obtain ⟨v, hv, hpre⟩ := hboundary
  obtain ⟨t, h, ht, hctxs, hgang, hrest⟩ := leaves_of_alike hx hmate hown harr huniq hv d
  refine ⟨t.unblock, h, ?_, fun c hc hlive => ?_, hgang, hrest⟩
  · show Host.Outcome.next _ = _
    rw [hx]
    simp only [hmay, hsaved]
    rw [hpre, ht]
    rfl
  · obtain ⟨e, he, rfl⟩ := List.mem_map.mp (show c ∈ t.ctxs.map (fun c => { c with blocked := none }) from hc)
    exact hctxs e he hlive

end Sys2Proof.Machine

section
open Sys2Proof Sys2Proof.Machine

/-- Settles O59, a lemma for each event: what a slot, a tick or an end writes outside the state that the statement speaks of is a frame, a gang
that is pre-empted keeps the faces of its contexts, and one that resumes on idle cores finds its tiles, windows and coolant there. -/
theorem schedulingComplete : Obligations.SchedulingComplete := by
  unfold Obligations.SchedulingComplete
  intro s
  refine ⟨exec_slot_unserved s, ?slot, exec_poolSpill_none s, ?spill, ?millis, exec_standbyBegin s, ?fenced, ?empty, ?placed, ?budget, ?gangs, ?ends,
    exec_tick s⟩
  case slot =>
    intro m q d hs hq hm hl hst hd hb hbm hqd
    have hserve := serves_bound s m q hs hq hm hl hst hd hb hbm
    have hexec := exec_slot_served s m q hserve
    refine ⟨fun hf => ?_, fun hf hnone => ⟨_, hexec, mem_deadq_slotOf s q d hqd hf hnone⟩, fun root hf hspace => ⟨fun h => ?_, ?_⟩⟩
    · rw [hexec, slotOf_disabled s q d hqd hf]
    · rw [hexec, slotOf_nothing hqd hf hspace h]
    · intro hw hx hpools hmap u p hu
      exact ⟨exec_slot_notLaunch hserve hqd hf hspace hw hx hpools hmap hu,
        fun ch n k => exec_slot_admitted hserve hqd hf hspace hw hx hpools hmap hu⟩
  case spill =>
    intro r hr
    refine ⟨fun h => ?_, fun _ => ⟨_, exec_poolSpill_pending s r hr, notMem_spills_spillPool s r⟩⟩
    rw [exec_poolSpill_pending s r hr, spillPool_refused s r h]
  case millis => exact fun m hm => ⟨exec_millinerHeartbeat s m hm, exec_millinerTakeover_idle s m, exec_millinerTakeover s m hm⟩
  case fenced => exact fun h => congrArg (fun t : State => Host.Outcome.next t.unblock) (dispatch_fenced s h)
  case empty =>
    intro h hheap
    refine ⟨_, congrArg (fun t : State => Host.Outcome.next t.unblock) (dispatch_empty s h hheap), rfl, rfl⟩
  case placed =>
    intro l htree hheap hl hf
    exact ⟨fun cl u hcl hsaved hno hyes ha hu => exec_dispatch_places htree hheap hl hf hcl hsaved hno hyes ha hu,
      fun hno hgangs hfor => exec_dispatch_holds htree hheap hf hno hgangs hfor⟩
  case budget => exact fun a => ⟨exec_budgetReset_between s a, exec_budgetReset_due s a⟩
  case gangs =>
    intro g x hx hmate
    refine ⟨fun d => exec_preempt_none s g x d hx, fun d u hmay hsaved hu hown harr huniq => exec_preempt s u g x d hx hmate hmay hsaved hu hown harr huniq,
      ?_, exec_gangResume_placed hx hmate, fun l hl hended => ⟨exec_gangPop_leaves hx hmate hl hended, exec_gangPop_next hx hmate hl hended⟩⟩
    intro c l hxs hdr hidle hparked hsaved hlive hg hr hstat hl hheap hopen hdem
    exact exec_gangResume hx hmate hidle hparked hsaved hlive hg hr hl hheap hopen hdem hxs hdr hstat
  case ends =>
    intro a l hl
    refine ⟨exec_launchComplete_waits s a l hl, fun hc hm hf _ => exec_launchComplete s a l hl hc hm hf, fun k => exec_launchComplete_capture s a l k hl,
      exec_shadowReplay_waits s a l hl, exec_shadowReplay s a l hl, exec_splicePair_none hl, ?_⟩
    intro q b u ds v j h1 hprod hplaced hheap hfuse hcap hb hdeps htest hcons hsame hnew
    exact ⟨exec_splicePair_refused hl h1 hprod hplaced hheap hfuse hcap hb hdeps htest hcons hsame hnew,
      fun w m p dp dc he hne hw harr hm hp hdp hdc =>
        exec_splicePair_accepted hl h1 hprod hplaced hheap hfuse hcap hb hdeps htest hcons hsame hnew he hne hw harr hm hp hdp hdc⟩

end

/-! ## What reading memory leaves as it is -/

namespace Sys2Proof.Machine

/-! ### Reads that set A bits (R309 to R311, R363) -/

theorem onlyWalked_refl (m : Memory) : OnlyWalked m m := fun _ => .inl rfl

theorem onlyWalked_trans {m n o : Memory} (h : OnlyWalked m n) (k : OnlyWalked n o) : OnlyWalked m o := by
  intro j
  rcases k j with hk | hk <;> rcases h j with hh | hh <;> rw [hk, hh]
  · exact .inl rfl
  · exact .inr rfl
  · exact .inr rfl
  · exact .inr (by rw [BitVec.or_assoc, BitVec.or_self])

/-- A state without what a read of memory may change: device memory, the TLBs and walks, the bank-conflict counters, which count up to the
read, and the supply of free values. -/
def State.unread (s : State) : State := { s with mem := [], tlb := [], walks := [], conflicts := [], confOvf := [], free := 0 }

/-- `t` is `s` after reads: device memory differs in A bits at most, and `unread` says what else may differ. -/
structure Walked (s t : State) : Prop where
  rest : t.unread = s.unread
  mem : OnlyWalked s.mem t.mem

namespace Walked
variable {s t u : State}

theorem refl (s : State) : Walked s s := ⟨rfl, onlyWalked_refl _⟩

theorem trans (h : Walked s t) (k : Walked t u) : Walked s u := ⟨k.rest.trans h.rest, onlyWalked_trans h.mem k.mem⟩

theorem of_mem (h : t.unread = s.unread) (hm : t.mem = s.mem) : Walked s t := ⟨h, hm ▸ onlyWalked_refl _⟩

theorem foldl {α : Type} (f : State → α → State) (h : ∀ s x, Walked s (f s x)) (xs : List α) (s : State) : Walked s (xs.foldl f s) := by
  induction xs generalizing s with
  | nil => exact refl s
  | cons x xs ih => exact (h s x).trans (ih _)

theorem ctx (h : Walked s t) : t.ctx = s.ctx := (congrArg State.ctx h.rest : _)
theorem parked (h : Walked s t) : t.parked = s.parked := (congrArg State.parked h.rest : _)
theorem iss (h : Walked s t) : t.iss = s.iss := (congrArg State.iss h.rest : _)
theorem rows (h : Walked s t) : t.rows = s.rows := (congrArg State.rows h.rest : _)
theorem host (h : Walked s t) : t.host = s.host := (congrArg State.host h.rest : _)
theorem peer (h : Walked s t) : t.peer = s.peer := (congrArg State.peer h.rest : _)
theorem wbuf (h : Walked s t) : t.wbuf = s.wbuf := (congrArg State.wbuf h.rest : _)
theorem abuf (h : Walked s t) : t.abuf = s.abuf := (congrArg State.abuf h.rest : _)
theorem sbuf (h : Walked s t) : t.sbuf = s.sbuf := (congrArg State.sbuf h.rest : _)
theorem wake (h : Walked s t) : t.wake = s.wake := (congrArg State.wake h.rest : _)
theorem ctl (h : Walked s t) : t.ctl = s.ctl := (congrArg State.ctl h.rest : _)

end Walked

theorem walked_touch (s : State) (ea : Nat) : Walked s (s.touch ea false) := by
  unfold State.touch
  split
  · exact Walked.refl s
  · refine ⟨rfl, fun j => ?_⟩
    have hbyte := memByte_memWrite s.mem ea [memByte s.mem ea ||| 0x10] j
    split at hbyte
    · next h =>
      obtain rfl : j = ea := Nat.le_antisymm (Nat.le_of_lt_succ h.2) h.1
      rw [Nat.sub_self] at hbyte
      exact .inr hbyte
    · exact .inl hbyte

theorem walked_touchLeaf (s : State) (c : Ctx) (e : Option TlbEnt) : Walked s (s.touchLeaf c e false) := by
  unfold State.touchLeaf
  split
  · split
    · split
      · exact walked_touch s _
      · exact Walked.refl s
    · exact Walked.refl s
  · exact Walked.refl s

theorem walked_cache (s : State) (e : TlbEnt) : Walked s (s.cache e) := by
  unfold State.cache
  simp only
  split
  · split <;> exact Walked.of_mem rfl rfl
  · exact Walked.of_mem rfl rfl

theorem walked_touched (s : State) (c : Ctx) (e : Option TlbEnt) : Walked s (s.touched c e false) := by
  cases e with
  | none => exact Walked.refl s
  | some k => exact (walked_touchLeaf s c _).trans (walked_cache _ k)

theorem walked_loadWalk (s : State) (a : Word) : Walked s (s.loadWalk a) := by
  unfold State.loadWalk State.beginWalk
  split
  · split
    · exact Walked.of_mem rfl rfl
    · exact Walked.refl s
  · exact Walked.refl s

theorem walked_loadTouch (s : State) (a : Word) (e : Option TlbEnt) : Walked s (s.loadTouch a e) := by
  unfold State.loadTouch
  split
  · exact walked_touchLeaf s _ e
  · exact walked_touched s _ e

theorem walked_syncCount (s : State) (core c : Nat) : Walked s (s.syncCount core c) := Walked.of_mem rfl rfl

theorem walked_ctlSync (s : State) (o : Nat) : Walked s (s.ctlSync o) := by
  unfold State.ctlSync
  split
  · simp only
    split
    · exact (walked_syncCount s _ _).trans (walked_syncCount _ _ _)
    · split
      · exact Walked.foldl _ (fun t j => walked_syncCount t _ _) _ s
      · exact Walked.refl s
  · exact Walked.refl s

theorem walked_loadElem (s : State) (a : Word) (n : Nat) : Walked s (s.loadElem a n).1 := by
  have hwalk := walked_loadWalk s a
  unfold State.loadElem
  simp only
  split
  · exact hwalk
  · next p e _ =>
    have htouch := hwalk.trans (walked_loadTouch (s.loadWalk a) a e)
    split
    · exact htouch.trans (walked_ctlSync _ _)
    · exact htouch

theorem walked_readLanes (n : Nat) (as : List (Nat × Word)) (s : State) : Walked s (readLanes n as s).s := by
  unfold readLanes
  refine List.foldlRecOn (motive := fun l : LaneLd => Walked s l.s) as _ (Walked.refl s) (fun l hl x _ => ?_)
  have hx := hl.trans (walked_loadElem l.s x.2 n)
  simp only
  split <;> exact hx

/-! ### Descriptors (R211) -/

theorem walked_readS (s u : State) (c : Ctx) (a : Word) (n : Nat) (bs : List Byte) (h : s.readS c a n = .ok (u, bs)) : Walked s u := by
  unfold State.readS at h
  refine List.foldlRecOn (motive := fun acc : Except Flt (State × List Byte) => ∀ t b, acc = .ok (t, b) → Walked s t) (List.range (n / 8)) _
    (fun t b ht => ?_) (fun acc hacc i _ t b ht => ?_) u bs h
  · cases ht
    exact Walked.refl s
  · split at ht
    · cases ht
    · next v _ =>
      split at ht
      · cases ht
      · split at ht
        · cases ht
        · cases ht
          exact (hacc v _ rfl).trans (walked_touched v c _)

theorem walked_readDesc (s u : State) (c : Ctx) (a : Word) (n : Nat) (bs : List Byte) (h : s.readDesc c a n = .ok (u, bs)) : Walked s u := by
  unfold State.readDesc at h
  obtain ⟨-, -, h⟩ := bind_ok _ _ _ h
  obtain ⟨-, -, h⟩ := bind_ok _ _ _ h
  obtain ⟨-, -, h⟩ := bind_ok _ _ _ h
  cases hread : s.readS c a n with
  | error f =>
    simp only [hread] at h
    split at h
    · obtain ⟨-, -, h⟩ := bind_ok _ _ _ h
      cases h
    · cases h
  | ok x =>
    simp only [hread] at h
    split at h
    · obtain ⟨-, -, h⟩ := bind_ok _ _ _ h
      cases h
      exact walked_readS s u c a n bs hread
    · cases h
      exact walked_readS s u c a n bs hread

end Sys2Proof.Machine

/-! ## What a slot's way to its state can end in -/

namespace Sys2Proof.Machine

/-- Every state that a slot's way ends in has the property. -/
def Yields (P : State → Prop) (r : SlotR State) : Prop := ∀ u, r = .ok u → P u

section
variable {P : State → Prop}

theorem yields_pure {u : State} (h : P u) : Yields P (pure u) := fun _ hv => Except.ok.inj hv ▸ h

theorem yields_ok {u : State} (h : P u) : Yields P (.ok u) := yields_pure h

theorem yields_error (e : Stop) : Yields P (.error e) := fun _ hv => nomatch hv

theorem yields_bind {α : Type} {q : SlotR α} {f : α → SlotR State} (h : ∀ x, q = .ok x → Yields P (f x)) : Yields P (q >>= f) := by
  intro u hu
  obtain ⟨x, hx, hf⟩ := bind_ok _ _ _ hu
  exact h x hx u hf

theorem yields_then {Q : State → Prop} {q : SlotR State} {f : State → SlotR State} (hq : Yields Q q) (h : ∀ u, Q u → Yields P (f u)) :
    Yields P (q >>= f) :=
  yields_bind fun u hu => h u (hq u hu)

/-- A slot ends in a state of its way, or notes a hold or a trap and leaves its results as they were. -/
theorem of_finish {s t : State} {r : SlotR State} (hr : Yields P r)
    (hs : ∀ i : Iss, i.ord = s.iss.ord → i.out = s.iss.out → P { s with iss := i }) (h : finish s r = .next t) : P t := by
  rcases r with (_ | _) | u
  · cases h
    exact hs _ rfl rfl
  · cases h
    exact hs _ rfl rfl
  · cases h
    exact hr _ rfl

end

/-! ### Loads (R193, R309) -/

/-- What a load leaves as it is. -/
structure LoadKeeps (s t : State) : Prop where
  ctx : t.ctx = s.ctx
  rows : t.rows = s.rows
  host : t.host = s.host
  peer : t.peer = s.peer
  wbuf : t.wbuf = s.wbuf
  abuf : t.abuf = s.abuf
  sbuf : t.sbuf = s.sbuf
  wake : t.wake = s.wake
  mem : OnlyWalked s.mem t.mem

theorem Walked.loadKeeps {s t : State} (h : Walked s t) : LoadKeeps s t :=
  ⟨h.ctx, h.rows, h.host, h.peer, h.wbuf, h.abuf, h.sbuf, h.wake, h.mem⟩

namespace LoadKeeps
variable {s t : State}

/-- The record of the issue and the list of outstanding loads are not among it. -/
theorem noted (h : LoadKeeps s t) (i : Iss) (l : List PLoad) : LoadKeeps s { t with iss := i, loads := l } :=
  ⟨h.ctx, h.rows, h.host, h.peer, h.wbuf, h.abuf, h.sbuf, h.wake, h.mem⟩

theorem pendLoad (h : LoadKeeps s t) (d : Dest) (pol : Bool) (a : Word) (as : List Word) (val msk : Row) (flags : Nat) (f : Option DFault) (reqs : Nat) :
    LoadKeeps s (t.pendLoad d pol a as val msk flags f reqs) := h.noted _ _

theorem postLocal (h : LoadKeeps s t) (d : Dest) (val msk : Row) (flags : Nat) (f : Option DFault) (late : Bool) :
    LoadKeeps s (t.postLocal d val msk flags f late) := h.noted _ _

theorem baseUpd (h : LoadKeeps s t) (u : Bool) (b : BitVec 6) (a : Word) : LoadKeeps s (t.baseUpd u b a) := by
  cases u
  · exact h
  · exact h.noted _ _

end LoadKeeps

theorem loadKeeps_of_finish {s t : State} {r : SlotR State} (hr : Yields (LoadKeeps s) r) (h : finish s r = .next t) : LoadKeeps s t :=
  of_finish hr (fun i _ _ => (Walked.refl s).loadKeeps.noted i s.loads) h

theorem loadKeeps_loadS {s t : State} {d : BitVec 5} {b : BitVec 6} {x : MIdx} {n : Nat} {sg : Bool} (h : loadS s d b x n sg = .next t) : LoadKeeps s t := by
  refine loadKeeps_of_finish (yields_bind fun r _ => yields_bind fun _ _ => yields_bind fun _ _ => yields_bind fun _ _ => yields_bind fun _ _ => ?_) h
  have hread := ((walked_loadElem s (r.1.1 + r.1.2) n).loadKeeps).baseUpd (midxExt x).u b (r.1.1 + r.1.2)
  refine yields_pure ?_
  split
  · exact hread.pendLoad _ _ _ _ _ _ _ _ _
  · exact hread.postLocal _ _ _ _ _ _

theorem yields_loadLanes (s : State) (d : BitVec 6) (pol long : Bool) (base : Word) (f : VFmt) (as : List (Nat × Word)) :
    Yields (LoadKeeps s) (s.loadLanes d pol long base f as) := by
  refine yields_bind fun _ _ => yields_bind fun _ _ => yields_pure ?_
  have hread := (walked_readLanes f.size as s).loadKeeps
  split
  · exact hread.pendLoad _ _ _ _ _ _ _ _ _
  · exact hread.postLocal _ _ _ _ _ _

theorem loadKeeps_loadV {s t : State} {d b : BitVec 6} {x : MIdx} {f : VFmt} (h : loadV s d b x f = .next t) : LoadKeeps s t :=
  loadKeeps_of_finish (yields_bind fun _ _ => yields_bind fun _ _ => yields_bind fun _ _ => yields_then (yields_loadLanes _ _ _ _ _ _ _)
    fun _ hu => yields_pure (hu.baseUpd _ _ _)) h

theorem loadKeeps_execVlds {s t : State} {d b o : BitVec 6} {x : VIdx} (h : execVlds d b o x s = .next t) : LoadKeeps s t :=
  loadKeeps_of_finish (yields_bind fun _ _ => yields_bind fun _ _ => yields_then (yields_loadLanes _ _ _ _ _ _ _)
    fun _ hu => yields_pure (hu.baseUpd _ _ _)) h

theorem loadKeeps_execVgath {s t : State} {d b o : BitVec 6} {x : VIdx} (h : execVgath d b o x s = .next t) : LoadKeeps s t :=
  loadKeeps_of_finish (yields_bind fun _ _ => yields_bind fun _ _ => yields_then (yields_loadLanes _ _ _ _ _ _ _)
    fun _ hu => yields_pure (hu.baseUpd _ _ _)) h

/-- A raw load reads a row of path 0x12 like any Z row, and 72 units of any other path. -/
theorem loadKeeps_execVld {s t : State} {d b : BitVec 6} {x : MIdx} (h : execVld d b x s = .next t) : LoadKeeps s t := by
  refine loadKeeps_of_finish (yields_bind fun r _ => yields_bind fun _ _ => yields_then (Q := LoadKeeps s) ?_ fun _ hu => yields_pure (hu.baseUpd _ _ _)) h
  split
  · split
    · exact yields_bind fun _ _ => yields_pure ((Walked.refl s).loadKeeps.postLocal _ _ _ _ _ _)
    · exact yields_pure (Walked.refl s).loadKeeps
  · refine yields_bind fun _ _ => yields_bind fun _ _ => yields_pure ?_
    have hread := (walked_readLanes 8 (rawUnits (r.1.1 + r.1.2)) s).loadKeeps
    split
    · exact hread.pendLoad _ _ _ _ _ _ _ _ _
    · exact hread.postLocal _ _ _ _ _ _

end Sys2Proof.Machine

section
open Sys2Proof Sys2Proof.Machine

/-- Settles O35: a load reads memory, where the walker sets A bits, and leaves a result or an outstanding load beside it. -/
theorem loadsFrame : Obligations.LoadsFrame := by
  unfold Obligations.LoadsFrame
  intro s t d v b o x y i hi h
  have hkeeps : LoadKeeps s t := by
    simp only [List.mem_cons, List.not_mem_nil, or_false] at hi
    rcases hi with rfl | rfl | rfl | rfl | rfl | rfl | rfl | rfl | rfl | rfl | rfl | rfl | rfl | rfl | rfl | rfl
    iterate 7 exact loadKeeps_loadS h
    iterate 6 exact loadKeeps_loadV h
    · exact loadKeeps_execVld h
    · exact loadKeeps_execVlds h
    · exact loadKeeps_execVgath h
  obtain ⟨hctx, hrows, hhost, hpeer, hwbuf, habuf, hsbuf, hwake, hmem⟩ := hkeeps
  exact ⟨hctx, hrows, hhost, hpeer, hwbuf, habuf, hsbuf, hwake, hmem⟩

end

/-! ## Instructions that act on registers alone -/

namespace Sys2Proof.Machine

/-- `t` is `s` but for the record of the issue, where results to the registers `ds` have joined those of `s`, each with the slot's ordinal or, behind
every slot, with 8 (R45, R138). -/
structure Leaves (ds : List Dest) (s t : State) : Prop where
  rest : { t with iss := s.iss } = s
  ord : t.iss.ord = s.iss.ord
  out : ∃ new, t.iss.out = s.iss.out ++ new ∧ ∀ x ∈ new, (x.1 = s.iss.ord ∨ x.1 = 8) ∧ x.2.dest ∈ ds

namespace Leaves
variable {ds : List Dest} {s t u : State}

theorem of_iss (i : Iss) (ho : i.ord = s.iss.ord) (hout : i.out = s.iss.out) : Leaves ds s { s with iss := i } :=
  ⟨rfl, ho, [], by rw [List.append_nil]; exact hout, fun _ hx => nomatch hx⟩

theorem refl (ds : List Dest) (s : State) : Leaves ds s s := of_iss s.iss rfl rfl

theorem trans (h : Leaves ds s t) (k : Leaves ds t u) : Leaves ds s u := by
  obtain ⟨n, hn, hds⟩ := h.out
  obtain ⟨m, hm, hdt⟩ := k.out
  refine ⟨?_, k.ord.trans h.ord, n ++ m, by rw [hm, hn, List.append_assoc], fun x hx => ?_⟩
  · calc ({ u with iss := s.iss } : State) = { ({ u with iss := t.iss } : State) with iss := s.iss } := rfl
      _ = { t with iss := s.iss } := by rw [k.rest]
      _ = s := h.rest
  · rcases List.mem_append.mp hx with hx | hx
    · exact hds x hx
    · rw [← h.ord]
      exact hdt x hx

theorem ctx (h : Leaves ds s t) : t.ctx = s.ctx := (congrArg State.ctx h.rest : _)

theorem post {p : Pend} (hp : p.dest ∈ ds) : Leaves ds s (s.post p) :=
  ⟨rfl, rfl, [(s.iss.ord, p)], rfl, fun x hx => by rw [List.mem_singleton.mp hx]; exact ⟨.inl rfl, hp⟩⟩

theorem postS {n : Nat} (lat : Nat) (v : Word) (h : (⟨0, n⟩ : Dest) ∈ ds) : Leaves ds s (s.postS n lat v) := post h
theorem postP {n : Nat} (lat : Nat) (v : Bool) (h : (⟨1, physP s.ctx n⟩ : Dest) ∈ ds) : Leaves ds s (s.postP n lat v) := post h
theorem postM {n : Nat} (lat : Nat) (v : Mask) (fl : Nat) (h : (⟨2, physP s.ctx n⟩ : Dest) ∈ ds) : Leaves ds s (s.postM n lat v fl) := post h
theorem postV {d : BitVec 6} (lat : Nat) (val msk : Row) (fl : Nat) (h : (⟨3, physV s.ctx d.toNat⟩ : Dest) ∈ ds) :
    Leaves ds s (s.postV d lat val msk fl) := post h
theorem postX {n : Nat} (lat : Nat) (v : Word) (h : (⟨4, n⟩ : Dest) ∈ ds) : Leaves ds s (s.postX n lat v) := post h

theorem postLast (num : Nat) (v : Word) (h : (⟨4, num⟩ : Dest) ∈ ds) : Leaves ds s (s.postLast num v) :=
  ⟨rfl, rfl, [(8, _)], rfl, fun x hx => by rw [List.mem_singleton.mp hx]; exact ⟨.inr rfl, h⟩⟩

theorem count (s : State) : Leaves ds s s.count := by
  unfold State.count
  split
  · exact of_iss _ rfl rfl
  · exact refl ds s

theorem counted (c : Bool) (s : State) : Leaves ds s (if c then s.count else s) := by
  cases c
  · exact refl ds s
  · exact count s

/-- A row result of a slot that may count for RSEQ (R80). -/
theorem countedV (c : Bool) {d : BitVec 6} (lat : Nat) (val msk : Row) (fl : Nat) (h : (⟨3, physV s.ctx d.toNat⟩ : Dest) ∈ ds) :
    Leaves ds s ((if c then s.count else s).postV d lat val msk fl) := by
  have hc : Leaves ds s (if c then s.count else s) := counted c s
  exact hc.trans (postV lat val msk fl (hc.ctx ▸ h))

theorem baseUpd (u : Bool) {b : BitVec 6} (a : Word) (h : (⟨0, srcNum b⟩ : Dest) ∈ ds) : Leaves ds s (s.baseUpd u b a) := by
  cases u
  · exact refl ds s
  · exact post h

theorem rotate (hr : (⟨4, 0x00C⟩ : Dest) ∈ ds) (hp : (⟨4, 0x00D⟩ : Dest) ∈ ds) : Leaves ds s s.rotate :=
  (postLast _ _ hr).trans (postLast _ _ hp)

end Leaves

theorem leaves_of_finish {ds : List Dest} {s t : State} {r : SlotR State} (hr : Yields (Leaves ds s) r) (h : finish s r = .next t) : Leaves ds s t :=
  of_finish hr (fun i => Leaves.of_iss i) h

/-! ### The forms that operations share -/

section
variable {s t : State} {d a b : BitVec 6} {e : BitVec 5} {m : BitVec 4} {o : BOp} {g w : Nat} {c : Bool}

theorem mem_one {α : Type} (x : α) : x ∈ [x] := List.mem_singleton_self x

theorem leaves_binS {f : Word → Word → Word} (h : binS s e a o g f = .next t) : Leaves [⟨0, e.toNat⟩] s t :=
  leaves_of_finish (yields_bind fun _ _ => yields_pure (.postS _ _ (mem_one _))) h

theorem leaves_unS {f : Word → Word} (h : unS s e a f = .next t) : Leaves [⟨0, e.toNat⟩] s t :=
  leaves_of_finish (yields_bind fun _ _ => yields_pure (.postS _ _ (mem_one _))) h

theorem leaves_divS {f : Word → Word → Word} (h : divS s e a o f = .next t) : Leaves [⟨0, e.toNat⟩] s t :=
  leaves_of_finish (yields_bind fun _ _ => yields_bind fun _ _ => yields_pure (.postS _ _ (mem_one _))) h

theorem leaves_cmpS {f : Word → Word → Bool} (h : cmpS s m c a o f = .next t) :
    Leaves (if c then [⟨1, physP s.ctx m.toNat⟩, ⟨2, physP s.ctx m.toNat⟩] else [⟨1, physP s.ctx m.toNat⟩]) s t := by
  refine leaves_of_finish (yields_bind fun _ _ => yields_pure ?_) h
  cases c
  · exact .postP _ _ (mem_one _)
  · exact (Leaves.postP _ _ (List.mem_cons_self ..)).trans (.postM _ _ _ (List.mem_cons_of_mem _ (mem_one _)))

theorem leaves_vec2 {f : REnv → Nat → Nat → FR} (h : vec2 s w g c d a f = .next t) : Leaves [⟨3, physV s.ctx d.toNat⟩] s t :=
  leaves_of_finish (yields_bind fun _ _ => yields_pure (.countedV c _ _ _ _ (mem_one _))) h

theorem leaves_vec3 {f : REnv → Nat → Nat → Nat → FR} (h : vec3 s w g c d a b f = .next t) : Leaves [⟨3, physV s.ctx d.toNat⟩] s t :=
  leaves_of_finish (yields_bind fun _ _ => yields_pure (.countedV c _ _ _ _ (mem_one _))) h

theorem leaves_vec4 {f : REnv → Nat → Nat → Nat → Nat → FR} (h : vec4 s w g c d a b f = .next t) : Leaves [⟨3, physV s.ctx d.toNat⟩] s t :=
  leaves_of_finish (yields_bind fun _ _ => yields_pure (.countedV c _ _ _ _ (mem_one _))) h

theorem leaves_vecCmp {f : REnv → Nat → Nat → FR} (h : vecCmp s w g m a b f = .next t) : Leaves [⟨2, physP s.ctx m.toNat⟩] s t :=
  leaves_of_finish (yields_bind fun _ _ => yields_pure (.postM _ _ _ (mem_one _))) h

theorem leaves_vecBit {f : Row → Row → Row} (h : vecBit s d a b f = .next t) : Leaves [⟨3, physV s.ctx d.toNat⟩] s t :=
  leaves_of_finish (yields_bind fun _ _ => yields_pure (.postV _ _ _ _ (mem_one _))) h

theorem leaves_sfn36 {k : SFn} (h : sfn36 k d a s = .next t) : Leaves [⟨3, physV s.ctx d.toNat⟩] s t := leaves_vec2 h

theorem leaves_sfn18 {k : SFn} (h : sfn18 k d a s = .next t) : Leaves [⟨3, physV s.ctx d.toNat⟩] s t := leaves_vec2 h

theorem leaves_execMts {n : BitVec 12} (h : execMts n a s = .next t) : Leaves [⟨4, n.toNat⟩] s t := by
  refine leaves_of_finish (yields_bind fun _ _ => ?_) h
  have hwrite (q : SlotR Word) : Yields (Leaves [⟨4, n.toNat⟩] s) (q >>= fun w => pure (s.postX n.toNat 1 w)) :=
    yields_bind fun _ _ => yields_pure (.postX _ _ (mem_one _))
  split
  · exact hwrite _
  · split
    · exact hwrite _
    · exact hwrite _

theorem leaves_execVcvt {k : BitVec 6} (h : execVcvt d a k s = .next t) : Leaves [⟨3, physV s.ctx d.toNat⟩, ⟨3, physV s.ctx (d + 1).toNat⟩] s t := by
  refine leaves_of_finish ?_ h
  have hfirst {lat : Nat} {val msk : Row} {fl : Nat} := Leaves.countedV (s := s) (cvtCounts k.toNat) lat val msk fl
    (List.mem_cons_self (a := (⟨3, physV s.ctx d.toNat⟩ : Dest)) (l := [⟨3, physV s.ctx (d + 1).toNat⟩]))
  simp only
  split
  · exact yields_bind fun _ _ => yields_pure hfirst
  · exact yields_bind fun _ _ => yields_bind fun _ _ => yields_pure hfirst
  · refine yields_bind fun _ _ => yields_bind fun _ _ => yields_pure (hfirst.trans (.postV _ _ _ _ ?_))
    rw [hfirst.ctx]
    exact List.mem_cons_of_mem _ (mem_one _)

end

/-! ### Watchpoints (R156) -/

/-- wpset reads like a load, and leaves the watchpoint among the records of the issue. -/
theorem wpset_frame {s t : State} {w : BitVec 2} {a : BitVec 6} (h : exec (.wpset w a) s = .next t) :
    LoadKeeps s t ∧ t.iss.out = s.iss.out ∧ t.parked = s.parked ∧ t.ctl = s.ctl := by
  refine of_finish (P := fun t => LoadKeeps s t ∧ t.iss.out = s.iss.out ∧ t.parked = s.parked ∧ t.ctl = s.ctl)
    (yields_bind fun x _ => yields_bind fun q hq => ?_)
    (fun i _ hout => ⟨(Walked.refl s).loadKeeps.noted i s.loads, hout, rfl, rfl⟩) h
  have hread := walked_readDesc s q.1 s.ctx x 64 q.2 hq
  have hout : q.1.iss.out = s.iss.out := by rw [hread.iss]
  split
  · exact yields_error _
  · exact yields_pure ⟨hread.loadKeeps.noted _ q.1.loads, hout, hread.parked, hread.ctl⟩

/-! ### Histograms (R242) -/

theorem leaves_postBins {ds : List Dest} (d : Nat) (idx : List (Option Nat)) (rs : List Row) (s : State) (j : Nat)
    (h : ∀ k, j ≤ k → k < j + rs.length → (⟨3, physV s.ctx (BitVec.ofNat 6 (d + k)).toNat⟩ : Dest) ∈ ds) : Leaves ds s (postBins s d idx j rs) := by
  induction rs generalizing s j with
  | nil => exact Leaves.refl ds s
  | cons r rs ih =>
    rw [List.length_cons] at h
    refine Leaves.trans (t := s.postLanes _ _ _ _) (.postV _ _ _ _ (h j le_rfl (by omega))) (ih _ (j + 1) fun k hj hk => ?_)
    exact h k (by omega) (by omega)

theorem length_rdVs (s : State) (a n : Nat) (rs : List Row) (h : rdVs s a n = .ok rs) : rs.length = n := by
  induction n generalizing a rs with
  | zero => cases h; rfl
  | succ n ih =>
    obtain ⟨⟨r, qs⟩, hr, hqs⟩ := bind_ok _ _ _ h
    cases hqs
    rw [List.length_cons, ih _ _ (both_eq_ok _ _ _ hr).2]

theorem need_ok {b : Bool} {t : Trap} {u : Unit} (h : need b t = .ok u) : b = true := by
  cases b
  · cases h
  · rfl

theorem leaves_execVhist {s t : State} {d a n : BitVec 6} (h : execVhist d a n s = .next t) :
    Leaves ((List.range n.toNat).map (fun j => ⟨3, physV s.ctx (d.toNat + j)⟩)) s t := by
  refine leaves_of_finish (yields_bind fun _ hn => yields_bind fun _ _ => yields_bind fun r hr => yields_pure ?_) h
  have hfits : d.toNat + n.toNat ≤ 64 := of_decide_eq_true (Bool.and_elim_right (need_ok hn))
  have hlen := length_rdVs _ _ _ _ (both_eq_ok _ _ _ hr).2
  refine leaves_postBins _ _ _ _ _ fun k _ hk => ?_
  rw [Nat.zero_add, hlen] at hk
  rw [BitVec.toNat_ofNat, Nat.mod_eq_of_lt (by omega)]
  exact List.mem_map_of_mem (f := fun j => (⟨3, physV s.ctx (d.toNat + j)⟩ : Dest)) (List.mem_range.mpr hk)

/-! ### Exits (R96, R140) -/

theorem leaves_exitSlot {ds : List Dest} {s t : State} {p : BitVec 4} {n : Bool} {eff : State → SlotR (State × ExitKind)}
    (heff : ∀ u r, eff u = .ok r → Leaves ds u r.1) (h : exitSlot s p n eff = .next t) : Leaves ds s t := by
  have htested : Leaves ds s (tested s) := Leaves.of_iss _ rfl rfl
  unfold exitSlot at h
  split at h
  · exact leaves_of_finish (yields_error _) h
  · simp only at h
    split at h
    · split at h
      · refine Leaves.trans ?_ (leaves_of_finish (yields_error _) h)
        exact .of_iss _ rfl rfl
      · next r hr =>
        cases h
        exact (htested.trans (heff _ r hr)).trans (.of_iss (s := r.1) _ rfl rfl)
    · cases h
      exact htested

theorem leaves_link {ds : List Dest} {s : State} (h : (⟨0, 31⟩ : Dest) ∈ ds) : Leaves ds s s.link := .postS _ _ h

theorem leaves_execLoop {s t : State} {p : BitVec 4} {n : Bool} {o : Off} (h : execLoop p n o s = .next t) :
    Leaves [⟨4, 0x00C⟩, ⟨4, 0x00D⟩, ⟨4, 0x00E⟩] s t := by
  refine leaves_of_finish (yields_bind fun _ _ => ?_) h
  simp only
  split
  · split
    · exact yields_pure (.of_iss _ rfl rfl)
    · refine yields_pure (((Leaves.of_iss { s.iss with
        bslots := s.iss.bslots + 1, taken := some (s.iss.bslots + 1, .branch (offTarget o s.ctx.pc)) } rfl rfl).trans
          (.postLast _ _ (by decide))).trans (.rotate (by decide) (by decide)))
  · exact yields_pure (.of_iss _ rfl rfl)


end Sys2Proof.Machine

namespace Sys2Proof.Machine

/-! ### Every such instruction (R45, R56, R57, R192) -/

theorem leaves_of_dests {i : Instr} {s t : State} {ds : List Dest} (hd : i.dests s = some ds) (h : exec i s = .next t) : Leaves ds s t := by
  cases i with
  | nop | trap | brk =>
    cases hd
    simp only [exec] at h
    refine leaves_of_finish (yields_ok ?_) h
    exact .of_iss _ rfl rfl
  | add | sub | mul | mulh | mulhu | and | or | xor | andn | shl | shr | sar | min | max | minu | maxu | addx2 | addx3 | addx4 =>
    cases hd
    simp only [exec] at h
    exact leaves_binS h
  | div | divu | rem | remu =>
    cases hd
    simp only [exec] at h
    exact leaves_divS h
  | clz | popc =>
    cases hd
    simp only [exec] at h
    exact leaves_unS h
  | movi | pget | mfs | vfind | mpop | tlrd =>
    cases hd
    simp only [exec] at h
    exact leaves_of_finish (yields_bind fun _ _ => yields_pure (.postS _ _ (mem_one _))) h
  | bfx | bfi | vlane =>
    cases hd
    simp only [exec] at h
    exact leaves_of_finish (yields_bind fun _ _ => yields_bind fun _ _ => yields_pure (.postS _ _ (mem_one _))) h
  | movt =>
    cases hd
    simp only [exec] at h
    refine leaves_of_finish (yields_bind fun _ _ => yields_pure ?_) h
    split
    · exact .postS _ _ (mem_one _)
    · exact .refl _ s
  | cmpeq | cmpne | cmplt | cmple | cmpltu | cmpleu =>
    cases hd
    simp only [exec] at h
    exact leaves_cmpS h
  | plog | pmov =>
    cases hd
    simp only [exec] at h
    exact leaves_of_finish (yields_bind fun _ _ => yields_pure (.postP _ _ (mem_one _))) h
  | msel =>
    cases hd
    simp only [exec] at h
    exact leaves_of_finish (yields_ok (.postX _ _ (mem_one _))) h
  | mts =>
    cases hd
    simp only [exec] at h
    exact leaves_execMts h
  | modew =>
    cases hd
    simp only [exec] at h
    exact leaves_of_finish (yields_bind fun _ _ => yields_bind fun _ _ => yields_pure (.postX _ _ (mem_one _))) h
  | vwin =>
    cases hd
    simp only [exec] at h
    exact leaves_of_finish (yields_bind fun _ _ => yields_bind fun _ _ => yields_bind fun _ _ => yields_pure
      (.trans (.postX _ _ (List.mem_cons_self ..)) (.postX _ _ (List.mem_cons_of_mem _ (mem_one _))))) h
  | vaddf | vsubf | vmulf | vminf | vmaxf | vaddi | vsubi | vmuli | vmulhi | vmini | vmaxi | vshl | vshr | vsar | vaddsi | naddB | nsubB | nmulB
  | nminB | nmaxB | naddH | nsubH | nmulH | nminH | nmaxH | naddQ | nsubQ | nminQ | nmaxQ | naddsQ =>
    cases hd
    simp only [exec] at h
    exact leaves_vec3 h
  | vfmaf | vfmsf | nfmaB =>
    cases hd
    simp only [exec] at h
    exact leaves_vec4 h
  | vabsf | vnegf =>
    cases hd
    simp only [exec] at h
    exact leaves_vec2 h
  | frcp | frsq | fsqrt | fexp2 | flog2 | fsig | ftanh | ferf | fsinp | fcosp =>
    cases hd
    simp only [exec] at h
    exact leaves_sfn36 h
  | frcpB | frsqB | fsqrtB | fexp2B | flog2B | fsigB | ftanhB | ferfB | fsinpB | fcospB =>
    cases hd
    simp only [exec] at h
    exact leaves_sfn18 h
  | vceqf | vcltf | vclef | vcunf | vceqi | vclti | vcltu | nceqB | ncltB =>
    cases hd
    simp only [exec] at h
    exact leaves_vecCmp h
  | vand | vor | vxor =>
    cases hd
    simp only [exec] at h
    exact leaves_vecBit h
  | vsel | vbc | vmov | vshuf | vrot | vcx =>
    cases hd
    simp only [exec] at h
    exact leaves_of_finish (yields_bind fun _ _ => yields_pure (.postV _ _ _ _ (mem_one _))) h
  | vmerge | vins =>
    cases hd
    simp only [exec] at h
    exact leaves_of_finish (yields_bind fun _ _ => yields_bind fun _ _ => yields_pure (.postV _ _ _ _ (mem_one _))) h
  | vred | vscan =>
    cases hd
    simp only [exec] at h
    exact leaves_of_finish (yields_bind fun _ _ => yields_pure (.countedV _ _ _ _ _ (mem_one _))) h
  | vcvt =>
    cases hd
    simp only [exec] at h
    exact leaves_execVcvt h
  | vhist =>
    cases hd
    simp only [exec] at h
    exact leaves_execVhist h
  | mlog | msetn =>
    cases hd
    simp only [exec] at h
    exact leaves_of_finish (yields_bind fun _ _ => yields_pure (.postM _ _ _ (mem_one _))) h
  | cmpt =>
    cases hd
    simp only [exec] at h
    exact leaves_of_finish (yields_bind fun _ _ => yields_bind fun _ _ => yields_pure (.refl _ s)) h
  | vcmpt =>
    cases hd
    simp only [exec] at h
    refine leaves_of_finish (yields_bind fun _ _ => ?_) h
    split
    · exact yields_error _
    · exact yields_pure (.refl _ s)
  | fence | fenceRo =>
    cases hd
    simp only [exec] at h
    exact leaves_of_finish (yields_bind fun _ _ => yields_pure (.refl _ s)) h
  | drain =>
    cases hd
    simp only [exec] at h
    refine leaves_of_finish (yields_bind fun _ _ => yields_pure ?_) h
    exact .of_iss _ rfl rfl
  | pref =>
    cases hd
    simp only [exec] at h
    exact leaves_of_finish (yields_bind fun _ _ => yields_pure (.baseUpd _ _ (mem_one _))) h
  | hintNone | succPrefetch | branchLikely | locality =>
    cases hd
    cases h
    exact .refl _ s
  | br | yield =>
    cases hd
    simp only [exec] at h
    exact leaves_exitSlot (fun u _ hr => Except.ok.inj hr ▸ .refl _ u) h
  | bri | ret =>
    cases hd
    simp only [exec] at h
    refine leaves_exitSlot (fun u _ hr => ?_) h
    obtain ⟨_, -, hr⟩ := bind_ok _ _ _ hr
    obtain ⟨_, -, hr⟩ := bind_ok _ _ _ hr
    exact Except.ok.inj hr ▸ .refl _ u
  | call =>
    cases hd
    simp only [exec] at h
    refine leaves_exitSlot (fun u _ hr => ?_) h
    obtain ⟨_, -, hr⟩ := bind_ok _ _ _ hr
    exact Except.ok.inj hr ▸ leaves_link (mem_one _)
  | calli =>
    cases hd
    simp only [exec] at h
    refine leaves_exitSlot (fun u _ hr => ?_) h
    obtain ⟨_, -, hr⟩ := bind_ok _ _ _ hr
    obtain ⟨_, -, hr⟩ := bind_ok _ _ _ hr
    exact Except.ok.inj hr ▸ leaves_link (mem_one _)
  | loop =>
    cases hd
    simp only [exec] at h
    exact leaves_execLoop h
  | loopw =>
    cases hd
    simp only [exec] at h
    exact leaves_exitSlot (fun _ _ hr => Except.ok.inj hr ▸ .rotate (by decide) (by decide)) h
  | exit =>
    cases hd
    simp only [exec] at h
    refine leaves_exitSlot (fun u _ hr => ?_) h
    obtain ⟨_, -, hr⟩ := bind_ok _ _ _ hr
    exact Except.ok.inj hr ▸ .refl _ u
  | waittl =>
    cases hd
    simp only [exec] at h
    refine leaves_of_finish (yields_bind fun _ _ => yields_bind fun _ _ => yields_bind fun _ _ => ?_) h
    split
    · exact yields_error _
    · exact yields_pure (.refl _ s)
  | waitwp =>
    cases hd
    simp only [exec] at h
    refine leaves_of_finish (yields_bind fun _ _ => yields_bind fun _ _ => ?_) h
    split
    · exact yields_pure (.refl _ s)
    · refine yields_bind fun _ _ => ?_
      split
      · exact yields_error _
      · exact yields_pure (.refl _ s)
  | _ => cases hd

end Sys2Proof.Machine

section
open Sys2Proof Sys2Proof.Machine

/-- Settles O12: each instruction by the form that it shares with others; a descriptor is a read of memory. -/
theorem registerOnlyFrame : Obligations.RegisterOnlyFrame := by
  unfold Obligations.RegisterOnlyFrame
  refine ⟨fun i s t ds hd h => ?_, fun w a s t h => ?_⟩
  · obtain ⟨hrest, -, hout⟩ := leaves_of_dests hd h
    exact ⟨hrest, hout⟩
  · obtain ⟨hkeeps, hout, hparked, hctl⟩ := wpset_frame h
    exact ⟨hout, hkeeps.mem, hkeeps.ctx, hparked, hkeeps.rows, hkeeps.host, hkeeps.peer, hkeeps.wbuf, hkeeps.abuf, hkeeps.sbuf, hkeeps.wake, hctl⟩

end

/-! ## Special registers -/

namespace Sys2Proof.Machine

/-! ### Table 3.5 as mfs reads it (R60, R61, R137) -/

/-- What mfs reads under a number. -/
def State.mfsRead (s : State) (n : BitVec 12) : SlotR Word :=
  if n.toNat < 0x100 then
    match s.special n.toNat with
    | some r => r
    | none => trapS (opTrap (n.zeroExtend 64))
  else if !s.ctx.priv then trapS { cause := 0x04, info1 := n.zeroExtend 64 }
  else match s.privReg n.toNat with
    | some w => .ok w
    | none => trapS (opTrap (n.zeroExtend 64))

section
variable {s : State} {d : BitVec 5} {n : BitVec 12}

theorem exec_mfs (hd : s.dstS d.toNat = .ok ()) :
    exec (.mfs d n) s = finish s (do
      let r ← both (s.mfsRead n) (.ok ())
      pure (s.postS d.toNat (s.ctx.latOf 1) r.1)) := by
  rw [← hd]
  rfl

theorem exec_mfs_ok {v : Word} (hd : s.dstS d.toNat = .ok ()) (h : s.mfsRead n = .ok v) :
    exec (.mfs d n) s = .next (s.postS d.toNat (s.ctx.latOf 1) v) := by
  rw [exec_mfs hd, h]
  rfl

theorem exec_mfs_trap {t : Trap} (hd : s.dstS d.toNat = .ok ()) (h : s.mfsRead n = trapS t) : exec (.mfs d n) s = .next (trapped s t) := by
  rw [exec_mfs hd, h]
  rfl

theorem mfsRead_special {r : SlotR Word} (hn : n.toNat < 0x100) (h : s.special n.toNat = some r) : s.mfsRead n = r := by
  unfold State.mfsRead
  rw [if_pos hn, h]

theorem mfsRead_unlisted (hn : n.toNat < 0x100) (h : s.special n.toNat = none) : s.mfsRead n = trapS (opTrap (n.zeroExtend 64)) := by
  unfold State.mfsRead
  rw [if_pos hn, h]

theorem mfsRead_priv {w : Word} (hp : s.ctx.priv = true) (hn : 0x100 ≤ n.toNat) (h : s.privReg n.toNat = some w) : s.mfsRead n = .ok w := by
  unfold State.mfsRead
  rw [if_neg (by omega), hp, h]
  rfl

theorem mfsRead_priv_unlisted (hp : s.ctx.priv = true) (hn : 0x100 ≤ n.toNat) (h : s.privReg n.toNat = none) :
    s.mfsRead n = trapS (opTrap (n.zeroExtend 64)) := by
  unfold State.mfsRead
  rw [if_neg (by omega), hp, h]
  rfl

theorem mfsRead_not_priv (hp : s.ctx.priv = false) (hn : 0x100 ≤ n.toNat) :
    s.mfsRead n = trapS { cause := 0x04, info1 := n.zeroExtend 64 } := by
  unfold State.mfsRead
  rw [if_neg (by omega), hp]
  rfl

end

/-- From 0x013 on a special register stands in one of the ranges of Table 3.5 or in none. -/
theorem special_ranges (s : State) (n : Nat) (h : 0x013 ≤ n) : s.special n =
    if 0x020 ≤ n ∧ n ≤ 0x027 then some (s.rdK (n - 0x020))
    else if 0x030 ≤ n ∧ n ≤ 0x033 then some (.ok (s.ctx.wps.getD (n - 0x030) {}).val)
    else if 0x040 ≤ n ∧ n ≤ 0x045 then some (.ok (BitVec.ofNat 64 (s.ctx.tls.getD (n - 0x040) {}).done))
    else if 0x046 ≤ n ∧ n ≤ 0x04F then some (.ok 0)
    else none := by
  unfold State.special
  split
  rotate_right
  · rfl
  all_goals omega

theorem special_clip (s : State) (k : Nat) (h : k < 8) : s.special (0x020 + k) = some (s.rdK k) := by
  rw [special_ranges s _ (by omega), if_pos (by omega), Nat.add_sub_cancel_left]

theorem special_pointer (s : State) (k : Nat) (h : k < 4) : s.special (0x030 + k) = some (.ok (s.ctx.wps.getD k {}).val) := by
  rw [special_ranges s _ (by omega), if_neg (by omega), if_pos (by omega), Nat.add_sub_cancel_left]

theorem special_timeline (s : State) (k : Nat) (h : k < 6) : s.special (0x040 + k) = some (.ok (BitVec.ofNat 64 (s.ctx.tls.getD k {}).done)) := by
  rw [special_ranges s _ (by omega), if_neg (by omega), if_neg (by omega), if_pos (by omega), Nat.add_sub_cancel_left]

theorem special_timeline_absent (s : State) (k : Nat) (h6 : 6 ≤ k) (h : k < 16) : s.special (0x040 + k) = some (.ok 0) := by
  rw [special_ranges s _ (by omega), if_neg (by omega), if_neg (by omega), if_neg (by omega), if_pos (by omega)]

theorem special_unlisted (s : State) (n : Nat) (h : n ∈ [0x005, 0x006, 0x007, 0x00F] ∨ (0x013 ≤ n ∧ n < 0x020) ∨ (0x028 ≤ n ∧ n < 0x030)
    ∨ (0x034 ≤ n ∧ n < 0x040) ∨ (0x050 ≤ n ∧ n < 0x100)) : s.special n = none := by
  rcases h with h | h
  · simp only [List.mem_cons, List.not_mem_nil, or_false] at h
    rcases h with rfl | rfl | rfl | rfl <;> rfl
  · rw [special_ranges s n (by omega), if_neg (by omega), if_neg (by omega), if_neg (by omega), if_neg (by omega)]

theorem privReg_unlisted (s : State) (n : Nat) (h : 0x109 ≤ n) : s.privReg n = none := by
  unfold State.privReg
  split
  rotate_right
  · rfl
  all_goals omega

/-- A number within a range of Table 3.5. -/
theorem toNat_add_small (a k : BitVec 12) (h : a.toNat + k.toNat < 4096) : (a + k).toNat = a.toNat + k.toNat := by
  rw [BitVec.toNat_add, Nat.mod_eq_of_lt h]

theorem mfsRead_ranged {s : State} {r : SlotR Word} {a k : BitVec 12} (h : a.toNat + k.toNat < 0x100) (hr : s.special (a.toNat + k.toNat) = some r) :
    s.mfsRead (a + k) = r := by
  have hn := toNat_add_small a k (by omega)
  exact mfsRead_special (by omega) (hn ▸ hr)

end Sys2Proof.Machine

section
open Sys2Proof Sys2Proof.Machine

/-- Settles O17: what mfs reads under each number, and the trap where there is nothing to read. -/
theorem specialRegisterReads : Obligations.SpecialRegisterReads := by
  unfold Obligations.SpecialRegisterReads
  intro s d hd
  refine ⟨?listed, fun k hk hv => ?clip, fun k hk hv => ?invalid, fun n hn => ?unlisted, fun k hk => ?pointer, fun k hk => ?timeline,
    fun k h6 hk => ?absent, fun hp => ?priv, fun hp n hn => exec_mfs_trap hd (mfsRead_not_priv hp hn)⟩
  case listed =>
    refine fun f hf => exec_mfs_ok hd ?_
    revert f
    exact List.forall_iff_forall_mem.mp ⟨rfl, rfl, rfl, rfl, rfl, rfl, rfl, rfl, rfl, rfl, rfl, rfl, rfl, rfl, rfl⟩
  case clip =>
    refine exec_mfs_ok hd ((mfsRead_ranged (a := 0x020) (by simp; omega) (special_clip s _ hk)).trans ?_)
    simp [State.rdK, hv]
  case invalid =>
    refine exec_mfs_trap hd ((mfsRead_ranged (a := 0x020) (by simp; omega) (special_clip s _ hk)).trans ?_)
    simp [State.rdK, hv, regInfo]
  case unlisted =>
    have hcase := hn
    simp only [← or_assoc] at hcase
    rcases hcase with hlow | ⟨hp, h9⟩
    · simp only [or_assoc] at hlow
      have hn : n.toNat < 0x100 := by
        simp only [List.mem_cons, List.not_mem_nil, or_false] at hlow
        omega
      exact exec_mfs_trap hd (mfsRead_unlisted hn (special_unlisted s _ hlow))
    · exact exec_mfs_trap hd (mfsRead_priv_unlisted hp (by omega) (privReg_unlisted s _ h9))
  case pointer => exact exec_mfs_ok hd (mfsRead_ranged (a := 0x030) (by simp; omega) (special_pointer s _ hk))
  case timeline => exact exec_mfs_ok hd (mfsRead_ranged (a := 0x040) (by simp; omega) (special_timeline s _ hk))
  case absent => exact exec_mfs_ok hd (mfsRead_ranged (a := 0x040) (by simp; omega) (special_timeline_absent s _ h6 hk))
  case priv =>
    have hread {n : BitVec 12} {w : Word} (hn : Nat.ble 0x100 n.toNat = true) (h : s.privReg n.toNat = some w) : s.mfsRead n = .ok w :=
      mfsRead_priv hp (Nat.le_of_ble_eq_true hn) h
    refine fun f hf => exec_mfs_ok hd ?_
    revert f
    exact List.forall_iff_forall_mem.mp ⟨hread rfl rfl, hread rfl rfl, hread rfl rfl, hread rfl rfl, hread rfl rfl, hread rfl rfl, hread rfl rfl,
      hread rfl rfl, hread rfl rfl⟩

end

namespace Sys2Proof.Machine

/-! ### mts and its checks (R56, R61, R74, R138, R160, R162, R300) -/

/-- What mts writes under a number, once its check is passed. -/
def State.mtsWrite (s : State) (n : BitVec 12) (v : Word) : SlotR Word :=
  if n.toNat < 0x100 then mtsCheck s n.toNat v
  else if !s.ctx.priv then trapS { cause := 0x04, info1 := n.zeroExtend 64 }
  else mtsPriv s n.toNat v

section
variable {s : State} {a : BitVec 6} {n : BitVec 12} {v : Word}

theorem exec_mts (ha : s.rdS a = .ok v) :
    exec (.mts n a) s = finish s (do
      let w ← s.mtsWrite n v
      pure (s.postX n.toNat 1 w)) := by
  show finish s (s.rdS a >>= _) = _
  rw [ha, ok_bind]
  unfold State.mtsWrite
  split
  · rfl
  · split <;> rfl

theorem exec_mts_trap {t : Trap} (ha : s.rdS a = .ok v) (h : s.mtsWrite n v = trapS t) : exec (.mts n a) s = .next (trapped s t) := by
  rw [exec_mts ha, h]
  rfl

/-- A check that decides between a value and a trap. -/
theorem exec_mts_checked {w : Word} {t : Trap} {c : Bool} (ha : s.rdS a = .ok v) (h : s.mtsWrite n v = if c = true then .ok w else trapS t) :
    exec (.mts n a) s = .next (if c = true then s.postX n.toNat 1 w else trapped s t) := by
  rw [exec_mts ha, h]
  cases c <;> rfl

theorem mtsWrite_low (hn : n.toNat < 0x100) : s.mtsWrite n v = mtsCheck s n.toNat v := if_pos hn

theorem mtsWrite_priv (hp : s.ctx.priv = true) (hn : 0x100 ≤ n.toNat) : s.mtsWrite n v = mtsPriv s n.toNat v := by
  unfold State.mtsWrite
  rw [if_neg (by omega), hp]
  rfl

theorem mtsWrite_not_priv (hp : s.ctx.priv = false) (hn : 0x100 ≤ n.toNat) : s.mtsWrite n v = trapS { cause := 0x04, info1 := n.zeroExtend 64 } := by
  unfold State.mtsWrite
  rw [if_neg (by omega), hp]
  rfl

end

theorem mtsCheck_unlisted (s : State) (n : Nat) (v : Word) (h : n < 0x008 ∨ (0x00F ≤ n ∧ n < 0x020) ∨ 0x028 ≤ n) :
    mtsCheck s n v = trapS (opTrap (BitVec.ofNat 64 n)) := by
  unfold mtsCheck
  split
  rotate_right
  · exact if_neg (by omega)
  all_goals omega

theorem mtsPriv_unlisted (s : State) (n : Nat) (v : Word) (h : 0x109 ≤ n) : mtsPriv s n v = trapS (opTrap (BitVec.ofNat 64 n)) := by
  unfold mtsPriv
  simp only
  split
  rotate_right
  · rfl
  all_goals omega

/-- The six low bits of a word, as a number. -/
theorem low_bits_zero (v : Word) : (v &&& 0x3F == 0) = decide (v.toNat % 64 = 0) := by
  rw [Bool.eq_iff_iff, beq_iff_eq, decide_eq_true_iff, BitVec.toNat_eq, BitVec.toNat_and]
  rw [show (0x3F : Word).toNat = 2 ^ 6 - 1 from rfl, Nat.and_two_pow_sub_one_eq_mod]
  rfl

/-- The registers below 0x100 whose check can fail. -/
theorem mtsCheck_listed (s : State) (v : Word) :
    let bad : Trap := { cause := 0x03, info1 := BitVec.ofNat 64 s.iss.word }
    mtsCheck s 0x008 v = (if modeOk v = true then .ok v else trapS bad)
      ∧ mtsCheck s 0x00A v = (if decide (v.toNat < 16) = true then .ok v else trapS (opTrap v))
      ∧ mtsCheck s 0x00B v = (if windowOk s.ownSet v.toNat = true then .ok v else trapS { cause := 0x0A, addr := v })
      ∧ mtsCheck s 0x00C v = (if decide (v.toNat < 48) = true then .ok v else trapS (opTrap v))
      ∧ mtsCheck s 0x00D v = (if decide (v.toNat < 8) = true then .ok v else trapS (opTrap v)) := by
  simp only [mtsCheck, decide_eq_true_iff, Nat.lt_succ_iff, true_and]

end Sys2Proof.Machine

section
open Sys2Proof Sys2Proof.Machine

/-- Settles O18: each register's check decides between its value and its trap; a number that no register has, traps. -/
theorem specialRegisterWrites : Obligations.SpecialRegisterWrites := by
  unfold Obligations.SpecialRegisterWrites
  intro s a v ha
  refine ⟨?low, fun hp => ?priv, fun hp n hn => exec_mts_trap ha (mtsWrite_not_priv hp hn), fun n hn => ?unlisted⟩
  case low =>
    obtain ⟨hmode, hmsel, hvwb, hrrb, hprb⟩ := mtsCheck_listed s v
    have hwrite {n : BitVec 12} {w : SlotR Word} (hn : Nat.blt n.toNat 0x100 = true) (h : mtsCheck s n.toNat v = w) : s.mtsWrite n v = w :=
      (mtsWrite_low (Nat.le_of_ble_eq_true hn)).trans h
    refine fun f hf => exec_mts_checked ha ?_
    revert f
    exact List.forall_iff_forall_mem.mp ⟨hwrite rfl hmode, hwrite rfl rfl, hwrite rfl hmsel, hwrite rfl hvwb, hwrite rfl hrrb, hwrite rfl hprb,
      hwrite rfl rfl, hwrite rfl rfl, hwrite rfl rfl, hwrite rfl rfl, hwrite rfl rfl, hwrite rfl rfl, hwrite rfl rfl, hwrite rfl rfl, hwrite rfl rfl⟩
  case priv =>
    have hwrite {n : BitVec 12} {w : SlotR Word} (hn : Nat.ble 0x100 n.toNat = true) (h : mtsPriv s n.toNat v = w) : s.mtsWrite n v = w :=
      (mtsWrite_priv hp (Nat.le_of_ble_eq_true hn)).trans h
    have hspovf : mtsPriv s 0x105 v = if decide (v.toNat % 64 = 0) = true then .ok v else trapS (opTrap v) := low_bits_zero v ▸ rfl
    refine fun f hf => exec_mts_checked ha ?_
    revert f
    exact List.forall_iff_forall_mem.mp ⟨hwrite rfl rfl, hwrite rfl rfl, hwrite rfl rfl, hwrite rfl rfl, hwrite rfl rfl, hwrite rfl hspovf,
      hwrite rfl rfl, hwrite rfl rfl, hwrite rfl rfl⟩
  case unlisted =>
    have hinfo : BitVec.ofNat 64 n.toNat = n.zeroExtend 64 := BitVec.ofNat_toNat 64 n
    rw [← hinfo]
    by_cases hlow : n.toNat < 0x100
    · exact exec_mts_trap ha ((mtsWrite_low hlow).trans (mtsCheck_unlisted s _ v (by omega)))
    · obtain h | h | h | ⟨hp, h⟩ := hn
      iterate 3 omega
      exact exec_mts_trap ha ((mtsWrite_priv hp (by omega)).trans (mtsPriv_unlisted s _ v h))

end

/-! ## Visible results and the reads of registers -/

namespace Sys2Proof.Machine

/-! ### The register write of a result, by the kind of its register (R227) -/

section
variable {s : State} {p : Pend} {n : Nat} {f : DFault}

theorem writeDest_scalar (hf : p.fault = none) (hd : p.dest = ⟨0, n⟩) :
    s.writeDest p = { s with ctx := s.ctx.setS n { val := p.val.truncate 64, valid := true, full := true, fault := none } } := by
  simp only [State.writeDest, hd, hf]

theorem writeDest_scalar_fault (hf : p.fault = some f) (hd : p.dest = ⟨0, n⟩) :
    s.writeDest p = { s with ctx := s.ctx.setS n { val := Config.freeWord s.free, valid := true, full := true, fault := some f }, free := s.free + 1 } := by
  simp only [State.writeDest, hd, hf]

theorem writeDest_predicate (hd : p.dest = ⟨1, n⟩) : s.writeDest p = { s with ctx := s.ctx.setP n ⟨p.val.getLsbD 0, true⟩ } := by
  have hbit : (p.val.truncate 64).getLsbD 0 = p.val.getLsbD 0 := by simp
  simp only [State.writeDest, hd, hbit]

theorem writeDest_mask (hd : p.dest = ⟨2, n⟩) : s.writeDest p = { s with ctx := s.ctx.setM n ⟨p.val.truncate 512, true⟩ } := by
  simp only [State.writeDest, hd]

theorem writeDest_row (hf : p.fault = none) (hd : p.dest = ⟨3, n⟩) :
    s.writeDest p = ({ s with ctx := s.ctx.wrote [n] } : State).setRow s.ctx.core n ((s.row s.ctx.core n).result p.val p.msk) := by
  simp only [State.writeDest, hd, hf]

theorem writeDest_row_fault (hf : p.fault = some f) (hd : p.dest = ⟨3, n⟩) :
    s.writeDest p = { ({ s with ctx := s.ctx.wrote [n] } : State).setRow s.ctx.core n
      { s.row s.ctx.core n with bits := Config.freeRow s.free, valid := true, full := true, fault := some f, mark := false } with free := s.free + 1 } := by
  simp only [State.writeDest, hd, hf]

theorem writeDest_special (hd : p.dest = ⟨4, n⟩) : s.writeDest p = { s with ctx := s.ctx.setSpecial n (p.val.truncate 64) } := by
  simp only [State.writeDest, hd]

theorem writeDest_clip (hd : p.dest = ⟨5, n⟩) : s.writeDest p = { s with ctx := s.ctx.setK n ⟨p.val.truncate 64, true⟩ } := by
  simp only [State.writeDest, hd]

theorem writeDest_nothing (hd : p.dest.kind = 6) : s.writeDest p = s := by
  simp only [State.writeDest, hd]

end

/-- s0, p0 and m0 are never written (R50, R53). -/
theorem writeDest_constant {s : State} {p : Pend} (hf : p.fault = none) (hd : p.dest ∈ [⟨0, 0⟩, ⟨1, 0⟩, ⟨2, 0⟩]) : s.writeDest p = s := by
  simp only [List.mem_cons, List.not_mem_nil, or_false] at hd
  obtain hd | hd | hd := hd
  · rw [writeDest_scalar hf hd, setS_zero]
  · rw [writeDest_predicate hd, setP_zero]
  · rw [writeDest_mask hd, setM_zero]

/-! ### What the write of one register leaves -/

theorem setS_frame (c : Ctx) {n : Nat} (r : SReg) (h : n ≠ 0) : { c.setS n r with s := c.s } = c := by
  rw [Ctx.setS, if_neg h]

theorem setP_frame (c : Ctx) {n : Nat} (r : PReg) (h : n ≠ 0) : { c.setP n r with p := c.p } = c := by
  rw [Ctx.setP, if_neg h]

theorem setM_frame (c : Ctx) {n : Nat} (r : MReg) (h : n ≠ 0) : { c.setM n r with m := c.m } = c := by
  rw [Ctx.setM, if_neg h]

theorem kreg_setK_same (c : Ctx) (n : Nat) (r : KReg) : (c.setK n r).kreg n = r := tabGet_tabSet_same _ _ _ _

theorem kreg_setK_other (c : Ctx) {n k : Nat} (r : KReg) (h : k ≠ n) : (c.setK n r).kreg k = c.kreg k := tabGet_tabSet_other _ _ _ _ _ h

/-- The numbers 0x020 to 0x027 are the clip registers (Table 3.5). -/
theorem setSpecial_clip (c : Ctx) {n : Nat} (v : Word) (h : n < 8) : c.setSpecial (0x020 + n) v = c.setK n ⟨v, true⟩ := by
  interval_cases n <;> rfl

theorem row_withFree (s : State) (k core r : Nat) : ({ s with free := k } : State).row core r = s.row core r := rfl

theorem rowKey_ne {c d k n : Nat} (h : c ≠ d ∨ k ≠ n) (hk : k < 2048) (hn : n < 2048) : rowKey c k ≠ rowKey d n := by
  unfold rowKey
  omega

/-! ### A Z row as a result leaves it (R227, R348) -/

section
variable (z : ZRow) (val msk : Row)

theorem result_full : (z.result val msk).valid = true ∧ (z.result val msk).full = true := by
  unfold ZRow.result ZRow.written
  split <;> exact ⟨rfl, rfl⟩

theorem result_unmarked (h : z.mark = false ∨ msk = allRow) : (z.result val msk).fault = none ∧ (z.result val msk).mark = false := by
  have hno : ¬ (z.mark = true ∧ msk ≠ allRow) := by
    rintro ⟨hm, ha⟩
    obtain h | h := h
    · rw [h] at hm
      cases hm
    · exact ha h
  unfold ZRow.result ZRow.written
  rw [if_neg hno]
  exact ⟨rfl, rfl⟩

theorem result_marked (hm : z.mark = true) (ha : msk ≠ allRow) : (z.result val msk).fault = z.fault ∧ (z.result val msk).mark = true := by
  unfold ZRow.result ZRow.written
  rw [if_pos ⟨hm, ha⟩]
  exact ⟨rfl, hm⟩

theorem result_bits : (z.result val msk).bits = ((if z.valid then z.bits else 0) &&& ~~~msk) ||| (val &&& msk) := by
  unfold ZRow.result ZRow.written
  split <;> rfl

theorem result_getLsbD {i : Nat} (hi : i < 4608) :
    (z.result val msk).bits.getLsbD i = if msk.getLsbD i then val.getLsbD i else (z.valid && z.bits.getLsbD i) := by
  rw [result_bits, BitVec.getLsbD_or, BitVec.getLsbD_and, BitVec.getLsbD_and, BitVec.getLsbD_not]
  cases msk.getLsbD i
  · cases z.valid
    · simp only [Bool.false_eq_true, if_false, show BitVec.getLsbD (0 : Row) i = false from BitVec.getLsbD_zero, Bool.false_and, Bool.and_false, Bool.or_false]
    · simp only [hi, decide_true, Bool.not_false, Bool.and_true, Bool.and_false, Bool.or_false, if_true, Bool.false_eq_true, if_false, Bool.true_and]
  · simp only [Bool.not_true, Bool.and_false, Bool.false_or, Bool.and_true, if_true]

end

/-! ### Reads of a register (R50 to R52, R58) -/

section
variable {α : Type} {v : α} {valid full pol : Bool} {fault : Option DFault} {info : Word}

theorem readBits_invalid (hfull : full = true) (hfault : fault = none) (hvalid : valid = false) :
    readBits v valid full pol fault info = trapS { cause := 0x05, info1 := info } := by
  subst hfull hfault hvalid
  rfl

theorem readBits_fault {f : DFault} (hfull : full = true) (hfault : fault = some f) : readBits v valid full pol fault info = trapS f.trap := by
  subst hfull hfault
  rfl

theorem readBits_held (hfull : full = false) (hpol : pol = false) : readBits v valid full pol fault info = .error (.hold .empty) := by
  subst hfull hpol
  rfl

theorem readBits_emptyTrap (hfull : full = false) (hpol : pol = true) :
    readBits v valid full pol fault info = trapS { cause := 0x06, info1 := info } := by
  subst hfull hpol
  rfl

end

section
variable {s : State}

theorem rdS_eq (a : BitVec 6) : s.rdS a = readBits (s.ctx.sreg (a.toNat % 32)).val (s.ctx.sreg (a.toNat % 32)).valid
    (s.ctx.sreg (a.toNat % 32)).full (32 ≤ a.toNat) (s.ctx.sreg (a.toNat % 32)).fault (BitVec.ofNat 64 (a.toNat % 32)) := by
  have hinfo : regInfo 0 (a.toNat % 32) = BitVec.ofNat 64 (a.toNat % 32) := by rw [regInfo, Nat.zero_mul, Nat.zero_add]
  rw [← hinfo]
  rfl

theorem rdP_invalid {x : BitVec 4} (h : (s.ctx.preg (physP s.ctx x.toNat)).valid = false) :
    s.rdP x.toNat = trapS { cause := 0x05, info1 := BitVec.ofNat 64 (0x1000 + physP s.ctx x.toNat) } := by
  simp only [State.rdP, h, Bool.false_eq_true, if_false]
  rfl

theorem rdM_invalid {x : BitVec 4} (h : (s.ctx.mreg (physP s.ctx x.toNat)).valid = false) :
    s.rdM x.toNat = trapS { cause := 0x05, info1 := BitVec.ofNat 64 (0x2000 + physP s.ctx x.toNat) } := by
  simp only [State.rdM, h, Bool.false_eq_true, if_false]
  rfl

theorem rdV_busy {a : BitVec 6} (h : s.busy s.ctx.core (physV s.ctx a.toNat / 128) = true) : s.rdV a = .error (.hold .busy) := by
  rw [State.rdV, State.rdRow, if_pos h]

theorem rdV_free {a : BitVec 6} (h : s.busy s.ctx.core (physV s.ctx a.toNat / 128) = false) :
    let z := s.rowBefore (physV s.ctx a.toNat)
    s.rdV a = readBits z.bits z.valid z.full z.pol z.fault (BitVec.ofNat 64 (0x3000 + physV s.ctx a.toNat)) := by
  rw [State.rdV, State.rdRow, if_neg (by rw [h]; exact Bool.false_ne_true)]
  rfl

end

/-! ### Slots that stop at a reading -/

theorem finish_trap (s : State) (t : Trap) : finish s (.error (.trap t)) = .next (trapped s t) := rfl

theorem finish_hold (s : State) (h : Hold) : finish s (.error (.hold h)) = .next (held s h) := rfl

theorem both_error_left {α β : Type} (e : Stop) (y : β) : both (.error e : SlotR α) (.ok y) = .error e := by cases e <;> rfl

section
variable {s : State} {e : Stop}

/-! A slot stops at the reading that stops. -/

theorem exec_pmov_error {a : BitVec 6} (p : BitVec 4) (h : s.rdS a = .error e) : exec (.pmov p a) s = finish s (.error e) := by
  change finish s (s.rdS a >>= _) = _
  rw [h]
  rfl

theorem exec_plog_trap {x : BitVec 4} {t : Trap} (d f : BitVec 4) (h : s.rdP x.toNat = trapS t) : exec (.plog d f x x) s = .next (trapped s t) := by
  change finish s (both (s.rdP x.toNat) (s.rdP x.toNat) >>= _) = _
  rw [h]
  rfl

theorem exec_mlog_trap {x : BitVec 4} {t : Trap} (d f : BitVec 4) (h : s.rdM x.toNat = trapS t) : exec (.mlog d f x x) s = .next (trapped s t) := by
  change finish s (both (s.rdM x.toNat) (s.rdM x.toNat) >>= _) = _
  rw [h]
  rfl

theorem exec_vlane_error {d : BitVec 5} {a b : BitVec 6} {y : Word} (hb : s.rdS b = .ok y) (hd : s.dstS d.toNat = .ok ())
    (h : s.rdV a = .error e) : exec (.vlane d a b) s = finish s (.error e) := by
  change finish s (both (both (s.rdV a) (s.rdS b)) (s.dstS d.toNat) >>= _) = _
  rw [h, hb, hd, both_error_left, both_error_left]
  rfl

end

end Sys2Proof.Machine

section
open Sys2Proof Sys2Proof.Machine

/-- Settles O11, by kind of result and, for the reads, by what stops them. -/
theorem visibleResultWritesItsRegister : Obligations.VisibleResultWritesItsRegister := by
  unfold Obligations.VisibleResultWritesItsRegister
  refine ⟨fun s pol => ⟨fun p hf hd => writeDest_constant hf hd, rfl, rfl, rfl⟩, fun s p hf => ?free, fun s p f hf => ?faulted, fun s => ?reads⟩
  case free =>
    refine ⟨fun n hd hn => ?_, fun n hd hn => ?_, fun n hd hn => ?_, fun n hd => ?_, ?_, fun n hn hd => ?_, fun hd => writeDest_nothing hd⟩
    · rw [writeDest_scalar hf hd]
      refine ⟨sreg_setS_same _ _ _ hn, fun k hk => sreg_setS_other _ _ _ _ hk, ?_⟩
      simp only [setS_frame _ _ hn]
    · rw [writeDest_predicate hd]
      refine ⟨preg_setP_same _ _ _ hn, fun k hk => preg_setP_other _ _ _ _ hk, ?_⟩
      simp only [setP_frame _ _ hn]
    · rw [writeDest_mask hd]
      refine ⟨mreg_setM_same _ _ _ hn, fun k hk => mreg_setM_other _ _ _ _ hk, ?_⟩
      simp only [setM_frame _ _ hn]
    · rw [writeDest_row hf hd]
      simp only [row_setRow_same]
      obtain ⟨hvalid, hfull⟩ := result_full (s.row s.ctx.core n) p.val p.msk
      exact ⟨hvalid, hfull, result_unmarked _ _ _, result_marked _ _ _, fun i hi => result_getLsbD _ _ _ hi,
        fun core k h hk hn => row_setRow_other _ _ _ _ _ _ (rowKey_ne h hk hn), rfl⟩
    · exact List.forall_iff_forall_mem.mp ⟨writeDest_special, writeDest_special, writeDest_special, writeDest_special, writeDest_special,
        writeDest_special, writeDest_special, writeDest_special, writeDest_special, writeDest_special, writeDest_special, writeDest_special,
        writeDest_special, writeDest_special, writeDest_special, writeDest_special⟩
    · have hw : s.writeDest p = { s with ctx := s.ctx.setK n ⟨p.val.truncate 64, true⟩ } := by
        obtain hd | hd := hd
        · exact writeDest_clip hd
        · rw [writeDest_special hd, setSpecial_clip _ _ hn]
      rw [hw]
      exact ⟨kreg_setK_same _ _ _, fun k hk => kreg_setK_other _ _ hk, rfl⟩
  case faulted =>
    refine ⟨fun n hd hn => ?_, fun n hd => ?_⟩
    · rw [writeDest_scalar_fault hf hd]
      refine ⟨sreg_setS_same _ _ _ hn, fun k hk => sreg_setS_other _ _ _ _ hk, ?_⟩
      simp only [setS_frame _ _ hn]
    · rw [writeDest_row_fault hf hd]
      simp only [row_withFree, row_setRow_same, true_and]
      exact ⟨fun core k h hk hn => row_setRow_other _ _ _ _ _ _ (rowKey_ne h hk hn), rfl⟩
  case reads =>
    refine ⟨fun p a ha => ⟨fun hfull hfault hvalid => ?_, fun hfull f hfault => ?_, fun hfull => ?_⟩, fun d f x hx => ?_, fun d f x hx => ?_,
      fun d a b y hb hd => ⟨fun hbusy => ?_, fun hbusy => ⟨fun hfull hfault hvalid => ?_, fun hfull f hfault => ?_, fun hfull => ?_⟩⟩⟩
    · have h : s.rdS a = trapS { cause := 0x05, info1 := BitVec.ofNat 64 (a.toNat % 32) } := by
        rw [rdS_eq, readBits_invalid hfull hfault hvalid]
      rw [exec_pmov_error p h, finish_trap]
    · have h : s.rdS a = trapS f.trap := by rw [rdS_eq, readBits_fault hfull hfault]
      exact (exec_pmov_error p h).trans (finish_trap s f.trap)
    · by_cases hpol : a.toNat < 32
      · have h : s.rdS a = .error (.hold .empty) := by rw [rdS_eq, readBits_held hfull (by simp [hpol])]
        rw [if_pos hpol, exec_pmov_error p h, finish_hold]
      · have h : s.rdS a = trapS { cause := 0x06, info1 := BitVec.ofNat 64 (a.toNat % 32) } := by
          rw [rdS_eq, readBits_emptyTrap hfull (by simpa using hpol)]
        rw [if_neg hpol, exec_pmov_error p h, finish_trap]
    · exact exec_plog_trap d f (rdP_invalid hx)
    · exact exec_mlog_trap d f (rdM_invalid hx)
    · rw [exec_vlane_error hb hd (rdV_busy hbusy), finish_hold]
    · have h := (rdV_free hbusy).trans (readBits_invalid hfull hfault hvalid)
      rw [exec_vlane_error hb hd h, finish_trap]
    · have h := (rdV_free hbusy).trans (readBits_fault hfull hfault)
      exact (exec_vlane_error hb hd h).trans (finish_trap s f.trap)
    · cases hpol : (s.rowBefore (physV s.ctx a.toNat)).pol
      · have h := (rdV_free hbusy).trans (readBits_held hfull hpol)
        rw [exec_vlane_error hb hd h, finish_hold]
        rfl
      · have h := (rdV_free hbusy).trans (readBits_emptyTrap hfull hpol)
        rw [exec_vlane_error hb hd h, finish_trap]
        rfl

end

/-! ## Scalar loads -/

namespace Sys2Proof.Machine

/-! ### How many bytes a read brings -/

theorem length_memRead (m : Memory) (a n : Nat) : (memRead m a n).length = n := by simp [memRead]

theorem length_rowBytes (r : Row) (o n : Nat) : (rowBytes r o n).length = n := length_leBytes _ _

theorem length_bufBytes (s : State) (b k n : Nat) (bs : List Byte) (h : s.bufBytes b k n = .ok bs) : bs.length = n := by
  unfold State.bufBytes at h
  split at h
  · cases h
  · cases h
    exact length_memRead _ _ _

theorem length_segBytes (s : State) (b : Nat) (segs : List (Nat × Nat)) (bs : List Byte) (h : s.segBytes b segs = .ok bs) :
    bs.length = (segs.map Prod.snd).sum := by
  induction segs generalizing bs with
  | nil => cases h; rfl
  | cons x xs ih =>
    unfold State.segBytes at h
    split at h
    · cases h
    · next u hu =>
      split at h
      · cases h
      · next w hw =>
        cases h
        rw [List.length_append, length_bufBytes s b _ _ u hu, ih w hw, List.map_cons, List.sum_cons]

theorem sum_filter_ne_zero (segs : List (Nat × Nat)) : ((segs.filter (fun x => x.2 != 0)).map Prod.snd).sum = (segs.map Prod.snd).sum := by
  induction segs with
  | nil => rfl
  | cons x xs ih =>
    by_cases h : x.2 = 0
    · rw [List.filter_cons_of_neg (by simp [h]), ih, List.map_cons, List.sum_cons, h, Nat.zero_add]
    · rw [List.filter_cons_of_pos (by simp [h]), List.map_cons, List.map_cons, List.sum_cons, List.sum_cons, ih]

/-- The pieces of n bytes make n bytes (R342). -/
theorem sum_spanSegs (k n lo len base : Nat) : ((spanSegs k n lo len base).map Prod.snd).sum = n := by
  unfold spanSegs
  simp only
  split
  · simp
  · rw [sum_filter_ne_zero]
    simp only [List.map_cons, List.map_nil, List.sum_cons, List.sum_nil]
    omega

theorem length_readPlace (s : State) (arr n : Nat) (p : Place) (bs : List Byte) (hn : n ≤ 8) (h : s.readPlace arr p n = .ok bs) : bs.length = n := by
  cases p with
  | dev pa =>
    unfold State.readPlace at h
    simp only at h
    split at h
    · cases h
    · cases h
      simp
  | host pa => cases h; exact length_memRead _ _ _
  | peer k =>
    unfold State.readPlace at h
    simp only at h
    split at h
    · cases h
      simp
    · cases h
  | buf b k => exact length_bufBytes s b k n bs h
  | span b k lo len base => exact (length_segBytes s b _ bs h).trans (sum_spanSegs k n lo len base)
  | row core r o =>
    unfold State.readPlace at h
    simp only at h
    split at h
    · cases h
    · split at h
      · cases h
        exact length_rowBytes _ _ _
      · cases h
  | wake q =>
    cases h
    rw [List.length_take, length_leBytes, Nat.min_eq_left hn]
  | ctl o => cases h; exact List.length_replicate ..

theorem length_loadElem (s : State) (a : Word) (n : Nat) (bs : List Byte) (hn : n ≤ 8) (h : (s.loadElem a n).2 = .ok bs) : bs.length = n := by
  unfold State.loadElem at h
  simp only at h
  split at h
  · cases h
  · split at h
    · cases h
      exact length_leBytes _ _
    · exact length_readPlace _ _ n _ bs hn h

/-! ### The value of a loaded element (R196) -/

/-- The top bit of a number of n bits says whether it is at least half of their range. -/
theorem testBit_top (n x : Nat) (hn : 0 < n) (hx : x < 2 ^ n) : x.testBit (n - 1) = decide (2 ^ (n - 1) ≤ x) := by
  have hdouble : 2 ^ n = 2 * 2 ^ (n - 1) := by rw [Nat.mul_comm, Nat.two_pow_pred_mul_two hn]
  by_cases h : 2 ^ (n - 1) ≤ x
  · rw [decide_eq_true h, Nat.testBit_eq_decide_div_mod_eq]
    have hone : x / 2 ^ (n - 1) = 1 := Nat.div_eq_of_lt_le (by omega) (by omega)
    rw [hone]
    rfl
  · rw [decide_eq_false h]
    exact Nat.testBit_lt_two_pow (by omega)

theorem extendLd_signed (n : Nat) (bs : List Byte) (hn : 0 < n) (hl : bs.length = n) :
    extendLd n true bs = BitVec.ofInt 64 (decI (8 * n) (leNat bs)) := by
  have hlt : leNat bs < 2 ^ (8 * n) := hl ▸ leNat_lt bs
  unfold extendLd decI
  simp only [Bool.true_and, Nat.mod_eq_of_lt hlt, testBit_top (8 * n) _ (by omega) hlt, decide_eq_true_iff]
  split
  · rfl
  · rw [BitVec.ofInt_natCast]

theorem extendLd_unsigned (n : Nat) (bs : List Byte) : extendLd n false bs = BitVec.ofNat 64 (leNat bs) := rfl

theorem extendLd_eq (n : Nat) (sg : Bool) (bs : List Byte) (hn : 0 < n) (hl : bs.length = n) :
    extendLd n sg bs = if sg then BitVec.ofInt 64 (decI (8 * n) (leNat bs)) else BitVec.ofNat 64 (leNat bs) := by
  cases sg
  · exact extendLd_unsigned n bs
  · exact extendLd_signed n bs hn hl

/-! ### A load of one element (R51, R52, R191 to R196) -/

/-- The check of an update form's destination passes where the base is another register. -/
theorem update_elsewhere {u : Bool} {k m : Nat} (h : u = true → k ≠ m) : (!(u && k == m)) = true := by
  cases u
  · rfl
  · simp [h rfl]

section
variable {s : State} {d : BitVec 5} {b : BitVec 6} {x : MIdx} {base off : Word} (n : Nat) (sg : Bool)
  (hb : s.rdS b = .ok base) (hx : s.mdisp x = .ok off) (hd : s.dstS d.toNat = .ok ())
include hb hx hd

theorem loadS_base (hu : (midxExt x).u = true) (hn : srcNum b = d.toNat) :
    loadS s d b x n sg = .next (trapped s (opTrap (BitVec.ofNat 64 d.toNat))) := by
  unfold loadS
  simp only [hb, hx, hd, hu, hn, both_ok, ok_bind, beq_self_eq_true, Bool.and_self, Bool.not_true, need_false]
  rfl

variable (hu : (midxExt x).u = true → srcNum b ≠ d.toNat) (hcheck : s.issueCheck .ld (base + off) n = .ok ())
  (hhold : s.elemHold (base + off) n = .ok ()) (hroom : s.room (s.ctx.asks (base + off)) = true)
include hu hcheck hhold hroom

theorem loadS_value (hn : 0 < n) (h8 : n ≤ 8) {bs : List Byte} (hbs : (s.loadElem (base + off) n).2 = .ok bs) :
    let a := base + off
    let t := (s.loadElem a n).1.baseUpd (midxExt x).u b a
    let v : Word := if sg then BitVec.ofInt 64 (decI (8 * n) (leNat bs)) else BitVec.ofNat 64 (leNat bs)
    let f := s.watchFault a n (some (BitVec.ofNat 64 (leNat bs)))
    loadS s d b x n sg = .next (if longPath a then t.pendLoad ⟨0, d.toNat⟩ false a [a] (v.zeroExtend 4608) allRow 0 f 1
      else t.postLocal ⟨0, d.toNat⟩ (v.zeroExtend 4608) allRow 0 f (s.ctx.overflows a)) := by
  have hneed := update_elsewhere hu
  simp only
  rw [← extendLd_eq n sg bs hn (length_loadElem s _ n bs h8 hbs)]
  unfold loadS
  simp only [hb, hx, hd, hneed, hcheck, hhold, hroom, hbs, both_ok, ok_bind, need_true, await_true, finish_pure]

theorem loadS_fault {g : Flt} (hg : (s.loadElem (base + off) n).2 = .error g) :
    let a := base + off
    let t := (s.loadElem a n).1.baseUpd (midxExt x).u b a
    loadS s d b x n sg = .next (if longPath a then t.pendLoad ⟨0, d.toNat⟩ false a [a] 0 allRow 0 (some (s.dfault g a)) 1
      else t.postLocal ⟨0, d.toNat⟩ 0 allRow 0 (some (s.dfault g a)) (s.ctx.overflows a)) := by
  have hneed := update_elsewhere hu
  have hzero : BitVec.zeroExtend 4608 (0 : Word) = 0 := by simp
  unfold loadS
  simp only [hb, hx, hd, hneed, hcheck, hhold, hroom, hg, both_ok, ok_bind, need_true, await_true, finish_pure, hzero]

end

end Sys2Proof.Machine

section
open Sys2Proof Sys2Proof.Machine

/-- Settles O34: the seven scalar loads are one operation on n bytes, with or without the sign. -/
theorem scalarLoadsComplete : Obligations.ScalarLoadsComplete := by
  unfold Obligations.ScalarLoadsComplete
  intro s d b x base off hb hx hd
  refine ⟨fun hu hn => ?_, fun hu => ?_⟩
  · exact List.forall_iff_forall_mem.mp ⟨loadS_base 1 true hb hx hd hu hn, loadS_base 1 false hb hx hd hu hn, loadS_base 2 true hb hx hd hu hn,
      loadS_base 2 false hb hx hd hu hn, loadS_base 4 true hb hx hd hu hn, loadS_base 4 false hb hx hd hu hn, loadS_base 8 false hb hx hd hu hn⟩
  · have hload (f : BitVec 5 → BitVec 6 → MIdx → Instr) (n : Nat) (sg : Bool) (hf : exec (f d b x) s = loadS s d b x n sg) (hn : 0 < n) (h8 : n ≤ 8)
        (hcheck : s.issueCheck .ld (base + off) n = .ok ()) (hhold : s.elemHold (base + off) n = .ok ())
        (hroom : s.room (s.ctx.asks (base + off)) = true) :=
      And.intro
        (fun bs hbs (hw : s.watchFault (base + off) n (some (BitVec.ofNat 64 (leNat bs))) = none) => hf.trans ((loadS_value n sg hb hx hd hu hcheck hhold hroom hn h8 (bs := bs) hbs).trans (by rw [hw])))
        (fun g hg => hf.trans (loadS_fault n sg hb hx hd hu hcheck hhold hroom (g := g) hg))
    exact List.forall_iff_forall_mem.mp ⟨hload .ldB 1 true rfl (by decide) (by decide), hload .ldBu 1 false rfl (by decide) (by decide),
      hload .ldH 2 true rfl (by decide) (by decide), hload .ldHu 2 false rfl (by decide) (by decide),
      hload .ldW 4 true rfl (by decide) (by decide), hload .ldWu 4 false rfl (by decide) (by decide),
      hload .ldD 8 false rfl (by decide) (by decide)⟩

end

/-! ## A core's cycle -/

namespace Sys2Proof.Machine

theorem step_input {s : State} {i : Instr} {r : List Instr} (h : s.inputs = i :: r) : step s = exec i { s with inputs := r } := by
  unfold step
  rw [h]

theorem step_selected {s t : State} (hin : s.inputs = []) (hlt : s.since < 64) (hsel : s.select = some t) : step s = t.issueNow := by
  unfold step
  simp only [hin, if_neg (Nat.not_le.mpr hlt), hsel]

/-- Where a context's boundary has no trap and its yield lets none before it, its next bundle issues. -/
theorem goOn_issue {s : State} (htrap : s.ctx.trapped = false) (hyield : (s.ctx.yielded && s.yieldsTo s.ctx) = false)
    (hjoin : s.joinedWith s.ctx = none) : s.goOn = s.issue := by
  unfold State.goOn
  simp [htrap, hyield, hjoin]

theorem aside_some {s : State} {xs : List Slot} (h : s.aside = some xs) :
    s.ctx.trapped = false ∧ (s.ctx.yielded && s.yieldsTo s.ctx) = false := by
  unfold State.aside at h
  split at h
  · cases h
  · next hno =>
    simp only [Bool.or_eq_true, not_or, Bool.not_eq_true] at hno
    exact ⟨hno.1.2, hno.2⟩

theorem aside_alone {s u : State} {b : Bundle} (hf : s.fetch = .ok (u, b)) (hjoin : s.joinedWith s.ctx = none)
    (h : issuesAlone b.slots = true) : s.aside = none := by
  unfold State.aside
  simp [hf, hjoin, h]

theorem issuesAlone_of_mem {xs : List Slot} {x : Slot} (hx : x ∈ xs)
    (h : (∃ c, x.instr = .trap c) ∨ x.instr = .rft ∨ (∃ o, x.instr = .cropen o) ∨ x.instr = .crclose) : issuesAlone xs = true := by
  unfold issuesAlone
  refine List.any_eq_true.mpr ⟨x, hx, ?_⟩
  obtain ⟨c, h⟩ | h | ⟨o, h⟩ | h := h <;> rw [h]

theorem focus_cid {s t : State} {core cid : Nat} (h : s.focus core cid = some t) : t.ctx.cid = cid := by
  unfold State.focus at h
  split at h
  · next hc =>
    cases h
    simp only [Bool.and_eq_true, beq_iff_eq] at hc
    exact hc.2
  · split at h
    · cases h
    · next c hfind =>
      cases h
      have hc := List.find?_some hfind
      simp only [Bool.and_eq_true, beq_iff_eq] at hc
      exact hc.2

/-! ### The secondary (R41, R42) -/

theorem secondary_nil (us : List (Nat × Nat)) (n : Nat) (s : State) : State.secondary us n [] s = .next s := by
  cases n <;> rfl

section
variable {s n : State} {us : List (Nat × Nat)} {m : Ctx} {ys : List Slot} (k : Nat)
  (hfocus : s.focus m.core m.cid = some n) (haside : n.aside = some ys)
include hfocus haside

/-- A bundle that needs a unit of the primary's does not issue beside it. -/
theorem secondary_overlap (h : ∃ u ∈ unitsOf ys, u ∈ us) : State.secondary us (k + 1) [m] s = .next s := by
  have hany : (unitsOf ys).any us.contains = true := by
    obtain ⟨u, hu, hus⟩ := h
    exact List.any_eq_true.mpr ⟨u, hu, List.contains_iff_mem.mpr hus⟩
  unfold State.secondary
  simp [primary, hfocus, haside, hany]

/-- The only other ready context issues its bundle, where its units are free; held or not, none comes after it. -/
theorem secondary_issue {w : State} (h : ∀ u ∈ unitsOf ys, u ∉ us) (hjoin : n.joinedWith n.ctx = none) (hissue : n.issue = .next w) :
    State.secondary us (k + 1) [m] s = .next w := by
  have hfree : (unitsOf ys).any us.contains = false := by
    refine List.any_eq_false.mpr fun u hu hc => h u hu (List.contains_iff_mem.mp hc)
  obtain ⟨htrap, hyield⟩ := aside_some haside
  have hgo : n.goOn = .next w := (goOn_issue htrap hyield hjoin).trans hissue
  have hrest : [m].filter (fun c => c.cid != n.ctx.cid) = [] := by simp [focus_cid hfocus]
  unfold State.secondary
  simp only [primary, Option.bind_some, hfocus, haside, hfree, hgo, hrest, secondary_nil, Bool.false_eq_true, if_false, ite_self]

end

/-! ### The cycle of the selected context -/

section
variable {t v : State} (hgo : t.goOn = .next v)
include hgo

theorem issueNow_alone (h : t.aside = none) :
    t.issueNow = .next { v.grow t.ctx.core [t.ctx.cid % 4] with since := v.since + 1 } := by
  unfold State.issueNow
  simp only [hgo, h]
  rfl

/-- With a bundle that may issue beside another, the secondary follows where the primary's bundle took effect. -/
theorem issueNow_beside {xs : List Slot} {others : List Ctx} {u : State} (h : t.aside = some xs)
    (hothers : (t.liveOn t.ctx.core).filter (fun x => t.ready x && x.cid % 4 != t.ctx.cid % 4) = others)
    (hissued : others = [] ∨ ∃ x ∈ v.ctxs, x.core = t.ctx.core ∧ x.cid = t.ctx.cid ∧ x.bseq = t.ctx.bseq + 1)
    (hsec : State.secondary (unitsOf xs) 4 others (v.grow t.ctx.core [t.ctx.cid % 4]) = .next u) :
    t.issueNow = .next { u with since := u.since + 1 } := by
  unfold State.issueNow
  simp only [hgo, h, hothers]
  obtain rfl | ⟨x, hx, hcore, hcid, hseq⟩ := hissued
  · rw [secondary_nil] at hsec
    cases hsec
    simp only [secondary_nil, ite_self]
  · have hany : v.ctxs.any (fun x => x.core == t.ctx.core && x.cid == t.ctx.cid && x.bseq == t.ctx.bseq + 1) = true :=
      List.any_eq_true.mpr ⟨x, hx, by simp [hcore, hcid, hseq]⟩
    simp only [hany, if_true, hsec]

end

end Sys2Proof.Machine

section
open Sys2Proof Sys2Proof.Machine

/-- Settles O5: with one other ready context the secondary's turn is the last one of the cycle, whether its bundle is held or not. -/
theorem stepTakesInputsThenBundles : Obligations.StepTakesInputsThenBundles := by
  unfold Obligations.StepTakesInputsThenBundles
  refine ⟨fun s i r h => step_input h, ?_⟩
  intro s t v hin hlt hsel htrap hyield hjoin hissue
  have hgo : t.goOn = .next v := (goOn_issue htrap (by simp [hyield]) hjoin).trans hissue
  rw [step_selected hin hlt hsel]
  refine ⟨fun hnone => ?_, fun u b hf hx => ?_, fun xs ys m n haside hothers hissued hfocus hn => ⟨fun hunits => ?_, fun w hunits hj hw => ?_⟩⟩
  · cases haside : t.aside with
    | none => exact issueNow_alone hgo haside
    | some xs => exact issueNow_beside hgo haside hnone (.inl rfl) (secondary_nil _ _ _)
  · obtain ⟨x, hmem, hkind⟩ := hx
    exact issueNow_alone hgo (aside_alone hf hjoin (issuesAlone_of_mem hmem hkind))
  · exact issueNow_beside hgo haside hothers (.inr hissued) (secondary_overlap 3 hfocus hn hunits)
  · exact issueNow_beside hgo haside hothers (.inr hissued) (secondary_issue 3 hfocus hn hunits hj hw)

end

/-! ## The slots of a fetched bundle -/

namespace Sys2Proof.Machine

/-! ### The class of a decoded slot -/

/-- The B slots act on registers alone. -/
theorem dests_of_rawBclass {op w : Nat} {iws : List Nat} {r : Raw} (s : State) (h : rawBclass op w iws = some r) :
    ∃ ds, r.instr.dests s = some ds := by
  unfold rawBclass at h
  split at h <;> cases h <;> exact ⟨_, rfl⟩

theorem decodeSlot_ok {w : Nat} {iws : List Nat} {i : Instr} (h : decodeSlot w iws = .ok i) : ∃ r, rawSlot w iws = some r ∧ r.instr = i := by
  unfold decodeSlot at h
  split at h
  · cases h
  · next r hr =>
    refine ⟨r, hr, ?_⟩
    split_ifs at h
    cases h
    rfl

theorem rawSlot_branch {w : Nat} {iws : List Nat} (h : w / 2 ^ 24 % 16 = 8) : rawSlot w iws = rawBclass (w / 2 ^ 18 % 64) w iws := by
  unfold rawSlot
  simp only [h]

theorem slot_decoded {y : Item} {x : Slot} (h : y.slot = some x) : x.word = y.word ∧ decodeSlot y.word y.iws = .ok x.instr := by
  unfold Item.slot at h
  split at h
  · next i hi =>
    cases h
    exact ⟨rfl, hi⟩
  · cases h

theorem decodeBundle_slots {ws : List Nat} {b : Bundle} (h : decodeBundle ws = .ok b) : ∃ items : List Item, b.slots = items.filterMap Item.slot := by
  unfold decodeBundle at h
  simp only at h
  split at h
  · cases h
  · split at h
    · cases h
    · split at h
      · cases h
      · cases h
        exact ⟨_, rfl⟩

theorem decodeTrap_ok {ws : List Nat} {b : Bundle} (h : decodeTrap ws = .ok b) : decodeBundle ws = .ok b := by
  unfold decodeTrap at h
  split at h
  · cases h
  · next hb =>
    cases h
    exact hb

theorem fetch_decoded {s u : State} {b : Bundle} (h : s.fetch = .ok (u, b)) : ∃ ws, decodeBundle ws = .ok b := by
  unfold State.fetch at h
  split at h
  · next ws _ =>
    split at h
    · cases h
    · next hb =>
      cases h
      exact ⟨ws, decodeTrap_ok hb⟩
  · split at h
    · cases h
    · cases h
    · next ws _ =>
      split at h
      · cases h
      · next hb =>
        cases h
        exact ⟨ws, decodeTrap_ok hb⟩

/-- A fetched slot of class B holds an instruction that acts on registers alone. -/
theorem fetched_branch_dests {s u : State} {b : Bundle} {x : Slot} (v : State) (h : s.fetch = .ok (u, b)) (hx : x ∈ b.slots) (hcls : slotCls x = 8) :
    ∃ ds, x.instr.dests v = some ds := by
  obtain ⟨ws, hws⟩ := fetch_decoded h
  obtain ⟨items, hitems⟩ := decodeBundle_slots hws
  rw [hitems] at hx
  obtain ⟨y, _, hy⟩ := List.mem_filterMap.mp hx
  obtain ⟨hword, hdec⟩ := slot_decoded hy
  obtain ⟨r, hr, hri⟩ := decodeSlot_ok hdec
  rw [rawSlot_branch (hword ▸ hcls)] at hr
  exact hri ▸ dests_of_rawBclass v hr

/-! ### A bundle of one slot -/

theorem slotPhase_lt (x : Slot) : slotPhase x < 4 := by
  unfold slotPhase
  split
  case h_6 => split_ifs <;> decide
  all_goals decide

theorem inPhases_one (x : Slot) : inPhases [x] = [x] := by
  have hlt := slotPhase_lt x
  unfold inPhases
  generalize hp : slotPhase x = p at hlt
  interval_cases p <;> simp [List.range_succ, hp]

theorem runSlots_cons {s t : State} {x : Slot} (xs : List Slot) (h : exec x.instr (s.atSlot x) = .next t) :
    runSlots (x :: xs) s = runSlots xs t := by
  rw [runSlots, h]

theorem runSlots_one {s t : State} {x : Slot} (h : exec x.instr (s.atSlot x) = .next t) : runSlots [x] s = .next t := runSlots_cons [] h

theorem steer_alone {s : State} (exits : Bool) (h : s.ctx.nrank ≤ 1) : s.steer exits = s := by
  unfold State.steer
  rw [if_pos h]

/-- The state in which the first slot of a bundle of n words runs. -/
def State.opened (s : State) (n : Nat) : State := { s with iss := { npc := s.ctx.pc + BitVec.ofNat 64 (4 * n) } }

section
variable {s t : State} {x : Slot} {n : Nat} (hrank : s.ctx.nrank ≤ 1) (h : exec x.instr ((s.opened n).atSlot x) = .next t)
include hrank h

/-- A bundle of one slot that is no exit runs that slot, under no decision. -/
theorem runBundle_one_other (hcls : slotCls x ≠ 8) (hpath : x.path = 0) : s.runBundle ⟨[x], n⟩ = .next t := by
  have hb : [x].filter (fun y => slotCls y == 8) = [] := by simp [hcls]
  have hrest : [x].filter (fun y => slotCls y != 8) = [x] := by simp [hcls]
  have hpaths (j : Nat) : [x].filter (fun y => pathHolds y.path j) = [x] := by simp [hpath, pathHolds]
  have hsteer (e : Bool) : (s.opened n).steer e = s.opened n := steer_alone e hrank
  have hphases : inPhases [x] = [x] := inPhases_one x
  have hrun : runSlots [x] (s.opened n) = .next t := runSlots_one h
  unfold State.opened at hsteer hrun
  unfold State.runBundle
  simp only [hb, hrest, runSlots, hsteer, hpaths, hphases, Option.isSome_none, List.isEmpty_nil, Bool.false_eq_true, if_false, if_true]
  exact hrun

/-- An exit alone in its bundle: whatever its outcome, no other slot runs behind it. -/
theorem runBundle_one_exit (hcls : slotCls x = 8) (hctx : t.ctx.nrank ≤ 1) : s.runBundle ⟨[x], n⟩ = .next t := by
  have hb : [x].filter (fun y => slotCls y == 8) = [x] := by simp [hcls]
  have hrest : [x].filter (fun y => slotCls y != 8) = [] := by simp [hcls]
  have hphases : inPhases [] = [] := rfl
  have hnil : runSlots [] t = .next t := rfl
  have hwait : (decide (1 < s.ctx.nrank) && s.mustWait true) = false := by simp [Nat.not_lt.mpr hrank]
  have hrun : runSlots [x] (s.opened n) = .next t := runSlots_one h
  unfold State.opened at hrun
  unfold State.runBundle
  simp only [hb, hrest, hrun, steer_alone _ hctx, List.filter_nil, hphases, hnil, hwait, Bool.false_eq_true, if_false, ite_self]
  split
  · rfl
  · split
    · rfl
    · split <;> rfl

end

end Sys2Proof.Machine

section
open Sys2Proof Sys2Proof.Machine

/-- Settles O6: alone in its bundle, an exit runs before the decision and any other slot behind it, either as exec of its instruction. -/
theorem fetchedSlotRunsExec : Obligations.FetchedSlotRunsExec := by
  unfold Obligations.FetchedSlotRunsExec
  refine ⟨?bundle, fun s t x xs h => runSlots_cons xs h, ?one, ?fault, ?drain⟩
  case bundle =>
    intro s u t b hmay hf hrun
    unfold State.issue
    simp [hmay, hf, hrun]
  case one =>
    intro s u t x hmay hf hpath hrank h
    have hrun : u.runBundle ⟨[x], 1⟩ = .next t := by
      by_cases hcls : slotCls x = 8
      · obtain ⟨ds, hds⟩ := fetched_branch_dests ((u.opened 1).atSlot x) hf (List.mem_singleton_self x) hcls
        have hctx : t.ctx = u.ctx := (leaves_of_dests hds h).ctx
        exact runBundle_one_exit hrank h hcls (hctx ▸ hrank)
      · exact runBundle_one_other hrank h hcls hpath
    unfold State.issue
    simp [hmay, hf, hrun]
  case fault =>
    intro s e hmay hf
    unfold State.issue
    simp [hmay, hf, State.fetchTrap]
  case drain =>
    intro s l hdr hl hg hc
    have hmay : s.mayFetch = false := by
      have hany : s.loads.any (fun l => l.gang == s.ctx.gang && l.core == s.ctx.core) = true :=
        List.any_eq_true.mpr ⟨l, hl, by simp [hg, hc]⟩
      unfold State.mayFetch
      simp [hdr, hany]
    unfold State.issue
    simp [hmay, State.heldBy]

end

/-! ## A late result in the delivery queue -/

namespace Sys2Proof.Machine

/-- A bundle of a nop 4 and a load of the overflow area that brings s1 at latency 4 (R118, R162): its reply is out at the end of the bundle. -/
def lateLoad : State :=
  let u : State := State.reset.postLocal ⟨0, 1⟩ 0 allRow 0 none true
  { u with iss := { u.iss with nk := 4 } }

/-- The load's result as the bundle leaves it: it comes at step 4 and has not arrived. -/
def lateResult : Pend := { State.reset.pend ⟨0, 1⟩ 4 0 allRow 0 with arrived := false }

theorem mem_lateLoad : lateResult ∈ lateLoad.ctx.dq ++ sortOut lateLoad.iss.out := by decide +kernel

/-- Once the bundle has ended, the queue notes the step at which the result becomes visible (R76). -/
theorem vis_lateLoad : ∀ q ∈ (State.reset.conclude ⟨[], 0⟩ lateLoad).ctx.dq, q.vis = 4 := by decide +kernel

end Sys2Proof.Machine

section
open Sys2Proof Sys2Proof.Machine

/-- Refutes O7: behind a late result the statement wants every queue entry to stand with only its steps counted down, but an entry that is
due also notes the step at which it became visible (R76). In `lateLoad` that step is 4, where the statement keeps the entry's 0. -/
theorem not_bundleTakesEffect : ¬ Obligations.BundleTakesEffect := by
  unfold Obligations.BundleTakesEffect
  intro h
  obtain ⟨-, -, hrun⟩ := h State.reset lateLoad ⟨[], 0⟩ rfl rfl rfl (by decide +kernel)
  obtain ⟨-, -, -, -, -, -, -, -, -, -, hlate⟩ := hrun rfl rfl
  have hkept := (hlate ⟨lateResult, mem_lateLoad, by decide +kernel, rfl⟩).2 lateResult mem_lateLoad
  exact absurd (vis_lateLoad _ hkept) (by decide +kernel)

end

/-! ## Lanes of classes N and F -/

namespace Sys2Proof.Machine

section
variable {s : State} {d a b : BitVec 6} {ra rb : Row} {m : Mask} (ha : s.rdV a = .ok ra) (hm : s.rdMask = .ok m) (hd : s.dstV d = .ok ())
include ha hm hd

/-- Integer add, subtract and multiply of class N: the exact result narrowed (R67, R236). -/
theorem intOp_slot (hb : s.rdV b = .ok rb) (i : Instr) (w : Nat) (op : Int → Int → Int)
    (he : exec i s = vec3 s w 7 false d a b (intOp w op)) :
    LaneSlot s i false d 7 w (maskBit w m) (fun k => narrow s.renv (op (decI w (laneAt w ra k)) (decI w (laneAt w rb k))) w) :=
  vec3_slot s i w 7 false d a b (intOp w op) ra rb m ha hb hm hd he _ (fun _ => rfl)

/-- Minima and maxima of class N: one of the operands, without a flag (R236). -/
theorem intPlain_slot (hb : s.rdV b = .ok rb) (i : Instr) (w : Nat) (op : Int → Int → Int)
    (he : exec i s = vec3 s w 7 false d a b (intPlain w op)) :
    LaneSlot s i false d 7 w (maskBit w m) (fun k => ⟨encI w (op (decI w (laneAt w ra k)) (decI w (laneAt w rb k))), 0⟩) :=
  vec3_slot s i w 7 false d a b (intPlain w op) ra rb m ha hb hm hd he _ (fun _ => rfl)

/-- A special function of F36 lanes (R248). -/
theorem sfn36_slot (i : Instr) (g : SFn) (he : exec i s = sfn36 g d a s) :
    LaneSlot s i true d 11 36 (maskBit 36 m) (fun k => sfn s.renv F36 k g (F36.decIn s.renv (laneAt 36 ra k))) :=
  vec2_slot s i 36 11 true d a _ ra m ha hm hd he _ (fun _ => rfl)

/-- A special function of B18 lanes (R248). -/
theorem sfn18_slot (i : Instr) (g : SFn) (he : exec i s = sfn18 g d a s) :
    LaneSlot s i true d 12 18 (maskBit 18 m) (fun k => sfn s.renv B18 k g (B18.decIn s.renv (laneAt 18 ra k))) :=
  vec2_slot s i 18 12 true d a _ ra m ha hm hd he _ (fun _ => rfl)

end

end Sys2Proof.Machine

section
open Sys2Proof Sys2Proof.Machine

/-- Settles O24, by the kind of the operation: narrowed, plain, or the saturating add. -/
theorem narrowLaneOperations : Obligations.NarrowLaneOperations := by
  unfold Obligations.NarrowLaneOperations
  intro s d a b ra rb m ha hb hm hd v x y
  have hnarrowed := intOp_slot ha hm hd hb
  have hplain := intPlain_slot ha hm hd hb
  refine ⟨?narrowed, ?plain, vec3_slot s _ 9 7 false d a b (intSat 9) ra rb m ha hb hm hd rfl _ (fun _ => rfl)⟩
  case narrowed =>
    simp only [List.forall_mem_cons, List.not_mem_nil, false_implies, implies_true, and_true]
    exact ⟨hnarrowed _ 18 _ rfl, hnarrowed _ 18 _ rfl, hnarrowed _ 18 _ rfl, hnarrowed _ 9 _ rfl, hnarrowed _ 9 _ rfl⟩
  case plain =>
    simp only [List.forall_mem_cons, List.not_mem_nil, false_implies, implies_true, and_true]
    exact ⟨hplain _ 18 _ rfl, hplain _ 18 _ rfl, hplain _ 9 _ rfl, hplain _ 9 _ rfl⟩

/-- Settles O27: each instruction is its function on the lanes of its format. -/
theorem specialFunctionLanes : Obligations.SpecialFunctionLanes := by
  unfold Obligations.SpecialFunctionLanes
  intro s d a ra m ha hm hd v
  have hF36 := sfn36_slot ha hm hd
  have hB18 := sfn18_slot ha hm hd
  simp only [List.forall_mem_cons, List.not_mem_nil, false_implies, implies_true, and_true]
  exact ⟨⟨hF36 _ .rcp rfl, hF36 _ .rsq rfl, hF36 _ .sqrt rfl, hF36 _ .exp2 rfl, hF36 _ .log2 rfl, hF36 _ .sig rfl, hF36 _ .tanh rfl, hF36 _ .erf rfl,
      hF36 _ .sinp rfl, hF36 _ .cosp rfl⟩,
    hB18 _ .rcp rfl, hB18 _ .rsq rfl, hB18 _ .sqrt rfl, hB18 _ .exp2 rfl, hB18 _ .log2 rfl, hB18 _ .sig rfl, hB18 _ .tanh rfl, hB18 _ .erf rfl,
    hB18 _ .sinp rfl, hB18 _ .cosp rfl⟩

end

/-! ## Reductions and scans -/

namespace Sys2Proof.Machine

/-! ### The running value over the active lanes (R239) -/

/-- One active lane: it starts the running value, or combines with it. -/
def scanStep (o : Nat) (v : REnv) (i : Nat) (acc : Option Nat) (x : Nat) : FR :=
  match acc with
  | none => ⟨redFirst o v x, 0⟩
  | some p => redStep o v i p x

/-- The running value that lane i meets, of lanes that are active where `on` says so and hold `x`. -/
def running (o : Nat) (v : REnv) (on : Nat → Bool) (x : Nat → Nat) : Nat → Option Nat
  | 0 => none
  | i + 1 => if on i then some (scanStep o v i (running o v on x i) (x i)).bits else running o v on x i

/-- What lane i makes of the running value it meets. -/
def runAt (o : Nat) (v : REnv) (on : Nat → Bool) (x : Nat → Nat) (i : Nat) : FR := scanStep o v i (running o v on x i) (x i)

section
variable {o : Nat} {v : REnv} {on : Nat → Bool} {x : Nat → Nat}

theorem running_before {i : Nat} (h : ∀ j, j < i → on j = false) : running o v on x i = none := by
  induction i with
  | zero => rfl
  | succ i ih => simp [running, h i i.lt_succ_self, ih (fun j hj => h j (by omega))]

/-- The running value stands from an active lane to the next one. -/
theorem running_after {j i : Nat} (hji : j < i) (hj : on j = true) (hgap : ∀ k, j < k → k < i → on k = false) :
    running o v on x i = some (runAt o v on x j).bits := by
  induction i with
  | zero => omega
  | succ i ih =>
    rcases Nat.lt_succ_iff_lt_or_eq.mp hji with hlt | rfl
    · simp [running, hgap i hlt i.lt_succ_self, ih hlt (fun k h1 h2 => hgap k h1 (by omega))]
    · simp [running, hj, runAt]

theorem scanGo_cons (k : Nat) (acc : Option Nat) (b : Bool) (bs : List Bool) (y : Nat) (ys : List Nat) :
    scanGo o v k acc (b :: bs) (y :: ys)
      = if b then some (scanStep o v k acc y) :: scanGo o v (k + 1) (some (scanStep o v k acc y).bits) bs ys
        else none :: scanGo o v (k + 1) acc bs ys := by
  cases acc <;> rfl

/-- The scan from lane k on, as a list of the lanes' results. -/
theorem scanGo_running (k : Nat) (bs : List Bool) (ys : List Nat) (n : Nat) (hb : bs = (List.range' k n).map on) (hy : ys = (List.range' k n).map x) :
    scanGo o v k (running o v on x k) bs ys = (List.range' k n).map (fun i => if on i then some (runAt o v on x i) else none) := by
  induction n generalizing k bs ys with
  | zero => subst hb; rfl
  | succ n ih =>
    subst hb hy
    have hnext := ih (k + 1) _ _ rfl rfl
    simp only [List.range'_succ, List.map_cons, scanGo_cons]
    cases hk : on k <;> simpa [running, hk, runAt] using hnext

/-- The last result of the active lanes is the running value behind them all. -/
theorem getLast?_results (n : Nat) :
    (((List.range n).map (fun i => if on i then some (runAt o v on x i) else none)).filterMap id).getLast?.map FR.bits = running o v on x n := by
  induction n with
  | zero => rfl
  | succ n ih =>
    rw [List.range_succ, List.map_append, List.filterMap_append]
    cases hn : on n
    · simpa [hn, running] using ih
    · simp [hn, running, runAt]

end

/-! ### Table 15.6 -/

/-- What a row of the table says of code c: the view, one step, the start of the running value, and the value without an active lane. -/
structure Tabled (v : REnv) (c w : Nat) (step : Nat → Nat → Nat → FR) (start : Nat → Nat) (empty : Nat) : Prop where
  width : redW c = w
  step : ∀ i p x, redStep c v i p x = step i p x
  start : ∀ x, x < 2 ^ w → redFirst c v x = start x
  empty : redEmpty c v = empty

/-- A subnormal is flushed to the zero of its sign, its top bit alone (R79). -/
theorem pack_sign_subnormal (f : Fmt) (hf : f = F36 ∨ f = B18) (x : Nat) (hx : x < 2 ^ (f.ew + f.fw + 1)) (hs : f.subnormal x = true) :
    f.pack (f.dec x).sign 0 0 = x / 2 ^ (f.ew + f.fw) * 2 ^ (f.ew + f.fw) := by
  have htop : x / 2 ^ (f.ew + f.fw) < 2 := by rw [Nat.div_lt_iff_lt_mul (by positivity), ← Nat.pow_succ']; exact hx
  have hexp : x / 2 ^ f.fw % 2 ^ f.ew = 0 := by simp only [Fmt.subnormal, Bool.and_eq_true, beq_iff_eq] at hs; exact hs.1
  have hsign : (f.dec x).sign = (x / 2 ^ (f.ew + f.fw) % 2 == 1) := by
    rcases hf with rfl | rfl <;> simp_all [Fmt.dec, Fmt.emax, FV.sign, F36, B18, E4M3]
  rw [hsign]
  interval_cases x / 2 ^ (f.ew + f.fw) <;> simp [Fmt.pack]


section
variable {v : REnv} {c w empty : Nat} {step : Nat → Nat → Nat → FR}

/-- A row of a float operation of F36 lanes. -/
theorem tabled_F36 (hc : c ≤ 2) (hw : redW c = 36) (hs : ∀ i p x, redStep c v i p x = step i p x) (he : redEmpty c v = empty) :
    Tabled v c 36 step (fun x => if v.fz = 2 ∧ F36.subnormal x then x / 2 ^ 35 * 2 ^ 35 else x) empty where
  width := hw
  step := hs
  start x hx := by
    unfold redFirst
    rw [if_pos hc]
    refine if_ctx_congr Iff.rfl (fun h => ?_) (fun _ => rfl)
    exact pack_sign_subnormal F36 (.inl rfl) x hx h.2
  empty := he

/-- A row of a float operation of B18 lanes. -/
theorem tabled_B18 (hc : 0x10 ≤ c ∧ c ≤ 0x12) (hw : redW c = 18) (hs : ∀ i p x, redStep c v i p x = step i p x) (he : redEmpty c v = empty) :
    Tabled v c 18 step (fun x => if v.fz = 2 ∧ B18.subnormal x then x / 2 ^ 17 * 2 ^ 17 else x) empty where
  width := hw
  step := hs
  start x hx := by
    unfold redFirst
    rw [if_neg (by omega), if_pos hc]
    refine if_ctx_congr Iff.rfl (fun h => ?_) (fun _ => rfl)
    exact pack_sign_subnormal B18 (.inr rfl) x hx h.2
  empty := he

/-- A row of an integer or bit operation. -/
theorem tabled_exact (h36 : 2 < c) (h18 : c < 0x10 ∨ 0x12 < c) (hw : redW c = w) (hs : ∀ i p x, redStep c v i p x = step i p x) :
    Tabled v c w step id 0 where
  width := hw
  step := hs
  start x _ := by unfold redFirst; rw [if_neg (by omega), if_neg (by omega)]; rfl
  empty := by unfold redEmpty; rw [if_neg (by omega), if_neg (by omega)]

end

/-- The value without an active lane fits in a lane. -/
theorem redEmpty_lt (c : Nat) (v : REnv) : redEmpty c v < 2 ^ redW c := by
  unfold redEmpty
  split
  · next h => rw [h.1]; decide
  · split
    · next h => rw [h.1]; decide
    · positivity

/-! ### vscan and vred -/

section
variable {s : State} {d a o : BitVec 6} {ra : Row} {m : Mask} (ha : s.rdV a = .ok ra) (hm : s.rdMask = .ok m) (hd : s.dstV d = .ok ())

/-- What both instructions compute: the results of the lanes in the view of the code. -/
theorem scanGo_lanes (c w : Nat) : scanGo c s.renv 0 none (actives w m) (lanes w ra)
    = (List.range (4608 / w)).map (fun i => if maskBit w m i then some (runAt c s.renv (maskBit w m) (laneAt w ra) i) else none) := by
  have h := scanGo_running (o := c) (v := s.renv) (on := maskBit w m) (x := laneAt w ra) 0 (actives w m) (lanes w ra) (4608 / w)
    (by rw [← List.range_eq_range']; rfl) (by rw [← List.range_eq_range']; rfl)
  rwa [← List.range_eq_range'] at h

theorem laneVals_scanGo (c w : Nat) : let rs := scanGo c s.renv 0 none (actives w m) (lanes w ra)
    LaneVals w (maskBit w m) (runAt c s.renv (maskBit w m) (laneAt w ra)) (laneRow w rs) (laneMsk w rs) (laneFlags rs) := by
  intro rs
  refine laneVals_of w _ _ rs ?_ ?_ <;> simp only [rs, scanGo_lanes]
  · simp
  · intro i hi
    simp [hi]

include ha hm hd

theorem vscan_slot : LaneSlot s (.vscan d a o) (redCounts o.toNat) d 9 (redW o.toNat) (maskBit (redW o.toNat) m)
    (runAt o.toNat s.renv (maskBit (redW o.toNat) m) (laneAt (redW o.toNat) ra)) := by
  refine ⟨_, _, _, ?_, laneVals_scanGo o.toNat (redW o.toNat)⟩
  change execVscan d a o s = _
  unfold execVscan
  simp [ha, hm, hd, State.postLanes]

theorem exec_vred : let w := redW o.toNat
    exec (.vred d a o) s = .next ((if redCounts o.toNat then s.count else s).postV d (s.ctx.latOf 9)
      (BitVec.ofNat 4608 ((running o.toNat s.renv (maskBit w m) (laneAt w ra) (4608 / w)).getD (redEmpty o.toNat s.renv)))
      (BitVec.ofNat 4608 (2 ^ w - 1)) (laneFlags (scanGo o.toNat s.renv 0 none (actives w m) (lanes w ra)))) := by
  intro w
  rw [← getLast?_results, ← scanGo_lanes]
  change execVred d a o s = _
  unfold execVred
  simp only [ha, hm, hd, both_ok, ok_bind, finish_pure]
  cases ((scanGo o.toNat s.renv 0 none (actives w m) (lanes w ra)).filterMap id).getLast? <;> rfl

end

/-! Lane 0 alone. -/

theorem laneAt_ofNat_zero (w n : Nat) (hw : w ≤ 4608) : laneAt w (BitVec.ofNat 4608 n) 0 = n % 2 ^ w := by
  rw [laneAt, BitVec.toNat_ofNat, Nat.mul_zero, pow_zero, Nat.div_one, Nat.mod_mod_of_dvd _ (Nat.pow_dvd_pow 2 hw)]

theorem laneAt_low (w i : Nat) (hw : w ≤ 4608) : laneAt w (BitVec.ofNat 4608 (2 ^ w - 1)) i = if i = 0 then 2 ^ w - 1 else 0 := by
  have hlt : 2 ^ w - 1 < 2 ^ w := Nat.sub_lt (by positivity) one_pos
  rcases Nat.eq_zero_or_pos i with rfl | hi
  · rw [laneAt_ofNat_zero w _ hw, Nat.mod_eq_of_lt hlt, if_pos rfl]
  · have hle : 2 ^ w ≤ 2 ^ (w * i) := Nat.pow_le_pow_right (by decide) (Nat.le_mul_of_pos_right w hi)
    have hbig : 2 ^ w ≤ 2 ^ 4608 := Nat.pow_le_pow_right (by decide) hw
    rw [if_neg hi.ne', laneAt, BitVec.toNat_ofNat, Nat.mod_eq_of_lt (hlt.trans_le hbig), Nat.div_eq_of_lt (hlt.trans_le hle), Nat.zero_mod]

/-- A row of the table tells the running value of both instructions, what a scan writes and what a reduction leaves in lane 0. -/
theorem reduction_of_tabled {s : State} {d a o : BitVec 6} {ra : Row} {m : Mask} {w : Nat} {step : Nat → Nat → Nat → FR} {start : Nat → Nat}
    {empty : Nat} (ha : s.rdV a = .ok ra) (hm : s.rdMask = .ok m) (hd : s.dstV d = .ok ()) (htab : Tabled s.renv o.toNat w step start empty) :
    let n := 4608 / w
    let on : Nat → Bool := maskBit w m
    let cnt : Bool := o.toNat == 0 || o.toNat == 0x10
    ∃ run : Nat → FR,
      (∀ i, i < n → on i = true → (∀ j, j < i → on j = false) → run i = ⟨start (laneAt w ra i), 0⟩)
      ∧ (∀ j i, j < i → i < n → on j = true → on i = true → (∀ k, j < k → k < i → on k = false) →
          run i = step i (run j).bits (laneAt w ra i))
      ∧ LaneSlot s (.vscan d a o) cnt d 9 w on run
      ∧ ∃ val msk fl, exec (.vred d a o) s = .next ((if cnt then s.count else s).postV d (s.ctx.latOf 9) val msk fl)
          ∧ (∀ i, i < n → laneAt w msk i = if i = 0 then 2 ^ w - 1 else 0)
          ∧ (∀ i, i < n → on i = true → (∀ j, i < j → j < n → on j = false) → laneAt w val 0 = (run i).bits % 2 ^ w)
          ∧ ((∀ i, i < n → on i = false) → laneAt w val 0 = empty)
          ∧ ∀ k, k < 6 → (fl.testBit k = true ↔ ∃ i, i < n ∧ on i = true ∧ (run i).flags.testBit k = true) := by
  intro n on cnt
  obtain rfl := htab.width
  have hw : redW o.toNat ≤ 4608 := by unfold redW; split <;> [decide; split <;> decide]
  refine ⟨runAt o.toNat s.renv on (laneAt _ ra), ?start, ?step, vscan_slot ha hm hd, _, _, _, exec_vred ha hm hd, ?mask, ?last, ?empty, ?flags⟩
  case start =>
    intro i _ _ hfirst
    simp [runAt, running_before hfirst, scanStep, htab.start _ (laneAt_lt _ _ _)]
  case step =>
    intro j i hji _ hj _ hgap
    rw [runAt, running_after hji hj hgap]
    exact htab.step _ _ _
  case mask => exact fun i _ => laneAt_low _ _ hw
  case last =>
    intro i hi hon hgap
    rw [laneAt_ofNat_zero _ _ hw, running_after hi hon hgap, Option.getD_some]
  case empty =>
    intro hoff
    rw [laneAt_ofNat_zero _ _ hw, running_before hoff, Option.getD_none, Nat.mod_eq_of_lt (redEmpty_lt _ _), htab.empty]
  case flags => exact (laneVals_scanGo _ _).2.2

end Sys2Proof.Machine

section
open Sys2Proof Sys2Proof.Machine

/-- Settles O29, from the rows of Table 15.6. -/
theorem reductionsAndScans : Obligations.ReductionsAndScans := by
  unfold Obligations.ReductionsAndScans
  intro s d a o ra m ha hm hd v flush minus add int sum f hf ho
  have htab : Tabled v f.1 f.2.1 f.2.2.1 f.2.2.2.1 f.2.2.2.2 := by
    clear ho
    revert f
    simp only [List.forall_mem_cons, List.not_mem_nil, false_implies, implies_true, and_true]
    exact ⟨tabled_F36 (c := 0x00) (by decide) rfl (fun _ _ _ => rfl) (by simp [redEmpty, minus]), tabled_F36 (c := 0x01) (by decide) rfl (fun _ _ _ => rfl) rfl,
      tabled_F36 (c := 0x02) (by decide) rfl (fun _ _ _ => rfl) rfl, tabled_exact (by decide) (by decide) rfl (fun _ _ _ => rfl),
      tabled_exact (by decide) (by decide) rfl (fun _ _ _ => rfl), tabled_exact (by decide) (by decide) rfl (fun _ _ _ => rfl),
      tabled_exact (by decide) (by decide) rfl (fun _ _ _ => rfl), tabled_exact (by decide) (by decide) rfl (fun _ _ _ => rfl),
      tabled_exact (by decide) (by decide) rfl (fun _ _ _ => rfl), tabled_B18 (c := 0x10) (by decide) rfl (fun _ _ _ => rfl) (by simp [redEmpty, minus]),
      tabled_B18 (c := 0x11) (by decide) rfl (fun _ _ _ => rfl) rfl, tabled_B18 (c := 0x12) (by decide) rfl (fun _ _ _ => rfl) rfl,
      tabled_exact (by decide) (by decide) rfl (fun _ _ _ => rfl), tabled_exact (by decide) (by decide) rfl (fun _ _ _ => rfl),
      tabled_exact (by decide) (by decide) rfl (fun _ _ _ => rfl), tabled_exact (by decide) (by decide) rfl (fun _ _ _ => rfl),
      tabled_exact (by decide) (by decide) rfl (fun _ _ _ => rfl), tabled_exact (by decide) (by decide) rfl (fun _ _ _ => rfl)⟩
  exact reduction_of_tabled ha hm hd (ho ▸ htab)

end

/-! ## Matrix products -/

namespace Sys2Proof.Machine

/-! ### Bytes of a buffer operand, wherever they stand (R261, R342) -/

/-- Where the byte of key k stands once [lo, lo + len) stand from `base` on. -/
def spanKey (lo len base k : Nat) : Nat := if lo ≤ k ∧ k < lo + len then base + (k - lo) else k

/-- The key of the byte at offset o of a context's window. -/
def Ctx.byteKey (c : Ctx) (b o : Nat) : Nat :=
  match c.fz.region with
  | some (rb, lo, len, base) => if b = rb then spanKey (c.bufAt b lo) len base (c.bufAt b o) else c.bufAt b o
  | none => c.bufAt b o

/-- The keys of pieces, byte by byte. -/
def segKeys (segs : List (Nat × Nat)) : List Nat := segs.flatMap (fun x => (List.range x.2).map (fun i => x.1 + i))

theorem segKeys_filter (segs : List (Nat × Nat)) : segKeys (segs.filter (fun x => x.2 != 0)) = segKeys segs := by
  induction segs with
  | nil => rfl
  | cons x xs ih =>
    unfold segKeys at ih ⊢
    by_cases h : x.2 = 0 <;> simp [h, ih]

/-- Consecutive keys in three parts. -/
theorem map_range_add_three {α : Type} (f : Nat → α) (x y z : Nat) : (List.range (x + y + z)).map f
    = (List.range x).map f ++ (List.range y).map (fun i => f (x + i)) ++ (List.range z).map (fun i => f (x + y + i)) := by
  simp [List.range_add, Function.comp_def]

theorem segKeys_spanSegs (k n lo len base : Nat) : segKeys (spanSegs k n lo len base) = (List.range n).map (fun i => spanKey lo len base (k + i)) := by
  unfold spanSegs
  simp only
  split
  · next h =>
    simp only [segKeys, List.flatMap_cons, List.flatMap_nil, List.append_nil]
    refine List.map_congr_left fun i hi => ?_
    have hin := List.mem_range.mp hi
    rw [spanKey, if_neg (by omega)]
  · next h =>
    obtain ⟨x, y, z, rfl, hx, hy⟩ : ∃ x y z, n = x + y + z ∧ max k lo = k + x ∧ min (k + n) (lo + len) = k + x + y :=
      ⟨max k lo - k, min (k + n) (lo + len) - max k lo, k + n - min (k + n) (lo + len), by omega, by omega, by omega⟩
    have hlens : k + x - k = x ∧ k + x + y - (k + x) = y ∧ k + (x + y + z) - (k + x + y) = z := by omega
    rw [segKeys_filter, map_range_add_three, hx, hy, hlens.1, hlens.2.1, hlens.2.2]
    simp only [segKeys, List.flatMap_cons, List.flatMap_nil, List.append_nil, ← List.append_assoc]
    congr 1
    congr 1
    all_goals
      refine List.map_congr_left fun i hi => ?_
      have hin := List.mem_range.mp hi
      unfold spanKey
      split <;> omega

theorem bufAt_add (c : Ctx) (b o i : Nat) : c.bufAt b (o + i) = c.bufAt b o + i := by
  unfold Ctx.bufAt storeKey bufKey
  split <;> omega

theorem segKeys_bufSegs (c : Ctx) (b o n : Nat) : segKeys (c.bufSegs b o n) = (List.range n).map (fun i => c.byteKey b (o + i)) := by
  unfold Ctx.bufSegs Ctx.byteKey Ctx.bufPlace
  cases c.fz.region with
  | none => simp [Place.segs, segKeys, bufAt_add]
  | some r =>
    by_cases h : b = r.1
    · simp [h, Place.segs, segKeys_spanSegs, bufAt_add]
    · simp [h, Place.segs, segKeys, bufAt_add]

theorem flatMap_memRead (m : Memory) (segs : List (Nat × Nat)) : segs.flatMap (fun x => memRead m x.1 x.2) = (segKeys segs).map (memByte m) := by
  simp [segKeys, List.map_flatMap, memRead, Function.comp_def]

/-- The byte at position o of the buffer operand at address a of a context, as `w` shows it. -/
def viewByte (w : BufView) (c : Ctx) (a : Word) (o : Nat) : Byte :=
  memByte (if selOf a = 0x10 then w.1 else w.2.1) (c.byteKey (selOf a - 0x10) (lowOf a + o))

theorem viewElem_bytes (w : BufView) (c : Ctx) (a : Word) (o e j : Nat) :
    viewElem w c a o e j = leNat ((List.range e).map (fun i => viewByte w c a (o + e * j + i))) := by
  simp [viewElem, flatMap_memRead, segKeys_bufSegs, viewByte, Function.comp_def, Nat.add_assoc]

/-- An element of one byte. -/
theorem viewElem_byte (w : BufView) (c : Ctx) (a : Word) (o j : Nat) : viewElem w c a o 1 j = (viewByte w c a (o + j)).toNat := by
  simp [viewElem_bytes, leNat]

theorem bufRead_ok {w : BufView} {c : Ctx} {a : Word} {o n : Nat} {bs : List Byte} (ha : selOf a = 0x10 ∨ selOf a = 0x11)
    (h : bufRead w c a o n = .ok bs) : bs = (List.range n).map (fun i => viewByte w c a (o + i)) := by
  unfold bufRead at h
  simp only at h
  split at h
  · cases h
  · have hsel : (selOf a - 0x10 = 0) = (selOf a = 0x10) := by rcases ha with ha | ha <;> simp [ha]
    simp only [Except.ok.injEq, hsel] at h
    rw [← h, flatMap_memRead, segKeys_bufSegs]
    simp [viewByte, Function.comp_def, Nat.add_assoc]

/-- Reads that succeed have a source, and bring its bytes piece by piece. -/
theorem bufReads_ok {w : BufView} {src : Option Ctx} {c : Ctx} {a : Word} {span n : Nat} {os : List Nat} {xs : List (List Byte)}
    (ha : selOf a = 0x10 ∨ selOf a = 0x11) (hc : src = some c) (h : bufReads w src a span n os = .ok xs) :
    xs = os.map (fun o => (List.range n).map (fun i => viewByte w c a (o + i))) := by
  subst hc
  unfold bufReads at h
  simp only at h
  split at h
  · cases h
  next hspan =>
  clear hspan
  induction os generalizing xs with
  | nil => cases h; rfl
  | cons o os ih =>
    rw [List.foldr_cons] at h
    split at h
    · cases h
    · cases h
    · next b bs hb hbs =>
      cases h
      rw [List.map_cons, ← ih hbs, ← bufRead_ok ha hb]

/-- The elements of a piece. -/
theorem elems_view (w : BufView) (c : Ctx) (a : Word) (o e n : Nat) :
    elems e n ((List.range (n * e)).map (fun i => viewByte w c a (o + i))) = (List.range n).map (fun j => viewElem w c a o e j) := by
  unfold elems
  refine List.map_congr_left fun j hj => ?_
  have hle : e * j + e ≤ n * e := by
    calc e * j + e = (j + 1) * e := by ring
      _ ≤ n * e := Nat.mul_le_mul_right _ (List.mem_range.mp hj)
  rw [viewElem_bytes]
  congr 1
  refine List.ext_getElem ?_ ?_
  · simp; omega
  · intro i h1 h2
    simp [Nat.add_assoc]


/-! ### What the checks of an operation say (R59, R261) -/

theorem clipCheck_ok {s : State} {v : Word} {useN useK bpn : Bool} {lim : Nat} (h : s.clipCheck v useN useK bpn lim = .ok ()) :
    clM v ≤ lim ∧ (useN = true → clN v ≤ lim) ∧ (bpn = true → 2 ≤ clPlanes v ∧ clPlanes v ≤ 8) := by
  unfold State.clipCheck at h
  obtain ⟨_, -, h⟩ := bind_ok _ _ _ h
  obtain ⟨_, -, h⟩ := bind_ok _ _ _ h
  obtain ⟨_, hplanes, h⟩ := bind_ok _ _ _ h
  have hlim := need_ok h
  have hbpn := need_ok hplanes
  simp only [clWithin, Bool.and_eq_true, Bool.or_eq_true, decide_eq_true_eq, Bool.not_eq_true'] at hlim hbpn
  obtain ⟨⟨hm, hn⟩, -⟩ := hlim
  exact ⟨hm, fun hu => hn.resolve_left (by simp [hu]), fun hb => hbpn.resolve_left (by simp [hb])⟩

theorem bufCheck_ok {a : Word} {al stride : Nat} (h : bufCheck a al stride = .ok ()) :
    bufPath a = .ok () ∧ bufAlign a al stride = .ok () := by
  obtain ⟨_, hpath, halign⟩ := bind_ok _ _ _ h
  exact ⟨hpath, halign⟩

theorem bufPath_ok {a : Word} (h : bufPath a = .ok ()) : selOf a = 0x10 ∨ selOf a = 0x11 := by
  simpa using need_ok h

/-- Two operands that pass pass in the order of a product, too. -/
theorem bufCheck2_ok {a b : Word} {al stride al' stride' : Nat} (ha : bufCheck a al stride = .ok ()) (hb : bufCheck b al' stride' = .ok ()) :
    bufCheck2 a b al stride al' stride' = .ok () := by
  obtain ⟨hpa, hla⟩ := bufCheck_ok ha
  obtain ⟨hpb, hlb⟩ := bufCheck_ok hb
  simp [bufCheck2, hpa, hpb, hla, hlb]

theorem length_xreads {s : State} {tile n : Nat} {zs : List Row} (h : s.xreads tile n = .ok zs) : zs.length = n := by
  induction n generalizing zs with
  | zero => cases h; rfl
  | succ n ih =>
    unfold State.xreads at h
    obtain ⟨rs, hrs, h⟩ := bind_ok _ _ _ h
    obtain ⟨r, -, h⟩ := bind_ok _ _ _ h
    cases h
    simp [ih hrs]

/-! ### The row writes of an operation -/

theorem laneAt_lowLanes (w n c : Nat) (hn : w * n ≤ 4608) : laneAt w (BitVec.ofNat 4608 (2 ^ (w * n) - 1)) c = if c < n then 2 ^ w - 1 else 0 := by
  have hbig : 2 ^ (w * n) - 1 < 2 ^ 4608 := (Nat.sub_lt (by positivity) one_pos).trans_le (Nat.pow_le_pow_right (by decide) hn)
  rw [laneAt, BitVec.toNat_ofNat, Nat.mod_eq_of_lt hbig]
  refine Nat.eq_of_testBit_eq fun i => ?_
  rw [Nat.testBit_mod_two_pow, Nat.testBit_div_two_pow, Nat.testBit_two_pow_sub_one]
  by_cases hc : c < n
  · have hle : w * c + w ≤ w * n := by rw [← Nat.mul_succ]; exact Nat.mul_le_mul_left w hc
    rw [if_pos hc, Nat.testBit_two_pow_sub_one]
    by_cases hi : i < w <;> simp [hi]
    omega
  · have hle : w * n ≤ w * c := Nat.mul_le_mul_left w (by omega)
    rw [if_neg hc, Nat.zero_testBit, decide_eq_false (p := i + w * c < w * n) (by omega), Bool.and_false]

/-- Rows of a tile, written in lanes 0 to n − 1. -/
theorem xwrites_tile {x : XOp} {tile n : Nat} {rows : List (List Nat)} {i : Nat} {f : Nat → Nat} (hx : x.writes = tileWrites tile n rows)
    (hi : i < rows.length) (hn : n ≤ 128) (hrow : ∀ c, c < n → (rows.getD i []).getD c 0 = f c) : XWrites x i (128 * tile + i) n f := by
  refine ⟨lanesWrite (128 * tile + i) n (rows.getD i []), by simp [hx, tileWrites, hi], rfl, ?_, ?_⟩
  · intro c hc
    refine ⟨(laneAt_lowLanes 36 n c (by omega)).trans (if_pos hc), ?_⟩
    have hlen : 36 * ((rows.getD i []).take n).length ≤ 4608 := by rw [List.length_take]; omega
    unfold lanesWrite
    rw [laneAt_packRow _ _ _ hlen, ← hrow c hc]
    simp only [List.getD_eq_getElem?_getD, List.getElem?_take, if_pos hc]
  · exact fun c hc _ => (laneAt_lowLanes 36 n c (by omega)).trans (if_neg (by omega))

/-! ### Operations handed to X0 (R256, R257, R264) -/

/-- The state of a slot whose gang has come to it, where it waits for its gang. -/
def State.gated (s : State) (mc : Bool) : State := if mc then { s with iss := { s.iss with gangOp := true } } else s

theorem await_ok {b : Bool} {h : Hold} {u : Unit} (hu : await b h = .ok u) : b = true := by
  cases b with
  | true => rfl
  | false => cases hu

theorem gangGate_ok {s g : State} (h : s.gangGate = .ok g) (k : Hold) : s.gangGate k = .ok (s.gated true) := by
  unfold State.gangGate at h ⊢
  obtain ⟨_, hgate, -⟩ := bind_ok _ _ _ h
  simp only [await_ok hgate, await_true, ok_bind]
  rfl

/-- The gate of a slot that waits for its gang where `mc` holds. -/
theorem gate_ok {s : State} {mc : Bool} (h : mc = true → ∃ g, s.gangGate = .ok g) (k : Hold) :
    (if mc then s.gangGate k else pure s) = .ok (s.gated mc) := by
  cases mc with
  | false => rfl
  | true =>
    obtain ⟨g, hg⟩ := h rfl
    exact gangGate_ok hg k

theorem note_eq (s : State) (arr task rank idx : Nat) (da db : List Byte) (dc : Option (List Byte)) :
    ∃ ls, s.note arr task rank idx da db dc = { s with launches := ls } := by
  unfold State.note State.setLaunch
  split
  · exact ⟨_, rfl⟩
  · split
    · exact ⟨_, rfl⟩
    · split <;> exact ⟨_, rfl⟩

/-- A state that has taken the next leaf, with launches and counts of the slot of its own. -/
def State.taken (s : State) (ls : List Launch) (i : Iss) : State :=
  { s with launches := ls, iss := i, leaves := s.leaves ++ [⟨s.ctx.core, s.ctx.arr, s.ctx.task, s.ctx.rank, s.nextLeaf, none⟩] }

/-- The same with another operation in the queue. -/
def State.handed (s : State) (ls : List Launch) (i : Iss) (x : XOp) : State := { s.taken ls i with xq := s.xq ++ [x] }

/-- `u` is `s` with x handed to X0: it has joined the queue with the next leaf, and no more than launches' captures and the slot's own
counts has changed beside. -/
structure Handed (s u : State) (x : XOp) : Prop where
  state : ∃ ls i, i.out = s.iss.out ∧ u = s.handed ls i x
  core : x.core = s.ctx.core
  cid : x.cid = s.ctx.cid
  lidx : x.lidx = s.nextLeaf
  kept : x.dropped = false

section
variable {s u : State} {x : XOp} (h : Handed s u x)
include h

theorem Handed.started {i : Instr} {p : XOp → Prop} (he : exec i s = .next u) (hp : p x) : XStarted s i p := by
  obtain ⟨⟨ls, iss, hout, rfl⟩, hcore, hcid, hlidx, hkept⟩ := h
  exact ⟨_, x, he, rfl, hp, hcore, hcid, hlidx, hkept, rfl, rfl, rfl, rfl, rfl, rfl, rfl, rfl, hout⟩

theorem Handed.mcastBad : u.mcastBad = s.mcastBad := by
  obtain ⟨⟨ls, iss, -, rfl⟩, -⟩ := h
  rfl

theorem Handed.length_xq : u.xq.length = s.xq.length + 1 := by
  obtain ⟨⟨ls, iss, -, rfl⟩, -⟩ := h
  simp [State.handed]

/-- A multicast whose ranks agree goes on as it was handed over. -/
theorem Handed.agreed (hbad : s.mcastBad = []) (b : Word) (par : Nat) : u.mcastSettle b par = u := by
  unfold State.mcastSettle
  simp [h.mcastBad, hbad]

omit h in
theorem length_xq_mcastSettle (u : State) (b : Word) (par : Nat) : (u.mcastSettle b par).xq.length = u.xq.length := by
  unfold State.mcastSettle
  simp only
  split
  · rfl
  · simp

end

/-- The two ways in which a product can start: its ranks agree or it is no multicast, or they disagree and it fails. -/
theorem products_start {s : State} {i : Instr} {mc : Bool} {b : Word} {par : Nat} {p : XOp → Prop}
    (he : (mc = true → ∃ g, s.gangGate = .ok g) → ∃ u x, exec i s = .next (if mc then u.mcastSettle b par else u) ∧ Handed s u x ∧ p x) :
    ((mc = true → s.mcastBad = [] ∧ ∃ g, s.gangGate = .ok g) → XStarted s i p)
    ∧ (mc = true → ∀ g, s.gangGate = .ok g → ∃ w, exec i s = .next w ∧ w.xq.length = s.xq.length + 1) := by
  constructor
  · intro hstarts
    obtain ⟨u, x, hexec, hu, hp⟩ := he fun hmc => (hstarts hmc).2
    refine hu.started (hexec.trans ?_) hp
    cases mc with
    | false => rfl
    | true => rw [if_pos rfl, hu.agreed (hstarts rfl).1]
  · intro hmc g hg
    obtain ⟨u, x, hexec, hu, -⟩ := he fun _ => ⟨g, hg⟩
    refine ⟨_, hexec, ?_⟩
    rw [if_pos hmc, length_xq_mcastSettle, hu.length_xq]

theorem Handed.of_gated {s u : State} {x : XOp} {mc : Bool} (h : Handed (s.gated mc) u x) : Handed s u x := by
  cases mc with
  | false => exact h
  | true =>
    obtain ⟨⟨ls, i, hout, rfl⟩, hcore, hcid, hlidx, hkept⟩ := h
    exact ⟨⟨ls, i, hout, rfl⟩, hcore, hcid, hlidx, hkept⟩

/-- The operation that a job makes, failed where the job says so. -/
theorem startX_handed (s : State) (j : XJob) : ∃ x, Handed s (s.startX j) x ∧ x.tiles = j.tiles ∧ x.tgt = j.tgt ∧ x.cost = j.cost
    ∧ x.writes = j.writes ∧ x.fail = j.fail ∧ (j.flags = 0 → x.flags = 0) := by
  obtain ⟨ls, hnote⟩ := note_eq s s.ctx.arr s.ctx.task s.ctx.rank s.nextLeaf j.da j.db (some j.dc)
  have hiss : ({ s.iss with leafs := s.iss.leafs + 1 } : Iss).out = s.iss.out := rfl
  unfold State.startX
  simp only [hnote]
  cases j.fail with
  | none => exact ⟨_, ⟨⟨ls, _, hiss, rfl⟩, rfl, rfl, rfl, rfl⟩, rfl, rfl, rfl, rfl, rfl, id⟩
  | some f =>
    cases j.m64.isSome with
    | false => exact ⟨_, ⟨⟨ls, _, hiss, rfl⟩, rfl, rfl, rfl, rfl⟩, rfl, rfl, rfl, rfl, rfl, fun _ => rfl⟩
    | true => exact ⟨_, ⟨⟨ls, _, hiss, rfl⟩, rfl, rfl, rfl, rfl⟩, rfl, rfl, rfl, rfl, rfl, id⟩

end Sys2Proof.Machine

namespace Sys2Proof.Machine

/-! ### mma and mmaz (R261 to R264) -/

/-- Whether an operation of the given counts has any work. -/
def clLive (v : Word) : Bool := clM v != 0 && clN v != 0 && clK v != 0

/-- The bytes that B spans, the parameter of B that a multicast's ranks must share, and B as it is read, piece by piece. -/
def MPair.spanB (p : MPair) (v : Word) : Nat := if p.bpn then 2048 * clPlanes v else (clK v - 1) * clBS v + clN v * p.esz
def MPair.par (p : MPair) (v : Word) : Nat := if p.bpn then clPlanes v else clBS v
def MPair.readB (p : MPair) (v : Word) (view : BufView) (src : Option Ctx) (b : Word) : Except (Nat × Word) (List (List Byte)) :=
  if p.bpn then bufReads view src b (p.spanB v) ((clN v + 7) / 8) (bpnOffs (clPlanes v) (clK v))
  else bufReads view src b (p.spanB v) (clN v * p.esz) ((List.range (clK v)).map (fun j => j * clBS v))

/-- The columns of B that its pieces hold, and the value of an element. -/
def MPair.cols (p : MPair) (v : Word) (y : List (List Byte)) : List (List Nat) :=
  if p.bpn then (List.range (clN v)).map (fun c => (List.range (clK v)).map (fun j => encI 8 (bpnVal (clPlanes v) (clK v) y j c)))
  else (List.range (clN v)).map (fun c => y.map (fun row => (elems p.esz (clN v) row).getD c 0))
def MPair.valB (p : MPair) (env : REnv) (w : Nat) : FV := if p.bpn then intV (decI 8 w) else p.val env w

/-- What the issue of a product fixes in its job (R257): the occupancy and the tiles, nothing to write without work to do, and where both
operands could be read the rows of the product. -/
structure MmaJob (s : State) (p : MPair) (acc : Bool) (r : Option RemX) (v a b : Word) (td : Nat) (zs : List Row) (j : XJob) : Prop where
  cost : j.cost = if clLive v then p.cost (clPlanes v) else 1
  tiles : j.tiles = [td]
  tgt : j.tgt = if clLive v then [td] else []
  idle : clLive v = false → j.writes = [] ∧ j.flags = 0
  rows : clLive v = true → j.fail = none → ∃ x y,
    bufReads s.bufView (s.srcA r) a ((clM v - 1) * clAS v + clK v * p.esz) (clK v * p.esz) ((List.range (clM v)).map (fun i => i * clAS v)) = .ok x
    ∧ p.readB v (if remMc r then s.mcView else s.bufView) (s.srcB r) b = .ok y
    ∧ j.writes = tileWrites td (clN v) (rowBits (mmaRows s.xenv p.float acc (x.map (elems p.esz (clK v))) (p.cols v y)
        ((if acc then zs else []).map (lanes 36)) (p.val s.xenv) (p.valB s.xenv) (clN v)))

section
variable {s : State} {t : BitVec 4} {fa fb : BitVec 6} {k : BitVec 2} {r : Option RemX} {v a b : Word} {td : Nat} {p : MPair} {acc : Bool} {zs : List Row}

theorem xMma_job (hinh : s.ctx.inh = false) (hk : s.rdK k.toNat = .ok v) (ha : s.rdS fa = .ok a) (hb : s.rdS fb = .ok b)
    (htile : s.tileCheck t.toNat = .ok td) (hpend : s.pendCheck [td] = .ok ()) (hclip : s.clipCheck v true true p.bpn 128 = .ok ())
    (hbufs : bufCheck2 a b p.esz (clAS v) (if p.bpn then 2048 else p.esz) (if p.bpn then 0 else clBS v) = .ok ())
    (hwa : s.windowCheck a ((clM v - 1) * clAS v + clK v * p.esz) (clLive v && !remA r) = .ok ())
    (hwb : s.windowCheck b (p.spanB v) (clLive v && !remB r) = .ok ()) (hdest : s.xdests td (if clLive v then clM v else 0) = .ok ())
    (hgate : s.xgate (if clLive v then p.cost (clPlanes v) else 1)
      (if clLive v then s.ownOps r a ((clM v - 1) * clAS v + clK v * p.esz) b (p.spanB v) else []) = .ok ())
    (hg : remMc r = true → ∃ g, s.gangGate = .ok g) (hzs : acc = true → clLive v = true → s.xreads td (clM v) = .ok zs) :
    ∃ j, xMma p acc t fa fb k r s
        = .next (if remMc r then ((s.gated (remMc r)).startX j).mcastSettle b (p.par v) else (s.gated (remMc r)).startX j)
      ∧ MmaJob s p acc r v a b td zs j := by
  have hcount : (clM v != 0 && clN v != 0 && clK v != 0) = clLive v := rfl
  unfold MPair.spanB at hwb hgate
  unfold xMma
  simp only [hinh, hk, ha, hb, hclip, htile, hbufs, hcount, hwa, hwb, hpend, hdest, hgate, gate_ok hg, Bool.not_false, need_true, both_ok, ok_bind]
  cases hlive : clLive v with
  | false =>
    simp only [Bool.and_false, Bool.false_eq_true, if_false]
    exact ⟨_, rfl, by rw [hlive]; rfl, rfl, by rw [hlive]; rfl, fun _ => ⟨rfl, rfl⟩, fun h => by simp [hlive] at h⟩
  | true =>
    have hread : acc = true → s.xreads td (clM v) = .ok zs := fun h => hzs h hlive
    cases acc
    case' true => simp only [hread rfl, ok_bind, Bool.and_true, if_true]
    all_goals
      refine ⟨_, rfl, by simp [hlive], rfl, by simp [hlive], fun h => by simp [hlive] at h, fun _ hfail => ?_⟩
      simp only [if_true, Bool.not_true, Bool.false_eq_true, if_false] at hfail ⊢
      split at hfail
      · cases hfail
      · cases hfail
      · next x y hx hy => exact ⟨x, y, hx, hy, by rw [hx, hy]; rfl⟩

end

end Sys2Proof.Machine

namespace Sys2Proof.Machine

/-! ### One element of a product (R82, R262) -/

/-- Two's complement takes back what fits. -/
theorem decI_encI {w : Nat} {x : Int} (hw : 0 < w) (hlo : -2 ^ (w - 1) ≤ x) (hhi : x < 2 ^ (w - 1)) : decI w (encI w x) = x := by
  obtain ⟨n, rfl⟩ : ∃ n, w = n + 1 := ⟨w - 1, by omega⟩
  rw [Nat.add_sub_cancel] at hlo hhi
  have hpow : (2 : Int) ^ (n + 1) = 2 * 2 ^ n := by ring
  have hnat : ((2 ^ n : Nat) : Int) = 2 ^ n := by push_cast; rfl
  have hmod : ((encI (n + 1) x : Nat) : Int) = if 0 ≤ x then x else x + 2 ^ (n + 1) := by
    rw [encI, Int.toNat_of_nonneg (Int.emod_nonneg _ (by positivity))]
    split
    · rw [Int.emod_eq_of_lt ‹_› (by omega)]
    · rw [← Int.add_emod_right, Int.emod_eq_of_lt (by omega) (by omega)]
  have hlt : encI (n + 1) x < 2 ^ (n + 1) := by zify; rw [hmod]; split <;> omega
  unfold decI
  simp only [Nat.add_sub_cancel, Nat.mod_eq_of_lt hlt]
  split_ifs at hmod ⊢ <;> omega

theorem decI_bounds (w x : Nat) (hw : 0 < w) : -2 ^ (w - 1) ≤ decI w x ∧ decI w x < 2 ^ (w - 1) := by
  obtain ⟨n, rfl⟩ : ∃ n, w = n + 1 := ⟨w - 1, by omega⟩
  have hlt : x % 2 ^ (n + 1) < 2 ^ (n + 1) := Nat.mod_lt _ (by positivity)
  have hpow : (2 : Int) ^ (n + 1) = 2 * 2 ^ n := by ring
  have hpow' : 2 ^ (n + 1) = 2 * 2 ^ n := by ring
  have hnat : ((2 ^ n : Nat) : Int) = 2 ^ n := by push_cast; rfl
  unfold decI
  simp only [Nat.add_sub_cancel]
  split_ifs <;> omega

/-- An integer of up to 8 planes fits in the element of its column. -/
theorem decI_encI_planes {p x : Nat} (h2 : 2 ≤ p) (h8 : p ≤ 8) : decI 8 (encI 8 (decI p x)) = decI p x := by
  obtain ⟨hlo, hhi⟩ := decI_bounds p x (by omega)
  have hle : (2 : Int) ^ (p - 1) ≤ 2 ^ (8 - 1) := pow_le_pow_right₀ (by decide) (by omega)
  exact decI_encI (by decide) (by omega) (by omega)

theorem getElem?_flatMap_range {α : Type} (p k q j : Nat) (g : Nat → Nat → α) (hq : q < p) (hj : j < k) :
    ((List.range p).flatMap (fun q => (List.range k).map (g q)))[q * k + j]? = some (g q j) := by
  have hlen (p : Nat) : ((List.range p).flatMap (fun q => (List.range k).map (g q))).length = p * k := by simp [List.length_flatMap]
  induction p with
  | zero => omega
  | succ p ih =>
    rw [List.range_succ, List.flatMap_append]
    rcases Nat.lt_succ_iff_lt_or_eq.mp hq with hlt | rfl
    · have hin : q * k + j < p * k := by
        calc q * k + j < (q + 1) * k := by rw [Nat.succ_mul]; omega
          _ ≤ p * k := Nat.mul_le_mul_right k hlt
      rw [List.getElem?_append_left (by rw [hlen]; exact hin), ih hlt]
    · rw [List.getElem?_append_right (by rw [hlen]; omega), hlen]
      simp [hj]

theorem getD_map_range {α : Type} (f : Nat → α) (d : α) {n i : Nat} (h : i < n) : ((List.range n).map f).getD i d = f i := by simp [h]

section
variable {s : State} {p : MPair} {acc : Bool} {r : Option RemX} {v a b : Word} {ca cb : Ctx} {view : BufView}

/-- The rows of A. -/
theorem rowsA_view {span m kd e st : Nat} {src : Option Ctx} {x : List (List Byte)} (ha : selOf a = 0x10 ∨ selOf a = 0x11) (hsrc : src = some ca)
    (hx : bufReads view src a span (kd * e) ((List.range m).map (fun i => i * st)) = .ok x) :
    x.map (elems e kd) = (List.range m).map (fun i => (List.range kd).map (fun j => viewElem view ca a (i * st) e j)) := by
  rw [bufReads_ok ha hsrc hx]
  simp [Function.comp_def, elems_view]

/-- The value of element j of column c of B. -/
def MPair.elemB (p : MPair) (env : REnv) (v b : Word) (view : BufView) (cb : Ctx) (c j : Nat) : FV :=
  if p.bpn then intV (decI (clPlanes v) ((List.range (clPlanes v)).foldl
    (fun y q => 2 * y + viewElem view cb b (2048 * q + 16 * j) 1 (c / 8) / 2 ^ (c % 8) % 2) 0))
  else p.val env (viewElem view cb b (j * clBS v) p.esz c)

theorem colsB_view {src : Option Ctx} {y : List (List Byte)} {c : Nat} (env : REnv) (hb : selOf b = 0x10 ∨ selOf b = 0x11) (hsrc : src = some cb)
    (hplanes : p.bpn = true → 2 ≤ clPlanes v ∧ clPlanes v ≤ 8) (hy : p.readB v view src b = .ok y) (hc : c < clN v) :
    ((p.cols v y).getD c []).map (p.valB env) = (List.range (clK v)).map (p.elemB env v b view cb c) := by
  unfold MPair.readB at hy
  unfold MPair.cols MPair.valB
  split at hy
  · next hbpn =>
    obtain ⟨h2, h8⟩ := hplanes hbpn
    rw [bufReads_ok hb hsrc hy, if_pos hbpn, getD_map_range _ _ hc, List.map_map]
    refine List.map_congr_left fun j hj => ?_
    simp only [Function.comp_apply, hbpn, if_true, MPair.elemB, bpnVal, decI_encI_planes h2 h8]
    congr 2
    refine List.foldl_ext _ _ _ fun z q hq => ?_
    have hpiece := getElem?_flatMap_range (clPlanes v) (clK v) q j (fun q j => 2048 * q + 16 * j) (List.mem_range.mp hq) (List.mem_range.mp hj)
    have hbyte : c / 8 < (clN v + 7) / 8 := by omega
    simp only [List.getD_eq_getElem?_getD, List.getElem?_map, bpnOffs, hpiece, Option.map_some, Option.getD_some, List.getElem?_range hbyte,
      viewElem_byte, BitVec.getLsbD, Nat.toNat_testBit]
  · next hbpn =>
    rw [bufReads_ok hb hsrc hy, if_neg hbpn, getD_map_range _ _ hc, List.map_map, List.map_map, List.map_map]
    refine List.map_congr_left fun j _ => ?_
    simp only [Function.comp_apply, hbpn, MPair.elemB, elems_view, getD_map_range _ _ hc, Bool.false_eq_true, if_false]

theorem mmaRows_element {float : Bool} {as bs zs : List (List Nat)} {va vb : Nat → FV} {n i c : Nat} (env : REnv) (hi : i < as.length) (hc : c < n) :
    ((rowBits (mmaRows env float acc as bs zs va vb n)).getD i []).getD c 0
      = (if float then mmaFloat env acc (((as.getD i []).map va).zip ((bs.getD c []).map vb)) ((zs.getD i []).getD c 0) (128 * i + c)
          else mmaInt env acc (((as.getD i []).map va).zip ((bs.getD c []).map vb)) ((zs.getD i []).getD c 0)).bits := by
  simp [rowBits, mmaRows, hi, hc]

/-- Lane c of accumulator row i. -/
theorem getD_lanes36 (zs : List Row) (i c : Nat) (hi : i < zs.length) (hc : c < 128) :
    ((zs.map (lanes 36)).getD i []).getD c 0 = laneAt 36 (zs.getD i 0) c := by
  have hrow : (zs.map (lanes 36)).getD i [] = lanes 36 (zs.getD i 0) := by simp [hi]
  rw [hrow, lanes_getD 36 _ c hc]

end


/-- What row i of the tile receives in lane c from a product that has not failed (R262). -/
theorem MmaJob.element {s : State} {p : MPair} {acc : Bool} {r : Option RemX} {v a b : Word} {ca cb : Ctx} {td : Nat} {zs : List Row} {j : XJob}
    {x : XOp} (hj : MmaJob s p acc r v a b td zs j) (hx : x.writes = j.writes) (hlive : clLive v = true) (hfail : j.fail = none)
    (hn : clN v ≤ 128) (hplanes : p.bpn = true → 2 ≤ clPlanes v ∧ clPlanes v ≤ 8) (hzs : acc = true → zs.length = clM v)
    (ha : selOf a = 0x10 ∨ selOf a = 0x11) (hb : selOf b = 0x10 ∨ selOf b = 0x11) (hca : s.srcA r = some ca) (hcb : s.srcB r = some cb)
    {i : Nat} (hi : i < clM v) : XWrites x i (128 * td + i) (clN v) (fun c =>
      let ps := (List.range (clK v)).map (fun j => (p.val s.xenv (viewElem s.bufView ca a (i * clAS v) p.esz j),
        p.elemB s.xenv v b (if remMc r then s.mcView else s.bufView) cb c j))
      let z := if acc then laneAt 36 (zs.getD i 0) c else 0
      (if p.float then mmaFloat s.xenv acc ps z (128 * i + c) else mmaInt s.xenv acc ps z).bits) := by
  obtain ⟨as, bs, has, hbs, hwrites⟩ := hj.rows hlive hfail
  have hrows := rowsA_view ha hca has
  refine xwrites_tile (hx.trans hwrites) (by simp [rowBits, mmaRows, hrows, hi]) hn fun c hc => ?_
  have hz : (((if acc then zs else []).map (lanes 36)).getD i []).getD c 0 = if acc then laneAt 36 (zs.getD i 0) c else 0 := by
    cases acc with
    | false => rfl
    | true => exact getD_lanes36 zs i c (by rw [hzs rfl]; exact hi) (by omega)
  rw [mmaRows_element _ (by simp [hrows, hi]) hc, hz, hrows, getD_map_range _ _ hi, colsB_view _ hb hcb hplanes hbs hc, List.map_map,
    List.zip_map']
  rfl

end Sys2Proof.Machine


namespace Sys2Proof.Machine

/-! ### mma64 and its micro-steps (R265) -/

/-- The integer arithmetic looks at IWRAP alone. -/
theorem mmaInt_congr {v u : REnv} (h : v.iwrap = u.iwrap) (acc : Bool) (ps : List (FV × FV)) (z : Nat) : mmaInt v acc ps z = mmaInt u acc ps z := by
  unfold mmaInt narrow
  rw [h]

/-- What micro-step q makes of lane c of accumulator row i. -/
def State.microLane (s : State) (env : REnv) (j : M64) (ca cb : Ctx) (i c q z : Nat) : Nat :=
  (mmaInt env true ((List.range (min (clK j.clip) (16 * q + 16) - 16 * q)).map (fun l =>
    (intV (decI 8 (viewElem s.bufView ca j.a (i * clAS j.clip + 16 * q) 1 l)),
     intV (decI 8 (viewElem (if remMc j.x then s.mcView else s.bufView) cb j.b ((16 * q + l) * clBS j.clip) 1 c))))) z).bits

section
variable {s : State} {j : M64} {q : Nat} {zs : List (List Nat)} {ca cb : Ctx}

theorem length_micro {x y : List Byte} {rs : List (List FR)} (h : s.micro j q zs = .ok (x, y, rs)) : (rowBits rs).length = clM j.clip := by
  unfold State.micro at h
  simp only at h
  split at h
  · cases h
  · cases h
  · simp only [Except.ok.injEq, Prod.mk.injEq] at h
    obtain ⟨-, -, rfl⟩ := h
    simp [rowBits, mmaRows]

theorem micro_lane {x y : List Byte} {rs : List (List FR)} (ha : selOf j.a = 0x10 ∨ selOf j.a = 0x11) (hb : selOf j.b = 0x10 ∨ selOf j.b = 0x11)
    (hca : s.srcA j.x = some ca) (hcb : s.srcB j.x = some cb) (h : s.micro j q zs = .ok (x, y, rs)) {env : REnv} (henv : env.iwrap = modeIWRAP j.mode)
    {i c : Nat} (hi : i < clM j.clip) (hc : c < clN j.clip) :
    ((rowBits rs).getD i []).getD c 0 = s.microLane env j ca cb i c q ((zs.getD i []).getD c 0) := by
  unfold State.micro at h
  simp only at h
  split at h
  · cases h
  · cases h
  · next as bs has hbs =>
    simp only [Except.ok.injEq, Prod.mk.injEq] at h
    obtain ⟨-, -, rfl⟩ := h
    have hrow : elems 1 (min (clK j.clip) (16 * q + 16) - 16 * q) (as.getD i [])
        = (List.range (min (clK j.clip) (16 * q + 16) - 16 * q)).map (fun l => viewElem s.bufView ca j.a (i * clAS j.clip + 16 * q) 1 l) := by
      split at has
      · next h0 => simp [h0, elems]
      · rw [bufReads_ok ha hca has, List.map_map, getD_map_range _ _ hi]
        exact (congrArg (elems 1 _) (by rw [Nat.mul_one]; rfl)).trans (elems_view _ _ _ _ 1 _)
    have hcol : bs.map (fun row => (row.getD c 0).toNat) = (List.range (min (clK j.clip) (16 * q + 16) - 16 * q)).map (fun l =>
        viewElem (if remMc j.x then s.mcView else s.bufView) cb j.b ((16 * q + l) * clBS j.clip) 1 c) := by
      split at hbs
      · next h0 => cases hbs; simp [h0]
      · rw [bufReads_ok hb hcb hbs, List.map_map, List.map_map]
        refine List.map_congr_left fun l _ => ?_
        simp only [Function.comp_apply, getD_map_range _ _ hc, viewElem_byte]
    rw [mmaRows_element _ (by simpa using hi) hc, if_neg Bool.false_ne_true, getD_map_range _ _ hi, getD_map_range _ _ hc, hrow, hcol, List.map_map,
      List.map_map, List.zip_map', mmaInt_congr (u := env) henv.symm]
    rfl

end

section
variable {s : State} {k : Nat} {j j' : M64} {zs rows : List (List Nat)} {fl fl' : Nat} {fail : Option (Nat × Word)}

/-- The steps that succeed are counted, and all of them do unless one fails. -/
theorem micros_count (h : s.micros k j zs fl = (j', rows, fl', fail)) :
    j.micro ≤ j'.micro ∧ j'.micro ≤ j.micro + k ∧ (fail = none ↔ j'.micro = j.micro + k) := by
  induction k generalizing j zs fl with
  | zero => cases h; simp
  | succ k ih =>
    unfold State.micros at h
    split at h
    · cases h; simp
    · obtain ⟨hlo, hhi, hfail⟩ := ih h
      simp only at hlo hhi hfail
      exact ⟨by omega, by omega, hfail.trans (by omega)⟩

theorem length_micros (h : s.micros k j zs fl = (j', rows, fl', fail)) (hzs : zs.length = clM j.clip) : rows.length = clM j.clip := by
  induction k generalizing j zs fl with
  | zero => cases h; exact hzs
  | succ k ih =>
    unfold State.micros at h
    split at h
    · cases h; exact hzs
    · next x y rs hstep =>
      have hrest := ih h (length_micro hstep)
      exact hrest

/-- Each lane has gone through the steps that succeed, one after another. -/
theorem micros_lane {ca cb : Ctx} {env : REnv} {i c : Nat} (h : s.micros k j zs fl = (j', rows, fl', fail))
    (ha : selOf j.a = 0x10 ∨ selOf j.a = 0x11) (hb : selOf j.b = 0x10 ∨ selOf j.b = 0x11) (hca : s.srcA j.x = some ca) (hcb : s.srcB j.x = some cb)
    (henv : env.iwrap = modeIWRAP j.mode) (hi : i < clM j.clip) (hc : c < clN j.clip) :
    (rows.getD i []).getD c 0
      = (List.range' j.micro (j'.micro - j.micro)).foldl (fun z q => s.microLane env j ca cb i c q z) ((zs.getD i []).getD c 0) := by
  induction k generalizing j zs fl with
  | zero => cases h; simp
  | succ k ih =>
    unfold State.micros at h
    split at h
    · cases h; simp
    · next x y rs hstep =>
      obtain ⟨hlo, -, -⟩ := micros_count h
      have hsteps : j'.micro - j.micro = (j'.micro - (j.micro + 1)) + 1 := by simp only at hlo; omega
      rw [ih h ha hb hca hcb henv hi hc, micro_lane ha hb hca hcb hstep henv hi hc, hsteps, List.range'_succ, List.foldl_cons]
      rfl

end

/-- An mma64's operation, as its job and the rows that it starts from make it. -/
theorem runM64_handed {s : State} {ls : List Launch} {i : Iss} (hi : i.out = s.iss.out) {j : M64} (hj : j.lidx = s.nextLeaf) (tile : Nat)
    (zs : List (List Nat)) (live : Bool) : ∃ x, Handed s ((s.taken ls i).runM64 j tile zs live) x ∧ x.tiles = [tile]
      ∧ x.cost = (if live then 256 else 1) ∧ ∃ y rows fl, x.m64 = some y ∧ (live = false → x.writes = [])
        ∧ (live = true → (s.taken ls i).micros (4 - j.micro) j zs 0 = (y, rows, fl, x.fail) ∧ x.writes = tileWrites tile (clN j.clip) rows) := by
  unfold State.runM64
  cases live with
  | false =>
    obtain ⟨ms, hnote⟩ := note_eq (s.taken ls i) (s.taken ls i).ctx.arr (s.taken ls i).ctx.task (s.taken ls i).ctx.rank j.lidx
      (serBuf 1 j.rowsA) (serBuf 1 j.rowsB) none
    simp only [Bool.false_eq_true, if_false, hnote]
    exact ⟨_, ⟨⟨ms, i, hi, rfl⟩, rfl, rfl, hj, rfl⟩, rfl, rfl, j, [], 0, rfl, fun _ => rfl, fun h => nomatch h⟩
  | true =>
    rcases hrun : (s.taken ls i).micros (4 - j.micro) j zs 0 with ⟨y, rows, fl, fail⟩
    obtain ⟨ms, hnote⟩ := note_eq (s.taken ls i) (s.taken ls i).ctx.arr (s.taken ls i).ctx.task (s.taken ls i).ctx.rank j.lidx
      (serBuf 1 y.rowsA) (serBuf 1 y.rowsB) none
    simp only [if_true, hnote]
    exact ⟨_, ⟨⟨ms, i, hi, rfl⟩, rfl, rfl, hj, rfl⟩, rfl, rfl, y, rows, fl, rfl, (fun h => nomatch h), fun _ => ⟨rfl, rfl⟩⟩

/-- What the issue of an mma64 fixes for its micro-steps. -/
structure Mma64Job (s : State) (r : Option RemX) (v a b : Word) (j : M64) : Prop where
  micro : j.micro = 0
  clip : j.clip = v
  a : j.a = a
  b : j.b = b
  x : j.x = r
  mode : j.mode = s.ctx.mode
  lidx : j.lidx = s.nextLeaf

theorem gated_eq (s : State) (mc : Bool) : ∃ i, i.out = s.iss.out ∧ i.leafs = s.iss.leafs ∧ s.gated mc = { s with iss := i } := by
  cases mc with
  | false => exact ⟨s.iss, rfl, rfl, rfl⟩
  | true => exact ⟨{ s.iss with gangOp := true }, rfl, rfl, rfl⟩

theorem execMma64_run {s : State} {t : BitVec 4} {fa fb : BitVec 6} {k : BitVec 2} {r : Option RemX} {v a b : Word} {td : Nat} {zs : List Row}
    (hinh : s.ctx.inh = false) (hk : s.rdK k.toNat = .ok v) (ha : s.rdS fa = .ok a) (hb : s.rdS fb = .ok b)
    (htile : s.tileCheck t.toNat = .ok td) (hpend : s.pendCheck [td] = .ok ()) (hclip : s.clipCheck v true true false 64 = .ok ())
    (hbufs : bufCheck2 a b 1 0 1 0 = .ok ()) (hwa : s.windowCheck a ((clM v - 1) * clAS v + clK v) (clLive v && !remA r) = .ok ())
    (hwb : s.windowCheck b ((clK v - 1) * clBS v + clN v) (clLive v && !remB r) = .ok ())
    (hgate : s.xgate (if clLive v then 256 else 1)
      (if clLive v then s.ownOps r a ((clM v - 1) * clAS v + clK v) b ((clK v - 1) * clBS v + clN v) else []) = .ok ())
    (hg : remMc r = true → ∃ g, s.gangGate = .ok g) (hzs : clLive v = true → s.xreads td (clM v) = .ok zs) :
    ∃ ls i j, i.out = s.iss.out ∧ Mma64Job s r v a b j ∧ ∃ zn, (clLive v = true → zn = (zs.map (lanes 36)).map (fun z => z.take (clN v)))
      ∧ execMma64 t fa fb k r s = .next (if remMc r then ((s.taken ls i).runM64 j td zn (clLive v)).mcastSettle b (clBS v)
          else (s.taken ls i).runM64 j td zn (clLive v)) := by
  have hcount : (clM v != 0 && clN v != 0 && clK v != 0) = clLive v := rfl
  unfold execMma64
  obtain ⟨i, hi, hleafs, hgated⟩ := gated_eq s (remMc r)
  simp only [hinh, hk, ha, hb, hclip, htile, hbufs, hcount, hwa, hwb, hpend, hgate, gate_ok hg, hgated, Bool.not_false, need_true, both_ok, ok_bind]
  have hnote (dc : Option (List Byte)) := note_eq { s with iss := i } s.ctx.arr s.ctx.task s.ctx.rank s.nextLeaf [] [] dc
  choose ls hnote using hnote
  have htake (l : List Launch) : ({ s with iss := i, launches := l } : State).takeLeaf = s.taken l { i with leafs := i.leafs + 1 } := by
    simp [State.takeLeaf, State.taken, State.nextLeaf, hleafs]
  cases hlive : clLive v
  case' true => simp only [hzs hlive, if_true, ok_bind]
  case' false => simp only [Bool.false_eq_true, if_false, pure_bind]
  all_goals
    simp only [hnote, htake, finish_pure]
    refine ⟨_, { i with leafs := i.leafs + 1 }, _, hi, ?_, _, ?_, rfl⟩
    · exact ⟨rfl, rfl, rfl, rfl, rfl, rfl, rfl⟩
    · simp

/-- The rows that an mma64's operation writes, by the micro-steps that have not failed. -/
theorem mma64_writes {s : State} {ls : List Launch} {i : Iss} {j : M64} {td : Nat} {r : Option RemX} {v a b : Word} {zs : List Row}
    {x : XOp} {y : M64} {rows : List (List Nat)} {fl : Nat} {ca cb : Ctx} (hj : Mma64Job s r v a b j)
    (hrun : (s.taken ls i).micros 4 j ((zs.map (lanes 36)).map (fun z => z.take (clN v))) 0 = (y, rows, fl, x.fail))
    (hx : x.writes = tileWrites td (clN v) rows) (hzs : zs.length = clM v) (hn : clN v ≤ 128) (ha : selOf a = 0x10 ∨ selOf a = 0x11)
    (hb : selOf b = 0x10 ∨ selOf b = 0x11) (hca : s.srcA r = some ca) (hcb : s.srcB r = some cb) {k : Nat} (hk : k < clM v) :
    XWrites x k (128 * td + k) (clN v) (fun c => (List.range y.micro).foldl (fun z q => s.microLane s.xenv j ca cb k c q z)
      (laneAt 36 (zs.getD k 0) c)) := by
  obtain ⟨hmicro, rfl, rfl, rfl, rfl, hmode, -⟩ := hj
  have hrows := length_micros hrun (by simpa using hzs)
  refine xwrites_tile hx (hrows ▸ hk) hn fun c hc => ?_
  have hstart : (((zs.map (lanes 36)).map (fun z => z.take (clN j.clip))).getD k []).getD c 0 = laneAt 36 (zs.getD k 0) c := by
    rw [← getD_lanes36 zs k c (hzs ▸ hk) (by omega)]
    simp only [List.getD_eq_getElem?_getD, List.getElem?_map]
    cases zs[k]? <;> simp [hc]
  rw [micros_lane hrun ha hb hca hcb (env := s.xenv) (by rw [hmode]; rfl) hk hc, hstart, hmicro, Nat.sub_zero, ← List.range_eq_range']
  rfl

end Sys2Proof.Machine

section
open Sys2Proof Sys2Proof.Machine

/-- Settles O52, product by product and step by step. -/
theorem matrixProductsStart : Obligations.MatrixProductsStart := by
  unfold Obligations.MatrixProductsStart
  intro s t fa fb k r v a b td hinh hk hra hrb htile hpend m n kd live env view starts
  refine ⟨?pairs, ?mma64⟩
  case pairs =>
    intro f hf
    have hexec : exec (f.1 t fa fb k r) s = xMma f.2.1 f.2.2 t fa fb k r s := by
      revert f
      simp only [List.forall_mem_cons, List.not_mem_nil, false_implies, implies_true, and_true]
      exact ⟨rfl, rfl, rfl, rfl, rfl, rfl, rfl, rfl, rfl, rfl⟩
    intro p e spanA spanB cost hclip hbufA hbufB hwa hwb hdest hgate zs hzs
    obtain ⟨hm128, hn128, hplanes⟩ := clipCheck_ok hclip
    refine products_start (b := b) (par := p.par v) fun hg => ?_
    obtain ⟨j, hrun, hj⟩ := xMma_job hinh hk hra hrb htile hpend hclip (bufCheck2_ok hbufA hbufB) hwa hwb hdest hgate hg hzs
    obtain ⟨x, hx, htiles, htgt, hcost, hwrites, hfail, hflags⟩ := startX_handed (s.gated (remMc r)) j
    refine ⟨_, x, hexec.trans hrun, hx.of_gated, hcost.trans hj.cost, htiles.trans hj.tiles, htgt.trans hj.tgt, ?idle, ?rows⟩
    case idle => exact fun h => ⟨hwrites.trans (hj.idle h).1, hflags (hj.idle h).2⟩
    case rows =>
      intro hlive hnone ca cb hca hcb i hi
      refine hj.element hwrites hlive (hfail ▸ hnone) (hn128 rfl) hplanes (fun h => length_xreads (hzs h hlive)) (bufPath_ok (bufCheck_ok hbufA).1)
        (bufPath_ok (bufCheck_ok hbufB).1) hca hcb hi
  case mma64 =>
    intro spanA spanB hclip hbufA hbufB hwa hwb hgate zs hzs
    obtain ⟨hm, hn, -⟩ := clipCheck_ok hclip
    refine products_start (b := b) (par := clBS v) fun hg => ?_
    obtain ⟨ls, i, j, hi, hj, zn, hzn, hrun⟩ := execMma64_run hinh hk hra hrb htile hpend hclip (bufCheck2_ok hbufA hbufB) hwa hwb hgate hg hzs
    obtain ⟨x, hx, htiles, hcost, y, rows, fl, hy, hidle, hlive⟩ := runM64_handed hi hj.lidx td zn (clLive v)
    refine ⟨_, x, hrun, hx, htiles, hcost, y, hy, hidle, fun h => ?_⟩
    obtain ⟨hsteps, hwrites⟩ := hlive h
    rw [hj.micro, hzn h] at hsteps
    obtain ⟨-, hle, hfail⟩ := micros_count hsteps
    rw [hj.micro] at hle hfail
    refine ⟨hle, hfail, fun ca cb hca hcb k hk => ?_⟩
    have hlanes := mma64_writes hj hsteps (hj.clip ▸ hwrites) (length_xreads (hzs h)) ((hn rfl).trans (by decide)) (bufPath_ok (bufCheck_ok hbufA).1)
      (bufPath_ok (bufCheck_ok hbufB).1) hca hcb hk
    obtain ⟨-, rfl, rfl, rfl, rfl, -⟩ := hj
    exact hlanes

end

/-! ## A copy from an address between two units

A copy may be seen stopped only where no aligned 8-byte unit of its source has bytes on both sides (R168, R185, log 122). -/

namespace Sys2Proof.Machine

/-- A context alone in the machine, with a window of 1,024 bytes in W and one in A. -/
def windowCtx : Ctx := { live := true, wwin := 0x10000, awin := 0x10000 }

/-- A copy of 16 bytes from W's byte 1 to A's byte 0, that has not begun. -/
def oddCopy : EngOp :=
  { core := 0, cid := 0, gang := 0, arr := 0, task := 0, rank := 0, ord := 0, words := [], tl := 1, num := 1,
    desc := leBytes 8 0x1000000000000001 ++ leBytes 8 0x1100000000000000 ++ leBytes 4 16 ++ leBytes 4 1 ++ List.replicate 40 0, lidx := 0, pc := 0,
    text := 0, step := 0, mode := 0, depth := 0, block := none, dst := 0, delivered := 0, srcBytes := [], dropped := false, port := none, iter := 0 }

def oddState : State := { State.reset with ctx := windowCtx, engs := [oddCopy] }

/-- How many bytes the copies under way have delivered in the state that follows. -/
def deliveredAfter (r : Res) : List Nat :=
  match r with
  | .next t => t.engs.map EngOp.delivered
  | _ => []

/-- Byte 8 of the copy lies within a unit of its source, and nowhere before it may the copy stop: it stays where it is. -/
theorem deliveredAfter_oddState : deliveredAfter (exec (.wpAdvance 0 1 8) oddState) = [0] := by decide +kernel

theorem oddState_copies : oddState.nextEng 0 1 = some oddCopy ∧ oddState.ownerOf 0 0 = some windowCtx ∧ oddState.engReady oddCopy = true
    ∧ oddState.elided windowCtx oddCopy = false ∧ oddState.copyPaths windowCtx oddCopy.desc = true := by decide +kernel

theorem oddCopy_desc : numAt oddCopy.desc 0 8 = 0x10 * 2 ^ 56 + 1 ∧ numAt oddCopy.desc 8 8 = 0x11 * 2 ^ 56 + 0 ∧ numAt oddCopy.desc 0x10 4 = 16
    ∧ numAt oddCopy.desc 0x14 4 = 1 := by decide +kernel

end Sys2Proof.Machine

section
open Sys2Proof Sys2Proof.Machine

/-- Refutes O44: with a source that does not begin at a unit, as in `oddState`, a write pointer cannot stand at every multiple of 8 bytes. The
statement asks only that the destination does. -/
theorem not_timelineInstructions : ¬ Obligations.TimelineInstructions := by
  unfold Obligations.TimelineInstructions
  intro h
  obtain ⟨-, h⟩ := h
  obtain ⟨-, hrow, -, -⟩ := h oddState
  obtain ⟨hnext, howner, hready, helided, -⟩ := oddState_copies
  obtain ⟨hsrc, hdst, hlen, hrows⟩ := oddCopy_desc
  obtain ⟨-, hadvance⟩ := hrow 0 1 oddCopy windowCtx 1 0 16 hnext howner (by decide) hready helided rfl rfl rfl rfl hsrc hdst hlen hrows
    (by decide) (by decide) (by decide) (by decide)
  obtain ⟨t, hexec, -, -, -, ⟨x, hx, -, -, hdelivered⟩, -⟩ := hadvance 8 (by decide) (by decide) (by decide) (by decide)
  have hstays := deliveredAfter_oddState
  rw [hexec] at hstays
  have hmem : (8 : Nat) ∈ deliveredAfter (.next t) := hdelivered ▸ List.mem_map_of_mem hx
  rw [hstays] at hmem
  exact absurd hmem (by decide)

end

/-! ## Decoding what was encoded (R101 to R116) -/

namespace Sys2Proof

/-! ### A slot by its class and opcode -/

/-- The field-by-field reading that class and opcode `t`, bits [27:18] of a slot word, select (Table 7.2). -/
def rawAt (t w : Nat) (iws : List Nat) : Option Raw :=
  match t / 64 % 16 with
  | 0 => rawSclass (t % 64) w iws
  | 1 => rawVclass (t % 64) w
  | 2 => rawNclass (t % 64) w
  | 3 => rawQclass (t % 64) w
  | 4 => rawFclass (t % 64) w
  | 5 => rawMclass (t % 64) w iws
  | 6 => rawXclass (t % 64) w iws
  | 7 => rawTclass (t % 64) w
  | 8 => rawBclass (t % 64) w iws
  | 9 => rawEclass (t % 64) w
  | 10 => rawYclass (t % 64) w iws
  | 14 => rawHint w
  | _ => none

theorem rawSlot_eq_rawAt (w : Nat) (iws : List Nat) : rawSlot w iws = rawAt (w / 2 ^ 18) w iws := by
  have hcls : w / 2 ^ 24 = w / 2 ^ 18 / 64 := by omega
  unfold rawSlot rawAt
  rw [hcls] <;> rfl

/-- The words `ws` are a slot whose fields are those of `i`, with no reserved bit set and no I slot missing. -/
def ReadsAs (i : Instr) (ws : List Nat) : Prop :=
  ∃ w iws, ws = w :: iws ∧ rawSlot w iws = some ⟨i, false, false, false⟩

/-- What a layout reads back is what the slot reads as, where class and opcode select that layout. -/
theorem readsAs_of_layout {i : Instr} {ws : List Nat} {h : Nat} {raw : Nat → List Nat → Option Raw}
    (hread : ∃ w iws, ws = w :: iws ∧ w / 2 ^ 18 = h / 2 ^ 18 ∧ raw w iws = some ⟨i, false, false, false⟩)
    (hsel : ∀ w iws, rawAt (h / 2 ^ 18) w iws = raw w iws) : ReadsAs i ws := by
  obtain ⟨w, iws, hws, htop, hraw⟩ := hread
  exact ⟨w, iws, hws, by rw [rawSlot_eq_rawAt, htop, hsel, hraw]⟩

/-- The fields of a well-formed instruction pass every check of R101. -/
theorem decodeSlot_of_rawSlot {i : Instr} {w : Nat} {iws : List Nat} (hraw : rawSlot w iws = some ⟨i, false, false, false⟩)
    (hwf : i.wf = true) : decodeSlot w iws = .ok i := by
  unfold Instr.wf at hwf
  obtain ⟨hsub, hfield⟩ : i.badSub = false ∧ i.badField = false := by simpa using hwf
  unfold decodeSlot
  simp [hraw, hsub, hfield]

/-! ### fence and the hints, whose opcode shares its bits with a field -/

theorem rawFence_enc (ro : Bool) (sc : BitVec 3) : ∃ w iws, [0x05C00000 + ro.toNat * 2 ^ 14 + sc.toNat * 2 ^ 15] = w :: iws
    ∧ w / 2 ^ 18 = 0x05C00000 / 2 ^ 18 ∧ rawFence w = some ⟨if ro then .fenceRo sc else .fence sc, false, false, false⟩ := by
  have := flag_lt ro
  have := sc.isLt
  refine ⟨_, _, rfl, by omega, ?_⟩
  simp only [rawFence]
  rw [fld_val (x := sc) _ _ (by omega), bitAt_val _ 14 ro (by omega), nz_val _ 0 14 (by omega)]

/-- A hint slot is read by its kind, which stands in bits [23:20]. -/
theorem readsAs_encHint {i : Instr} {kind : Nat} {p : BitVec 20} (hkind : kind < 16)
    (hread : ∀ w, w / 2 ^ 20 % 16 = kind → fld w 0 20 = p → rawHint w = some ⟨i, false, false, false⟩) : ReadsAs i (encHint kind p) := by
  have := p.isLt
  refine ⟨_, _, rfl, ?_⟩
  have hcls : (0x0E000000 + kind * 2 ^ 20 + p.toNat) / 2 ^ 24 % 16 = 14 := by omega
  have hslot : rawSlot (0x0E000000 + kind * 2 ^ 20 + p.toNat) [] = rawHint (0x0E000000 + kind * 2 ^ 20 + p.toNat) := by
    unfold rawSlot
    simp only [hcls]
  rw [hslot]
  exact hread _ (by omega) (fld_val _ _ _ (by omega))

theorem rawHint_of_kind {w k : Nat} (h : w / 2 ^ 20 % 16 = k) (h1 : k ≠ 1) (h2 : k ≠ 2) (h3 : k ≠ 3) :
    rawHint w = some ⟨.hintNone (fld w 20 4) (fld w 0 20), false, false, false⟩ := by
  unfold rawHint
  split
  case h_4 => rfl
  all_goals omega

theorem readsAs_hintNone {kind : BitVec 4} {p : BitVec 20} (hwf : (Instr.hintNone kind p).wf = true) :
    ReadsAs (.hintNone kind p) (encHint kind.toNat p) := by
  refine readsAs_encHint kind.isLt fun w hk hp => ?_
  have hkinds : kind ≠ 1 ∧ kind ≠ 2 ∧ kind ≠ 3 := by simpa [Instr.wf, Instr.badSub, Instr.badField, and_assoc] using hwf
  obtain ⟨h1, h2, h3⟩ := hkinds
  rw [rawHint_of_kind hk (by simpa [BitVec.toNat_eq] using h1) (by simpa [BitVec.toNat_eq] using h2) (by simpa [BitVec.toNat_eq] using h3), hp,
    fld_val (x := kind) _ _ hk]

/-! ### Every slot, by its layout -/

/-- The words of a well-formed slot are read field by field as the slot itself: one case for each layout of Tables 7.6 to 7.13. -/
theorem readsAs_encode (i : Instr) (hslot : i.isSlot = true) (hwf : i.wf = true) : ReadsAs i (encode i) := by
  cases i with
  | nop k | trap k | brk k =>
    exact readsAs_of_layout (rawNK_enc _ _ rfl k) fun _ _ => rfl
  | add d a b | sub d a b | mul d a b | mulh d a b | mulhu d a b | div d a b | divu d a b | rem d a b | remu d a b | and d a b | or d a b
  | xor d a b | andn d a b | shl d a b | shr d a b | sar d a b | min d a b | max d a b | minu d a b | maxu d a b | addx2 d a b | addx3 d a b
  | addx4 d a b | bfx d a b | bfi d a b =>
    exact readsAs_of_layout (rawTR3_enc _ _ rfl d a b) fun _ _ => rfl
  | clz d a | popc d a | coll d a | launch d a =>
    exact readsAs_of_layout (rawTR2_enc _ _ rfl d a) fun _ _ => rfl
  | movi d i =>
    exact readsAs_of_layout (rawIM_enc _ _ rfl d i) fun _ _ => rfl
  | cmpeq p c a b | cmpne p c a b | cmplt p c a b | cmple p c a b | cmpltu p c a b | cmpleu p c a b =>
    exact readsAs_of_layout (rawPC_enc _ _ rfl p c a b) fun _ _ => rfl
  | movt d a n p =>
    exact readsAs_of_layout (rawMV_enc _ _ rfl d a n p) fun _ _ => rfl
  | plog d f x y | mlog d f x y =>
    exact readsAs_of_layout (rawPL_enc _ _ rfl d f x y) fun _ _ => rfl
  | pmov p a | waittl p a =>
    exact readsAs_of_layout (rawPM_enc _ _ rfl p a) fun _ _ => rfl
  | pget d =>
    exact readsAs_of_layout (rawD0_enc _ _ rfl d) fun _ _ => rfl
  | mfs d n =>
    exact readsAs_of_layout (rawSG_enc _ _ rfl d n) fun _ _ => rfl
  | mts n a =>
    exact readsAs_of_layout (rawSP_enc _ _ rfl n a) fun _ _ => rfl
  | cmpt a b =>
    exact readsAs_of_layout (rawCT_enc _ _ rfl a b) fun _ _ => rfl
  | vaddf d a b | vsubf d a b | vmulf d a b | vfmaf d a b | vfmsf d a b | vminf d a b | vmaxf d a b | vaddi d a b | vsubi d a b | vmuli d a b
  | vmulhi d a b | vmini d a b | vmaxi d a b | vand d a b | vor d a b | vxor d a b | vshl d a b | vshr d a b | vsar d a b | vaddsi d a b
  | vsel d a b | naddB d a b | nsubB d a b | nmulB d a b | nfmaB d a b | nminB d a b | nmaxB d a b | naddH d a b | nsubH d a b | nmulH d a b
  | nminH d a b | nmaxH d a b | naddQ d a b | nsubQ d a b | nminQ d a b | nmaxQ d a b | naddsQ d a b | vcvt d a b | vred d a b | vscan d a b
  | vshuf d a b | vrot d a b | vhist d a b | vmerge d a b | vins d a b =>
    exact readsAs_of_layout (rawV3_enc _ _ rfl d a b) fun _ _ => rfl
  | vabsf d a | vnegf d a | vbc d a | vmov d a | frcp d a | frsq d a | fsqrt d a | fexp2 d a | flog2 d a | fsig d a | ftanh d a | ferf d a
  | fsinp d a | fcosp d a | frcpB d a | frsqB d a | fsqrtB d a | fexp2B d a | flog2B d a | fsigB d a | ftanhB d a | ferfB d a | fsinpB d a
  | fcospB d a =>
    exact readsAs_of_layout (rawV2_enc _ _ rfl d a) fun _ _ => rfl
  | vceqf m a b | vcltf m a b | vclef m a b | vcunf m a b | vceqi m a b | vclti m a b | vcltu m a b | nceqB m a b | ncltB m a b =>
    exact readsAs_of_layout (rawVC_enc _ _ rfl m a b) fun _ _ => rfl
  | vcx d a dir ty k =>
    exact readsAs_of_layout (rawCX_enc _ _ rfl d a dir ty k) fun _ _ => rfl
  | vfind d m w =>
    exact readsAs_of_layout (rawVF_enc _ _ rfl d m w) fun _ _ => rfl
  | vlane d a b | ilock d a b =>
    exact readsAs_of_layout (rawDS3_enc _ _ rfl d a b) fun _ _ => rfl
  | msel n =>
    exact readsAs_of_layout (rawN4_enc _ _ rfl n) fun _ _ => rfl
  | msetn m a w =>
    exact readsAs_of_layout (rawMN_enc _ _ rfl m a w) fun _ _ => rfl
  | mpop d w m =>
    exact readsAs_of_layout (rawMP_enc _ _ rfl d w m) fun _ _ => rfl
  | vcmpt a b | signal a b | iunlk a b =>
    exact readsAs_of_layout (rawVT_enc _ _ rfl a b) fun _ _ => rfl
  | ldB d b x | ldBu d b x | ldH d b x | ldHu d b x | ldW d b x | ldWu d b x | ldD d b x =>
    exact readsAs_of_layout (rawLD_enc _ _ rfl d b x) fun _ _ => rfl
  | stB v b x | stH v b x | stW v b x | stD v b x =>
    exact readsAs_of_layout (rawSTS_enc _ _ rfl v b x) fun _ _ => rfl
  | vldF32 d b x | vldF16 d b x | vldBf16 d b x | vldI8 d b x | vldI8n d b x | vldB18 d b x | vld d b x | vstF32 d b x | vstF16 d b x
  | vstBf16 d b x | vstI8 d b x | vstI8n d b x | vstB18 d b x | vst d b x =>
    exact readsAs_of_layout (rawVM_enc _ _ rfl d b x) fun _ _ => rfl
  | vlds d b o x | vgath d b o x | vscat d b o x =>
    exact readsAs_of_layout (rawVX_enc _ _ rfl d b o x) fun _ _ => rfl
  | amo d b o x =>
    exact readsAs_of_layout (rawAMO_enc _ _ rfl d b o x) fun _ _ => rfl
  | cas d b o x =>
    exact readsAs_of_layout (rawCAS_enc _ _ rfl d b o x) fun _ _ => rfl
  | fence sc =>
    exact readsAs_of_layout (rawFence_enc false sc) fun _ _ => rfl
  | fenceRo sc =>
    exact readsAs_of_layout (rawFence_enc true sc) fun _ _ => rfl
  | drain | xrst | rft | crclose =>
    exact readsAs_of_layout (rawZ0_enc _ _ rfl) fun _ _ => rfl
  | pref b x =>
    exact readsAs_of_layout (rawPF_enc _ _ rfl b x) fun _ _ => rfl
  | mmaI8 t a b k r | mmaI8p t a b k r | mmaBf16 t a b k r | mmaF16 t a b k r | mmaBf16p t a b k r | mmazI8 t a b k r | mmazI8p t a b k r
  | mmazBf16 t a b k r | mmazF16 t a b k r | mmazBf16p t a b k r | mma64 t a b k r =>
    exact readsAs_of_layout (rawMMA_enc _ _ rfl t a b k r) fun _ _ => rfl
  | sacc t ts i a k =>
    exact readsAs_of_layout (rawSACC_enc _ _ rfl t ts i a k) fun _ _ => rfl
  | tclr t k =>
    exact readsAs_of_layout (rawTK_enc _ _ rfl t k) fun _ _ => rfl
  | tcvt t f a i k =>
    exact readsAs_of_layout (rawTCVT_enc _ _ rfl t f a i k) fun _ _ => rfl
  | tld t f a k | tred t f a k | tdig t f a k =>
    exact readsAs_of_layout (rawTF_enc _ _ rfl t f a k) fun _ _ => rfl
  | sscan t v k =>
    exact readsAs_of_layout (rawSSC_enc _ _ rfl t v k) fun _ _ => rfl
  | tcopy t ts k =>
    exact readsAs_of_layout (rawTCP_enc _ _ rfl t ts k) fun _ _ => rfl
  | xpush36 l a | xpush18 l a | xpush9 l a =>
    exact readsAs_of_layout (rawXP_enc _ _ rfl l a) fun _ _ => rfl
  | xpop d =>
    exact readsAs_of_layout (rawVD0_enc _ _ rfl d) fun _ _ => rfl
  | xplane d a tr =>
    exact readsAs_of_layout (rawXPL_enc _ _ rfl d a tr) fun _ _ => rfl
  | br p n o | call p n o | loop p n o | loopw p n o =>
    exact readsAs_of_layout (rawBO_enc _ _ rfl p n o) fun _ _ => rfl
  | bri p n a | calli p n a =>
    exact readsAs_of_layout (rawBX_enc _ _ rfl p n a) fun _ _ => rfl
  | ret p n | exit p n | yield p n =>
    exact readsAs_of_layout (rawBN_enc _ _ rfl p n) fun _ _ => rfl
  | copy d a ch =>
    exact readsAs_of_layout (rawECP_enc _ _ rfl d a ch) fun _ _ => rfl
  | tlrd d tl =>
    exact readsAs_of_layout (rawTLR_enc _ _ rfl d tl) fun _ _ => rfl
  | waitwp ch a | wpset ch a =>
    exact readsAs_of_layout (rawC2A_enc _ _ rfl ch a) fun _ _ => rfl
  | launcht a | join a | modew a | vwin a =>
    exact readsAs_of_layout (rawA0_enc _ _ rfl a) fun _ _ => rfl
  | bar cl =>
    exact readsAs_of_layout (rawB1_enc _ _ rfl cl) fun _ _ => rfl
  | cropen o =>
    exact readsAs_of_layout (rawCR_enc _ _ rfl o) fun _ _ => rfl
  | hintNone kind p =>
    exact readsAs_hintNone hwf
  | succPrefetch p | branchLikely p | locality p =>
    exact readsAs_encHint (by decide) fun w hk hp => by simp only [rawHint, hk, hp]
  | _ => cases hslot

end Sys2Proof

section
open Sys2Proof Sys2Proof.Machine

/-- Settles O2, by reading each layout back and passing the checks of R101, which hold of a well-formed slot. -/
theorem decodeEncodeSlots : Obligations.DecodeEncodeSlots := by
  unfold Obligations.DecodeEncodeSlots
  intro i hslot hwf
  obtain ⟨w, iws, henc, hraw⟩ := readsAs_encode i hslot hwf
  exact ⟨w, iws, henc, decodeSlot_of_rawSlot hraw hwf⟩

end

/-! ## Encoding what was decoded (R101, R102) -/

namespace Sys2Proof

/-! ### What a word without I slots reads as, by its layout

Where the reserved bits of a layout are 0, its fields make up the whole word with the bits of class and opcode. -/

theorem nz_eq_false {w lo n : Nat} : nz w lo n = false ↔ w / 2 ^ lo % 2 ^ n = 0 := ⟨nz_false w lo n, nz_val w lo n⟩

/-- Where no reserved bit is set and no I slot missing, the words of what is read are `w` alone. -/
def Restores (w : Nat) (r : Option Raw) : Prop := ∀ x, r = some x → x.missing = false → x.zs = false → encode x.instr = [w]

theorem restores_none (w : Nat) : Restores w none := fun _ h => nomatch h

section
variable {w t : Nat} (htop : w / 2 ^ 18 = t)
include htop

theorem restores_rawNK {c : BitVec 8 → Instr} (henc : ∀ x, encode (c x) = encNK (t * 2 ^ 18) x) : Restores w (rawNK c w) := by
  rintro _ ⟨⟩ - hz
  simp only [nz_eq_false] at hz
  simp only [henc, encNK, fld_toNat]
  exact congrArg (· :: []) (by omega)

theorem restores_rawTR2 {c : BitVec 5 → BitVec 6 → Instr} (henc : ∀ x y, encode (c x y) = encTR2 (t * 2 ^ 18) x y) : Restores w (rawTR2 c w) := by
  rintro _ ⟨⟩ - hz
  simp only [Bool.or_eq_false_iff, nz_eq_false] at hz
  simp only [henc, encTR2, fld_toNat]
  exact congrArg (· :: []) (by omega)

theorem restores_rawMV {c : BitVec 5 → BitVec 6 → Bool → BitVec 4 → Instr} (henc : ∀ x y z u, encode (c x y z u) = encMV (t * 2 ^ 18) x y z u) :
    Restores w (rawMV c w) := by
  rintro _ ⟨⟩ - hz
  simp only [Bool.or_eq_false_iff, nz_eq_false] at hz
  simp only [henc, encMV, fld_toNat, bitAt_toNat]
  exact congrArg (· :: []) (by omega)

theorem restores_rawPL {c : BitVec 4 → BitVec 4 → BitVec 4 → BitVec 4 → Instr} (henc : ∀ x y z u, encode (c x y z u) = encPL (t * 2 ^ 18) x y z u) :
    Restores w (rawPL c w) := by
  rintro _ ⟨⟩ - hz
  simp only [nz_eq_false] at hz
  simp only [henc, encPL, fld_toNat]
  exact congrArg (· :: []) (by omega)

theorem restores_rawPM {c : BitVec 4 → BitVec 6 → Instr} (henc : ∀ x y, encode (c x y) = encPM (t * 2 ^ 18) x y) : Restores w (rawPM c w) := by
  rintro _ ⟨⟩ - hz
  simp only [Bool.or_eq_false_iff, nz_eq_false] at hz
  simp only [henc, encPM, fld_toNat]
  exact congrArg (· :: []) (by omega)

theorem restores_rawD0 {c : BitVec 5 → Instr} (henc : ∀ x, encode (c x) = encD0 (t * 2 ^ 18) x) : Restores w (rawD0 c w) := by
  rintro _ ⟨⟩ - hz
  simp only [Bool.or_eq_false_iff, nz_eq_false] at hz
  simp only [henc, encD0, fld_toNat]
  exact congrArg (· :: []) (by omega)

theorem restores_rawSG {c : BitVec 5 → BitVec 12 → Instr} (henc : ∀ x y, encode (c x y) = encSG (t * 2 ^ 18) x y) : Restores w (rawSG c w) := by
  rintro _ ⟨⟩ - hz
  simp only [nz_eq_false] at hz
  simp only [henc, encSG, fld_toNat]
  exact congrArg (· :: []) (by omega)

theorem restores_rawSP {c : BitVec 12 → BitVec 6 → Instr} (henc : ∀ x y, encode (c x y) = encSP (t * 2 ^ 18) x y) : Restores w (rawSP c w) := by
  rintro _ ⟨⟩ - -
  simp only [henc, encSP, fld_toNat]
  exact congrArg (· :: []) (by omega)

theorem restores_rawV3 {c : BitVec 6 → BitVec 6 → BitVec 6 → Instr} (henc : ∀ x y z, encode (c x y z) = encV3 (t * 2 ^ 18) x y z) :
    Restores w (rawV3 c w) := by
  rintro _ ⟨⟩ - -
  simp only [henc, encV3, fld_toNat]
  exact congrArg (· :: []) (by omega)

theorem restores_rawV2 {c : BitVec 6 → BitVec 6 → Instr} (henc : ∀ x y, encode (c x y) = encV2 (t * 2 ^ 18) x y) : Restores w (rawV2 c w) := by
  rintro _ ⟨⟩ - hz
  simp only [nz_eq_false] at hz
  simp only [henc, encV2, fld_toNat]
  exact congrArg (· :: []) (by omega)

theorem restores_rawVC {c : BitVec 4 → BitVec 6 → BitVec 6 → Instr} (henc : ∀ x y z, encode (c x y z) = encVC (t * 2 ^ 18) x y z) :
    Restores w (rawVC c w) := by
  rintro _ ⟨⟩ - hz
  simp only [nz_eq_false] at hz
  simp only [henc, encVC, fld_toNat]
  exact congrArg (· :: []) (by omega)

theorem restores_rawCX {c : BitVec 6 → BitVec 6 → Bool → Bool → BitVec 3 → Instr}
    (henc : ∀ x y z u v, encode (c x y z u v) = encCX (t * 2 ^ 18) x y z u v) :
    Restores w (rawCX c w) := by
  rintro _ ⟨⟩ - hz
  simp only [nz_eq_false] at hz
  simp only [henc, encCX, fld_toNat, bitAt_toNat]
  exact congrArg (· :: []) (by omega)

theorem restores_rawVF {c : BitVec 5 → BitVec 4 → BitVec 2 → Instr} (henc : ∀ x y z, encode (c x y z) = encVF (t * 2 ^ 18) x y z) :
    Restores w (rawVF c w) := by
  rintro _ ⟨⟩ - hz
  simp only [Bool.or_eq_false_iff, nz_eq_false] at hz
  simp only [henc, encVF, fld_toNat]
  exact congrArg (· :: []) (by omega)

theorem restores_rawDS3 {c : BitVec 5 → BitVec 6 → BitVec 6 → Instr} (henc : ∀ x y z, encode (c x y z) = encDS3 (t * 2 ^ 18) x y z) :
    Restores w (rawDS3 c w) := by
  rintro _ ⟨⟩ - hz
  simp only [nz_eq_false] at hz
  simp only [henc, encDS3, fld_toNat]
  exact congrArg (· :: []) (by omega)

theorem restores_rawN4 {c : BitVec 4 → Instr} (henc : ∀ x, encode (c x) = encN4 (t * 2 ^ 18) x) : Restores w (rawN4 c w) := by
  rintro _ ⟨⟩ - hz
  simp only [nz_eq_false] at hz
  simp only [henc, encN4, fld_toNat]
  exact congrArg (· :: []) (by omega)

theorem restores_rawMN {c : BitVec 4 → BitVec 6 → BitVec 2 → Instr} (henc : ∀ x y z, encode (c x y z) = encMN (t * 2 ^ 18) x y z) :
    Restores w (rawMN c w) := by
  rintro _ ⟨⟩ - hz
  simp only [Bool.or_eq_false_iff, nz_eq_false] at hz
  simp only [henc, encMN, fld_toNat]
  exact congrArg (· :: []) (by omega)

theorem restores_rawMP {c : BitVec 5 → BitVec 2 → BitVec 4 → Instr} (henc : ∀ x y z, encode (c x y z) = encMP (t * 2 ^ 18) x y z) :
    Restores w (rawMP c w) := by
  rintro _ ⟨⟩ - hz
  simp only [Bool.or_eq_false_iff, nz_eq_false] at hz
  simp only [henc, encMP, fld_toNat]
  exact congrArg (· :: []) (by omega)

theorem restores_rawVT {c : BitVec 6 → BitVec 6 → Instr} (henc : ∀ x y, encode (c x y) = encVT (t * 2 ^ 18) x y) : Restores w (rawVT c w) := by
  rintro _ ⟨⟩ - hz
  simp only [nz_eq_false] at hz
  simp only [henc, encVT, fld_toNat]
  exact congrArg (· :: []) (by omega)

theorem restores_rawZ0 {c : Instr} (henc : encode c = encZ0 (t * 2 ^ 18)) : Restores w (rawZ0 c w) := by
  rintro _ ⟨⟩ - hz
  simp only [nz_eq_false] at hz
  simp only [henc, encZ0]
  exact congrArg (· :: []) (by omega)

theorem restores_rawSACC {c : BitVec 4 → BitVec 4 → Bool → BitVec 6 → BitVec 2 → Instr}
    (henc : ∀ x y z u v, encode (c x y z u v) = encSACC (t * 2 ^ 18) x y z u v) :
    Restores w (rawSACC c w) := by
  rintro _ ⟨⟩ - hz
  simp only [nz_eq_false] at hz
  simp only [henc, encSACC, fld_toNat, bitAt_toNat]
  exact congrArg (· :: []) (by omega)

theorem restores_rawTK {c : BitVec 4 → BitVec 2 → Instr} (henc : ∀ x y, encode (c x y) = encTK (t * 2 ^ 18) x y) : Restores w (rawTK c w) := by
  rintro _ ⟨⟩ - hz
  simp only [nz_eq_false] at hz
  simp only [henc, encTK, fld_toNat]
  exact congrArg (· :: []) (by omega)

theorem restores_rawTCVT {c : BitVec 4 → BitVec 2 → BitVec 6 → Bool → BitVec 2 → Instr}
    (henc : ∀ x y z u v, encode (c x y z u v) = encTCVT (t * 2 ^ 18) x y z u v) :
    Restores w (rawTCVT c w) := by
  rintro _ ⟨⟩ - hz
  simp only [nz_eq_false] at hz
  simp only [henc, encTCVT, fld_toNat, bitAt_toNat]
  exact congrArg (· :: []) (by omega)

theorem restores_rawTF {c : BitVec 4 → BitVec 2 → BitVec 6 → BitVec 2 → Instr} (henc : ∀ x y z u, encode (c x y z u) = encTF (t * 2 ^ 18) x y z u) :
    Restores w (rawTF c w) := by
  rintro _ ⟨⟩ - hz
  simp only [nz_eq_false] at hz
  simp only [henc, encTF, fld_toNat]
  exact congrArg (· :: []) (by omega)

theorem restores_rawSSC {c : BitVec 4 → BitVec 6 → BitVec 2 → Instr} (henc : ∀ x y z, encode (c x y z) = encSSC (t * 2 ^ 18) x y z) :
    Restores w (rawSSC c w) := by
  rintro _ ⟨⟩ - hz
  simp only [nz_eq_false] at hz
  simp only [henc, encSSC, fld_toNat]
  exact congrArg (· :: []) (by omega)

theorem restores_rawTCP {c : BitVec 4 → BitVec 4 → BitVec 2 → Instr} (henc : ∀ x y z, encode (c x y z) = encTCP (t * 2 ^ 18) x y z) :
    Restores w (rawTCP c w) := by
  rintro _ ⟨⟩ - hz
  simp only [nz_eq_false] at hz
  simp only [henc, encTCP, fld_toNat]
  exact congrArg (· :: []) (by omega)

theorem restores_rawXP {c : Bool → BitVec 6 → Instr} (henc : ∀ x y, encode (c x y) = encXP (t * 2 ^ 18) x y) : Restores w (rawXP c w) := by
  rintro _ ⟨⟩ - hz
  simp only [Bool.or_eq_false_iff, nz_eq_false] at hz
  simp only [henc, encXP, fld_toNat, bitAt_toNat]
  exact congrArg (· :: []) (by omega)

theorem restores_rawVD0 {c : BitVec 6 → Instr} (henc : ∀ x, encode (c x) = encVD0 (t * 2 ^ 18) x) : Restores w (rawVD0 c w) := by
  rintro _ ⟨⟩ - hz
  simp only [nz_eq_false] at hz
  simp only [henc, encVD0, fld_toNat]
  exact congrArg (· :: []) (by omega)

theorem restores_rawXPL {c : BitVec 5 → BitVec 6 → Bool → Instr} (henc : ∀ x y z, encode (c x y z) = encXPL (t * 2 ^ 18) x y z) :
    Restores w (rawXPL c w) := by
  rintro _ ⟨⟩ - hz
  simp only [Bool.or_eq_false_iff, nz_eq_false] at hz
  simp only [henc, encXPL, fld_toNat, bitAt_toNat]
  exact congrArg (· :: []) (by omega)

theorem restores_rawBX {c : BitVec 4 → Bool → BitVec 6 → Instr} (henc : ∀ x y z, encode (c x y z) = encBX (t * 2 ^ 18) x y z) :
    Restores w (rawBX c w) := by
  rintro _ ⟨⟩ - hz
  simp only [Bool.or_eq_false_iff, nz_eq_false] at hz
  simp only [henc, encBX, fld_toNat, bitAt_toNat]
  exact congrArg (· :: []) (by omega)

theorem restores_rawBN {c : BitVec 4 → Bool → Instr} (henc : ∀ x y, encode (c x y) = encBN (t * 2 ^ 18) x y) : Restores w (rawBN c w) := by
  rintro _ ⟨⟩ - hz
  simp only [nz_eq_false] at hz
  simp only [henc, encBN, fld_toNat, bitAt_toNat]
  exact congrArg (· :: []) (by omega)

theorem restores_rawECP {c : BitVec 5 → BitVec 6 → BitVec 2 → Instr} (henc : ∀ x y z, encode (c x y z) = encECP (t * 2 ^ 18) x y z) :
    Restores w (rawECP c w) := by
  rintro _ ⟨⟩ - hz
  simp only [Bool.or_eq_false_iff, nz_eq_false] at hz
  simp only [henc, encECP, fld_toNat]
  exact congrArg (· :: []) (by omega)

theorem restores_rawTLR {c : BitVec 5 → BitVec 4 → Instr} (henc : ∀ x y, encode (c x y) = encTLR (t * 2 ^ 18) x y) : Restores w (rawTLR c w) := by
  rintro _ ⟨⟩ - hz
  simp only [Bool.or_eq_false_iff, nz_eq_false] at hz
  simp only [henc, encTLR, fld_toNat]
  exact congrArg (· :: []) (by omega)

theorem restores_rawC2A {c : BitVec 2 → BitVec 6 → Instr} (henc : ∀ x y, encode (c x y) = encC2A (t * 2 ^ 18) x y) : Restores w (rawC2A c w) := by
  rintro _ ⟨⟩ - hz
  simp only [Bool.or_eq_false_iff, nz_eq_false] at hz
  simp only [henc, encC2A, fld_toNat]
  exact congrArg (· :: []) (by omega)

theorem restores_rawA0 {c : BitVec 6 → Instr} (henc : ∀ x, encode (c x) = encA0 (t * 2 ^ 18) x) : Restores w (rawA0 c w) := by
  rintro _ ⟨⟩ - hz
  simp only [Bool.or_eq_false_iff, nz_eq_false] at hz
  simp only [henc, encA0, fld_toNat]
  exact congrArg (· :: []) (by omega)

theorem restores_rawB1 {c : Bool → Instr} (henc : ∀ x, encode (c x) = encB1 (t * 2 ^ 18) x) : Restores w (rawB1 c w) := by
  rintro _ ⟨⟩ - hz
  simp only [nz_eq_false] at hz
  simp only [henc, encB1, bitAt_toNat]
  exact congrArg (· :: []) (by omega)

theorem restores_rawTR3 {c : BitVec 5 → BitVec 6 → BOp → Instr} (henc : ∀ x y z, encode (c x y z) = encTR3 (t * 2 ^ 18) x y z) :
    Restores w (rawTR3 c w []) := by
  rintro _ ⟨⟩ - hz
  simp only [Bool.or_eq_false_iff, nz_eq_false] at hz
  simp only [henc, encTR3, bopOf, encBOp, fld_toNat]
  exact congrArg (· :: []) (by omega)

theorem restores_rawPC {c : BitVec 4 → Bool → BitVec 6 → BOp → Instr} (henc : ∀ x y z u, encode (c x y z u) = encPC (t * 2 ^ 18) x y z u) :
    Restores w (rawPC c w []) := by
  rintro _ ⟨⟩ - hz
  simp only [Bool.or_eq_false_iff, nz_eq_false] at hz
  simp only [henc, encPC, bopOf, encBOp, fld_toNat, bitAt_toNat]
  exact congrArg (· :: []) (by omega)

theorem restores_rawCT {c : BitVec 6 → BOp → Instr} (henc : ∀ x y, encode (c x y) = encCT (t * 2 ^ 18) x y) : Restores w (rawCT c w []) := by
  rintro _ ⟨⟩ - hz
  simp only [Bool.or_eq_false_iff, nz_eq_false] at hz
  simp only [henc, encCT, bopOf, encBOp, fld_toNat]
  exact congrArg (· :: []) (by omega)

theorem restores_rawIM {c : BitVec 5 → MovImm → Instr} (henc : ∀ x y, encode (c x y) = encIM (t * 2 ^ 18) x y) : Restores w (rawIM c w []) := by
  rintro _ ⟨⟩ - hz
  simp only [nz_eq_false] at hz
  simp only [henc, encIM, fld_toNat]
  exact congrArg (· :: []) (by omega)

theorem restores_rawLD {c : BitVec 5 → BitVec 6 → MIdx → Instr} (henc : ∀ x y z, encode (c x y z) = encLD (t * 2 ^ 18) x y z) :
    Restores w (rawLD c w []) := by
  rintro _ ⟨⟩ - hz
  simp only [nz_eq_false] at hz
  simp only [henc, encLD, midxOf, encMIdx, fld_toNat]
  exact congrArg (· :: []) (by omega)

theorem restores_rawSTS {c : BitVec 6 → BitVec 6 → MIdx → Instr} (henc : ∀ x y z, encode (c x y z) = encSTS (t * 2 ^ 18) x y z) :
    Restores w (rawSTS c w []) := by
  rintro _ ⟨⟩ - -
  simp only [henc, encSTS, midxOf, encMIdx, fld_toNat]
  exact congrArg (· :: []) (by omega)

theorem restores_rawPF {c : BitVec 6 → MIdx → Instr} (henc : ∀ x y, encode (c x y) = encPF (t * 2 ^ 18) x y) : Restores w (rawPF c w []) := by
  rintro _ ⟨⟩ - hz
  simp only [nz_eq_false] at hz
  simp only [henc, encPF, midxOf, encMIdx, fld_toNat]
  exact congrArg (· :: []) (by omega)

theorem restores_rawMMA {c : BitVec 4 → BitVec 6 → BitVec 6 → BitVec 2 → Option RemX → Instr}
    (henc : ∀ x y z u v, encode (c x y z u v) = encMMA (t * 2 ^ 18) x y z u v) :
    Restores w (rawMMA c w []) := by
  rintro _ ⟨⟩ - -
  simp only [henc, encMMA, fld_toNat]
  exact congrArg (· :: []) (by omega)

theorem restores_rawBO {c : BitVec 4 → Bool → Off → Instr} (henc : ∀ x y z, encode (c x y z) = encBO (t * 2 ^ 18) x y z) :
    Restores w (rawBO c w []) := by
  rintro _ ⟨⟩ - -
  simp only [henc, encBO, offOf, encOff, fld_toNat, bitAt_toNat]
  exact congrArg (· :: []) (by omega)

theorem restores_rawCR {c : Off → Instr} (henc : ∀ x, encode (c x) = encCR (t * 2 ^ 18) x) : Restores w (rawCR c w []) := by
  rintro _ ⟨⟩ - hz
  simp only [nz_eq_false] at hz
  simp only [henc, encCR, offOf, encOff, fld_toNat]
  exact congrArg (· :: []) (by omega)

end

/-! fence and fence.ro share their opcode, and bit 14 tells them apart. -/

theorem restores_rawFence {w : Nat} (htop : w / 2 ^ 18 = 64 * 5 + 0x30) : Restores w (rawFence w) := by
  rintro _ ⟨⟩ - hz
  simp only [nz_eq_false] at hz
  have hbit := bitAt_toNat w 14
  dsimp only
  split
  all_goals
    next hro =>
      simp only [hro, Bool.toNat_false, Bool.toNat_true] at hbit
      simp only [encode, fld_toNat]
      exact congrArg (· :: []) (by omega)

/-! The layouts whose I slot is missing. -/

theorem restores_rawVX (w : Nat) (c : BitVec 6 → BitVec 6 → BitVec 6 → VIdx → Instr) : Restores w (rawVX c w []) := by
  rintro _ ⟨⟩ hmissing
  cases hmissing

theorem restores_rawAMO (w : Nat) (c : BitVec 5 → BitVec 6 → BitVec 6 → AmoX → Instr) : Restores w (rawAMO c w []) := by
  rintro _ ⟨⟩ hmissing
  cases hmissing

/-! The hints, by their kind. -/

theorem restores_rawHint {w : Nat} (htop : w / 2 ^ 24 = 14) : Restores w (rawHint w) := by
  unfold rawHint
  split
  all_goals
    rintro _ ⟨⟩ - -
    simp only [encode, encHint, fld_toNat]
    exact congrArg (· :: []) (by omega)

/-! ### The layouts of a class

Vector loads and stores have the layout of the scalar stores, and cas that of amo. -/

section
variable {w op : Nat}

theorem restores_rawSclass (htop : w / 2 ^ 18 = 64 * 0 + op) : Restores w (rawSclass op w []) := by
  unfold rawSclass
  split
  any_goals exact restores_rawNK htop fun _ => rfl
  any_goals exact restores_rawTR3 htop fun _ _ _ => rfl
  any_goals exact restores_rawTR2 htop fun _ _ => rfl
  any_goals exact restores_rawIM htop fun _ _ => rfl
  any_goals exact restores_rawPC htop fun _ _ _ _ => rfl
  any_goals exact restores_rawMV htop fun _ _ _ _ => rfl
  any_goals exact restores_rawPL htop fun _ _ _ _ => rfl
  any_goals exact restores_rawPM htop fun _ _ => rfl
  any_goals exact restores_rawD0 htop fun _ => rfl
  any_goals exact restores_rawSG htop fun _ _ => rfl
  any_goals exact restores_rawSP htop fun _ _ => rfl
  any_goals exact restores_rawCT htop fun _ _ => rfl
  exact restores_none w

theorem restores_rawVclass (htop : w / 2 ^ 18 = 64 * 1 + op) : Restores w (rawVclass op w) := by
  unfold rawVclass
  split
  any_goals exact restores_rawV3 htop fun _ _ _ => rfl
  any_goals exact restores_rawV2 htop fun _ _ => rfl
  any_goals exact restores_rawVC htop fun _ _ _ => rfl
  exact restores_none w

theorem restores_rawNclass (htop : w / 2 ^ 18 = 64 * 2 + op) : Restores w (rawNclass op w) := by
  unfold rawNclass
  split
  any_goals exact restores_rawV3 htop fun _ _ _ => rfl
  any_goals exact restores_rawVC htop fun _ _ _ => rfl
  exact restores_none w

theorem restores_rawQclass (htop : w / 2 ^ 18 = 64 * 3 + op) : Restores w (rawQclass op w) := by
  unfold rawQclass
  split
  any_goals exact restores_rawV3 htop fun _ _ _ => rfl
  any_goals exact restores_rawCX htop fun _ _ _ _ _ => rfl
  any_goals exact restores_rawVF htop fun _ _ _ => rfl
  any_goals exact restores_rawDS3 htop fun _ _ _ => rfl
  any_goals exact restores_rawN4 htop fun _ => rfl
  any_goals exact restores_rawPL htop fun _ _ _ _ => rfl
  any_goals exact restores_rawMN htop fun _ _ _ => rfl
  any_goals exact restores_rawMP htop fun _ _ _ => rfl
  any_goals exact restores_rawVT htop fun _ _ => rfl
  exact restores_none w

theorem restores_rawFclass (htop : w / 2 ^ 18 = 64 * 4 + op) : Restores w (rawFclass op w) := by
  unfold rawFclass
  split
  any_goals exact restores_rawV2 htop fun _ _ => rfl
  exact restores_none w

theorem restores_rawMclass (htop : w / 2 ^ 18 = 64 * 5 + op) : Restores w (rawMclass op w []) := by
  unfold rawMclass
  split
  any_goals exact restores_rawLD htop fun _ _ _ => rfl
  any_goals exact restores_rawSTS htop fun _ _ _ => rfl
  any_goals exact restores_rawVX w _
  any_goals exact restores_rawAMO w _
  any_goals exact restores_rawFence htop
  any_goals exact restores_rawZ0 htop rfl
  any_goals exact restores_rawPF htop fun _ _ => rfl
  exact restores_none w

theorem restores_rawXclass (htop : w / 2 ^ 18 = 64 * 6 + op) : Restores w (rawXclass op w []) := by
  unfold rawXclass
  split
  any_goals exact restores_rawMMA htop fun _ _ _ _ _ => rfl
  any_goals exact restores_rawSACC htop fun _ _ _ _ _ => rfl
  any_goals exact restores_rawTK htop fun _ _ => rfl
  any_goals exact restores_rawTCVT htop fun _ _ _ _ _ => rfl
  any_goals exact restores_rawTF htop fun _ _ _ _ => rfl
  any_goals exact restores_rawSSC htop fun _ _ _ => rfl
  any_goals exact restores_rawTCP htop fun _ _ _ => rfl
  exact restores_none w

theorem restores_rawTclass (htop : w / 2 ^ 18 = 64 * 7 + op) : Restores w (rawTclass op w) := by
  unfold rawTclass
  split
  any_goals exact restores_rawXP htop fun _ _ => rfl
  any_goals exact restores_rawVD0 htop fun _ => rfl
  any_goals exact restores_rawXPL htop fun _ _ _ => rfl
  any_goals exact restores_rawZ0 htop rfl
  exact restores_none w

theorem restores_rawBclass (htop : w / 2 ^ 18 = 64 * 8 + op) : Restores w (rawBclass op w []) := by
  unfold rawBclass
  split
  any_goals exact restores_rawBO htop fun _ _ _ => rfl
  any_goals exact restores_rawBX htop fun _ _ _ => rfl
  any_goals exact restores_rawBN htop fun _ _ => rfl
  exact restores_none w

theorem restores_rawEclass (htop : w / 2 ^ 18 = 64 * 9 + op) : Restores w (rawEclass op w) := by
  unfold rawEclass
  split
  any_goals exact restores_rawECP htop fun _ _ _ => rfl
  any_goals exact restores_rawTR2 htop fun _ _ => rfl
  any_goals exact restores_rawPM htop fun _ _ => rfl
  any_goals exact restores_rawTLR htop fun _ _ => rfl
  any_goals exact restores_rawC2A htop fun _ _ => rfl
  any_goals exact restores_rawA0 htop fun _ => rfl
  any_goals exact restores_rawB1 htop fun _ => rfl
  any_goals exact restores_rawVT htop fun _ _ => rfl
  exact restores_none w

theorem restores_rawYclass (htop : w / 2 ^ 18 = 64 * 10 + op) : Restores w (rawYclass op w []) := by
  unfold rawYclass
  split
  any_goals exact restores_rawNK htop fun _ => rfl
  any_goals exact restores_rawZ0 htop rfl
  any_goals exact restores_rawCR htop fun _ => rfl
  any_goals exact restores_rawA0 htop fun _ => rfl
  any_goals exact restores_rawDS3 htop fun _ _ _ => rfl
  any_goals exact restores_rawVT htop fun _ _ => rfl
  any_goals exact restores_rawC2A htop fun _ _ => rfl
  exact restores_none w

end

/-- Class and opcode of a word with S and P zero select its layout. -/
theorem restores_rawSlot {w : Nat} (hw : w < 2 ^ 28) : Restores w (rawSlot w []) := by
  have htop : w / 2 ^ 18 = 64 * (w / 2 ^ 24 % 16) + w / 2 ^ 18 % 64 := by omega
  have hcls : w / 2 ^ 24 = w / 2 ^ 24 % 16 := by omega
  unfold rawSlot
  generalize w / 2 ^ 24 % 16 = cls at htop hcls ⊢
  simp only
  split
  case h_1 => exact restores_rawSclass htop
  case h_2 => exact restores_rawVclass htop
  case h_3 => exact restores_rawNclass htop
  case h_4 => exact restores_rawQclass htop
  case h_5 => exact restores_rawFclass htop
  case h_6 => exact restores_rawMclass htop
  case h_7 => exact restores_rawXclass htop
  case h_8 => exact restores_rawTclass htop
  case h_9 => exact restores_rawBclass htop
  case h_10 => exact restores_rawEclass htop
  case h_11 => exact restores_rawYclass htop
  case h_12 => exact restores_rawHint hcls
  case h_13 => exact restores_none w

/-- A slot that decodes has every I slot that it needs, and no reserved bit set (R101). -/
theorem decodeSlot_checks {w : Nat} {iws : List Nat} {i : Instr} (h : decodeSlot w iws = .ok i) :
    ∃ r, rawSlot w iws = some r ∧ r.instr = i ∧ r.missing = false ∧ r.zs = false := by
  unfold decodeSlot at h
  split at h
  · cases h
  · next r hr =>
    split_ifs at h with hsub hmissing hzs hfield
    cases h
    exact ⟨r, hr, rfl, by simpa using hmissing, by simpa using hzs⟩

end Sys2Proof

section
open Sys2Proof Sys2Proof.Machine

/-- Settles O3, by the layout that class and opcode select: the fields and the reserved bits, which are 0, make up the word. -/
theorem encodeDecodeOneWord : Obligations.EncodeDecodeOneWord := by
  unfold Obligations.EncodeDecodeOneWord
  intro w i hw h
  obtain ⟨r, hr, rfl, hmissing, hzs⟩ := decodeSlot_checks h
  exact restores_rawSlot hw r hr hmissing hzs

end

/-! ## The unit limits of a decoded bundle (R93, Table 7.2) -/

namespace Sys2Proof

theorem leastOf_eq_none {xs : List Nat} (h : leastOf xs = none) : xs = [] := by
  cases xs with
  | nil => rfl
  | cons x xs =>
    unfold leastOf at h
    split at h <;> cases h

/-- Grouping adds at most one item for each word. -/
theorem length_groupFrom (ws : List Nat) (g : Grouping) (k : Nat) : (groupFrom g k ws).items.length ≤ g.items.length + ws.length := by
  induction ws generalizing g k with
  | nil => exact le_rfl
  | cons w ws ih =>
    have hadd : (g.add k w).items.length ≤ g.items.length + 1 := by
      unfold Grouping.add
      split
      · split
        · next x xs n hx _ => simp [hx]
        · exact Nat.le_succ _
      · exact le_rfl
    have hws := ih (g.add k w) (k + 1)
    rw [List.length_cons]
    exact hws.trans (by omega)

/-- What stands behind the slots of a decoded bundle: its items, none of them beyond the limit of its units, and no more of them than words. -/
theorem decodeBundle_items {ws : List Nat} {b : Bundle} (h : decodeBundle ws = .ok b) :
    ∃ items : List Item, b.slots = items.filterMap Item.slot ∧ overLimit [] items = none ∧ items.length ≤ ws.length := by
  unfold decodeBundle at h
  simp only at h
  split at h
  · cases h
  · split at h
    · cases h
    · next hfaults =>
      split at h
      · cases h
      · cases h
        refine ⟨_, rfl, ?_, ?_⟩
        · have hnone := leastOf_eq_none hfaults
          simp only [bundleFaults, List.append_eq_nil_iff, Option.toList_eq_nil_iff] at hnone
          obtain ⟨⟨⟨⟨⟨hlimit, -⟩, -⟩, -⟩, -⟩, -⟩ := hnone
          exact hlimit
        · rw [List.length_reverse]
          simpa using length_groupFrom ws ⟨[], 0, []⟩ 0

/-- How many items count on a unit group. -/
def unitCount (g : Nat) (items : List Item) : Nat := items.countP (fun x => unitGroup x.cl == g)

/-- Where no item is beyond its limit, those seen and those to come stay within the limit of each group. -/
theorem count_add_unitCount_le {items : List Item} {seen : List Nat} (h : overLimit seen items = none) (g : Nat) :
    seen.count g + unitCount g items ≤ max (unitLimit g) (seen.count g) := by
  induction items generalizing seen with
  | nil => exact le_max_right _ _
  | cons x xs ih =>
    unfold overLimit at h
    split at h
    · cases h
    · next hroom =>
      have hxs := ih h
      unfold unitCount at hxs ⊢
      by_cases hg : unitGroup x.cl = g
      · subst hg
        rw [List.count_cons_self] at hxs
        rw [List.countP_cons_of_pos (by simp)]
        omega
      · rw [List.count_cons_of_ne hg] at hxs
        rwa [List.countP_cons_of_neg (by simpa using hg)]

theorem unitCount_le {items : List Item} (h : overLimit [] items = none) (g : Nat) : unitCount g items ≤ unitLimit g := by
  simpa using count_add_unitCount_le h g

/-- The slots of classes that count on one unit group are among the items of that group. -/
theorem length_slots_le_unitCount (items : List Item) {cs : List Nat} {g : Nat} (hg : ∀ c ∈ cs, unitGroup c = g) :
    ((items.filterMap Item.slot).filter (fun x => cs.contains (x.word / 2 ^ 24 % 16))).length ≤ unitCount g items := by
  rw [← List.countP_eq_length_filter, List.countP_filterMap]
  refine List.countP_mono_left fun y _ hy => ?_
  cases hslot : y.slot with
  | none => simp [hslot] at hy
  | some x =>
    have hmem : x.word / 2 ^ 24 % 16 ∈ cs := by simpa [hslot] using hy
    rw [(Machine.slot_decoded hslot).1] at hmem
    exact beq_iff_eq.mpr (hg _ hmem)

end Sys2Proof

section
open Sys2Proof Sys2Proof.Machine

/-- Settles O4: no item of a decoded bundle is beyond its unit group's limit, and every slot is an item's. -/
theorem bundleUnitLimits : Obligations.BundleUnitLimits := by
  unfold Obligations.BundleUnitLimits
  intro ws b h
  obtain ⟨items, hslots, hlimit, hlen⟩ := decodeBundle_items h
  have hgroup {cs : List Nat} (g : Nat) (hg : ∀ c ∈ cs, unitGroup c = g) :
      (b.slots.filter (fun x => cs.contains (x.word / 2 ^ 24 % 16))).length ≤ unitLimit g := by
    rw [hslots]
    exact (length_slots_le_unitCount items hg).trans (unitCount_le hlimit g)
  refine ⟨hgroup 0 (by decide), hgroup 1 (by decide), hgroup 5 (by decide), hgroup 8 (by decide), ?_, ?_⟩
  · have hsingle : ∀ c ∈ [4, 6, 7, 9, 10], unitGroup c = c ∧ unitLimit c = 1 := by decide
    intro c hc
    obtain ⟨hself, hone⟩ := hsingle c hc
    exact hone ▸ hgroup c fun k hk => by rw [List.mem_singleton.mp hk, hself]
  · rw [hslots]
    exact (List.length_filterMap_le _ _).trans hlen

end

/-! ## Bit fields, movi and nop (R118, R129 to R131) -/

namespace Sys2Proof.Machine

/-! ### The field operations bit by bit (R129) -/

/-- bfx takes a field out and widens it, with its sign or with zeros. -/
theorem bfxW_eq (x b : Word) : bfxW x b =
    if b.getLsbD 13 then (x.extractLsb' (wfld b 0 6) (wfld b 6 7)).signExtend 64 else (x.extractLsb' (wfld b 0 6) (wfld b 6 7)).setWidth 64 := by
  unfold bfxW
  generalize wfld b 0 6 = pos, wfld b 6 7 = len
  have hfield : (x.extractLsb' pos len).toNat = x.toNat / 2 ^ pos % 2 ^ len := by simp [Nat.shiftRight_eq_div_pow]
  generalize x.extractLsb' pos len = f at hfield ⊢
  have hmsb : (decide (0 < len) && f.toNat.testBit (len - 1)) = f.msb := by
    rw [BitVec.msb_eq_getLsbD_last, BitVec.testBit_toNat]
    cases len <;> simp
  simp only [← hfield, Bool.and_assoc, hmsb]
  cases b.getLsbD 13 with
  | false => exact BitVec.eq_of_toNat_eq (by simp)
  | true =>
    rw [Bool.true_and, if_pos rfl, BitVec.signExtend, BitVec.toInt_eq_msb_cond]
    cases f.msb with
    | false => exact (BitVec.ofInt_natCast 64 _).symm
    | true => simp

theorem getLsbD_bfxW (x b : Word) {i : Nat} (hi : i < 64) :
    (bfxW x b).getLsbD i = if i < wfld b 6 7 then x.getLsbD (wfld b 0 6 + i)
      else (b.getLsbD 13 && 0 < wfld b 6 7 && x.getLsbD (wfld b 0 6 + wfld b 6 7 - 1)) := by
  rw [bfxW_eq]
  generalize wfld b 0 6 = pos, wfld b 6 7 = len
  have hmsb : (x.extractLsb' pos len).msb = (decide (0 < len) && x.getLsbD (pos + len - 1)) := by
    rw [BitVec.msb_eq_getLsbD_last, BitVec.getLsbD_extractLsb']
    cases len <;> simp [Nat.add_sub_assoc]
  cases b.getLsbD 13 with
  | false => by_cases hlen : i < len <;> simp [hi, hlen]
  | true =>
    rw [if_pos rfl, BitVec.getLsbD_signExtend, hmsb]
    by_cases hlen : i < len <;> simp [hi, hlen]

theorem getLsbD_bfiW (x b d : Word) {i : Nat} (hi : i < 64) :
    (bfiW x b d).getLsbD i = if wfld b 0 6 ≤ i ∧ i < wfld b 0 6 + wfld b 6 7 then x.getLsbD (i - wfld b 0 6) else d.getLsbD i := by
  unfold bfiW
  generalize wfld b 0 6 = pos, wfld b 6 7 = len
  have hmask : ((2 ^ len - 1) * 2 ^ pos).testBit i = decide (pos ≤ i ∧ i < pos + len) := by
    rw [Nat.testBit_mul_two_pow, Nat.testBit_two_pow_sub_one, ← Bool.decide_and]
    exact decide_eq_decide.mpr (by omega)
  have hval (h : pos ≤ i ∧ i < pos + len) : (x.toNat % 2 ^ len * 2 ^ pos).testBit i = x.getLsbD (i - pos) := by
    have hin : i - pos < len := by omega
    rw [Nat.testBit_mul_two_pow, Nat.testBit_mod_two_pow, BitVec.testBit_toNat]
    simp [h.1, hin]
  simp only [BitVec.getLsbD_or, BitVec.getLsbD_and, BitVec.getLsbD_not, BitVec.getLsbD_ofNat, hmask, hi]
  by_cases h : pos ≤ i ∧ i < pos + len
  · simp [h, hval h]
  · simp [h]

/-! ### The slots -/

section
variable {s : State} {d : BitVec 5} {a : BitVec 6} {b : BOp} {x y : Word} (ha : s.rdS a = .ok x) (hb : s.bop b = .ok y)
include ha hb

theorem exec_bfx (hd : s.dstS d.toNat = .ok ()) : exec (.bfx d a b) s =
    if wfld y 6 7 ≤ 64 then .next (s.postS d.toNat (s.ctx.latOf 1) (bfxW x y)) else .next (trapped s { cause := 0x0B, info1 := y }) := by
  change finish s (both (both (s.rdS a) (s.bop b)) (s.dstS d.toNat) >>= _) = _
  rw [ha, hb, hd]
  by_cases h : wfld y 6 7 ≤ 64
  · simp [h]
  · simp [h, finish_trap, opTrap]

theorem exec_bfi {z : Word} (hz : s.rdSn d.toNat false = .ok z) : exec (.bfi d a b) s =
    if wfld y 6 7 ≤ 64 then .next (s.postS d.toNat (s.ctx.latOf 1) (bfiW x y z)) else .next (trapped s { cause := 0x0B, info1 := y }) := by
  change finish s (both (both (s.rdS a) (s.bop b)) (s.rdSn d.toNat false) >>= _) = _
  rw [ha, hb, hz]
  by_cases h : wfld y 6 7 ≤ 64
  · simp [h]
  · simp [h, finish_trap, opTrap]

end

theorem exec_movi {s : State} {d : BitVec 5} (i : MovImm) (hd : s.dstS d.toNat = .ok ()) :
    exec (.movi d i) s = .next (s.postS d.toNat (s.ctx.latOf 1) (movValue i)) := by
  change finish s (s.dstS d.toNat >>= _) = _
  rw [hd]
  rfl

/-- A nop's advance joins those of the slots before it, of which the largest counts (R118). -/
theorem exec_nop (k : BitVec 8) (s : State) : exec (.nop k) s = .next { s with iss := { s.iss with nk := max s.iss.nk (max 1 k.toNat) } } := rfl

theorem max_one_toNat (k : BitVec 8) : max 1 k.toNat = if k = 0 then 1 else k.toNat := by
  split
  · next h => rw [h]; rfl
  · next h => exact Nat.max_eq_right (Nat.pos_of_ne_zero fun h0 => h (BitVec.eq_of_toNat_eq h0))

end Sys2Proof.Machine

section
open Sys2Proof Sys2Proof.Machine

/-- Settles O15: the slots by what their operands give, the field operations by their bits. -/
theorem bitFieldMoviNop : Obligations.BitFieldMoviNop := by
  unfold Obligations.BitFieldMoviNop
  refine ⟨fun s d a b x y ha hb => ?fields, fun s d m hi lo k => ⟨fun hd => ?movi, ?nop⟩⟩
  case fields =>
    have hpos : wfld y 0 6 = y.toNat % 64 := by simp [wfld]
    have hlen : wfld y 6 7 = y.toNat / 64 % 128 := rfl
    simp only [← hpos, ← hlen]
    refine ⟨fun hd hle => ⟨_, ?_, fun i hi => getLsbD_bfxW x y hi⟩, fun z hz hle => ⟨_, ?_, fun i hi => getLsbD_bfiW x y z hi⟩,
      fun hd hgt => ?_, fun z hz hgt => ?_⟩
    · rw [exec_bfx ha hb hd, if_pos hle]
    · rw [exec_bfi ha hb hz, if_pos hle]
    · rw [exec_bfx ha hb hd, if_neg (Nat.not_le.mpr hgt)]
    · rw [exec_bfi ha hb hz, if_neg (Nat.not_le.mpr hgt)]
  case movi => exact ⟨exec_movi _ hd, exec_movi _ hd, exec_movi _ hd⟩
  case nop =>
    refine ⟨_, exec_nop k s, rfl, fun h0 => ?_⟩
    change max 1 (max s.iss.nk (max 1 k.toNat)) = _
    rw [h0, Nat.zero_max, max_eq_right (le_max_left 1 k.toNat), max_one_toNat]

end

/-! ## The system instructions (R100, R146, R147, R149, R151 to R156, R302) -/

namespace Sys2Proof.Machine

/-! ### Containment regions (R149, R151) -/

/-- A region opens with the checkpoint of the context in front of the open ones (R149). -/
theorem execCropen_opens {s : State} (o : Off) (hinh : s.ctx.inh = false) (hdepth : s.ctx.regions.length < 4)
    (hpend : s.ctx.scalarPending = false) (hfull : s.ctx.scalarsFull = true) : execCropen o s
    = .next { s with ctx := { s.ctx with regions := s.checkpoint (s.ctx.pc + 4 * offWords o) :: s.ctx.regions } } := by
  simp [execCropen, hinh, hdepth, hpend, hfull, offTarget]

/-- The fifth region does not open (R149). -/
theorem execCropen_deep {s : State} (o : Off) (hinh : s.ctx.inh = false) (hdepth : 4 ≤ s.ctx.regions.length) :
    execCropen o s = .next (trapped s { cause := 0x0B, info1 := BitVec.ofNat 64 s.ctx.regions.length }) := by
  simp [execCropen, hinh, Nat.not_lt.mpr hdepth, finish_trap, opTrap]

theorem checkpoint_tree {s : State} {h : Word} {k : RankTree} (hk : s.tree? s.ctx.arr s.ctx.task s.ctx.rank = some k) :
    (s.checkpoint h).tree = (k.gran, k.base, k.stalled) := by
  simp [State.checkpoint, State.builder, hk]

theorem execCrclose_closes {s : State} {r : Region} {rs : List Region} (hinh : s.ctx.inh = false) (hidle : s.regionBusy = false)
    (hopen : s.ctx.regions = r :: rs) : execCrclose s = .next { s with ctx := { s.ctx with regions := rs } } := by
  simp [execCrclose, hinh, hidle, hopen]

theorem execCrclose_none {s : State} (hinh : s.ctx.inh = false) (hopen : s.ctx.regions = []) :
    execCrclose s = .next (trapped s { cause := 0x0B }) := by
  simp [execCrclose, hinh, hopen, finish_trap, opTrap]

/-! ### MODE, the vector window and watchpoints (R152, R153, R156) -/

section
variable {s : State} {a : BitVec 6} {v : Word} (ha : s.rdS a = .ok v)
include ha

theorem execModew_ok (hmode : modeOk v = true) : execModew a s = .next (s.postX 0x008 1 v) := by
  simp [execModew, ha, hmode]

theorem execVwin_eq (hbits : v.toNat < 2 ^ 11) : execVwin a s =
    if windowOk s.ownSet v.toNat then .next ((s.postX 0x00B 1 v).postX 0x00C 1 0) else .next (trapped s { cause := 0x0A, addr := v }) := by
  have hhigh : wfld v 11 53 = 0 := by rw [wfld, Nat.div_eq_of_lt hbits, Nat.zero_mod]
  cases hwin : windowOk s.ownSet v.toNat <;> simp [execVwin, ha, hhigh, hwin, finish_trap]

theorem execWpset_sets {u : State} {bs : List Byte} (w : BitVec 2) (hread : s.readDesc s.ctx v 64 = .ok (u, bs)) (hgood : watchBad bs = none) :
    execWpset w a s = .next { u with iss := { s.iss with wpt := s.iss.wpt ++ [(w.toNat, watchAt bs)] } } := by
  rw [← (walked_readDesc s u s.ctx v 64 bs hread).iss]
  simp [execWpset, ha, hread, hgood]

end

/-! ### Locks on instruction-cache lines (R154, R155) -/

/-- What a read may change says nothing of the gang that locks. -/
theorem Walked.lockGang {s t : State} (h : Walked s t) : t.lockGang = s.lockGang := (congrArg State.lockGang h.rest : _)

theorem Walked.locks {s t : State} (h : Walked s t) : t.locks = s.locks := (congrArg State.locks h.rest : _)

/-- The state with one more lock of the task, where it is not there yet. -/
def State.withLock (s : State) (e : ILock) : State := if s.locks.contains e then s else { s with locks := s.locks ++ [e] }

section
variable {s : State} {e : ILock}

theorem withLock_ctx : (s.withLock e).ctx = s.ctx := by
  unfold State.withLock
  split <;> rfl

theorem withLock_lockGang : (s.withLock e).lockGang = s.lockGang := by
  unfold State.withLock
  split <;> rfl

theorem mem_withLock {l : ILock} (h : l ∈ (s.withLock e).locks) : l ∈ s.locks ∨ l = e := by
  unfold State.withLock at h
  split at h
  · exact .inl h
  · simpa using h

end

/-- Each line that the walk from `va` up to `top` locks is the task's, in its address space and between the two. -/
theorem mem_lockGo {top n va : Nat} {s : State} {l : ILock} (h : l ∈ (s.lockGo top n va).locks) :
    l ∈ s.locks ∨ (l.gang = s.lockGang ∧ l.root = s.ctx.ptroot ∧ va ≤ l.va ∧ l.va < top) := by
  induction n generalizing s va with
  | zero => exact .inl h
  | succ n ih =>
    unfold State.lockGo at h
    simp only at h
    split at h
    · exact .inl h
    · next hbelow =>
      split at h
      · exact .inl h
      · next ea _ =>
        split at h
        · set e : ILock := ⟨s.ctx.core / 16, s.lockGang, s.ctx.ptroot, va⟩
          have hwalk := walked_touch (s.withLock e) ea
          rcases ih h with hmem | ⟨hgang, hroot, hlow, hhigh⟩
          · rcases mem_withLock (hwalk.locks ▸ hmem) with hold | rfl
            · exact .inl hold
            · exact .inr ⟨rfl, rfl, le_rfl, Nat.lt_of_not_le fun htop => hbelow (.inl htop)⟩
          · refine .inr ⟨?_, ?_, by omega, hhigh⟩
            · rw [hgang]
              exact hwalk.lockGang.trans withLock_lockGang
            · rw [hroot]
              exact congrArg Ctx.ptroot (hwalk.ctx.trans withLock_ctx)
        · exact .inl h

section
variable {s : State} {d : BitVec 5} {a b : BitVec 6} {x n : Word} (ha : s.rdS a = .ok x) (hb : s.rdS b = .ok n) (hlead : s.isLead = true)
include ha hb hlead

theorem execIlock_lead (hd : s.dstS d.toNat = .ok ()) :
    let off : Prop := n.toNat = 0 ∨ ¬ s.feat 9
    let t : State := if off then s else s.lockGo (x.toNat + n.toNat) 1025 (x.toNat / 128 * 128)
    let k : Word := BitVec.ofNat 64 (if off then 0 else t.lockCount x.toNat n.toNat)
    execIlock d a b s = .next ((t.share 1 k).postS d.toNat (s.ctx.latOf 18) k) := by
  simp [execIlock, ha, hb, hd, hlead]

theorem execIlock_none (hd : s.dstS d.toNat = .ok ()) (hoff : n = 0 ∨ s.feat 9 = false) :
    execIlock d a b s = .next ((s.share 1 0).postS d.toNat (s.ctx.latOf 18) 0) := by
  have h : n.toNat = 0 ∨ ¬ s.feat 9 := hoff.imp (fun h => by rw [h]; rfl) (fun h => by rw [h]; exact Bool.false_ne_true)
  rw [execIlock_lead ha hb hlead hd]
  simp only [if_pos h]
  rfl

theorem execIlock_locks (hd : s.dstS d.toNat = .ok ()) (hn : n ≠ 0) (hfeat : s.feat 9 = true) :
    let t := s.lockGo (x.toNat + n.toNat) 1025 (x.toNat / 128 * 128)
    let k : Word := BitVec.ofNat 64 (t.lockCount x.toNat n.toNat)
    execIlock d a b s = .next ((t.share 1 k).postS d.toNat (s.ctx.latOf 18) k) := by
  have h : ¬ (n.toNat = 0 ∨ ¬ s.feat 9) := by
    rintro (h0 | h9)
    · exact hn (BitVec.eq_of_toNat_eq h0)
    · exact h9 hfeat
  rw [execIlock_lead ha hb hlead hd]
  simp only [if_neg h]

theorem execIunlk_releases : ∃ t, execIunlk a b s = .next t ∧ { t with locks := s.locks } = s
    ∧ ∀ l, l ∈ t.locks ↔ l ∈ s.locks ∧ ¬ (n ≠ 0 ∧ l.gang = s.lockGang ∧ l.root = s.ctx.ptroot ∧ inLines x.toNat n.toNat l.va = true) := by
  by_cases hn : n = 0#64
  · refine ⟨s, ?_, rfl, fun l => by simp [hn]⟩
    simp [execIunlk, ha, hb, hn]
  · refine ⟨{ s with locks := s.locks.filter (fun l => !(l.gang == s.lockGang && l.root == s.ctx.ptroot && inLines x.toNat n.toNat l.va)) }, ?_, rfl,
      fun l => ?_⟩
    · simp [execIunlk, ha, hb, hlead, hn]
    · simp only [List.mem_filter, Bool.not_eq_true', Bool.and_eq_false_iff, beq_eq_false_iff_ne, ne_eq, not_and, Bool.not_eq_true]
      tauto

end

/-! ### What is privileged in a handler (R302) -/

/-- A slot whose first check is that no handler runs raises a privileged trap in one, whatever it would do else. -/
theorem finish_inHandler {s : State} {r : Unit → SlotR State} (h : s.ctx.inh = true) :
    finish s (need (!s.ctx.inh) { cause := 0x04 } >>= r) = .next (trapped s { cause := 0x04 }) := by
  rw [h]
  rfl

end Sys2Proof.Machine

section
open Sys2Proof Sys2Proof.Machine

/-- Settles O47, instruction by instruction. -/
theorem systemInstructions : Obligations.SystemInstructions := by
  unfold Obligations.SystemInstructions
  intro s
  refine ⟨fun c => ⟨rfl, rfl⟩, fun o hinh hdepth hpend hfull => ?cropen, fun o hinh hdepth => execCropen_deep o hinh hdepth,
    fun hinh hidle r rs hopen => execCrclose_closes hinh hidle hopen, fun hinh hopen => execCrclose_none hinh hopen, fun a v ha => ?writes,
    fun d a b x n ha hb hd hlead => ?locks, fun k p => ⟨rfl, rfl, rfl, rfl⟩, fun hinh o d a b v ch k f t u tr r => ?handler⟩
  case cropen =>
    exact ⟨_, execCropen_opens o hinh hdepth hpend hfull, rfl, rfl, rfl, rfl, rfl, rfl, rfl, rfl, rfl, fun k hk => checkpoint_tree hk⟩
  case writes =>
    refine ⟨fun hmode => execModew_ok ha hmode, fun hbits hwin => ?_, fun hbits hwin => ?_, fun w u bs hread hgood => execWpset_sets ha w hread hgood⟩
    · exact (execVwin_eq ha hbits).trans (if_pos hwin)
    · exact (execVwin_eq ha hbits).trans (if_neg (by rw [State.ownSet, hwin]; exact Bool.false_ne_true))
  case locks =>
    refine ⟨fun hoff => execIlock_none ha hb hlead hd hoff, fun hn hfeat => ⟨execIlock_locks ha hb hlead hd hn hfeat, fun l hl => ?_⟩,
      execIunlk_releases ha hb hlead⟩
    refine (mem_lockGo hl).imp_right fun ⟨hgang, hroot, hlow, hhigh⟩ => ⟨hgang, hroot, ?_⟩
    simp [inLines, hlow, hhigh]
  case handler =>
    have h {q : Unit → SlotR State} := finish_inHandler (r := q) hinh
    exact List.forall_iff_forall_mem.mp ⟨(h : execCropen o s = _), (h : execCrclose s = _), (h : execLaunch d a s = _), (h : execLauncht a s = _),
      (h : execJoin a s = _), (h : execCopy d a ch s = _), (h : execColl d a s = _), (h : execXplane d a tr s = _), (h : execMmaI8 t a b k r s = _),
      (h : execMmaI8p t a b k r s = _), (h : execMmaBf16 t a b k r s = _), (h : execMmaF16 t a b k r s = _), (h : execMmaBf16p t a b k r s = _),
      (h : execMmazI8 t a b k r s = _), (h : execMmazI8p t a b k r s = _), (h : execMmazBf16 t a b k r s = _), (h : execMmazF16 t a b k r s = _),
      (h : execMmazBf16p t a b k r s = _), (h : execMma64 t a b k r s = _), (h : execSacc t u tr a k s = _), (h : execTclr t k s = _),
      (h : execTcopy t u k s = _), (h : execTld t f a k s = _), (h : execTcvt t f a tr k s = _), (h : execTred t f v k s = _),
      (h : execTdig t f v k s = _), (h : execSscan t v k s = _)⟩

end

/-! ## Words of the manual, and the classes that hold no slot (R92, Table 7.2) -/

namespace Sys2Proof

/-- The reserved classes and the class of I slots have no layout. -/
theorem rawSlot_of_reserved {w : Nat} (h : w / 2 ^ 24 % 16 ∈ [11, 12, 13, 15]) (iws : List Nat) : rawSlot w iws = none := by
  unfold rawSlot
  generalize w / 2 ^ 24 % 16 = cls at h
  simp only [List.mem_cons, List.not_mem_nil, or_false] at h
  obtain rfl | rfl | rfl | rfl := h <;> rfl

theorem decodeSlot_of_none {w : Nat} {iws : List Nat} (h : rawSlot w iws = none) : decodeSlot w iws = .error (.illegal w) := by
  unfold decodeSlot
  rw [h]

end Sys2Proof

section
open Sys2Proof

/-- Settles O1: the manual's words by running the decoder on them, the reserved classes for every word. -/
theorem decodesSpecWords : Obligations.DecodesSpecWords := by
  unfold Obligations.DecodesSpecWords
  refine ⟨⟨rfl, rfl, rfl, rfl, rfl, rfl, rfl, rfl, rfl, rfl, rfl⟩, fun w iws hcls => ?_⟩
  exact decodeSlot_of_none (rawSlot_of_reserved hcls iws)

end

/-! ## The tests of B slots (R96, R114, R140, R141, R144, R145) -/

namespace Sys2Proof.Machine

/-! ### The checks of a register target (R114, R140) -/

theorem targetOk_aligned {x : Word} (halign : x.toNat % 4 = 0) (hpath : x.toNat < 2 ^ 56) : targetOk x = .ok x := by
  have h0 : wfld x 0 2 = 0 := by unfold wfld; omega
  have h56 : wfld x 56 8 = 0 := by unfold wfld; omega
  simp only [targetOk, h0, h56, beq_self_eq_true, need_true, ok_bind]
  rfl

/-- A target that fails a check, and the trap of the check that it fails first (log 88). -/
def BadTarget (x : Word) (e : Trap) : Prop :=
  (x.toNat % 4 ≠ 0 ∧ e = { cause := 0x09, addr := x }) ∨ (x.toNat % 4 = 0 ∧ 2 ^ 56 ≤ x.toNat ∧ e = { cause := 0x08, addr := x })

theorem targetOk_bad {x : Word} {e : Trap} (h : BadTarget x e) : targetOk x = .error (.trap e) := by
  rcases h with ⟨halign, rfl⟩ | ⟨halign, hpath, rfl⟩
  · have h0 : (wfld x 0 2 == 0) = false := by simpa [wfld] using halign
    simp only [targetOk, h0, need_false, error_bind]
  · have h0 : (wfld x 0 2 == 0) = true := by simpa [wfld] using halign
    have h56 : (wfld x 56 8 == 0) = false := by
      have := x.isLt
      refine beq_eq_false_iff_ne.mpr ?_
      unfold wfld
      omega
    simp only [targetOk, h0, h56, need_true, need_false, ok_bind, error_bind]

/-! ### A slot by its test (R96, R140) -/

theorem takes_false {α : Type} {t n : Bool} {taken : Option α} (h : (t ^^ n) = false ∨ taken.isSome = true) : ((t != n) && taken.isNone) = false := by
  rcases h with h | h
  · rw [show (t != n) = false from h, Bool.false_and]
  · rw [← Option.not_isSome, h, Bool.not_true, Bool.and_false]

theorem takes_true {α : Type} {t n : Bool} {taken : Option α} (ht : (t ^^ n) = true) (hnone : taken = none) : ((t != n) && taken.isNone) = true := by
  rw [show (t != n) = true from ht, hnone]
  rfl

section
variable {s : State} {p : BitVec 4} {n t : Bool} {eff : State → SlotR (State × ExitKind)} (hp : s.rdP p.toNat = .ok t)
include hp

/-- A slot whose test fails, or behind the exit taken, only counts. -/
theorem exitSlot_passed (h : (t ^^ n) = false ∨ s.iss.taken.isSome = true) : exitSlot s p n eff = .next (tested s) := by
  simp only [exitSlot, hp, takes_false h, Bool.false_eq_true, if_false]
  rfl

theorem execLoop_passed {o : Off} (h : (t ^^ n) = false ∨ s.iss.taken.isSome = true) : execLoop p n o s = .next (tested s) := by
  simp only [execLoop, hp, ok_bind, takes_false h, Bool.false_eq_true, if_false, finish_pure]
  rfl

variable (ht : (t ^^ n) = true) (hnone : s.iss.taken = none)
include ht hnone

/-- A slot whose test holds, with no exit taken before it, is the exit taken, with the effect of its form. -/
theorem exitSlot_taken {u : State} {k : ExitKind} (he : eff (tested s) = .ok (u, k)) : exitSlot s p n eff = .next (exitTaken s u k) := by
  unfold tested at he
  simp only [exitSlot, hp, takes_true ht hnone, if_true, he]
  rfl

/-- One whose effect traps is the exit taken all the same, to the next sequential bundle. -/
theorem exitSlot_trapped {e : Trap} (he : eff (tested s) = .error (.trap e)) :
    exitSlot s p n eff = .next (trapped (exitTaken s (tested s) (.branch s.iss.npc)) e) := by
  unfold tested at he
  simp only [exitSlot, hp, takes_true ht hnone, if_true, he]
  rfl

/-! ### The forms (R114, R141, R144, R145) -/

theorem execBr_taken (o : Off) : execBr p n o s = .next (exitTaken s (tested s) (.branch (s.ctx.pc + 4 * offWords o))) :=
  exitSlot_taken hp ht hnone rfl

theorem execCall_taken (o : Off) (hd : s.dstS 31 = .ok ()) : execCall p n o s
    = .next (exitTaken s ((tested s).postS 31 (s.ctx.latOf 1) s.iss.npc) (.branch (s.ctx.pc + 4 * offWords o))) := by
  refine exitSlot_taken hp ht hnone ?_
  change (s.dstS 31 >>= _) = _
  rw [hd]
  rfl

theorem execBri_taken {a : BitVec 6} {x : Word} (ha : s.rdS a = .ok x) (hx : targetOk x = .ok x) :
    execBri p n a s = .next (exitTaken s (tested s) (.branch x)) := by
  refine exitSlot_taken hp ht hnone ?_
  change (s.rdS a >>= _) = _
  rw [ha, ok_bind, hx]
  rfl

theorem execCalli_taken {a : BitVec 6} {x : Word} (ha : s.rdS a = .ok x) (hd : s.dstS 31 = .ok ()) (hx : targetOk x = .ok x) :
    execCalli p n a s = .next (exitTaken s ((tested s).postS 31 (s.ctx.latOf 1) s.iss.npc) (.branch x)) := by
  refine exitSlot_taken hp ht hnone ?_
  change (both (s.rdS a) (s.dstS 31) >>= _) = _
  rw [ha, hd, both_ok, ok_bind, hx]
  rfl

theorem execRet_taken {x : Word} (ha : s.rdSn 31 false = .ok x) (hx : targetOk x = .ok x) :
    execRet p n s = .next (exitTaken s (tested s) (.branch x)) := by
  refine exitSlot_taken hp ht hnone ?_
  change (s.rdSn 31 false >>= _) = _
  rw [ha, ok_bind, hx]
  rfl

theorem execBri_trapped {a : BitVec 6} {x : Word} {e : Trap} (ha : s.rdS a = .ok x) (hx : targetOk x = .error (.trap e)) :
    execBri p n a s = .next (trapped (exitTaken s (tested s) (.branch s.iss.npc)) e) := by
  refine exitSlot_trapped hp ht hnone ?_
  change (s.rdS a >>= _) = _
  rw [ha, ok_bind, hx]
  rfl

theorem execCalli_trapped {a : BitVec 6} {x : Word} {e : Trap} (ha : s.rdS a = .ok x) (hd : s.dstS 31 = .ok ())
    (hx : targetOk x = .error (.trap e)) : execCalli p n a s = .next (trapped (exitTaken s (tested s) (.branch s.iss.npc)) e) := by
  refine exitSlot_trapped hp ht hnone ?_
  change (both (s.rdS a) (s.dstS 31) >>= _) = _
  rw [ha, hd, both_ok, ok_bind, hx]
  rfl

theorem execRet_trapped {x : Word} {e : Trap} (ha : s.rdSn 31 false = .ok x) (hx : targetOk x = .error (.trap e)) :
    execRet p n s = .next (trapped (exitTaken s (tested s) (.branch s.iss.npc)) e) := by
  refine exitSlot_trapped hp ht hnone ?_
  change (s.rdSn 31 false >>= _) = _
  rw [ha, ok_bind, hx]
  rfl

/-- An exit ends its rank where no region is open or a handler runs (R144, R302). -/
theorem execExit_taken (h : s.ctx.regions = [] ∨ s.ctx.inh = true) : execExit p n s = .next (exitTaken s (tested s) .exit) := by
  have hneed : (s.ctx.regions.isEmpty || s.ctx.inh) = true := by simpa [List.isEmpty_iff] using h
  refine exitSlot_taken hp ht hnone ?_
  change (need (s.ctx.regions.isEmpty || s.ctx.inh) _ >>= _) = _
  rw [hneed]
  rfl

theorem execExit_trapped (hopen : s.ctx.regions ≠ []) (hinh : s.ctx.inh = false) : execExit p n s
    = .next (trapped (exitTaken s (tested s) (.branch s.iss.npc)) { cause := 0x0B, info1 := BitVec.ofNat 64 s.ctx.regions.length }) := by
  have hneed : (s.ctx.regions.isEmpty || s.ctx.inh) = false := by simp [hopen, hinh]
  refine exitSlot_trapped hp ht hnone ?_
  change (need (s.ctx.regions.isEmpty || s.ctx.inh) _ >>= _) = _
  rw [hneed]
  rfl

theorem execYield_taken : execYield p n s = .next (exitTaken s (tested s) .yield) := exitSlot_taken hp ht hnone rfl

end

end Sys2Proof.Machine

section
open Sys2Proof Sys2Proof.Machine

/-- Settles O20, form by form: a slot's test says whether it is the exit taken, and the checks of its form where it goes. -/
theorem branchTests : Obligations.BranchTests := by
  unfold Obligations.BranchTests
  refine ⟨fun s p n t hp ht hnone => ?taken, fun s p n t o a hp hpass => ?passed⟩
  case taken =>
    refine ⟨fun o => ⟨execBr_taken hp ht hnone o, execCall_taken hp ht hnone o⟩, fun a x ha halign hpath => ?register,
      fun x ha halign hpath => execRet_taken hp ht hnone ha (targetOk_aligned halign hpath), execExit_taken hp ht hnone,
      execYield_taken hp ht hnone, ?traps⟩
    case register =>
      have hx := targetOk_aligned halign hpath
      exact ⟨execBri_taken hp ht hnone ha hx, fun hd => execCalli_taken hp ht hnone ha hd hx⟩
    case traps =>
      exact ⟨fun a x e ha hbad => ⟨execBri_trapped hp ht hnone ha (targetOk_bad hbad), fun hd => execCalli_trapped hp ht hnone ha hd (targetOk_bad hbad)⟩,
        fun x e ha hbad => execRet_trapped hp ht hnone ha (targetOk_bad hbad), execExit_trapped hp ht hnone⟩
  case passed =>
    have h {eff : State → SlotR (State × ExitKind)} : exitSlot s p n eff = .next (tested s) := exitSlot_passed hp hpass
    exact List.forall_iff_forall_mem.mp ⟨(h : execBr p n o s = _), (h : execBri p n a s = _), (h : execCall p n o s = _),
      (h : execCalli p n a s = _), (h : execRet p n s = _), execLoop_passed hp hpass, (h : execLoopw p n o s = _), (h : execExit p n s = _),
      (h : execYield p n s = _)⟩

end

/-! ## Every step answers a next state (R126, R297) -/

namespace Sys2Proof.Machine

/-- A meaning that answers a next state: no fault and no refusal. -/
def Answers (r : Res) : Prop := ∃ t, r = .next t

theorem answers_next (t : State) : Answers (.next t) := ⟨t, rfl⟩

theorem answers_finish (s : State) (r : SlotR State) : Answers (finish s r) := finish_next s r

theorem answers_ite (c : Prop) [Decidable c] {x y : Res} (hx : Answers x) (hy : Answers y) : Answers (if c then x else y) := by
  split
  · exact hx
  · exact hy

theorem answers_exitSlot (s : State) (p : BitVec 4) (n : Bool) (eff : State → SlotR (State × ExitKind)) : Answers (exitSlot s p n eff) := by
  unfold exitSlot
  split
  · exact answers_finish _ _
  · refine answers_ite _ ?_ (answers_next _)
    split
    · exact answers_finish _ _
    · exact answers_next _

/-! The events whose arms first look for what they are about. -/

theorem answers_execPageWalk (c i : Nat) (s : State) : Answers (execPageWalk c i s) := by
  unfold execPageWalk
  split
  · exact answers_next _
  · split <;> exact answers_next _

theorem answers_execLoadReply (c i : Nat) (err : Bool) (s : State) : Answers (execLoadReply c i err s) := by
  unfold execLoadReply
  split <;> exact answers_next _

theorem answers_execWpAdvance (c ch n : Nat) (s : State) : Answers (execWpAdvance c ch n s) := by
  unfold execWpAdvance
  split
  · exact answers_next _
  · split <;> exact answers_next _

theorem answers_execEngineFinish (c tl : Nat) (s : State) : Answers (execEngineFinish c tl s) := by
  unfold execEngineFinish
  split
  · exact answers_next _
  · split
    · exact answers_next _
    · exact answers_ite _ (answers_next _) (answers_ite _ (answers_next _) (answers_ite _ (answers_next _)
        (answers_ite _ (answers_next _) (answers_next _))))

theorem answers_execTrapDelivery (c : Nat) (s : State) : Answers (execTrapDelivery c s) := by
  unfold execTrapDelivery
  split <;> exact answers_next _

theorem answers_execGangStop (c : Nat) (s : State) : Answers (execGangStop c s) := by
  unfold execGangStop
  split <;> exact answers_next _

theorem answers_execUnwind (c : Nat) (s : State) : Answers (execUnwind c s) := by
  unfold execUnwind
  split <;> exact answers_next _

theorem answers_execLeafHash (c : Nat) (s : State) : Answers (execLeafHash c s) := by
  unfold execLeafHash
  split <;> exact answers_next _

theorem answers_execRankEnd (c : Nat) (s : State) : Answers (execRankEnd c s) := by
  unfold execRankEnd
  split
  · exact answers_next _
  · dsimp only
    split <;> exact answers_next _

theorem answers_execTlbInvComplete (s : State) : Answers (execTlbInvComplete s) := by
  unfold execTlbInvComplete
  split <;> exact answers_next _

theorem answers_execVfFlr (v : Nat) (s : State) : Answers (execVfFlr v s) := answers_ite _ (answers_next _) (answers_next _)

theorem answers_execAperture (vf off : Nat) (w : Option (List (BitVec 8))) (s : State) : Answers (execAperture vf off w s) := by
  cases w <;> exact answers_next _

theorem answers_execZoneTrip (n kind : Nat) (s : State) : Answers (execZoneTrip n kind s) :=
  answers_ite _ (answers_next _) (answers_ite _ (answers_next _) (answers_next _))

/-- A slot ends in `finish`, whatever it reads; an event answers what it comes to. -/
theorem answers_exec (i : Instr) (s : State) : Answers (exec i s) := by
  cases i with
  | br p n o => exact (answers_exitSlot s p n _ : Answers (execBr p n o s))
  | bri p n a => exact (answers_exitSlot s p n _ : Answers (execBri p n a s))
  | call p n o => exact (answers_exitSlot s p n _ : Answers (execCall p n o s))
  | calli p n a => exact (answers_exitSlot s p n _ : Answers (execCalli p n a s))
  | ret p n => exact (answers_exitSlot s p n _ : Answers (execRet p n s))
  | loopw p n o => exact (answers_exitSlot s p n _ : Answers (execLoopw p n o s))
  | exit p n => exact (answers_exitSlot s p n _ : Answers (execExit p n s))
  | yield p n => exact (answers_exitSlot s p n _ : Answers (execYield p n s))
  | pageWalk c i => exact answers_execPageWalk c i s
  | loadReply c i err => exact answers_execLoadReply c i err s
  | trapDelivery c => exact answers_execTrapDelivery c s
  | rankEnd c => exact answers_execRankEnd c s
  | engineFinish c tl => exact answers_execEngineFinish c tl s
  | leafHash c => exact answers_execLeafHash c s
  | unwind c => exact answers_execUnwind c s
  | gangStop c => exact answers_execGangStop c s
  | tlbInvComplete => exact answers_execTlbInvComplete s
  | vfFlr v => exact answers_execVfFlr v s
  | zoneTrip n kind => exact answers_execZoneTrip n kind s
  | wpAdvance c ch n => exact answers_execWpAdvance c ch n s
  | aperture vf off w => exact answers_execAperture vf off w s
  | nop | msel | xrst | trap | brk | hintNone | succPrefetch | branchLikely | locality | resultArrival | xComplete | millinerSlot |
    launchComplete | shadowReplay | splicePair | poolSpill | gangPop | preempt | gangResume | intervalSigning | evacDrainDone |
    selfTestAbandon | ageProm | millinerHeartbeat | millinerTakeover | standbyBegin | dispatch | budgetReset | uncontained | bisect | sign |
    capture | referee | wakeWrite | tick | clockChange | powerThrottle | uncorrectable | corrected | stackFence | treeFence | selfTestStart
    | selfTestComplete | scan | scanComplete | eyeMargin | flitReceive | flitReplay | peerEntry | linkh | tlbInvalidate | chainBind | logrd
    | loadreq | load | unload | debugStop | debugResume | dumpreq | featlock | warmStart | coldStart | powerOn | fundReset | stackTrained |
    clusterReady | millinerLoaded | brimTrained | zoneWordWrite | zoneTripClear | clockRestore | evac | evacValveClosed | evacDry |
    evacTimeout | refill | refillComplete | refillTimeout | getVersion | getCapabilities | negotiateAlgorithms | getDigests | getCertificate
    | challenge | getMeasurements | vendorSlhSig | vendorSlhCert | spdmUnsupported | ctlWrite | dumpGranule | vfEnable | qdescWrite =>
    exact answers_next _
  | _ => exact answers_finish _ _

/-! From one instruction to a step: each part answers where the parts that it runs do. -/

theorem answers_runSlots (xs : List Slot) : ∀ s : State, Answers (runSlots xs s) := by
  induction xs with
  | nil => exact answers_next
  | cons x xs ih =>
    intro s
    obtain ⟨t, ht⟩ := answers_exec x.instr (s.atSlot x)
    rw [runSlots_cons xs ht]
    exact ih t

theorem answers_runBundle (s : State) (b : Bundle) : Answers (s.runBundle b) := by
  unfold State.runBundle
  dsimp only
  split
  · refine answers_ite _ (answers_next _) (answers_ite _ (answers_ite _ (answers_next _) (answers_runSlots _ _)) (answers_ite _ (answers_next _) ?_))
    split <;> exact answers_runSlots _ _
  · exact answers_runSlots _ _

theorem answers_issue (s : State) : Answers s.issue := by
  unfold State.issue
  refine answers_ite _ (answers_next _) ?_
  split
  · exact answers_next _
  · split
    · exact answers_next _
    · exact answers_runBundle _ _

theorem answers_issueJoined (s : State) (m : Ctx) : Answers (s.issueJoined m) := by
  unfold State.issueJoined
  refine answers_ite _ (answers_next _) ?_
  split
  · exact answers_next _
  · split
    · exact answers_next _
    · dsimp only
      split
      · split
        · exact answers_next _
        · split
          · exact answers_next _
          · exact answers_runBundle _ _
      · exact answers_runBundle _ _

theorem answers_goOn (s : State) : Answers s.goOn := by
  unfold State.goOn
  refine answers_ite _ (answers_next _) (answers_ite _ ?preempts ?issues)
  case preempts =>
    split
    · exact answers_next _
    · exact answers_issue s
  case issues =>
    split
    · exact answers_ite _ (answers_next _) (answers_issueJoined s _)
    · exact answers_issue s

theorem answers_secondary (us : List (Nat × Nat)) (n : Nat) : ∀ (cs : List Ctx) (s : State), Answers (State.secondary us n cs s) := by
  induction n with
  | zero => exact fun _ => answers_next
  | succ n ih =>
    intro cs s
    unfold State.secondary
    split
    · exact answers_next _
    · split
      · exact answers_next _
      · refine answers_ite _ (answers_next _) ?_
        split
        · exact answers_ite _ (ih _ _) (answers_next _)
        · exact answers_goOn _

theorem answers_issueNow (s : State) : Answers s.issueNow := by
  have hbeside (ob : Option (List Slot)) (issued : Bool) (cs : List Ctx) (t : State) : Answers (match ob with
      | some b => if issued then State.secondary (unitsOf b) 4 cs t else .next t
      | none => .next t) := by
    cases ob with
    | some b => exact answers_ite _ (answers_secondary _ _ _ _) (answers_next _)
    | none => exact answers_next _
  unfold State.issueNow
  dsimp only
  split
  · split
    · exact answers_next _
    · exact hbeside _ _ _ _
  · exact answers_goOn s

theorem answers_internal (s : State) : Answers s.internal := answers_exec _ _

theorem answers_step (s : State) : Answers (step s) := by
  unfold step
  split
  · exact answers_exec _ _
  · refine answers_ite _ (answers_internal s) ?_
    split
    · exact answers_issueNow _
    · exact answers_internal s

end Sys2Proof.Machine

section
open Sys2Proof Sys2Proof.Machine

/-- Settles O8: every instruction and event answers a next state, and a step is made of these. -/
theorem stepGoesOn : Obligations.StepGoesOn := by
  unfold Obligations.StepGoesOn
  exact answers_step

end

/-! ## Scalar arithmetic, compares and predicates (R127, R128, R132 to R136, Table 9.2) -/

namespace Sys2Proof.Machine

/-! ### Counting bits -/

/-- clz gives 64 for 0, else the distance of the highest one bit from bit 63. -/
theorem clzW_count (x : Word) : ∃ n, clzW x = BitVec.ofNat 64 n ∧ n ≤ 64 ∧ (∀ i, i < n → x.getLsbD (63 - i) = false)
    ∧ (n < 64 → x.getLsbD (63 - n) = true) := by
  refine ⟨_, rfl, ?_⟩
  by_cases h0 : x.toNat = 0
  · have hx : x = 0 := BitVec.eq_of_toNat_eq h0
    simp [hx]
  · rw [if_neg h0]
    have hlog : x.toNat.log2 < 64 := (Nat.log2_lt h0).mpr x.isLt
    refine ⟨by omega, fun i hi => ?_, fun _ => ?_⟩
    · rw [← BitVec.testBit_toNat]
      exact Nat.testBit_lt_two_pow ((Nat.log2_lt h0).mp (by omega))
    · rw [← BitVec.testBit_toNat, show 63 - (63 - x.toNat.log2) = x.toNat.log2 by omega]
      exact Nat.testBit_log2 h0

theorem popcW_eq (x : Word) : popcW x = BitVec.ofNat 64 ((List.range 64).countP (fun i => x.getLsbD i)) :=
  congrArg (BitVec.ofNat 64) List.countP_eq_length_filter.symm

theorem shiftLeft_eq_ofNat_mul (y : Word) (k : Nat) : y <<< k = BitVec.ofNat 64 (2 ^ k) * y := by
  rw [BitVec.shiftLeft_eq_mul_twoPow, BitVec.mul_comm]
  congr 1
  exact BitVec.eq_of_toNat_eq (by simp)

/-! ### The slots -/

section
variable {s : State} {d : BitVec 5} {a : BitVec 6} {x : Word} (ha : s.rdS a = .ok x)
include ha

theorem unS_ok (f : Word → Word) (hd : s.dstS d.toNat = .ok ()) : unS s d a f = .next (s.postS d.toNat (s.ctx.latOf 1) (f x)) := by
  simp [unS, ha, hd]

theorem execMovt_ok {n t : Bool} {p : BitVec 4} (hp : s.rdP p.toNat = .ok t) (hd : s.dstS d.toNat = .ok ()) :
    execMovt d a n p s = .next (if t ^^ n then s.postS d.toNat (s.ctx.latOf 1) x else s) := by
  rw [execMovt, ha, hp, hd]
  rfl

theorem execPmov_ok (p : BitVec 4) : execPmov p a s = .next (s.postP p.toNat (s.ctx.latOf 1) (decide (x ≠ 0))) := by
  have hne : (x != 0) = decide (x ≠ 0) := by simp [bne, beq_eq_decide]
  simp only [execPmov, ha, ok_bind, finish_pure, hne]

variable {b : BOp} {y : Word} (hb : s.bop b = .ok y)
include hb

/-- A compare writes its predicate, and with C every bit of the mask of that number (R132). -/
theorem cmpS_ok (p : BitVec 4) (c : Bool) (f : Word → Word → Bool) : cmpS s p c a b f = .next (
    let t := s.postP p.toNat (s.ctx.latOf 1) (f x y)
    if c then t.postM p.toNat (s.ctx.latOf 1) (if f x y then BitVec.allOnes 512 else 0) 0 else t) := by
  rw [cmpS, ha, hb]
  rfl

variable (hd : s.dstS d.toNat = .ok ())
include hd

theorem divS_ok (f : Word → Word → Word) (hy : y ≠ 0) : divS s d a b f = .next (s.postS d.toNat (s.ctx.latOf 3) (f x y)) := by
  have hne : (y != 0) = true := bne_iff_ne.mpr hy
  simp only [divS, ha, hb, hd, both_ok, ok_bind, hne, need_true, finish_pure]

/-- A zero divisor traps, and d is not written (R128). -/
theorem divS_zero (f : Word → Word → Word) (hy : y = 0) : divS s d a b f = .next (trapped s { cause := 0x16 }) := by
  simp [divS, ha, hb, hd, hy, finish_trap]

end

theorem execPlog_ok {s : State} {x y : BitVec 4} {px py : Bool} (d f : BitVec 4) (hx : s.rdP x.toNat = .ok px) (hy : s.rdP y.toNat = .ok py) :
    execPlog d f x y s = .next (s.postP d.toNat (s.ctx.latOf 1) (f.getLsbD (2 * px.toNat + py.toNat))) := by
  simp [execPlog, hx, hy]

/-- The predicates read are the bits of the number. -/
theorem predBits_ok {s : State} {ps : Nat → Bool} (k : Nat) (h : ∀ n, n < k → s.rdP n = .ok (ps n)) : predBits s k = .ok (bitsOf k ps) := by
  induction k with
  | zero => rfl
  | succ k ih =>
    rw [predBits, ih (fun n hn => h n (Nat.lt_succ_of_lt hn)), h k (Nat.lt_succ_self k), bitsOf_succ]
    rfl

theorem execPget_ok {s : State} {d : BitVec 5} {ps : Nat → Bool} (h : ∀ n, n < 16 → s.rdP n = .ok (ps n)) (hd : s.dstS d.toNat = .ok ()) :
    execPget d s = .next (s.postS d.toNat (s.ctx.latOf 1) (BitVec.ofNat 64 (bitsOf 16 ps))) := by
  simp [execPget, predBits_ok 16 h, hd]

theorem getLsbD_bitsOf_sixteen (ps : Nat → Bool) {i : Nat} (hi : i < 64) :
    (BitVec.ofNat 64 (bitsOf 16 ps)).getLsbD i = (decide (i < 16) && ps i) := by
  rw [BitVec.getLsbD_ofNat, decide_eq_true hi, Bool.true_and]
  by_cases h : i < 16
  · rw [testBit_bitsOf 16 i ps h, decide_eq_true h, Bool.true_and]
  · rw [decide_eq_false h, Bool.false_and]
    exact Nat.testBit_lt_two_pow ((bitsOf_lt 16 ps).trans_le (Nat.pow_le_pow_right (by decide) (by omega)))

end Sys2Proof.Machine

section
open Sys2Proof Sys2Proof.Machine

/-- Settles O13: each form completes with its function's value, which Table 9.2 gives. -/
theorem scalarArithmeticResults : Obligations.ScalarArithmeticResults := by
  unfold Obligations.ScalarArithmeticResults
  intro s d a b x y ha hb hd
  have hbin (g : Nat) (f : Word → Word → Word) : binS s d a b g f = .next (s.postS d.toNat (s.ctx.latOf g) (f x y)) :=
    binS_ok s d a b g f x y ha hb hd
  have hshift (k : Nat) (g : Nat) : binS s d a b g (fun x y => x + y <<< k)
      = .next (s.postS d.toNat (s.ctx.latOf g) (x + BitVec.ofNat 64 (2 ^ k) * y)) := by
    rw [hbin, shiftLeft_eq_ofNat_mul]
  refine ⟨List.forall_iff_forall_mem.mp ⟨hbin 1 (· + ·), hbin 1 (· - ·), hbin 2 (· * ·), hbin 2 mulhs, hbin 2 mulhuW, hbin 1 (· &&& ·),
    hbin 1 (· ||| ·), hbin 1 (· ^^^ ·), hbin 1 (fun x y => x &&& ~~~y), hbin 1 (fun x y => x <<< shamt y), hbin 1 (fun x y => x >>> shamt y),
    hbin 1 (fun x y => x.sshiftRight (shamt y)), hbin 1 (fun x y => if x.toInt ≤ y.toInt then x else y),
    hbin 1 (fun x y => if x.toInt ≤ y.toInt then y else x), hbin 1 (fun x y => if x.toNat ≤ y.toNat then x else y),
    hbin 1 (fun x y => if x.toNat ≤ y.toNat then y else x), hshift 2 1, hshift 3 1, hshift 4 1⟩, ?clz, ?popc⟩
  case clz =>
    obtain ⟨n, hn, hcount⟩ := clzW_count x
    exact ⟨n, hn ▸ unS_ok ha clzW hd, hcount⟩
  case popc => exact popcW_eq x ▸ unS_ok ha popcW hd

/-- Settles O14: a remainder is what the quotient leaves, and −1 divides −2⁶³ into itself modulo 2⁶⁴. -/
theorem divisionResults : Obligations.DivisionResults := by
  unfold Obligations.DivisionResults
  intro s d a b x y ha hb hd
  have hdiv (hy : y ≠ 0) : execDiv d a b s = .next (s.postS d.toNat (s.ctx.latOf 3) (BitVec.ofInt 64 (x.toInt.tdiv y.toInt))) :=
    divS_ok ha hb hd (fun x y => BitVec.ofInt 64 (x.toInt.tdiv y.toInt)) hy
  have hrem (hy : y ≠ 0) : execRem d a b s = .next (s.postS d.toNat (s.ctx.latOf 3) (BitVec.ofInt 64 (x.toInt.tmod y.toInt))) :=
    divS_ok ha hb hd (fun x y => BitVec.ofInt 64 (x.toInt.tmod y.toInt)) hy
  refine ⟨fun hy => ⟨hdiv hy, ?rem, divS_ok ha hb hd (fun x y => BitVec.ofNat 64 (x.toNat / y.toNat)) hy, ?remu⟩, fun hy => ?zero,
    fun hx hy => ?overflow⟩
  case rem =>
    rw [Int.mul_comm, ← Int.tmod_def]
    exact hrem hy
  case remu =>
    rw [Nat.mul_comm, ← Nat.mod_eq_sub_mul_div]
    exact divS_ok ha hb hd (fun x y => BitVec.ofNat 64 (x.toNat % y.toNat)) hy
  case zero =>
    have hzero (f : Word → Word → Word) : divS s d a b f = .next (trapped s { cause := 0x16 }) := divS_zero ha hb hd f hy
    exact List.forall_iff_forall_mem.mp ⟨(hzero _ : execDiv d a b s = _), (hzero _ : execDivu d a b s = _),
      (hzero _ : execRem d a b s = _), (hzero _ : execRemu d a b s = _)⟩
  case overflow =>
    have hquot : BitVec.ofInt 64 (x.toInt.tdiv y.toInt) = 0x8000000000000000 := by
      rw [hx, hy]
      decide
    have hleft : BitVec.ofInt 64 (x.toInt.tmod y.toInt) = 0 := by
      rw [hx, hy]
      decide
    have hne : y ≠ 0 := by
      rw [hy]
      decide
    rw [← hquot, ← hleft]
    exact ⟨hdiv hne, hrem hne⟩

/-- Settles O16: each slot leaves its result once its operands read. -/
theorem scalarComparesAndPredicates : Obligations.ScalarComparesAndPredicates := by
  unfold Obligations.ScalarComparesAndPredicates
  refine ⟨fun s p c a b x y ha hb => ?compares, fun s => ⟨fun d a n p x t ha hp hd => execMovt_ok ha hp hd,
    fun d f x y px py hx hy => execPlog_ok d f hx hy, fun p a x ha => execPmov_ok ha p,
    fun d ps h hd => ⟨_, execPget_ok h hd, fun i hi => getLsbD_bitsOf_sixteen ps hi⟩⟩⟩
  have hcmp (f : Word → Word → Bool) := cmpS_ok ha hb p c f
  have hne : (x != y) = decide (x ≠ y) := by simp [bne, beq_eq_decide]
  refine List.forall_iff_forall_mem.mp ⟨hcmp (fun x y => x == y), ?_, hcmp (fun x y => x.toInt < y.toInt), hcmp (fun x y => x.toInt ≤ y.toInt),
    hcmp (fun x y => x.toNat < y.toNat), hcmp (fun x y => x.toNat ≤ y.toNat)⟩
  dsimp only
  rw [← hne]
  exact hcmp (fun x y => x != y)

end

/-! ## Compare traps (R139, R247) and counted loops (R138, R142, R143) -/

namespace Sys2Proof.Machine

theorem execCmpt_ok {s : State} {a : BitVec 6} {b : BOp} {x y : Word} (ha : s.rdS a = .ok x) (hb : s.bop b = .ok y) :
    execCmpt a b s = .next (if x = y then s else trapped s { cause := 0x0C, info1 := x, info2 := y }) := by
  rw [execCmpt, ha, hb, both_ok, ok_bind]
  by_cases h : x = y
  · simp [h]
  · have hne : (x == y) = false := beq_eq_false_iff_ne.mpr h
    simp only [hne, need_false, error_bind, finish_trap, if_neg h]

section
variable {s : State} {a b : BitVec 6} {ra rb : Row} {m : Mask}

/-- Whether the active 9-bit lane q of two rows differs. -/
def laneDiffers (m : Mask) (ra rb : Row) (q : Nat) : Bool := maskBit 9 m q && laneAt 9 ra q != laneAt 9 rb q

theorem laneDiffers_iff (q : Nat) : laneDiffers m ra rb q = true ↔ m.getLsbD q = true ∧ laneAt 9 ra q ≠ laneAt 9 rb q := by
  simp [laneDiffers, maskBit]

variable (ha : s.rdV a = .ok ra) (hb : s.rdV b = .ok rb) (hm : s.rdMask = .ok m)
include ha hb hm

theorem execVcmpt_equal (h : ∀ q, q < 512 → laneDiffers m ra rb q = false) : execVcmpt a b s = .next s := by
  have hfind : (List.range 512).find? (laneDiffers m ra rb) = none :=
    List.find?_eq_none.mpr (fun q hq => by simp [h q (List.mem_range.mp hq)])
  unfold laneDiffers at hfind
  simp only [execVcmpt, ha, hb, hm, both_ok, ok_bind, hfind, finish_pure]

theorem execVcmpt_differs {q : Nat} (hq : q < 512) (hd : laneDiffers m ra rb q = true) (hlow : ∀ r, r < q → laneDiffers m ra rb r = false) :
    execVcmpt a b s = .next (trapped s { cause := 0x0C, addr := BitVec.ofNat 64 q, info1 := BitVec.ofNat 64 (laneAt 9 ra q),
                                         info2 := BitVec.ofNat 64 (laneAt 9 rb q) }) := by
  have hfind : (List.range 512).find? (laneDiffers m ra rb) = some q :=
    List.find?_range_eq_some.mpr ⟨hd, List.mem_range.mpr hq, fun r hr => by simp [hlow r hr]⟩
  unfold laneDiffers at hfind
  simp only [execVcmpt, ha, hb, hm, both_ok, ok_bind, hfind]
  exact finish_trap s _

end

/-! ### Loops -/

section
variable {s : State} {p : BitVec 4} {n t : Bool} (hp : s.rdP p.toNat = .ok t) (ht : (t ^^ n) = true) (hnone : s.iss.taken = none)
include hp ht hnone

theorem execLoop_taken (o : Off) (hlc : s.ctx.lc ≠ 0) : execLoop p n o s
    = .next (exitTaken s ((tested s).postLast 0x00E (s.ctx.lc - 1)).rotate (.branch (s.ctx.pc + 4 * offWords o))) := by
  simp only [execLoop, hp, ok_bind, takes_true ht hnone, if_true, if_neg hlc, finish_pure]
  rfl

theorem execLoop_falls (o : Off) (hlc : s.ctx.lc = 0) : execLoop p n o s
    = .next { tested s with iss := { (tested s).iss with loopFalls := (tested s).iss.loopFalls + 1 } } := by
  simp only [execLoop, hp, ok_bind, takes_true ht hnone, if_true, if_pos hlc, finish_pure]
  rfl

theorem execLoopw_taken (o : Off) : execLoopw p n o s = .next (exitTaken s (tested s).rotate (.branch (s.ctx.pc + 4 * offWords o))) :=
  exitSlot_taken hp ht hnone rfl

end

end Sys2Proof.Machine

section
open Sys2Proof Sys2Proof.Machine

/-- Settles O19: the compare of two words, and the search for the lowest active lane that differs. -/
theorem compareTraps : Obligations.CompareTraps := by
  unfold Obligations.CompareTraps
  refine ⟨fun s a b x y ha hb => execCmpt_ok ha hb, fun s a b ra rb m ha hb hm => ⟨fun h => ?equal, fun q hq hon hne hlow => ?differs⟩⟩
  case equal =>
    refine execVcmpt_equal ha hb hm (fun q hq => Bool.eq_false_iff.mpr fun hd => ?_)
    obtain ⟨hon, hne⟩ := (laneDiffers_iff q).mp hd
    exact hne (h q hq hon)
  case differs =>
    refine execVcmpt_differs ha hb hm hq ((laneDiffers_iff q).mpr ⟨hon, hne⟩) (fun r hr => Bool.eq_false_iff.mpr fun hd => ?_)
    obtain ⟨hon, hne⟩ := (laneDiffers_iff r).mp hd
    exact hne (hlow r hr hon)

/-- Settles O21: loop by its count, loopw by whether it is the exit taken. -/
theorem loopsRotate : Obligations.LoopsRotate := by
  unfold Obligations.LoopsRotate
  refine ⟨fun s p n t o hp ht hnone => ⟨execLoop_taken hp ht hnone o, execLoop_falls hp ht hnone o⟩, fun s p n t o hp => ?loopw⟩
  by_cases h : (t ^^ n) = true ∧ s.iss.taken = none
  · obtain ⟨ht, hnone⟩ := h
    rw [ht, hnone]
    exact execLoopw_taken hp ht hnone o
  · have hpass : (t ^^ n) = false ∨ s.iss.taken.isSome = true := by
      rw [← Bool.not_eq_true, ← Option.ne_none_iff_isSome]
      exact not_and_or.mp h
    rw [show ((t ^^ n) && s.iss.taken.isNone) = false from takes_false hpass]
    exact (exitSlot_passed hp hpass : execLoopw p n o s = _)

end

/-! ## The return from a trap (R148, R265, R303) -/

namespace Sys2Proof.Machine

/-! ### Reading the frame back -/

/-- A read of a context's area sets no more than A bits. -/
theorem walked_readArea (n : Nat) (s u : State) (c : Ctx) (o k : Nat) (bs : List Byte) (h : s.readArea c o k n = .ok (u, bs)) : Walked s u := by
  induction n generalizing s k bs with
  | zero =>
    cases h
    exact Walked.refl _
  | succ n ih =>
    unfold State.readArea at h
    dsimp only at h
    split at h
    · cases h
    · split at h
      · cases h
      · split at h
        · cases h
        · split at h
          · cases h
          · next hrest =>
            cases h
            exact (walked_touch _ _).trans (ih _ _ _ hrest)

theorem susp_setS (c : Ctx) (n : Nat) (r : SReg) : (c.setS n r).susp = c.susp := by
  unfold Ctx.setS
  split <;> rfl

theorem susp_setP (c : Ctx) (n : Nat) (r : PReg) : (c.setP n r).susp = c.susp := by
  unfold Ctx.setP
  split <;> rfl

theorem susp_setM (c : Ctx) (n : Nat) (r : MReg) : (c.setM n r).susp = c.susp := by
  unfold Ctx.setM
  split <;> rfl

theorem susp_setK (c : Ctx) (n : Nat) (r : KReg) : (c.setK n r).susp = c.susp := rfl

theorem susp_foldl (f : Ctx → Nat → Ctx) (h : ∀ c n, (f c n).susp = c.susp) (ns : List Nat) (c : Ctx) : (ns.foldl f c).susp = c.susp := by
  induction ns generalizing c with
  | nil => rfl
  | cons n ns ih => rw [List.foldl_cons, ih, h]

/-- What a frame that passes the checks of R303 restores: PC, STEP and MODE as its bytes give them, and an mma64 to take up as it was. -/
structure Restored (bs : List Byte) (c d : Ctx) : Prop where
  pc : d.pc = BitVec.ofNat 64 (numAt bs 0 8)
  step : d.step = BitVec.ofNat 64 (numAt bs 8 8)
  mode : d.mode = BitVec.ofNat 64 (numAt bs 0x198 8)
  aligned : d.pc.toNat % 4 = 0
  modeOk : modeOk d.mode = true
  susp : d.susp = c.susp

theorem restored_of_restoreFrame {c d : Ctx} {kf : Tab DFault} {kq : List Pend} {bs : List Byte} {word : Nat}
    (h : restoreFrame c kf kq bs word = .ok d) : Restored bs c d := by
  unfold restoreFrame at h
  dsimp only at h
  split at h
  · cases h
  · next haligned =>
    split at h
    · cases h
    · next hmode =>
      split at h
      · cases h
      · split at h
        · cases h
        · cases h
          refine ⟨rfl, rfl, rfl, by simpa [wfld] using haligned, by simpa using hmode, ?_⟩
          dsimp only
          rw [susp_foldl _ (fun _ _ => susp_setK _ _ _), susp_foldl _ (fun _ _ => susp_setM _ _ _), susp_foldl _ (fun _ _ => susp_setP _ _ _),
            susp_foldl _ (fun _ _ => susp_setS _ _ _)]

/-! ### Taking up an mma64 -/

/-- Micro-steps handed to X0 join its queue, and a capture run may note their leaf. -/
theorem runM64_frame (s : State) (j : M64) (tile : Nat) (zs : List (List Nat)) (live : Bool) :
    { s.runM64 j tile zs live with launches := s.launches, xq := s.xq } = s := by
  unfold State.runM64
  split
  next j1 rows fl fail _ =>
    dsimp only
    obtain ⟨ls, hnote⟩ := note_eq s s.ctx.arr s.ctx.task s.ctx.rank j.lidx (serBuf 1 j1.rowsA) (serBuf 1 j1.rowsB) none
    rw [hnote]

theorem runM64_ctx (s : State) (j : M64) (tile : Nat) (zs : List (List Nat)) (live : Bool) : (s.runM64 j tile zs live).ctx = s.ctx :=
  (congrArg State.ctx (runM64_frame s j tile zs live) : _)

theorem runM64_iss (s : State) (j : M64) (tile : Nat) (zs : List (List Nat)) (live : Bool) : (s.runM64 j tile zs live).iss = s.iss :=
  (congrArg State.iss (runM64_frame s j tile zs live) : _)

/-- With no mma64 to take up nothing changes. -/
theorem resumeM64_none {s : State} (mstep : Nat) (h : s.ctx.susp = none) : s.resumeM64 mstep = s := by
  simp only [State.resumeM64, h]

/-- Taking up an mma64 leaves the issue and the handler bit as they are. -/
theorem resumeM64_keeps (s : State) (mstep : Nat) : (s.resumeM64 mstep).ctx.inh = s.ctx.inh ∧ (s.resumeM64 mstep).iss = s.iss := by
  unfold State.resumeM64
  split
  · exact ⟨rfl, rfl⟩
  · split
    · exact ⟨rfl, rfl⟩
    · dsimp only
      rw [runM64_ctx, runM64_iss]
      exact ⟨rfl, rfl⟩

/-! ### rft -/

theorem execRft_outside {s : State} (h : s.ctx.inh = false) : execRft s = .next (trapped s { cause := 0x04 }) := by
  unfold execRft
  rw [h]
  rfl

/-- In a handler the flow goes on as the frame says (R303). -/
theorem execRft_returns {s u : State} {bs : List Byte} {c : Ctx} (hinh : s.ctx.inh = true) (hread : s.readArea s.ctx 0 0 10 = .ok (u, bs))
    (hback : restoreFrame s.ctx s.ctx.keptF s.ctx.keptQ bs s.iss.word = .ok c) : execRft s = .next (({ u with
      ctx := { c with inh := false, bseq := s.ctx.resumeSeq }, iss := { s.iss with rft := true } } : State).resumeM64 (numAt bs 0x14 1)) := by
  simp only [execRft, hinh, need_true, ok_bind, hread, hback, finish_pure]

end Sys2Proof.Machine

section
open Sys2Proof Sys2Proof.Machine

/-- Settles O48: a frame that passes its checks gives the context that goes on, and an mma64 taken up changes neither its state nor the issue. -/
theorem returnFromTrap : Obligations.ReturnFromTrap := by
  unfold Obligations.ReturnFromTrap
  refine fun s => ⟨execRft_outside, fun u bs c hinh hread hback => ?_⟩
  have hrft := execRft_returns hinh hread hback
  have hc := restored_of_restoreFrame hback
  refine ⟨fun hsusp => ?alone, ?goesOn, hc.pc, hc.step, hc.mode, hc.aligned, hc.modeOk, (walked_readArea 10 s u s.ctx 0 0 bs hread).mem⟩
  case alone => exact hrft.trans (congrArg Host.Outcome.next (resumeM64_none _ (hc.susp.trans hsusp)))
  case goesOn =>
    obtain ⟨hinh', hiss⟩ := resumeM64_keeps { u with ctx := { c with inh := false, bseq := s.ctx.resumeSeq }, iss := { s.iss with rft := true } }
      (numAt bs 0x14 1)
    exact ⟨_, hrft, hinh', congrArg Iss.rft hiss⟩

end

/-! ## A trap whose cause no byte holds (R297, R298)

`TrapEntry` leaves the number of a cause open. The least cause of a boundary is capped at 0xFF (`leastCause`), so arbitration finds no trap
of that cause where the boundary's only one has a higher number, and the boundary takes none. -/

namespace Sys2Proof.Machine

/-- A context without a handler, alone on the device, whose boundary holds such a trap. -/
def wideCtx : Ctx := { live := true, compl := [{ cause := 0x100 }] }
def wideState : State := { State.reset with ctx := wideCtx }

/-- Its delivery changes nothing: the rank runs on. -/
theorem exec_trapDelivery_wideState : exec (.trapDelivery 0) wideState = .next wideState := rfl

end Sys2Proof.Machine

section
open Sys2Proof Sys2Proof.Machine

/-- Refutes O49: a completion trap of cause 0x100 at the boundary of a context with TVEC 0 ought to end the rank as unhandled, but is
never taken. -/
theorem not_trapEntry : ¬ Obligations.TrapEntry := by
  unfold Obligations.TrapEntry
  rintro ⟨-, hboundary⟩
  obtain ⟨htaken, -⟩ := hboundary wideState rfl (by decide) (by decide) rfl rfl
  obtain ⟨-, hunhandled⟩ := htaken { cause := 0x100 } (by decide) rfl (.inl ⟨rfl, rfl⟩)
  obtain ⟨t, ht, -, hended⟩ := hunhandled (.inl rfl) (fun x hx => nomatch hx)
  obtain rfl : wideState = t := Host.Outcome.next.inj (exec_trapDelivery_wideState.symm.trans ht)
  exact absurd (hended wideCtx (List.mem_cons_self ..) rfl rfl) (by decide)

end

/-! ## Ordering and the checks of an access -/

namespace Sys2Proof.Machine

/-! ### Fences, drain and pref (R175, R207 to R209, R260) -/

section
variable {s : State}

/-- A slot that orders writes waits behind a tcvt of its context, and goes on without one. -/
theorem finish_await_order (u : State) : finish s (do
    await (!s.tcvtOut) .order
    pure u) = .next (if s.tcvtOut then held s .order else u) := by
  cases s.tcvtOut <;> rfl

theorem exec_fence (k : BitVec 3) : exec (.fence k) s = .next (if s.tcvtOut then held s .order else s) := finish_await_order s

theorem exec_fenceRo (k : BitVec 3) : exec (.fenceRo k) s = .next (if s.tcvtOut then held s .order else s) := finish_await_order s

theorem exec_drain : exec .drain s = .next (if s.tcvtOut then held s .order else { s with iss := { s.iss with drains := true } }) :=
  finish_await_order _

theorem exec_pref {b : BitVec 6} {x : MIdx} {base off : Word} (hb : s.rdS b = .ok base) (hx : s.mdisp x = .ok off) :
    exec (.pref b x) s = .next (s.baseUpd (midxExt x).u b (base + off)) := by
  simp only [exec, execPref, State.maddr, hb, hx, both_ok, ok_bind]
  rfl

end

/-! ### The checks of a scalar access (R163) -/

/-- A chain of checks goes past one that passes. -/
theorem need_bind_pass {α : Type} {b : Bool} {t : Trap} {r : SlotR α} (h : b = true) : (need b t >>= fun _ => r) = r := by
  subst h
  rfl

/-- It ends with the trap of the first one that fails. -/
theorem need_bind_fail {α : Type} {b : Bool} {t : Trap} {r : SlotR α} (h : ¬ b = true) : (need b t >>= fun _ => r) = .error (.trap t) := by
  rw [Bool.not_eq_true] at h
  subst h
  rfl

/-- The alignment that a scalar access needs (R160 to R164). -/
def scalarAligned (a : Word) (n : Nat) : Bool := a.toNat % n == 0 && (!(selOf a == 0x20 || selOf a == 0x30) || n == 8)

theorem scalarAligned_iff (a : Word) (n : Nat) : scalarAligned a n = true ↔ a.toNat % n = 0 ∧ (selOf a = 0x20 ∨ selOf a = 0x30 → n = 8) := by
  unfold scalarAligned
  simp only [Bool.and_eq_true, Bool.or_eq_true, Bool.not_eq_true', Bool.or_eq_false_iff, beq_iff_eq, beq_eq_false_iff_ne]
  tauto

theorem pathOk_scalar {k : Acc} {sel : Nat} (hk : k ∈ [Acc.ld, Acc.st]) (h : pathOk k sel = true) : sel ≠ 0x12 ∧ sel ≠ 0x16 := by
  constructor <;>
  · rintro rfl
    revert h
    revert k
    decide

/-- A scalar access never is on a path of rows, so that its alignment is its own. -/
theorem issueCheck_scalar {s : State} {k : Acc} {a : Word} {n : Nat} (hk : k ∈ [Acc.ld, Acc.st]) (hpath : s.pathPass k (selOf a) = true) :
    s.issueCheck k a n = (do
      need (zeroBits a) { cause := 0x07, addr := a }
      need (selOf a != 0x30 || s.ctx.priv) { cause := 0x04, addr := a }
      need (scalarAligned a n) { cause := 0x09, addr := a }
      need (s.ctx.inBounds a) { cause := 0x0A, addr := a }) := by
  have hok : pathOk k (selOf a) = true := by
    unfold State.pathPass at hpath
    simp only [Bool.and_eq_true] at hpath
    exact hpath.1.1
  obtain ⟨hz, hr⟩ := pathOk_scalar hk hok
  have hal : (a.toNat % (if selOf a = 0x12 ∨ selOf a = 0x16 then 576 else if selOf a = 0x20 ∨ selOf a = 0x30 then 8 else n) == 0
      && !((selOf a == 0x20 || selOf a == 0x30) && n != 8)) = scalarAligned a n := by
    rw [if_neg (by tauto), Bool.eq_iff_iff, scalarAligned_iff]
    by_cases h : selOf a = 0x20 ∨ selOf a = 0x30
    · rw [if_pos h]
      have hsel : (selOf a == 0x20 || selOf a == 0x30) = true := by simpa using h
      simp only [hsel, Bool.true_and, Bool.and_eq_true, beq_iff_eq, Bool.not_eq_true', bne_eq_false_iff_eq]
      exact ⟨fun ⟨hm, hn⟩ => ⟨hn ▸ hm, fun _ => hn⟩, fun ⟨hm, hn⟩ => ⟨hn h ▸ hm, hn h⟩⟩
    · have hsel : (selOf a == 0x20 || selOf a == 0x30) = false := by simpa using h
      simp [hsel, h]
  unfold State.issueCheck
  simp only [if_neg hz, if_neg hr, hal]
  exact need_bind_pass hpath

end Sys2Proof.Machine

section
open Sys2Proof Sys2Proof.Machine

/-- Settles O42: the fences and drain are one wait, and pref is its address. -/
theorem orderingInstructions : Obligations.OrderingInstructions := by
  unfold Obligations.OrderingInstructions
  refine fun s => ⟨fun h => ?_, fun h => ?_, fun b x base off hb hx => exec_pref hb hx⟩
  all_goals
    refine ⟨fun k => (exec_fence k).trans ?_, fun k => (exec_fenceRo k).trans ?_, exec_drain.trans ?_⟩
    all_goals
      rw [h]
      rfl

end


section
open Sys2Proof Sys2Proof.Machine

/-- Settles O37, check by check: each passes the access on to the next or ends the chain with its trap. -/
theorem accessCheckOrder : Obligations.AccessCheckOrder := by
  unfold Obligations.AccessCheckOrder
  intro s k a n hk _
  have hprivIff : (selOf a != 0x30 || s.ctx.priv) = true ↔ (selOf a = 0x30 → s.ctx.priv = true) := by
    simp only [Bool.or_eq_true, bne_iff_ne]
    tauto
  refine ⟨fun hp => need_bind_fail hp, fun hp hz => ?_, fun hp hz hr => ?_, fun hp hz hr hl => ?_, fun hp hz hr hl hb => ?_, fun hp hz hr hl hb => ?_⟩
  all_goals rw [issueCheck_scalar hk hp]
  · exact need_bind_fail hz
  · rw [need_bind_pass hz]
    exact need_bind_fail (mt hprivIff.mp hr)
  · rw [need_bind_pass hz, need_bind_pass (hprivIff.mpr hr)]
    exact need_bind_fail (mt (scalarAligned_iff a n).mp hl)
  all_goals
    rw [need_bind_pass hz, need_bind_pass (hprivIff.mpr hr), need_bind_pass ((scalarAligned_iff a n).mpr hl), hb]
    rfl

end

/-! ## What a store writes -/

namespace Sys2Proof.Machine

/-! ### Bytes of a number -/

theorem getD_leBytes (n x i : Nat) (h : i < n) : (leBytes n x).getD i 0 = BitVec.ofNat 8 (x / 2 ^ (8 * i)) := by
  induction n generalizing x i with
  | zero => omega
  | succ n ih =>
    cases i with
    | zero => simp [leBytes]
    | succ i =>
      rw [leBytes, List.getD_cons_succ, ih (x / 256) i (by omega), Nat.div_div_eq_div_mul, Nat.mul_add, Nat.add_comm (8 * i), Nat.pow_add]

/-! ### Device memory (R26, R312) -/

/-- Bytes of a write that a lost stack may discard in part: those of lines that are not lost stand in memory. -/
theorem memByte_devPutGo_live (n : Nat) (s : State) (pa : Nat) (bs : List Byte) (j : Nat) (h : ∀ k, pa ≤ k → k < pa + bs.length → s.dead k = false)
    (hn : bs.length + pa % 2048 ≤ 2048 * n) :
    memByte (State.devPutGo n s pa bs).mem j = if pa ≤ j ∧ j < pa + bs.length then bs.getD (j - pa) 0 else memByte s.mem j := by
  induction n generalizing s pa bs with
  | zero => rw [State.devPutGo, if_neg (by omega)]
  | succ n ih =>
    unfold State.devPutGo
    have hrest (t : State) (ht : t.dead = s.dead) := ih t (pa + (2048 - pa % 2048)) (bs.drop (2048 - pa % 2048))
      (fun k hk hl => by rw [List.length_drop] at hl; exact ht ▸ h k (by omega) (by omega)) (by rw [List.length_drop]; omega)
    simp only
    by_cases hbs : bs.length = 0
    · rw [List.length_eq_zero_iff] at hbs
      subst hbs
      have hmem : ∀ k, memByte (if s.dead pa = true then s else { s with mem := memWrite s.mem pa (List.take (2048 - pa % 2048) []) }).mem k
          = memByte s.mem k := fun k => by
        split
        · rfl
        · rw [memByte_memWrite, if_neg (by simp)]
      rw [hrest _ (by split <;> rfl), List.drop_nil, hmem, if_neg (by simp), if_neg (by simp)]
    · rw [if_neg (by rw [h pa (by omega) (by omega)]; decide), hrest { s with mem := memWrite s.mem pa (bs.take (2048 - pa % 2048)) } rfl,
        memByte_memWrite, List.length_drop, List.length_take]
      by_cases h1 : pa + (2048 - pa % 2048) ≤ j
      · rw [if_neg (c := pa ≤ j ∧ _) (by omega)]
        by_cases h2 : j < pa + bs.length
        · rw [if_pos (by omega), if_pos (by omega), List.getD_eq_getElem?_getD, List.getElem?_drop, List.getD_eq_getElem?_getD,
            show 2048 - pa % 2048 + (j - (pa + (2048 - pa % 2048))) = j - pa by omega]
        · rw [if_neg (by omega), if_neg (by omega)]
      · rw [if_neg (by omega)]
        by_cases h2 : pa ≤ j ∧ j < pa + bs.length
        · rw [if_pos (by omega), if_pos h2, List.getD_eq_getElem?_getD, List.getElem?_take_of_lt (by omega), List.getD_eq_getElem?_getD]
        · rw [if_neg (by omega), if_neg h2]

/-- Whatever is lost, no byte outside the write changes. -/
theorem memByte_devPutGo_out (n : Nat) (s : State) (pa : Nat) (bs : List Byte) (j : Nat) (h : ¬ (pa ≤ j ∧ j < pa + bs.length)) :
    memByte (State.devPutGo n s pa bs).mem j = memByte s.mem j := by
  induction n generalizing s pa bs with
  | zero => rfl
  | succ n ih =>
    unfold State.devPutGo
    simp only
    refine (ih _ _ _ (by rw [List.length_drop]; omega)).trans ?_
    split
    · rfl
    · rw [memByte_memWrite, List.length_take, if_neg (by omega)]

theorem memByte_devPut_live (s : State) (pa : Nat) (bs : List Byte) (j : Nat) (h : ∀ k, pa ≤ k → k < pa + bs.length → s.dead k = false) :
    memByte (s.devPut pa bs).mem j = if pa ≤ j ∧ j < pa + bs.length then bs.getD (j - pa) 0 else memByte s.mem j :=
  memByte_devPutGo_live _ s pa bs j h (by omega)

theorem memByte_devPut_out (s : State) (pa : Nat) (bs : List Byte) (j : Nat) (h : ¬ (pa ≤ j ∧ j < pa + bs.length)) :
    memByte (s.devPut pa bs).mem j = memByte s.mem j := memByte_devPutGo_out _ s pa bs j h

/-- A launch's write of device memory: to its shadow, which leaves memory as it is, or to memory itself. -/
theorem devWrite_shadow {s : State} {arr pa : Nat} (bs : List Byte) (h : (s.shadow? arr pa).isNone = false) :
    ∃ hs, s.devWrite arr pa bs = { s with shadows := hs } := by
  cases hsh : s.shadow? arr pa with
  | none => simp [hsh] at h
  | some k => exact ⟨_, by unfold State.devWrite; rw [hsh]⟩

theorem devWrite_dev {s : State} {arr pa : Nat} (bs : List Byte) (hpa : pa < peerBase) (h : (s.shadow? arr pa).isNone = true) :
    s.devWrite arr pa bs = s.devPut pa bs := by
  unfold State.devWrite
  rw [Option.isNone_iff_eq_none.mp h]
  exact if_pos hpa

theorem devWrite_peer {s : State} {arr k : Nat} (bs : List Byte) (h : (s.shadow? arr (peerBase + k)).isNone = true) :
    s.devWrite arr (peerBase + k) bs = { s with peer := memWrite s.peer k bs } := by
  unfold State.devWrite
  rw [Option.isNone_iff_eq_none.mp h]
  simp only
  rw [if_neg (by omega), Nat.add_sub_cancel_left]

/-! ### Buffers (R342, R348) -/

/-- `t` is `s` but for the contents of the core buffers and their marks. -/
def BufOnly (s t : State) : Prop := { t with wbuf := s.wbuf, abuf := s.abuf, sbuf := s.sbuf, pbuf := s.pbuf } = s

theorem BufOnly.trans {s t u : State} (h : BufOnly s t) (k : BufOnly t u) : BufOnly s u :=
  calc ({ u with wbuf := s.wbuf, abuf := s.abuf, sbuf := s.sbuf, pbuf := s.pbuf } : State)
      = { ({ u with wbuf := t.wbuf, abuf := t.abuf, sbuf := t.sbuf, pbuf := t.pbuf } : State) with
          wbuf := s.wbuf, abuf := s.abuf, sbuf := s.sbuf, pbuf := s.pbuf } := rfl
    _ = { t with wbuf := s.wbuf, abuf := s.abuf, sbuf := s.sbuf, pbuf := s.pbuf } := by rw [show _ = t from k]
    _ = s := h

theorem bufOnly_putBuf (s : State) (b k : Nat) (bs : List Byte) : BufOnly s (s.putBuf b k bs) := by
  unfold BufOnly State.putBuf State.setBuf
  split
  · rfl
  · split <;> rfl

theorem bufMem_putBuf (s : State) (b k : Nat) (bs : List Byte) : (s.putBuf b k bs).bufMem b = memWrite (s.bufMem b) k bs := by
  unfold State.putBuf State.setBuf State.bufMem
  split
  · rfl
  · split <;> rfl

theorem memByte_putBuf (s : State) (b k : Nat) (bs : List Byte) (j : Nat) :
    memByte ((s.putBuf b k bs).bufMem b) j = if k ≤ j ∧ j < k + bs.length then bs.getD (j - k) 0 else memByte (s.bufMem b) j := by
  rw [bufMem_putBuf, memByte_memWrite]

theorem bufOnly_putSegs (s : State) (b : Nat) (segs : List (Nat × Nat)) (bs : List Byte) : BufOnly s (s.putSegs b segs bs) := by
  induction segs generalizing s bs with
  | nil => rfl
  | cons x xs ih => exact (bufOnly_putBuf s b x.1 _).trans (ih _ _)

theorem segKeys_cons (x : Nat × Nat) (xs : List (Nat × Nat)) : segKeys (x :: xs) = (List.range x.2).map (fun i => x.1 + i) ++ segKeys xs := rfl

/-- Bytes over pieces of a buffer leave every other byte as it was. -/
theorem memByte_putSegs_out (s : State) (b : Nat) (segs : List (Nat × Nat)) (bs : List Byte) (j : Nat) (h : j ∉ segKeys segs) :
    memByte ((s.putSegs b segs bs).bufMem b) j = memByte (s.bufMem b) j := by
  induction segs generalizing s bs with
  | nil => rfl
  | cons x xs ih =>
    rw [segKeys_cons, List.mem_append, List.mem_map, not_or] at h
    refine (ih _ _ h.2).trans ?_
    rw [memByte_putBuf, List.length_take, if_neg]
    exact fun hj => h.1 ⟨j - x.1, List.mem_range.mpr (by omega), by omega⟩

/-- Where no two of the pieces overlap, each byte stands at its key. -/
theorem memByte_putSegs_in (s : State) (b : Nat) (segs : List (Nat × Nat)) (bs : List Byte) (h : (segKeys segs).Nodup) :
    ∀ p ∈ (segKeys segs).zip bs, memByte ((s.putSegs b segs bs).bufMem b) p.1 = p.2 := by
  induction segs generalizing s bs with
  | nil => exact fun p hp => nomatch hp
  | cons x xs ih =>
    rw [segKeys_cons, List.nodup_append] at h
    obtain ⟨-, hxs, hdisj⟩ := h
    intro p hp
    obtain ⟨i, hi⟩ := List.mem_iff_getElem?.mp hp
    rw [List.getElem?_zip_eq_some, segKeys_cons, List.getElem?_append] at hi
    obtain ⟨hkey, hbyte⟩ := hi
    rw [List.length_map, List.length_range] at hkey
    split at hkey
    · next hlt =>
      rw [List.getElem?_map, List.getElem?_range hlt, Option.map_some, Option.some_inj] at hkey
      have hhead : p.1 ∉ segKeys xs := fun hm => hdisj _ (List.mem_map.mpr ⟨i, List.mem_range.mpr hlt, rfl⟩) _ (hkey.symm ▸ hm) rfl
      obtain ⟨hlen, hget⟩ := List.getElem?_eq_some_iff.mp hbyte
      refine (memByte_putSegs_out _ b xs _ _ hhead).trans ?_
      rw [memByte_putBuf, List.length_take, if_pos (by omega), ← hkey, Nat.add_sub_cancel_left, List.getD_eq_getElem?_getD,
        List.getElem?_take_of_lt hlt, hbyte, Option.getD_some]
    · next hge =>
      refine ih _ _ hxs p (List.mem_iff_getElem?.mpr ⟨i - x.2, List.getElem?_zip_eq_some.mpr ⟨hkey, ?_⟩⟩)
      rw [List.getElem?_drop, Nat.add_sub_cancel' (by omega), hbyte]

end Sys2Proof.Machine

/-! ## Scalar stores -/

namespace Sys2Proof.Machine

/-! ### The place of a store (R160 to R164, R194, R312) -/

/-- What making ready for a store leaves as it is, whatever it does to device memory, the TLBs and the shadows. -/
structure Begun (s t : State) : Prop where
  ctx : t.ctx = s.ctx
  iss : t.iss = s.iss
  rows : t.rows = s.rows
  host : t.host = s.host
  peer : t.peer = s.peer
  wbuf : t.wbuf = s.wbuf
  abuf : t.abuf = s.abuf
  sbuf : t.sbuf = s.sbuf

theorem Begun.refl (s : State) : Begun s s := ⟨rfl, rfl, rfl, rfl, rfl, rfl, rfl, rfl⟩

theorem Begun.trans {s t u : State} (h : Begun s t) (k : Begun t u) : Begun s u :=
  ⟨k.ctx.trans h.ctx, k.iss.trans h.iss, k.rows.trans h.rows, k.host.trans h.host, k.peer.trans h.peer, k.wbuf.trans h.wbuf,
    k.abuf.trans h.abuf, k.sbuf.trans h.sbuf⟩

theorem Frame.begun {L : List Nat} {s t : State} (h : Frame L s t) : Begun s t :=
  ⟨h.ctx, (congrArg State.iss h.rest : _), h.rows, (congrArg State.host h.rest : _), (congrArg State.peer h.rest : _),
    (congrArg State.wbuf h.rest : _), (congrArg State.abuf h.rest : _), (congrArg State.sbuf h.rest : _)⟩

theorem Walked.begun {s t : State} (h : Walked s t) : Begun s t :=
  ⟨h.ctx, h.iss, h.rows, h.host, h.peer, h.wbuf, h.abuf, h.sbuf⟩

theorem frame_touchLeaf (s : State) (c : Ctx) (e : Option TlbEnt) (wr : Bool) : Frame [] s (s.touchLeaf c e wr) := by
  unfold State.touchLeaf
  split
  · split
    · split
      · exact frame_touch s _ wr
      · exact Frame.refl _ s
    · exact Frame.refl _ s
  · exact Frame.refl _ s

theorem begun_touched (s : State) (c : Ctx) (e : Option TlbEnt) (wr : Bool) : Begun s (s.touched c e wr) := by
  cases e with
  | none => exact Begun.refl s
  | some k => exact (frame_touchLeaf s c (some k) wr).begun.trans (walked_cache _ k).begun

theorem begun_takeShadow {s t : State} {arr pa : Nat} (h : s.takeShadow arr pa = some t) : Begun s t := by
  unfold State.takeShadow at h
  split at h
  · cases h
    exact Begun.refl s
  · simp only at h
    split at h
    · cases h
    · next l _ =>
      obtain ⟨u, hu, rfl⟩ := Option.map_eq_some_iff.mp h
      have hb := (frame_chargeOwn s u l _ hu).begun
      exact ⟨hb.ctx, hb.iss, hb.rows, hb.host, hb.peer, hb.wbuf, hb.abuf, hb.sbuf⟩

theorem begun_shadowFor {s t : State} {arr : Nat} {p : Place} (h : s.shadowFor arr p = some t) : Begun s t := by
  unfold State.shadowFor at h
  split at h
  · cases h
    exact Begun.refl s
  · split at h
    · exact begun_takeShadow h
    · exact begun_takeShadow h
    · cases h
      exact Begun.refl s

/-- A store's place is that of its address; its translation and its shadow are made by then. -/
theorem storePlace_ok {s t : State} {a : Word} {p : Place} (h : s.storePlace a = .ok (t, p)) :
    ∃ e, s.place s.ctx a true = .ok (p, e) ∧ (s.touched s.ctx e true).shadowFor s.ctx.arr p = some t := by
  unfold State.storePlace at h
  split at h
  · cases h
  · next q e hplace =>
    simp only at h
    split at h
    · next u hu =>
      cases h
      exact ⟨e, hplace, hu⟩
    · cases h

theorem begun_storePlace {s t : State} {a : Word} {p : Place} (h : s.storePlace a = .ok (t, p)) : Begun s t := by
  obtain ⟨e, -, ht⟩ := storePlace_ok h
  exact (begun_touched s s.ctx e true).trans (begun_shadowFor ht)

/-- What an address names, by its path, and whether a leaf translated it (R160 to R164). -/
inductive PlaceOf (a : Word) : Place → Option TlbEnt → Prop where
  | dev (pa : Nat) (e : TlbEnt) (h : pa < peerBase) : PlaceOf a (.dev pa) (some e)
  | host (pa : Nat) (e : TlbEnt) : PlaceOf a (.host pa) (some e)
  | peer (k : Nat) (e : TlbEnt) : PlaceOf a (.peer k) (some e)
  | buf (b k : Nat) : PlaceOf a (.buf b k) none
  | span (b k lo n base : Nat) : PlaceOf a (.span b k lo n base) none
  | row (core r o : Nat) (h : selOf a = 0x12 ∨ selOf a = 0x16) : PlaceOf a (.row core r o) none
  | wake (q : Nat) : PlaceOf a (.wake q) none
  | ctl (o : Nat) (h : 0x17 < selOf a) (h20 : selOf a ≠ 0x20) : PlaceOf a (.ctl o) none

/-- A leaf for device memory gives an address within the device. -/
theorem translate_lt {s : State} {c : Ctx} {sel va pa : Nat} {wr ex : Bool} {k : TlbEnt} (h2 : sel ≠ 2) (h3 : sel ≠ 3)
    (h : s.translate c sel va wr ex = .ok (pa, k)) : pa < peerBase := by
  have hsize : s.devSize < 2 ^ 64 := (s.reg 0x600020).isLt
  unfold State.translate at h
  split at h
  · cases h
  · next e _ =>
    split at h
    · cases h
    · next q hu =>
      cases h
      unfold TlbEnt.use at hu
      simp only [if_neg h2, if_neg h3] at hu
      split at hu
      · cases hu
      · split at hu
        · cases hu
        · split at hu
          · cases hu
          · next htgt =>
            split at hu
            · cases hu
            · next hlt =>
              cases hu
              simp only [bne_iff_ne, ne_eq, Decidable.not_not] at htgt
              simp only [htgt, beq_self_eq_true, Bool.true_and, decide_eq_true_eq] at hlt
              unfold peerBase
              omega

theorem placeOf_bufPlace (a : Word) (c : Ctx) (b o : Nat) : PlaceOf a (c.bufPlace b o) none := by
  unfold Ctx.bufPlace
  split
  · split
    · exact .span _ _ _ _ _
    · exact .buf _ _
  · exact .buf _ _

theorem placeOf_place {s : State} {c : Ctx} {a : Word} {wr : Bool} {p : Place} {e : Option TlbEnt} (h : s.place c a wr = .ok (p, e)) :
    PlaceOf a p e := by
  unfold State.place at h
  simp only at h
  split at h
  · split at h
    · cases h
    · next pa k ht =>
      split at h
      · cases h
        exact .host _ _
      · next h2 =>
        split at h
        · cases h
          exact .peer _ _
        · next h3 =>
          cases h
          exact .dev _ _ (translate_lt h2 h3 ht)
  · split at h
    · next h12 =>
      cases h
      exact .row _ _ _ (.inl h12)
    · split at h
      · split at h
        · cases h
          exact placeOf_bufPlace _ _ _ _
        · split at h
          · cases h
          · split at h
            · cases h
            · next pa k ht =>
              cases h
              exact .dev _ _ (translate_lt (by decide) (by decide) ht)
      · split at h
        · split at h
          · cases h
          · split at h
            · next h16 =>
              split at h
              · cases h
                exact .row _ _ _ (.inr h16)
              · cases h
            · split at h
              · cases h
                exact placeOf_bufPlace _ _ _ _
              · cases h
        · next h17 =>
          split at h
          · cases h
            exact .wake _
          · next h20 =>
            cases h
            exact .ctl _ (by omega) h20

theorem placeOf_storePlace {s t : State} {a : Word} {p : Place} (h : s.storePlace a = .ok (t, p)) : ∃ e, PlaceOf a p e := by
  obtain ⟨e, hplace, -⟩ := storePlace_ok h
  exact ⟨e, placeOf_place hplace⟩

/-- A place outside the memories that are reached by translation. -/
def Place.near : Place → Bool
  | .dev _ => false
  | .host _ => false
  | .peer _ => false
  | _ => true

/-- To a place that no translation gives, a store goes from the state as it is. -/
theorem storePlace_near {s t : State} {a : Word} {p : Place} (h : s.storePlace a = .ok (t, p)) (hp : p.near = true) : t = s := by
  obtain ⟨e, hplace, ht⟩ := storePlace_ok h
  have hnone : e = none := by
    cases placeOf_place hplace with
    | dev | host | peer => cases hp
    | _ => rfl
  rw [hnone] at ht
  unfold State.shadowFor at ht
  split at ht
  · exact (Option.some.inj ht).symm
  · cases p with
    | dev | host | peer => cases hp
    | _ => exact (Option.some.inj ht).symm

end Sys2Proof.Machine

namespace Sys2Proof.Machine

/-! ### A scalar store to each kind of place (R177, R192, R194, R197) -/

/-- A place of bytes that a store writes without more: no Z row and no control register. -/
def Place.bytes : Place → Bool
  | .row _ _ _ => false
  | .ctl _ => false
  | _ => true

theorem storeElem_bytes {s : State} {a : Word} {p : Place} (bs : List Byte) (sc : Bool) (hp : p.bytes = true) (hfar : s.farFails s.ctx.arr p false = false) :
    ∃ w, s.storeElem a p bs sc = .ok (((s.farUse p).writePlace s.ctx.arr p bs).watchTrap a w) := by
  unfold State.storeElem
  simp only [hfar, Bool.false_eq_true, if_false]
  cases p with
  | row | ctl => cases hp
  | _ => exact ⟨_, rfl⟩

theorem storeElem_ctl {s u : State} {a : Word} {o : Nat} {bs : List Byte} (sc : Bool) (h : s.ctlWrite o (BitVec.ofNat 64 (leNat bs)) = .ok u) :
    ∃ w, s.storeElem a (.ctl o) bs sc = .ok (u.watchTrap a w) := by
  unfold State.storeElem
  simp only [State.farFails, h, Bool.false_eq_true, if_false]
  exact ⟨_, rfl⟩

/-- A watch trap and a base update are notes of the issue. -/
theorem watched_updated (s : State) (a b : Word) (w : Nat) (u : Bool) (r : BitVec 6) :
    ∃ i, (s.watchTrap a w).baseUpd u r b = { s with iss := i } ∧ i.out = (s.baseUpd u r b).iss.out := by
  unfold State.watchTrap
  by_cases hw : w = 0
  · rw [if_pos hw]
    cases u <;> exact ⟨_, rfl, rfl⟩
  · rw [if_neg hw]
    cases u <;> exact ⟨_, rfl, rfl⟩

theorem out_baseUpd {s t : State} (u : Bool) (r : BitVec 6) (b : Word) (hctx : t.ctx = s.ctx) (hiss : t.iss = s.iss) :
    (t.baseUpd u r b).iss.out = (s.baseUpd u r b).iss.out := by
  cases u
  · exact congrArg Iss.out hiss
  · simp only [State.baseUpd, State.postS, State.post, State.pend, if_true, hctx, hiss]

section
variable {s s1 : State} {v b : BitVec 6} {x : MIdx} {y base off : Word} {p : Place} {n : Nat}
  (hv : s.rdS v = .ok y) (hb : s.rdS b = .ok base) (hx : s.mdisp x = .ok off) (hcheck : s.issueCheck .st (base + off) n = .ok ())
  (hroom : s.room (s.ctx.asks (base + off)) = true) (hhold : s.storeHold (base + off) n = .ok ()) (hplace : s.storePlace (base + off) = .ok (s1, p))
include hv hb hx hcheck hroom hhold hplace

theorem storeS_ok {t : State} (h : s1.storeElem (base + off) p (leBytes n y.toNat) true = .ok t) :
    storeS s v b x n = .next (t.baseUpd (midxExt x).u b (base + off)) := by
  simp only [storeS, hv, hb, hx, both_ok, ok_bind, hcheck, hroom, await_true, hhold, hplace, h, finish_pure]

/-- What a store does where nothing refuses it: the write of its place, and notes of the issue. -/
theorem storeS_bytes (hp : p.bytes = true) (hfar : s1.farFails s.ctx.arr p false = false)
    (hctx : ((s1.farUse p).writePlace s.ctx.arr p (leBytes n y.toNat)).ctx = s.ctx)
    (hiss : ((s1.farUse p).writePlace s.ctx.arr p (leBytes n y.toNat)).iss = s.iss) :
    ∃ i, storeS s v b x n = .next { (s1.farUse p).writePlace s.ctx.arr p (leBytes n y.toNat) with iss := i }
      ∧ i.out = (s.baseUpd (midxExt x).u b (base + off)).iss.out := by
  have hctx1 := (begun_storePlace hplace).ctx
  obtain ⟨w, hw⟩ := storeElem_bytes (a := base + off) (leBytes n y.toNat) true hp (hctx1 ▸ hfar)
  rw [hctx1] at hw
  obtain ⟨i, hi, hout⟩ := watched_updated ((s1.farUse p).writePlace s.ctx.arr p (leBytes n y.toNat)) (base + off) (base + off) w (midxExt x).u b
  exact ⟨i, (storeS_ok hv hb hx hcheck hroom hhold hplace hw).trans (congrArg _ hi), hout.trans (out_baseUpd _ _ _ hctx hiss)⟩

theorem storeS_dev {pa : Nat} (hp : p = .dev pa) (hlive : ∀ j, pa ≤ j → j < pa + n → s1.dead j = false) :
    ∃ t, storeS s v b x n = .next t ∧ t.ctx = s.ctx ∧ t.rows = s.rows ∧ t.host = s.host ∧ t.peer = s.peer ∧ t.wbuf = s.wbuf ∧ t.abuf = s.abuf
      ∧ t.sbuf = s.sbuf ∧ t.iss.out = (s.baseUpd (midxExt x).u b (base + off)).iss.out
      ∧ ∀ j, memByte t.mem j = if (s1.shadow? s.ctx.arr pa).isNone ∧ pa ≤ j ∧ j < pa + n then BitVec.ofNat 8 (y.toNat / 2 ^ (8 * (j - pa)))
          else memByte s1.mem j := by
  subst hp
  have hbegun := begun_storePlace hplace
  obtain ⟨e, hof⟩ := placeOf_storePlace hplace
  have hpa : pa < peerBase := by
    cases hof with
    | dev _ _ h => exact h
  have hwrite : Begun s1 (s1.devWrite s.ctx.arr pa (leBytes n y.toNat))
      ∧ ∀ j, memByte (s1.devWrite s.ctx.arr pa (leBytes n y.toNat)).mem j
        = if (s1.shadow? s.ctx.arr pa).isNone ∧ pa ≤ j ∧ j < pa + n then BitVec.ofNat 8 (y.toNat / 2 ^ (8 * (j - pa))) else memByte s1.mem j := by
    cases hsh : (s1.shadow? s.ctx.arr pa).isNone with
    | false =>
      obtain ⟨hs, heq⟩ := devWrite_shadow (leBytes n y.toNat) hsh
      rw [heq]
      exact ⟨⟨rfl, rfl, rfl, rfl, rfl, rfl, rfl, rfl⟩, fun j => by rw [if_neg (by simp)]⟩
    | true =>
      rw [devWrite_dev _ hpa hsh]
      refine ⟨(frame_devPut s1 pa _).begun, fun j => ?_⟩
      rw [memByte_devPut_live s1 pa _ j (by rw [length_leBytes]; exact hlive), length_leBytes]
      by_cases hj : pa ≤ j ∧ j < pa + n
      · rw [if_pos hj, if_pos ⟨rfl, hj⟩, getD_leBytes _ _ _ (by omega)]
      · rw [if_neg hj, if_neg (fun h => hj h.2)]
  obtain ⟨hw, hmem⟩ := hwrite
  have hall := hbegun.trans hw
  obtain ⟨i, hexec, hout⟩ := storeS_bytes hv hb hx hcheck hroom hhold hplace rfl rfl hall.ctx hall.iss
  exact ⟨_, hexec, hall.ctx, hall.rows, hall.host, hall.peer, hall.wbuf, hall.abuf, hall.sbuf, hout, hmem⟩

theorem storeS_host {pa : Nat} (hp : p = .host pa) :
    ∃ t, storeS s v b x n = .next t ∧ t.ctx = s.ctx ∧ t.rows = s.rows ∧ t.mem = s1.mem ∧ t.peer = s.peer ∧ t.wbuf = s.wbuf ∧ t.abuf = s.abuf
      ∧ t.sbuf = s.sbuf ∧ t.iss.out = (s.baseUpd (midxExt x).u b (base + off)).iss.out
      ∧ ∀ j, memByte t.host j = if pa ≤ j ∧ j < pa + n then BitVec.ofNat 8 (y.toNat / 2 ^ (8 * (j - pa))) else memByte s.host j := by
  subst hp
  have h := begun_storePlace hplace
  obtain ⟨i, hexec, hout⟩ := storeS_bytes hv hb hx hcheck hroom hhold hplace rfl rfl h.ctx h.iss
  refine ⟨_, hexec, h.ctx, h.rows, rfl, h.peer, h.wbuf, h.abuf, h.sbuf, hout, fun j => ?_⟩
  refine (memByte_memWrite s1.host pa _ j).trans ?_
  rw [length_leBytes, h.host]
  by_cases hj : pa ≤ j ∧ j < pa + n
  · rw [if_pos hj, if_pos hj, getD_leBytes _ _ _ (by omega)]
  · rw [if_neg hj, if_neg hj]

theorem storeS_peer {k : Nat} (hp : p = .peer k) (hfar : s1.farFails s.ctx.arr p false = false) :
    ∃ t, storeS s v b x n = .next t ∧ t.ctx = s.ctx ∧ t.rows = s.rows ∧ t.mem = s1.mem ∧ t.host = s.host
      ∧ t.iss.out = (s.baseUpd (midxExt x).u b (base + off)).iss.out
      ∧ ∀ j, memByte t.peer j = if (s1.shadow? s.ctx.arr (peerBase + k)).isNone ∧ k ≤ j ∧ j < k + n then BitVec.ofNat 8 (y.toNat / 2 ^ (8 * (j - k)))
          else memByte s.peer j := by
  subst hp
  have h := begun_storePlace hplace
  have hwrite : ∃ hs m, (s1.farUse (.peer k)).writePlace s.ctx.arr (.peer k) (leBytes n y.toNat)
        = { s1 with free := s1.free + 1, shadows := hs, peer := m }
      ∧ ∀ j, memByte m j = if (s1.shadow? s.ctx.arr (peerBase + k)).isNone ∧ k ≤ j ∧ j < k + n then BitVec.ofNat 8 (y.toNat / 2 ^ (8 * (j - k)))
          else memByte s1.peer j := by
    cases hsh : (s1.shadow? s.ctx.arr (peerBase + k)).isNone with
    | false =>
      obtain ⟨hs, heq⟩ := devWrite_shadow (s := { s1 with free := s1.free + 1 }) (leBytes n y.toNat) hsh
      exact ⟨hs, s1.peer, heq, fun j => by rw [if_neg (by simp)]⟩
    | true =>
      refine ⟨s1.shadows, memWrite s1.peer k (leBytes n y.toNat), devWrite_peer (s := { s1 with free := s1.free + 1 }) _ hsh, fun j => ?_⟩
      rw [memByte_memWrite, length_leBytes]
      by_cases hj : k ≤ j ∧ j < k + n
      · rw [if_pos hj, if_pos ⟨rfl, hj⟩, getD_leBytes _ _ _ (by omega)]
      · rw [if_neg hj, if_neg (fun h => hj h.2)]
  obtain ⟨hs, m, heq, hm⟩ := hwrite
  obtain ⟨i, hexec, hout⟩ := storeS_bytes hv hb hx hcheck hroom hhold hplace rfl hfar (by rw [heq]; exact h.ctx) (by rw [heq]; exact h.iss)
  rw [heq] at hexec
  refine ⟨_, hexec, h.ctx, h.rows, rfl, h.host, hout, fun j => ?_⟩
  rw [← h.peer]
  exact hm j

theorem storeS_wake {q : Nat} (hp : p = .wake q) (hn : n ≤ 8) :
    ∃ t, storeS s v b x n = .next t ∧ t.ctx = s.ctx ∧ t.rows = s.rows ∧ t.mem = s.mem
      ∧ (tabGet 0 t.wake q).toNat = max (tabGet 0 s.wake q).toNat (y.toNat % 2 ^ (8 * n)) ∧ ∀ r, r ≠ q → tabGet 0 t.wake r = tabGet 0 s.wake r := by
  subst hp
  obtain rfl := storePlace_near hplace rfl
  obtain ⟨i, hexec, -⟩ := storeS_bytes hv hb hx hcheck hroom hhold hplace rfl rfl rfl rfl
  refine ⟨_, hexec, rfl, rfl, rfl, ?_, fun r hr => tabGet_tabSet_other 0 _ _ _ _ hr⟩
  have hval : (BitVec.ofNat 64 (leNat (leBytes n y.toNat))).toNat = y.toNat % 2 ^ (8 * n) := by
    rw [leNat_leBytes, BitVec.toNat_ofNat, Nat.mod_eq_of_lt]
    exact (Nat.mod_lt _ (Nat.two_pow_pos _)).trans_le (Nat.pow_le_pow_right (by decide) (by omega))
  refine (congrArg BitVec.toNat (tabGet_tabSet_same 0 s1.wake q _)).trans ?_
  rw [apply_ite BitVec.toNat, hval, show (s1.farUse (.wake q)).wake = s1.wake from rfl]
  split <;> omega

theorem storeS_buf {k c : Nat} (hp : p = .buf k c) :
    ∃ t, storeS s v b x n = .next t ∧ t.ctx = s.ctx ∧ t.rows = s.rows ∧ t.mem = s.mem ∧ t.host = s.host ∧ t.peer = s.peer
      ∧ t.iss.out = (s.baseUpd (midxExt x).u b (base + off)).iss.out
      ∧ ∀ j, memByte (t.bufMem k) j = if c ≤ j ∧ j < c + n then BitVec.ofNat 8 (y.toNat / 2 ^ (8 * (j - c))) else memByte (s.bufMem k) j := by
  subst hp
  obtain rfl := storePlace_near hplace rfl
  have hbuf := bufOnly_putBuf s1 k c (leBytes n y.toNat)
  obtain ⟨i, hexec, hout⟩ := storeS_bytes hv hb hx hcheck hroom hhold hplace rfl rfl (congrArg State.ctx hbuf :) (congrArg State.iss hbuf :)
  refine ⟨_, hexec, (congrArg State.ctx hbuf :), (congrArg State.rows hbuf :), (congrArg State.mem hbuf :), (congrArg State.host hbuf :),
    (congrArg State.peer hbuf :), hout, fun j => ?_⟩
  refine (memByte_putBuf s1 k c _ j).trans ?_
  rw [length_leBytes]
  by_cases hj : c ≤ j ∧ j < c + n
  · rw [if_pos hj, if_pos hj, getD_leBytes _ _ _ (by omega)]
  · rw [if_neg hj, if_neg hj]

/-- In a fused task the bytes of C's port region stand in P's window (R342). -/
theorem storeS_span {k c lo len at0 : Nat} (hp : p = .span k c lo len at0)
    (hinj : ∀ i j, i < n → j < n → spanKey lo len at0 (c + i) = spanKey lo len at0 (c + j) → i = j) :
    ∃ t, storeS s v b x n = .next t ∧ t.ctx = s.ctx ∧ t.rows = s.rows ∧ t.mem = s.mem ∧ t.host = s.host ∧ t.peer = s.peer
      ∧ t.iss.out = (s.baseUpd (midxExt x).u b (base + off)).iss.out
      ∧ (∀ i, i < n → memByte (t.bufMem k) (spanKey lo len at0 (c + i)) = BitVec.ofNat 8 (y.toNat / 2 ^ (8 * i)))
      ∧ ∀ j, (∀ i, i < n → j ≠ spanKey lo len at0 (c + i)) → memByte (t.bufMem k) j = memByte (s.bufMem k) j := by
  subst hp
  obtain rfl := storePlace_near hplace rfl
  have hbuf := bufOnly_putSegs s1 k (spanSegs c (leBytes n y.toNat).length lo len at0) (leBytes n y.toNat)
  have hkeys := segKeys_spanSegs c n lo len at0
  obtain ⟨i, hexec, hout⟩ := storeS_bytes hv hb hx hcheck hroom hhold hplace rfl rfl (congrArg State.ctx hbuf :) (congrArg State.iss hbuf :)
  refine ⟨_, hexec, (congrArg State.ctx hbuf :), (congrArg State.rows hbuf :), (congrArg State.mem hbuf :), (congrArg State.host hbuf :),
    (congrArg State.peer hbuf :), hout, fun i hi => ?_, fun j hj => ?_⟩
  · have hnodup : (segKeys (spanSegs c (leBytes n y.toNat).length lo len at0)).Nodup := by
      rw [length_leBytes, hkeys]
      exact List.nodup_range.map_on fun i hi j hj => hinj i j (List.mem_range.mp hi) (List.mem_range.mp hj)
    refine memByte_putSegs_in s1 k _ (leBytes n y.toNat) hnodup (_, _) (List.mem_iff_getElem?.mpr ⟨i, ?_⟩)
    rw [List.getElem?_zip_eq_some, length_leBytes, hkeys, List.getElem?_map, List.getElem?_range hi]
    refine ⟨rfl, ?_⟩
    rw [List.getElem?_eq_getElem (by rw [length_leBytes]; exact hi), ← List.getD_eq_getElem _ 0, getD_leBytes _ _ _ hi]
    rfl
  · refine memByte_putSegs_out s1 k _ _ j ?_
    rw [length_leBytes, hkeys, List.mem_map]
    rintro ⟨i, hi, rfl⟩
    exact hj i (List.mem_range.mp hi) rfl

/-- A store to a control register is a doubleword (R163). -/
theorem storeS_ctl {o : Nat} {u : State} (hp : p = .ctl o) (hu : s1.ctlWrite o y = .ok u) :
    ∃ w, storeS s v b x n = .next ((u.watchTrap (base + off) w).baseUpd (midxExt x).u b (base + off)) := by
  subst hp
  have hn : n = 8 := by
    obtain ⟨e, hof⟩ := placeOf_storePlace hplace
    obtain ⟨h17, h20⟩ : 0x17 < selOf (base + off) ∧ selOf (base + off) ≠ 0x20 := by
      cases hof with
      | ctl _ h17 h20 => exact ⟨h17, h20⟩
    have hpass : s.pathPass .st (selOf (base + off)) = true := by
      obtain ⟨_, hneed, _⟩ := bind_ok _ _ _ hcheck
      exact need_ok hneed
    rw [issueCheck_scalar (by decide) hpass] at hcheck
    obtain ⟨-, -, hcheck⟩ := bind_ok _ _ _ hcheck
    obtain ⟨-, -, hcheck⟩ := bind_ok _ _ _ hcheck
    obtain ⟨_, hneed, _⟩ := bind_ok _ _ _ hcheck
    refine ((scalarAligned_iff _ _).mp (need_ok hneed)).2 (.inr ?_)
    unfold State.pathPass pathOk at hpass
    simp only [Bool.and_eq_true, Bool.or_eq_true, beq_iff_eq] at hpass
    omega
  subst hn
  have hval : BitVec.ofNat 64 (leNat (leBytes 8 y.toNat)) = y := by
    rw [leNat_leBytes, Nat.mod_eq_of_lt y.isLt, BitVec.ofNat_toNat, BitVec.setWidth_eq]
  obtain ⟨w, hw⟩ := storeElem_ctl (s := s1) (a := base + off) (o := o) true (hval.symm ▸ hu)
  exact ⟨w, storeS_ok hv hb hx hcheck hroom hhold hplace hw⟩

end

end Sys2Proof.Machine

section
open Sys2Proof Sys2Proof.Machine

/-- Settles O36: the four scalar stores are one operation on n bytes, and each kind of place has its own write. -/
theorem scalarStoresWriteTheirBytes : Obligations.ScalarStoresWriteTheirBytes := by
  unfold Obligations.ScalarStoresWriteTheirBytes
  intro s s1 v b x y base off p hv hb hx a byte
  have hstore (f : BitVec 6 → BitVec 6 → MIdx → Instr) (n : Nat) (hf : exec (f v b x) s = storeS s v b x n) (hn : n ≤ 8)
      (hcheck : s.issueCheck .st a n = .ok ()) (hroom : s.room (s.ctx.asks a) = true) (hhold : s.storeHold a n = .ok ())
      (hplace : s.storePlace a = .ok (s1, p)) :=
    hf ▸ And.intro (fun pa => storeS_dev hv hb hx hcheck hroom hhold hplace (pa := pa))
      (And.intro (fun k c => storeS_buf hv hb hx hcheck hroom hhold hplace (k := k) (c := c))
      (And.intro (fun k c lo len at0 => storeS_span hv hb hx hcheck hroom hhold hplace (k := k) (c := c) (lo := lo) (len := len) (at0 := at0))
      (And.intro (fun pa => storeS_host hv hb hx hcheck hroom hhold hplace (pa := pa))
      (And.intro (fun q hq => storeS_wake hv hb hx hcheck hroom hhold hplace (q := q) hq hn)
      (And.intro (fun k => storeS_peer hv hb hx hcheck hroom hhold hplace (k := k))
        (fun o u => storeS_ctl hv hb hx hcheck hroom hhold hplace (o := o) (u := u)))))))
  exact List.forall_iff_forall_mem.mp ⟨hstore .stB 1 rfl (by decide), hstore .stH 2 rfl (by decide), hstore .stW 4 rfl (by decide),
    hstore .stD 8 rfl (by decide)⟩

end

namespace Sys2Proof.Machine

/-! ### What scalar stores, atomics and signals leave as it is (R177, R204, R205, R225, R309) -/

/-- A store of n bytes to place p from s: the context and the Z rows stand, and of device memory every byte that the place does not cover, but for
A and D bits. -/
structure ElemKeeps (p : Place) (n : Nat) (s t : State) : Prop where
  ctx : t.ctx = s.ctx
  rows : t.rows = s.rows
  mem : ∀ j, ¬ placeCovers p n j → memByte t.mem j = memByte s.mem j ∨ memByte t.mem j = memByte s.mem j ||| 0x30

namespace ElemKeeps
variable {p : Place} {n : Nat} {s t : State}

theorem refl (p : Place) (n : Nat) (s : State) : ElemKeeps p n s s := ⟨rfl, rfl, fun _ _ => .inl rfl⟩

theorem noted (h : ElemKeeps p n s t) (i : Iss) : ElemKeeps p n s { t with iss := i } := ⟨h.ctx, h.rows, h.mem⟩

theorem complTrap (h : ElemKeeps p n s t) (e : Trap) : ElemKeeps p n s (t.complTrap e) := h.noted _

theorem postAtom (h : ElemKeeps p n s t) (d : BitVec 5) (v : Nat) (f : Option DFault) : ElemKeeps p n s (t.postAtom d v f) := h.noted _

theorem postP (h : ElemKeeps p n s t) (k lat : Nat) (v : Bool) : ElemKeeps p n s (t.postP k lat v) := h.noted _

theorem watchTrap (h : ElemKeeps p n s t) (a : Word) (w : Nat) : ElemKeeps p n s (t.watchTrap a w) := by
  unfold State.watchTrap
  split
  · exact h
  · exact h.complTrap _

theorem baseUpd (h : ElemKeeps p n s t) (u : Bool) (b : BitVec 6) (a : Word) : ElemKeeps p n s (t.baseUpd u b a) := by
  cases u
  · exact h
  · exact h.noted _

theorem farUse (h : ElemKeeps p n s t) : ElemKeeps p n s (t.farUse p) := by
  cases p <;> exact ⟨h.ctx, h.rows, h.mem⟩

theorem writePlace (h : ElemKeeps p n s t) (arr : Nat) (bs : List Byte) (hn : bs.length = n) (hp : p.bytes = true) :
    ElemKeeps p n s (t.writePlace arr p bs) := by
  cases p with
  | row | ctl => cases hp
  | host pa => exact ⟨h.ctx, h.rows, h.mem⟩
  | wake q => exact ⟨h.ctx, h.rows, h.mem⟩
  | buf b k =>
    have hbuf := bufOnly_putBuf t b k bs
    exact ⟨(congrArg State.ctx hbuf :).trans h.ctx, (congrArg State.rows hbuf :).trans h.rows, fun j hj => (congrArg State.mem hbuf :) ▸ h.mem j hj⟩
  | span b k lo len base =>
    have hbuf := bufOnly_putSegs t b (spanSegs k bs.length lo len base) bs
    exact ⟨(congrArg State.ctx hbuf :).trans h.ctx, (congrArg State.rows hbuf :).trans h.rows, fun j hj => (congrArg State.mem hbuf :) ▸ h.mem j hj⟩
  | peer k =>
    cases hsh : (t.shadow? arr (peerBase + k)).isNone with
    | false =>
      obtain ⟨hs, heq⟩ := devWrite_shadow bs hsh
      rw [State.writePlace, heq]
      exact ⟨h.ctx, h.rows, h.mem⟩
    | true =>
      rw [State.writePlace, devWrite_peer bs hsh]
      exact ⟨h.ctx, h.rows, h.mem⟩
  | dev pa =>
    cases hsh : (t.shadow? arr pa).isNone with
    | false =>
      obtain ⟨hs, heq⟩ := devWrite_shadow bs hsh
      rw [State.writePlace, heq]
      exact ⟨h.ctx, h.rows, h.mem⟩
    | true =>
      by_cases hpa : pa < peerBase
      · have hput := frame_devPut t pa bs
        rw [State.writePlace, devWrite_dev bs hpa hsh]
        refine ⟨hput.ctx.trans h.ctx, hput.rows.trans h.rows, fun j hj => ?_⟩
        rw [memByte_devPut_out t pa bs j (hn ▸ hj)]
        exact h.mem j hj
      · obtain ⟨k, rfl⟩ := Nat.exists_eq_add_of_le (Nat.le_of_not_lt hpa)
        rw [State.writePlace, devWrite_peer bs hsh]
        exact ⟨h.ctx, h.rows, h.mem⟩

theorem writtenIf (h : ElemKeeps p n s t) (c : Bool) (arr : Nat) (bs : List Byte) (hn : bs.length = n) (hp : p.bytes = true) :
    ElemKeeps p n s (if c then t.writePlace arr p bs else t) := by
  cases c
  · exact h
  · exact h.writePlace arr bs hn hp

end ElemKeeps

/-- A translation for a store sets bits 4 and 5 of one byte at most. -/
theorem memByte_touched (s : State) (c : Ctx) (e : Option TlbEnt) (j : Nat) :
    memByte (s.touched c e true).mem j = memByte s.mem j ∨ memByte (s.touched c e true).mem j = memByte s.mem j ||| 0x30 := by
  have htouch (ea : Nat) : memByte (s.touch ea true).mem j = memByte s.mem j ∨ memByte (s.touch ea true).mem j = memByte s.mem j ||| 0x30 := by
    unfold State.touch
    split
    · exact .inl rfl
    · have hbyte := memByte_memWrite s.mem ea [memByte s.mem ea ||| 0x30] j
      split at hbyte
      · next h =>
        obtain rfl : j = ea := Nat.le_antisymm (Nat.le_of_lt_succ h.2) h.1
        rw [Nat.sub_self] at hbyte
        exact .inr hbyte
      · exact .inl hbyte
  cases e with
  | none => exact .inl rfl
  | some k =>
    have hcache (u : State) : (u.cache k).mem = u.mem := by
      unfold State.cache
      simp only
      split
      · split <;> rfl
      · rfl
    rw [show (s.touched c (some k) true).mem = (s.touchLeaf c (some k) true).mem from hcache _]
    unfold State.touchLeaf
    simp only
    split
    · split
      · exact htouch k.ea
      · exact .inl rfl
    · exact .inl rfl

theorem elemKeeps_storePlace {s t : State} {a : Word} {p : Place} (n : Nat) (hsh : s.shadowed s.ctx.arr = false) (h : s.storePlace a = .ok (t, p)) :
    ElemKeeps p n s t := by
  have hbegun := begun_storePlace h
  obtain ⟨e, -, ht⟩ := storePlace_ok h
  have hlaunches : (s.touched s.ctx e true).launches = s.launches := by
    cases e with
    | none => rfl
    | some k => exact ((congrArg State.launches (walked_cache (s.touchLeaf s.ctx (some k) true) k).rest : _) : _).trans (frame_touchLeaf s s.ctx (some k) true).launches
  have hnot : (s.touched s.ctx e true).shadowed s.ctx.arr = false := by
    unfold State.shadowed State.launch? at hsh ⊢
    rw [hlaunches]
    exact hsh
  unfold State.shadowFor at ht
  rw [hnot] at ht
  obtain rfl : s.touched s.ctx e true = t := Option.some.inj ht
  exact ⟨hbegun.ctx, hbegun.rows, fun j _ => memByte_touched s s.ctx e j⟩

/-- Whether an access is a scalar store, an atomic or a signal. -/
def Acc.stores : Acc → Bool
  | .st => true
  | .amo _ => true
  | .sig => true
  | _ => false

/-- Outside control space these name no Z row and no control register (Table 11.4). -/
theorem bytes_of_path {k : Acc} {s : State} {a : Word} {n : Nat} {p : Place} {e : Option TlbEnt} (hk : k.stores = true)
    (hcheck : s.issueCheck k a n = .ok ()) (h30 : selOf a ≠ 0x30) (h : PlaceOf a p e) : p.bytes = true := by
  obtain ⟨_, hneed, _⟩ := bind_ok _ _ _ hcheck
  have hpass := need_ok hneed
  unfold State.pathPass pathOk at hpass
  have hsel : selOf a ≠ 0x12 ∧ selOf a ≠ 0x16 ∧ (0x17 < selOf a → selOf a = 0x20) := by
    cases k with
    | st | amo | sig =>
      simp only [Bool.and_eq_true, Bool.or_eq_true, beq_iff_eq] at hpass
      omega
    | _ => cases hk
  obtain ⟨h12, h16, h20⟩ := hsel
  cases h with
  | row _ _ _ h => omega
  | ctl _ h17 hne => exact absurd (h20 h17) hne
  | _ => rfl

section
variable {s s1 t : State} {v b o : BitVec 6} {d : BitVec 5} {x : MIdx} {y : AmoX} {base off : Word} {p : Place} {n : Nat}

theorem yields_storeElem (a : Word) (bs : List Byte) (sc : Bool) (hn : bs.length = n) (hp : p.bytes = true) (h : ElemKeeps p n s s1) :
    Yields (ElemKeeps p n s) (s1.storeElem a p bs sc) := by
  by_cases hfar : s1.farFails s1.ctx.arr p false = false
  · obtain ⟨w, hw⟩ := storeElem_bytes (a := a) bs sc hp hfar
    rw [hw]
    exact yields_ok ((h.farUse.writePlace _ bs hn hp).watchTrap a w)
  · unfold State.storeElem
    simp only [hfar]
    exact yields_ok ((h.farUse.complTrap _).watchTrap a _)

theorem elemKeeps_storeS (hb : s.rdS b = .ok base) (hx : s.mdisp x = .ok off) (hsh : s.shadowed s.ctx.arr = false) (h30 : selOf (base + off) ≠ 0x30)
    (hplace : s.storePlace (base + off) = .ok (s1, p)) (h : storeS s v b x n = .next t) : ElemKeeps p n s t := by
  obtain ⟨e, hof⟩ := placeOf_storePlace hplace
  refine of_finish (yields_bind fun r hr => yields_bind fun _ hcheck => yields_bind fun _ _ => yields_bind fun _ _ => ?_)
    (fun i _ _ => (ElemKeeps.refl p n s).noted i) h
  obtain ⟨z, a, o⟩ := r
  obtain ⟨-, hr⟩ := both_eq_ok _ _ _ hr
  obtain ⟨ha, ho⟩ := both_eq_ok _ _ _ hr
  cases hb.symm.trans ha
  cases hx.symm.trans ho
  rw [hplace]
  exact yields_then (yields_storeElem _ _ _ (length_leBytes _ _) (bytes_of_path rfl hcheck h30 hof) (elemKeeps_storePlace n hsh hplace))
    fun _ hu => yields_pure (hu.baseUpd _ _ _)

theorem atomRead_ok {a : Word} {q : State × Place × Except Flt Nat} (hplace : s.storePlace a = .ok (s1, p)) (h : s.atomRead a n = .ok q) :
    q.1 = s1 ∧ q.2.1 = p := by
  unfold State.atomRead at h
  rw [hplace] at h
  simp only at h
  split at h <;>
  · cases h
    exact ⟨rfl, rfl⟩

theorem elemKeeps_amo (hb : s.rdS b = .ok base) (hsh : s.shadowed s.ctx.arr = false) (h30 : selOf base ≠ 0x30)
    (hn : (if y.size.toNat = 0 then 4 else 8) = n) (hplace : s.storePlace base = .ok (s1, p)) (h : execAmo d b o y s = .next t) : ElemKeeps p n s t := by
  obtain ⟨e, hof⟩ := placeOf_storePlace hplace
  refine of_finish (yields_bind fun r hr => yields_bind fun _ hcheck => yields_bind fun _ _ => yields_bind fun _ _ => yields_bind fun q hq => ?_)
    (fun i _ _ => (ElemKeeps.refl p n s).noted i) h
  obtain ⟨⟨a, z⟩, c⟩ := r
  obtain ⟨hr, -⟩ := both_eq_ok _ _ _ hr
  obtain ⟨ha, -⟩ := both_eq_ok _ _ _ hr
  cases hb.symm.trans ha
  obtain ⟨u, w, res⟩ := q
  obtain ⟨rfl, rfl⟩ := atomRead_ok hplace hq
  have hstart := (elemKeeps_storePlace n hsh hplace).farUse
  simp only
  split
  · exact yields_pure (hstart.complTrap _)
  · split
    · exact yields_pure (hstart.postAtom _ _ _)
    · exact yields_pure (((hstart.writePlace _ _ ((length_leBytes _ _).trans hn) (bytes_of_path rfl hcheck h30 hof)).postAtom _ _ _).watchTrap _ _)

theorem elemKeeps_cas (hb : s.rdS b = .ok base) (hsh : s.shadowed s.ctx.arr = false) (h30 : selOf base ≠ 0x30)
    (hn : (if y.size.toNat = 0 then 4 else 8) = n) (hplace : s.storePlace base = .ok (s1, p)) (h : execCas d b o y s = .next t) : ElemKeeps p n s t := by
  obtain ⟨e, hof⟩ := placeOf_storePlace hplace
  refine of_finish (yields_bind fun r hr => yields_bind fun _ hcheck => yields_bind fun _ _ => yields_bind fun _ _ => yields_bind fun q hq => ?_)
    (fun i _ _ => (ElemKeeps.refl p n s).noted i) h
  obtain ⟨⟨a, z⟩, c⟩ := r
  obtain ⟨hr, -⟩ := both_eq_ok _ _ _ hr
  obtain ⟨ha, -⟩ := both_eq_ok _ _ _ hr
  cases hb.symm.trans ha
  obtain ⟨u, w, res⟩ := q
  obtain ⟨rfl, rfl⟩ := atomRead_ok hplace hq
  have hstart := (elemKeeps_storePlace n hsh hplace).farUse
  simp only
  split
  · exact yields_pure (hstart.complTrap _)
  · split
    · exact yields_pure ((hstart.postAtom _ _ _).postP _ _ _)
    · exact yields_pure ((((hstart.writtenIf _ _ _ ((length_leBytes _ _).trans hn) (bytes_of_path rfl hcheck h30 hof)).postAtom _ _ _).postP _ _ _).watchTrap _ _)

theorem elemKeeps_signal (hb : s.rdS b = .ok base) (hsh : s.shadowed s.ctx.arr = false) (h30 : selOf base ≠ 0x30)
    (hplace : s.storePlace base = .ok (s1, p)) (h : execSignal b o s = .next t) : ElemKeeps p 8 s t := by
  obtain ⟨e, hof⟩ := placeOf_storePlace hplace
  refine of_finish (yields_bind fun r hr => yields_bind fun _ hcheck => yields_bind fun _ _ => yields_bind fun _ _ => yields_bind fun _ _ => ?_)
    (fun i _ _ => (ElemKeeps.refl p 8 s).noted i) h
  obtain ⟨a, z⟩ := r
  obtain ⟨ha, -⟩ := both_eq_ok _ _ _ hr
  cases hb.symm.trans ha
  have hstart := (elemKeeps_storePlace 8 hsh hplace).farUse
  rw [hplace]
  simp only
  split
  · exact yields_pure (hstart.complTrap _)
  · exact yields_pure (hstart.writePlace _ _ (length_leBytes _ _) (bytes_of_path rfl hcheck h30 hof))

end

end Sys2Proof.Machine

section
open Sys2Proof Sys2Proof.Machine

/-- Settles O41, form by form: each writes its place, from the state in which the walker has set A and D. -/
theorem elementStoresFrame : Obligations.ElementStoresFrame := by
  unfold Obligations.ElementStoresFrame
  intro s s1 t d v b o x y base off p hb hx hsh
  have hframe {i : Instr} {n : Nat} {a : Word} (h : selOf a ≠ 0x30 → s.storePlace a = .ok (s1, p) → exec i s = .next t → ElemKeeps p n s t)
      (h30 : selOf a ≠ 0x30) (hplace : s.storePlace a = .ok (s1, p)) (hexec : exec i s = .next t) :
      t.ctx = s.ctx ∧ t.rows = s.rows ∧ ∀ j, ¬ placeCovers p n j → memByte t.mem j = memByte s.mem j ∨ memByte t.mem j = memByte s.mem j ||| 0x30 :=
    have hkeeps := h h30 hplace hexec
    ⟨hkeeps.ctx, hkeeps.rows, hkeeps.mem⟩
  have hsize : (if y.size.toNat = 0 then 4 else 8) = if y.size = 0 then 4 else 8 := if_congr (BitVec.toNat_eq (y := 0)).symm rfl rfl
  exact List.forall_iff_forall_mem.mp ⟨hframe (elemKeeps_storeS hb hx hsh), hframe (elemKeeps_storeS hb hx hsh), hframe (elemKeeps_storeS hb hx hsh),
    hframe (elemKeeps_storeS hb hx hsh), hframe (elemKeeps_amo hb hsh · hsize), hframe (elemKeeps_cas hb hsh · hsize), hframe (elemKeeps_signal hb hsh)⟩

end

/-! ## Operations handed to the engines -/

namespace Sys2Proof.Machine

/-! ### Limits of a collective descriptor (Table 13.7) -/

theorem collBad_none_iff (ds : List Byte) : collBad ds = none ↔
    numAt ds 0x10 4 ≤ 32768 ∧ numAt ds 0x14 1 ≤ 3 ∧ numAt ds 0x15 1 ≤ 4 ∧ numAt ds 0x16 1 ≤ 4 ∧ numAt ds 0x17 1 ≤ 80
      ∧ 1 ≤ numAt ds 0x1C 4 ∧ numAt ds 0x1C 4 ≤ 2 ^ 29 ∧ numAt ds 0x20 4 < numAt ds 0x1C 4 ∧ numAt ds 0x24 4 < numAt ds 0x1C 4
      ∧ numAt ds 0x28 24 = 0 := by
  have hgo {c : Prop} [Decidable c] (v : Nat) (r : Option Nat) : (if c then some v else r) = none ↔ ¬ c ∧ r = none := by
    split <;> simp_all
  unfold collBad
  simp only [hgo, and_true]
  omega

/-! ### What the operation and its context hold (R183, R211) -/

/-- Instruction i hands an operation to the engine of timeline tl: it has the timeline's next number, which d receives, and a leaf index. The context
is `c` with that number on its timeline. -/
def HandedOver (s : State) (d : BitVec 5) (i : Instr) (tl lat : Nat) (c : Ctx) (desc : List Byte) (blk : Option XDrain) (dst : Word) : Prop :=
  let n := (s.ctx.tl tl).issued + 1
  ∃ t e, exec i s = .next t ∧ t.engs = s.engs ++ [e]
    ∧ e.tl = tl ∧ e.num = n ∧ e.desc = desc ∧ e.block = blk ∧ e.dst = dst ∧ e.gang = s.ctx.gang ∧ e.rank = s.ctx.rank
    ∧ e.core = s.ctx.core ∧ e.lidx = s.nextLeaf ∧ e.delivered = 0
    ∧ t.leaves = s.leaves ++ [⟨s.ctx.core, s.ctx.arr, s.ctx.task, s.ctx.rank, s.nextLeaf, none⟩]
    ∧ t.iss.out = (s.postS d.toNat lat (BitVec.ofNat 64 n)).iss.out
    ∧ t.ctx = c.setTl tl { s.ctx.tl tl with issued := n }
    ∧ OnlyWalked s.mem t.mem ∧ (tl = 4 → t.mem = s.mem) ∧ t.host = s.host ∧ t.peer = s.peer ∧ t.wbuf = s.wbuf ∧ t.abuf = s.abuf ∧ t.sbuf = s.sbuf
    ∧ t.rows = s.rows

theorem issued_setTl (c : Ctx) (tl : Nat) (t : TLine) (h : tl < 6) : (c.setTl tl t).tl tl = t := by
  unfold Ctx.setTl Ctx.tl
  rw [List.getD_eq_getElem?_getD, List.getElem?_map, List.getElem?_range h]
  simp

section
variable {s u : State} {d : BitVec 5} {i : Instr} {tl lat : Nat} {c : Ctx} {ws : List Nat} {desc : List Byte} {blk : Option XDrain} {dst : Word}

theorem handed_of_enqueue (hu : Walked s u) (hmem : tl = 4 → u.mem = s.mem)
    (hc : c.mode = s.ctx.mode ∧ c.pc = s.ctx.pc ∧ c.step = s.ctx.step ∧ c.regions = s.ctx.regions)
    (h : exec i s = .next (({ u.enqueue tl ws desc blk dst with ctx := c.setTl tl { s.ctx.tl tl with issued := (s.ctx.tl tl).issued + 1 } } : State).postS
      d.toNat lat (BitVec.ofNat 64 ((s.ctx.tl tl).issued + 1)))) : HandedOver s d i tl lat c desc blk dst := by
  obtain ⟨hmode, hpc, hstep, hregions⟩ := hc
  have hengs : u.engs = s.engs := (congrArg State.engs hu.rest : _)
  have hleaves : u.leaves = s.leaves := (congrArg State.leaves hu.rest : _)
  have hnext : u.nextLeaf = s.nextLeaf := by unfold State.nextLeaf; rw [hu.ctx, hu.iss]
  refine ⟨_, _, h, congrArg (· ++ _) hengs, rfl, ?_, rfl, rfl, rfl, ?_, ?_, ?_, hnext, rfl, ?_, ?_, rfl, hu.mem, hmem, hu.host, hu.peer, hu.wbuf, hu.abuf,
    hu.sbuf, hu.rows⟩
  · exact congrArg (fun x : Ctx => (x.tl tl).issued + 1) hu.ctx
  · exact congrArg Ctx.gang hu.ctx
  · exact congrArg Ctx.rank hu.ctx
  · exact congrArg Ctx.core hu.ctx
  · show u.leaves ++ [⟨u.ctx.core, u.ctx.arr, u.ctx.task, u.ctx.rank, u.nextLeaf, none⟩] = _
    rw [hleaves, hu.ctx, hnext]
  · have hpend : modeFTRAP c.mode = modeFTRAP s.ctx.mode ∧ c.regions.length = s.ctx.regions.length := ⟨by rw [hmode], by rw [hregions]⟩
    simp only [State.postS, State.post, State.pend, State.enqueue, State.takeLeaf, Ctx.setTl, hu.iss, hpend.1, hpc, hstep, hpend.2]

/-! ### Port copies (R343) -/

/-- Whether a task is fused does not depend on the timelines of its context. -/
theorem portOf_enqueue (hu : Walked s u) : (u.enqueue tl ws desc blk dst).portOf (u.enqueue tl ws desc blk dst).ctx = s.portOf s.ctx := by
  have hgangs : u.gangs = s.gangs := (congrArg State.gangs hu.rest : _)
  have hlaunches : u.launches = s.launches := (congrArg State.launches hu.rest : _)
  have hsaved : u.saved = s.saved := (congrArg State.saved hu.rest : _)
  have hmate : ((u.enqueue tl ws desc blk dst).mateOf (u.enqueue tl ws desc blk dst).ctx).isSome = (s.mateOf s.ctx).isSome := by
    unfold State.mateOf State.gang? State.ctxs
    simp only [State.enqueue, State.takeLeaf, Ctx.setTl, hgangs, hu.parked, hsaved, hu.ctx]
    split
    · rfl
    · next g _ =>
      split
      · rfl
      · rw [List.cons_append, List.cons_append, List.find?_cons, List.find?_cons]
        generalize (s.ctx.live && s.ctx.gang == g.mate && s.ctx.rank == s.ctx.rank) = found
        cases found <;> rfl
  have hfuse : (u.enqueue tl ws desc blk dst).fuseOf (u.enqueue tl ws desc blk dst).ctx = s.fuseOf s.ctx := by
    have hlaunch : ((u.enqueue tl ws desc blk dst).launch? (u.enqueue tl ws desc blk dst).ctx.arr).bind Launch.fuse
        = (s.launch? s.ctx.arr).bind Launch.fuse := by
      simp only [State.launch?, State.enqueue, State.takeLeaf, Ctx.setTl, hlaunches, hu.ctx]
    unfold State.fuseOf
    split <;> split <;> simp_all
  have hfz : (u.enqueue tl ws desc blk dst).ctx.fz = s.ctx.fz := (congrArg Ctx.fz hu.ctx :)
  have hoffset : (u.enqueue tl ws desc blk dst).ctx.offset = s.ctx.offset := (congrArg Ctx.offset hu.ctx :)
  unfold State.portOf
  rw [hfuse, hfz, hoffset]

theorem asPort_enqueue (hu : Walked s u) (hport : s.portOf s.ctx = none) :
    (u.enqueue tl ws desc blk dst).asPort desc = .ok (u.enqueue tl ws desc blk dst) := by
  unfold State.asPort
  rw [portOf_enqueue hu, hport]

end

/-! ### copy, coll and xplane (R211, R213, R215, R252) -/

section
variable {s u : State} {d : BitVec 5} {a : BitVec 6} {ch : BitVec 2} {tr : Bool} {x : Word} {ds : List Byte}
  (hinh : s.ctx.inh = false) (ha : s.rdS a = .ok x) (hd : s.dstS d.toNat = .ok ())
include hinh ha hd

theorem exec_copy_bad {v : Nat} (hdesc : s.readDesc s.ctx x 64 = .ok (u, ds)) (hbad : copyBad ds = some v) :
    exec (.copy d a ch) s = .next (trapped s { cause := 0x0B, info1 := BitVec.ofNat 64 v }) := by
  simp only [exec, execCopy, hinh, Bool.not_false, need_true, ok_bind, ha, hd, both_ok, hdesc, hbad]
  rfl

theorem exec_coll_bad {v : Nat} (hdesc : s.readDesc s.ctx x 64 = .ok (u, ds)) (hbad : collBad ds = some v) :
    exec (.coll d a) s = .next (trapped s { cause := 0x0B, info1 := BitVec.ofNat 64 v }) := by
  simp only [exec, execColl, hinh, Bool.not_false, need_true, ok_bind, ha, hd, both_ok, hdesc, hbad]
  rfl

theorem handed_copy (hgate : s.leafGate = .ok ()) (hport : s.portOf s.ctx = none) (hdesc : s.readDesc s.ctx x 64 = .ok (u, ds))
    (hok : copyBad ds = none) (hroom : s.tlRoom ch.toNat = .ok ()) :
    HandedOver s d (.copy d a ch) ch.toNat (s.ctx.latOf 16)
      (s.ctx.setWp ch.toNat ⟨0, numAt ds 0x10 4 * numAt ds 0x14 4, (s.ctx.tl ch.toNat).issued + 1⟩) ds none 0 := by
  have hu := walked_readDesc s u s.ctx x 64 ds hdesc
  have hch : ch.toNat < 6 := ch.isLt.trans (by decide)
  have hctx : (u.enqueue ch.toNat [s.iss.word] ds none 0).ctx
      = s.ctx.setTl ch.toNat { s.ctx.tl ch.toNat with issued := (s.ctx.tl ch.toNat).issued + 1 } := by
    simp only [State.enqueue, takeLeaf_ctx, hu.ctx]
  refine handed_of_enqueue (ws := [s.iss.word]) hu (fun h => absurd h (by omega)) ⟨rfl, rfl, rfl, rfl⟩ ?_
  simp only [exec, execCopy, hinh, Bool.not_false, need_true, ok_bind, ha, hd, both_ok, hdesc, hok, hgate, hroom, asPort_enqueue hu hport, finish_pure,
    hctx, issued_setTl _ _ _ hch]
  rfl

theorem handed_coll (hgate : s.leafGate = .ok ()) (hdesc : s.readDesc s.ctx x 64 = .ok (u, ds)) (hok : collBad ds = none)
    (hroom : s.tlRoom 5 = .ok ()) : HandedOver s d (.coll d a) 5 (s.ctx.latOf 16) s.ctx ds none 0 := by
  have hu := walked_readDesc s u s.ctx x 64 ds hdesc
  have hctx : (u.enqueue 5 [s.iss.word] ds none 0).ctx = s.ctx.setTl 5 { s.ctx.tl 5 with issued := (s.ctx.tl 5).issued + 1 } := by
    simp only [State.enqueue, takeLeaf_ctx, hu.ctx]
  refine handed_of_enqueue (ws := [s.iss.word]) hu (fun h => absurd h (by decide)) ⟨rfl, rfl, rfl, rfl⟩ ?_
  have hexec : exec (.coll d a) s = .next ((u.enqueue 5 [s.iss.word] ds none 0).postS d.toNat (s.ctx.latOf 16)
      (BitVec.ofNat 64 ((s.ctx.tl 5).issued + 1))) := by
    simp only [exec, execColl, hinh, Bool.not_false, need_true, ok_bind, ha, hd, both_ok, hdesc, hok, hgate, hroom, finish_pure, hctx,
      issued_setTl _ _ _ (by decide : 5 < 6)]
  exact hexec.trans (congrArg (fun c => Host.Outcome.next (({ u.enqueue 5 [s.iss.word] ds none 0 with ctx := c } : State).postS d.toNat (s.ctx.latOf 16)
    (BitVec.ofNat 64 ((s.ctx.tl 5).issued + 1)))) hctx)

/-- The checks of an xplane before its drain block (R252). -/
theorem exec_xplane : exec (.xplane d a tr) s = finish s (do
    need (selOf x == 0x10 || selOf x == 0x11) { cause := 0x08, addr := x }
    need (x.toNat % 2048 == 0) { cause := 0x09, addr := x }
    need (decide (lowOf x + 16384 ≤ winSize (s.ctx.win (selOf x - 0x10)))) { cause := 0x0A, addr := x }
    let b ← s.ctx.drainReady (fun c => c == 0)
    s.leafGate
    s.tlRoom 4
    let t := s.enqueue 4 [s.iss.word] [BitVec.ofNat 8 tr.toNat] (some b) x
    let u : State := { t with ctx := { t.ctx with drain := none } }
    pure (u.postS d.toNat 1 (BitVec.ofNat 64 (t.ctx.tl 4).issued))) := by
  simp only [exec, execXplane, hinh, Bool.not_false, need_true, ok_bind, ha, hd, both_ok]

end

section
variable {s : State} {d : BitVec 5} {a : BitVec 6} {tr : Bool} {x : Word}
  (hinh : s.ctx.inh = false) (ha : s.rdS a = .ok x) (hd : s.dstS d.toNat = .ok ())
  (hon : selOf x = 0x10 ∨ selOf x = 0x11) (hal : x.toNat % 2048 = 0) (hfits : lowOf x + 16384 ≤ winSize (s.ctx.win (selOf x - 0x10)))

theorem xplane_path (x : Word) : (selOf x == 0x10 || selOf x == 0x11) = true ↔ selOf x = 0x10 ∨ selOf x = 0x11 := by simp

include hinh ha hd

theorem exec_xplane_path (h : ¬ (selOf x = 0x10 ∨ selOf x = 0x11)) : exec (.xplane d a tr) s = .next (trapped s { cause := 0x08, addr := x }) := by
  rw [exec_xplane hinh ha hd, need_bind_fail (mt (xplane_path x).mp h), finish_trap]

include hon

theorem exec_xplane_align (h : x.toNat % 2048 ≠ 0) : exec (.xplane d a tr) s = .next (trapped s { cause := 0x09, addr := x }) := by
  rw [exec_xplane hinh ha hd, need_bind_pass ((xplane_path x).mpr hon), need_bind_fail (by simpa using h), finish_trap]

include hal

theorem exec_xplane_bounds (h : ¬ lowOf x + 16384 ≤ winSize (s.ctx.win (selOf x - 0x10))) :
    exec (.xplane d a tr) s = .next (trapped s { cause := 0x0A, addr := x }) := by
  rw [exec_xplane hinh ha hd, need_bind_pass ((xplane_path x).mpr hon), need_bind_pass (by simpa using hal), need_bind_fail (by simpa using h), finish_trap]

include hfits

/-- At a place for 8 planes the drain block decides. -/
theorem exec_xplane_placed : exec (.xplane d a tr) s = finish s (do
    let b ← s.ctx.drainReady (fun c => c == 0)
    s.leafGate
    s.tlRoom 4
    let t := s.enqueue 4 [s.iss.word] [BitVec.ofNat 8 tr.toNat] (some b) x
    let u : State := { t with ctx := { t.ctx with drain := none } }
    pure (u.postS d.toNat 1 (BitVec.ofNat 64 (t.ctx.tl 4).issued))) := by
  rw [exec_xplane hinh ha hd, need_bind_pass ((xplane_path x).mpr hon), need_bind_pass (by simpa using hal), need_bind_pass (by simpa using hfits)]

theorem exec_xplane_stops {e : Trap} (h : s.ctx.drainReady (fun c => c == 0) = .error (.trap e)) : exec (.xplane d a tr) s = .next (trapped s e) := by
  rw [exec_xplane_placed hinh ha hd hon hal hfits, h, error_bind, finish_trap]

theorem handed_xplane {b : XDrain} (hgate : s.leafGate = .ok ()) (hroom : s.tlRoom 4 = .ok ()) (hb : s.ctx.drainReady (fun c => c == 0) = .ok b) :
    HandedOver s d (.xplane d a tr) 4 1 { s.ctx with drain := none } [BitVec.ofNat 8 tr.toNat] (some b) x := by
  have hctx : (s.enqueue 4 [s.iss.word] [BitVec.ofNat 8 tr.toNat] (some b) x).ctx.tl 4 = { s.ctx.tl 4 with issued := (s.ctx.tl 4).issued + 1 } :=
    issued_setTl _ _ _ (by decide)
  refine handed_of_enqueue (ws := [s.iss.word]) (Walked.refl s) (fun _ => rfl) ⟨rfl, rfl, rfl, rfl⟩ ?_
  rw [exec_xplane_placed hinh ha hd hon hal hfits]
  simp only [hb, ok_bind, hgate, hroom, finish_pure, hctx]
  rfl

end

/-- When an xplane captures its drain block (R252). -/
theorem drainReady_none {c : Ctx} (ok : Nat → Bool) (h : c.drain = none) : c.drainReady ok = .error (.trap { cause := 0x0B }) := by
  unfold Ctx.drainReady
  rw [h]
  rfl

theorem drainReady_used {c : Ctx} {b : XDrain} (h : c.drain = some b) (hc : b.c ≠ 0) :
    c.drainReady (fun k => k == 0) = .error (.trap { cause := 0x0B, info1 := BitVec.ofNat 64 b.c }) := by
  unfold Ctx.drainReady
  rw [h]
  exact need_bind_fail (by simpa using hc)

theorem drainReady_early {c : Ctx} {b : XDrain} (h : c.drain = some b) (hc : b.c = 0) (hrdy : c.step.toNat < b.rdy.toNat) :
    c.drainReady (fun k => k == 0) = .error (.trap { cause := 0x0B, info1 := b.rdy }) := by
  unfold Ctx.drainReady
  rw [h]
  exact (need_bind_pass (by simpa using hc)).trans (need_bind_fail (by simpa using hrdy))

theorem drainReady_ok {c : Ctx} {b : XDrain} (h : c.drain = some b) (hc : b.c = 0) (hrdy : b.rdy.toNat ≤ c.step.toNat) :
    c.drainReady (fun k => k == 0) = .ok b := by
  unfold Ctx.drainReady
  rw [h]
  exact (need_bind_pass (by simpa using hc)).trans (need_bind_pass (by simpa using hrdy))

end Sys2Proof.Machine

section
open Sys2Proof Sys2Proof.Machine

/-- Settles O43: a descriptor or a drain block that passes its checks is handed on, and each check that fails has its trap. -/
theorem transfersIssue : Obligations.TransfersIssue := by
  unfold Obligations.TransfersIssue
  intro s u d a ch tr x ds hinh ha hd hgate hport handed
  refine ⟨?coll, ?stops, fun hdesc hok hroom => handed_copy hinh ha hd hgate hport hdesc hok hroom, ?copyBad,
    fun hdesc hok hroom => handed_coll hinh ha hd hgate hdesc hok hroom, ?xplane⟩
  case coll =>
    rintro bad hdesc rfl
    exact ⟨fun w hw => exec_coll_bad hinh ha hd hdesc hw, collBad_none_iff ds⟩
  case stops =>
    intro stop on fits placed
    refine ⟨exec_xplane_path hinh ha hd, fun hon h => exec_xplane_align hinh ha hd hon h, fun hon hal h => exec_xplane_bounds hinh ha hd hon hal h, ?_, ?_⟩
    · rintro ⟨hon, hal, hfits⟩ h
      exact exec_xplane_stops hinh ha hd hon hal hfits (drainReady_none _ h)
    · rintro b ⟨hon, hal, hfits⟩ hb
      exact ⟨fun hc => exec_xplane_stops hinh ha hd hon hal hfits (drainReady_used hb hc),
        fun hc hrdy => exec_xplane_stops hinh ha hd hon hal hfits (drainReady_early hb hc hrdy)⟩
  case copyBad =>
    intro hdesc hbad
    obtain ⟨v, hv⟩ := Option.ne_none_iff_exists'.mp hbad
    exact ⟨v, hv, exec_copy_bad hinh ha hd hdesc hv⟩
  case xplane =>
    intro b hb hc hrdy hon hal hfits hroom
    exact handed_xplane hinh ha hd hon hal hfits hgate hroom (drainReady_ok hb hc hrdy)

end

/-! ## Stores of the host and to control space -/

namespace Sys2Proof.Machine

/-! ### What a store to a register does (R178), block by block -/

section
variable {s : State} (hs : s.sysstate ≠ 4)
include hs

theorem ctlPut_qdesc {n : Nat} (v : Word) (hn : n < 4096) : s.ctlPut (0x100000 + 8 * n) v = { s.setReg (0x100000 + 8 * n) (v &&& ~~~(0x3F : Word)) with
    deadq := s.deadq.filter (fun k => k ≠ n), depSeen := s.depSeen.filter (fun x => x.1 ≠ n), noSplice := s.noSplice.filter (fun x => x.2.1.1 ≠ n) } := by
  have hq : (0x100000 + 8 * n - 0x100000) / 8 = n := by omega
  unfold State.ctlPut State.ctlWrite
  rw [if_neg hs, if_neg (by omega), if_neg (by omega), if_neg (by omega), if_pos (by omega), hq]

theorem ctlPut_chain {o : Nat} (v : Word) (hlo : 0x200000 ≤ o) (hhi : o < 0x202000) : s.ctlPut o v = s.chainWrite o v := by
  unfold State.ctlPut State.ctlWrite
  rw [if_neg hs, if_neg (by omega), if_neg (by omega), if_neg (by omega), if_neg (by omega), if_pos (by omega)]

theorem ctlPut_link {o : Nat} (v : Word) (hlo : 0x210000 ≤ o) (hhi : o < 0x210600) : s.ctlPut o v = s.linkWrite o v := by
  unfold State.ctlPut State.ctlWrite
  rw [if_neg hs, if_neg (by omega), if_neg (by omega), if_neg (by omega), if_neg (by omega), if_neg (by omega), if_pos (by omega)]

theorem ctlPut_tlbiv {v : Word} (h0 : wfld v 0 2 ≠ 3) (h2 : wfld v 2 14 = 0) (h48 : wfld v 48 16 = 0) : s.ctlPut 0x3008 v = s.tlbStart v := by
  unfold State.ctlPut State.ctlWrite
  rw [if_neg hs, if_neg (by decide), if_neg (by decide), if_pos rfl, if_neg (by omega)]

theorem ctlPut_atctl {n : Nat} (v : Word) (hn : n < 384) : s.ctlPut (0x230000 + 8 * n) v = s.atctlWrite n v := by
  have hq : (0x230000 + 8 * n - 0x230000) / 8 = n := by omega
  unfold State.ctlPut State.ctlWrite
  rw [if_neg hs]
  iterate 9 rw [if_neg (by omega)]
  rw [if_pos (by omega), hq]

theorem ctlPut_debugStop {n : Nat} {v : Word} (hn : n < 384) (hf : s.feat 8 = true) (hv : wfld v 4 60 = 0) :
    s.ctlPut (0x250000 + 8 * n) v = s.debugRequest n v := by
  have hq : (0x250000 + 8 * n - 0x250000) / 8 = n := by omega
  unfold State.ctlPut State.ctlWrite
  rw [if_neg hs]
  iterate 13 rw [if_neg (by omega)]
  rw [if_pos (by omega), hq, hf, hv]
  rfl

theorem ctlPut_debugResume {n : Nat} (v : Word) (hn : n < 384) : s.ctlPut (0x250C00 + 8 * n) v = s.debugResumeReq n v := by
  have hq : (0x250C00 + 8 * n - 0x250C00) / 8 = n := by omega
  unfold State.ctlPut State.ctlWrite
  rw [if_neg hs]
  iterate 14 rw [if_neg (by omega)]
  rw [if_pos (by omega), hq]

theorem ctlPut_dumpreq (v : Word) : s.ctlPut 0x252000 v = if s.feat 8 then s.dumpStart (v.toNat / 64 * 64) else s := by
  unfold State.ctlPut State.ctlWrite
  rw [if_neg hs]
  iterate 16 rw [if_neg (by decide)]
  rw [if_pos rfl]

theorem ctlPut_loadreq {v : Word} (h40 : wfld v 40 24 = 0) (h0 : wfld v 0 7 = 0) (hq : s.loadq.length < 64) :
    s.ctlPut 0x270000 v = { s with loadq := s.loadq ++ [v.toNat] } := by
  unfold State.ctlPut State.ctlWrite
  rw [if_neg hs]
  iterate 17 rw [if_neg (by decide)]
  rw [if_pos rfl, if_neg (by omega), if_neg (by omega)]

theorem ctlPut_zone {n : Nat} (v : Word) (hn : n < 120) : s.ctlPut (zoneOff n) v = s.zoneWrite (zoneOff n) v := by
  unfold State.ctlPut State.ctlWrite zoneOff
  rw [if_neg hs]
  iterate 18 rw [if_neg (by omega)]
  rw [if_pos (by omega)]

theorem ctlPut_evac (v : Word) : s.ctlPut 0x612000 v = s.evacStart v := by
  unfold State.ctlPut State.ctlWrite
  rw [if_neg hs]
  iterate 20 rw [if_neg (by decide)]
  rw [if_pos rfl]

theorem ctlPut_refill (v : Word) : s.ctlPut 0x612008 v = s.refillStart v := by
  unfold State.ctlPut State.ctlWrite
  rw [if_neg hs]
  iterate 21 rw [if_neg (by decide)]
  rw [if_pos rfl]

theorem ctlPut_featlock (v : Word) : s.ctlPut 0x600140 v = s.featLock v := by
  unfold State.ctlPut State.ctlWrite State.hostWrite
  rw [if_neg hs]
  iterate 22 rw [if_neg (by decide)]
  rw [if_pos (by decide)]
  iterate 4 rw [if_neg (by decide)]
  rw [if_pos rfl]

end

end Sys2Proof.Machine

namespace Sys2Proof.Machine

/-! ### The effect of each register -/

section
variable {s : State} {n : Nat} {v : Word}

theorem bar2Has_iff (hs : s.sysstate ≠ 4) (vf : Nat) (hn : n < 4096) : s.bar2Has vf n = true ↔
    vf = 0 ∨ (s.vfOn = true ∧ 1 ≤ vf ∧ vf ≤ 63 ∧ (s.reg (0x600800 + 16 * vf) ≠ 0 ∨ s.reg (0x600808 + 16 * vf) ≠ 0)
      ∧ wfld (s.reg (0x600808 + 16 * vf)) 0 12 ≤ n
      ∧ n < wfld (s.reg (0x600808 + 16 * vf)) 0 12 + wfld (s.reg (0x600808 + 16 * vf)) 16 12) := by
  unfold State.bar2Has State.vfLive
  simp only [Bool.and_eq_true, Bool.or_eq_true, bne_iff_ne, ne_eq, hs, not_false_eq_true, beq_iff_eq, decide_eq_true_eq, hn, true_and, and_assoc]

/-- A wake register takes the unsigned maximum (R177). -/
theorem tabGet_wakePut_same (s : State) (q : Nat) (v : Word) : (tabGet 0 (s.wakePut q v).wake q).toNat = max (tabGet 0 s.wake q).toNat v.toNat := by
  refine (congrArg BitVec.toNat (tabGet_tabSet_same 0 s.wake q _)).trans ?_
  rw [apply_ite BitVec.toNat]
  split <;> omega

theorem exec_wakeWrite (vf : Nat) (hb : s.bar2Has vf n = true) : ∃ t, exec (.wakeWrite ⟨vf, n⟩ v) s = .next t
    ∧ (tabGet 0 t.wake n).toNat = max (tabGet 0 s.wake n).toNat v.toNat ∧ (∀ q, q ≠ n → tabGet 0 t.wake q = tabGet 0 s.wake q)
    ∧ { t with wake := s.wake } = s :=
  ⟨s.wakePut n v, congrArg Host.Outcome.next (if_pos hb), tabGet_wakePut_same s n v, fun _ hq => tabGet_tabSet_other 0 _ _ _ _ hq, rfl⟩

theorem exec_wakeWrite_none (vf : Nat) (hb : ¬ s.bar2Has vf n = true) : exec (.wakeWrite ⟨vf, n⟩ v) s = .next s :=
  congrArg Host.Outcome.next (if_neg hb)

theorem exec_qdescWrite (hs : s.sysstate ≠ 4) (hn : n < 4096) : ∃ t, exec (.qdescWrite n v) s = .next t
    ∧ t.reg (0x100000 + 8 * n) = v &&& ~~~(0x3F : Word) ∧ n ∉ t.deadq ∧ (∀ x ∈ t.depSeen, x.1 ≠ n)
    ∧ ∀ o, o ≠ 0x100000 + 8 * n → t.reg o = s.reg o := by
  refine ⟨_, (congrArg Host.Outcome.next (if_pos hn)).trans (congrArg Host.Outcome.next (ctlPut_qdesc hs v hn)), reg_setReg_same s _ _, ?_, ?_,
    fun o ho => reg_setReg_other s _ ho⟩
  · simp
  · simp

theorem exec_ctlWrite {o : Nat} {u : State} (h8 : o % 8 = 0) (hlt : o < 2 ^ 28) (hu : s.ctlWrite o v = .ok u) :
    exec (.ctlWrite o v) s = .next u.unblock := by
  have hput : s.ctlPut o v = u := by unfold State.ctlPut; rw [hu]
  exact congrArg Host.Outcome.next ((if_pos ⟨h8, hlt⟩).trans (congrArg State.unblock hput))

theorem exec_chainBind (hs : s.sysstate ≠ 4) (hn : n < 64) : exec (.chainBind n v) s
    = .next (if s.reg (0x200000 + 128 * n) = 0 then s.setReg (0x200000 + 128 * n) v else s) := by
  have hzero : (0x200000 + 128 * n) % 128 = 0 := by omega
  refine (congrArg Host.Outcome.next (if_pos hn)).trans (congrArg Host.Outcome.next ((ctlPut_chain hs v (by omega) (by omega)).trans ?_))
  unfold State.chainWrite
  simp only [hzero, Nat.sub_zero]

/-! ### Chain records (R321, R325) -/

/-- Room in the logs moves write pointers only. -/
theorem reg_logFlush (s : State) (o : Nat) (h : ∀ k, o ≠ chainOff k + 0x20) : s.logFlush.reg o = s.reg o := by
  refine (frame_logGo s.logq s []).reg o fun hm => ?_
  obtain ⟨e, -, he⟩ := List.mem_map.mp hm
  exact h e.chain he.symm

theorem logFlush_nil (s : State) (h : s.logq = []) : s.logFlush = s := by
  unfold State.logFlush
  rw [h]
  show ({ s with logq := [] } : State) = s
  rw [← h]

theorem exec_logrd (hs : s.sysstate ≠ 4) (hn : n < 64) (hrd : (s.reg (0x200018 + 128 * n)).toNat ≤ v.toNat)
    (hwr : v.toNat ≤ (s.reg (0x200020 + 128 * n)).toNat) : ∃ t, exec (.logrd n v) s = .next t ∧ t.reg (0x200018 + 128 * n) = v
      ∧ (s.logq = [] → t = (s.setReg (0x200018 + 128 * n) v).unblock) := by
  have hput : s.ctlPut (0x200018 + 128 * n) v = (s.setReg (0x200018 + 128 * n) v).logFlush := by
    have hoff : (0x200018 + 128 * n) % 128 = 0x18 := by omega
    have hbase : 0x200018 + 128 * n - 0x18 = 0x200000 + 128 * n := by omega
    rw [ctlPut_chain hs v (by omega) (by omega)]
    unfold State.chainWrite
    simp only [hoff, hbase]
    exact if_pos ⟨by rw [show 0x200000 + 128 * n + 0x18 = 0x200018 + 128 * n by omega]; exact hrd,
      by rw [show 0x200000 + 128 * n + 0x20 = 0x200020 + 128 * n by omega]; exact hwr⟩
  refine ⟨_, (congrArg Host.Outcome.next (if_pos hn)).trans (congrArg (fun t : State => Host.Outcome.next t.unblock) hput), ?_, fun hq => ?_⟩
  · rw [unblock_reg, reg_logFlush _ _ (fun k => by unfold chainOff; omega), reg_setReg_same]
  · rw [logFlush_nil (s.setReg _ v) hq]

/-! ### Link digests (R330) -/

theorem foldl_setReg (t : State) (b : Nat) (is : List Nat) (o : Nat) :
    (is.foldl (fun u i => u.setReg (b + 8 * i) 0) t).reg o = if o ∈ is.map (fun i => b + 8 * i) then 0 else t.reg o := by
  induction is generalizing t with
  | nil => rfl
  | cons i is ih =>
    rw [List.foldl_cons, ih, List.map_cons, reg_setReg]
    by_cases ho : o = b + 8 * i <;> simp [ho]

theorem exec_linkh (hs : s.sysstate ≠ 4) (hn : n < 24) : ∃ t, exec (.linkh n v) s = .next t ∧ t.reg (0x210030 + 64 * n) = tabGet 0 s.linkLo n
    ∧ t.reg (0x210038 + 64 * n) = v ∧ ∀ i, i < 6 → t.reg (0x210000 + 64 * n + 8 * i) = 0 := by
  have hput : s.ctlPut (0x210038 + 64 * n) v = (List.range 6).foldl (fun t i => t.setReg (0x210000 + 64 * n + 8 * i) 0)
      ((s.setReg (0x210030 + 64 * n) (tabGet 0 s.linkLo n)).setReg (0x210038 + 64 * n) v) := by
    have hport : (0x210038 + 64 * n - 0x210000) / 64 = n := by omega
    have hoff : (0x210038 + 64 * n) % 64 = 0x38 := by omega
    have hbase : 0x210038 + 64 * n - 0x38 = 0x210000 + 64 * n := by omega
    have hlo : 0x210000 + 64 * n + 0x30 = 0x210030 + 64 * n := by omega
    have hhi : 0x210000 + 64 * n + 0x38 = 0x210038 + 64 * n := by omega
    rw [ctlPut_link hs v (by omega) (by omega)]
    unfold State.linkWrite
    simp only [hoff, hport, hbase, hlo, hhi]
    rfl
  have hmem (o : Nat) : o ∈ (List.range 6).map (fun i => 0x210000 + 64 * n + 8 * i) ↔ ∃ i, i < 6 ∧ 0x210000 + 64 * n + 8 * i = o := by
    simp only [List.mem_map, List.mem_range]
  refine ⟨_, (congrArg Host.Outcome.next (if_pos hn)).trans (congrArg Host.Outcome.next hput), ?_, ?_, fun i hi => ?_⟩
  · rw [foldl_setReg, if_neg (by rw [hmem]; omega), reg_setReg_other _ _ (by omega), reg_setReg_same]
  · rw [foldl_setReg, if_neg (by rw [hmem]; omega), reg_setReg_same]
  · rw [foldl_setReg, if_pos ((hmem _).mpr ⟨i, hi, rfl⟩)]

/-! ### Debug stops (R365) -/

theorem exec_debugStop (hs : s.sysstate ≠ 4) (hn : n < 384) (hf : s.feat 8 = true) (hv : v.toNat < 16) : ∃ t, exec (.debugStop n v) s = .next t
    ∧ (s.ctx.live = true → s.ctx.core = n → s.ctx.cid < 4 → v.getLsbD s.ctx.cid = true → s.ctx.dbg.getLsbD 0 = true → s.ctx.stat = .run →
        t.ctx.async = s.ctx.async ++ [{ cause := 0 }])
    ∧ ((s.ctx.core ≠ n ∨ v.getLsbD (s.ctx.cid % 4) = false ∨ s.ctx.dbg.getLsbD 0 = false ∨ s.ctx.stat ≠ .run) → t.ctx = s.ctx) := by
  have hzero : wfld v 4 60 = 0 := by
    unfold wfld
    rw [Nat.div_eq_of_lt (by omega), Nat.zero_mod]
  refine ⟨_, (congrArg Host.Outcome.next (if_pos hn)).trans (congrArg Host.Outcome.next (ctlPut_debugStop hs hn hf hzero)),
    fun hlive hcore hcid hbit hdbg hstat => ?_, fun hnot => if_neg ?_⟩
  · refine (congrArg Ctx.async (if_pos ?_)).trans rfl
    simp [hlive, hcore, Nat.mod_eq_of_lt hcid, hbit, hdbg, hstat, Nat.not_le.mpr hcid]
  · simp only [Bool.and_eq_true, beq_iff_eq]
    rintro ⟨⟨⟨⟨⟨-, hcore⟩, hbit⟩, hdbg⟩, hstat⟩, -⟩
    rcases hnot with h | h | h | h
    · exact h hcore
    · exact Bool.false_ne_true (h.symm.trans hbit)
    · exact Bool.false_ne_true (h.symm.trans hdbg)
    · exact h hstat

theorem exec_debugResume (hs : s.sysstate ≠ 4) (hn : n < 384) : exec (.debugResume n v) s = .next (s.debugResumeReq n v).unblock :=
  congrArg Host.Outcome.next ((if_pos hn).trans (congrArg State.unblock (ctlPut_debugResume hs v hn)))

/-! ### The feature lock, the zones and the scans (R357, R359, R380, R393, R395, R396) -/

theorem exec_featlock (hs : s.sysstate ≠ 4) (hv : v = 1) (h2 : s.sysstate = 2) (h0 : s.reg 0x600140 = 0) :
    ∃ t, exec (.featlock v) s = .next t ∧ t.sysstate = 3 ∧ t.reg 0x600140 = 1 := by
  refine ⟨_, congrArg Host.Outcome.next ((ctlPut_featlock hs v).trans (if_pos ⟨hv, h2, h0⟩)), ?_, ?_⟩
  · exact congrArg (fun w => wfld w 0 3) (reg_setReg_same _ 0x600000 3)
  · exact (reg_setReg_other _ 3 (by decide)).trans (reg_setReg_same s 0x600140 1)

@[simp] theorem zFloor_zoneWord (step state set ceil floor : Nat) : zFloor (zoneWord step state set ceil floor) = floor % 256 := by
  rw [zFloor, wfld, zoneWord_toNat]; omega

@[simp] theorem zCeil_zoneWord (step state set ceil floor : Nat) : zCeil (zoneWord step state set ceil floor) = ceil % 256 := by
  rw [zCeil, wfld, zoneWord_toNat]; omega

theorem exec_evac (hs : s.sysstate ≠ 4) (hn : v.toNat < 120) (h115 : v.toNat ≠ 115) (h119 : v.toNat ≠ 119) (hwet : ∀ m, m < 120 → zState (s.zone m) = 0)
    (h2 : s.sysstate = 2) : ∃ t, exec (.evac v) s = .next t ∧ zState (t.zone v.toNat) = 1 ∧ zStep (t.zone v.toNat) = 1
      ∧ zSet (t.zone v.toNat) = zSet (s.zone v.toNat) := by
  have hidle : (List.range 120).filter (fun m => zState (s.zone m) == 1) = [] :=
    List.filter_eq_nil_iff.mpr fun m hm => by rw [hwet m (List.mem_range.mp hm)]; decide
  have hput : s.ctlPut 0x612000 v = s.setZone v.toNat 1 1 (zSet (s.zone v.toNat)) := by
    rw [ctlPut_evac hs]
    unfold State.evacStart
    simp only [hidle, List.length_nil]
    exact if_neg (by have := hwet _ hn; omega)
  refine ⟨_, congrArg Host.Outcome.next hput, ?_, ?_, ?_⟩
  · rw [zone_setZone_same, zState_zoneWord]
  · rw [zone_setZone_same, zStep_zoneWord]
  · rw [zone_setZone_same, zSet_zoneWord, Nat.mod_eq_of_lt (zSet_lt _)]

theorem exec_refill (hs : s.sysstate ≠ 4) (hn : v.toNat < 120) (h : zState (s.zone v.toNat) = 2 ∨ zState (s.zone v.toNat) = 4) :
    ∃ t, exec (.refill v) s = .next t ∧ zState (t.zone v.toNat) = 3 ∧ zSet (t.zone v.toNat) = 0 := by
  have hput : s.ctlPut 0x612008 v = s.setZone v.toNat 3 1 0 := by
    rw [ctlPut_refill hs]
    exact if_neg (by omega)
  refine ⟨_, congrArg Host.Outcome.next hput, ?_, ?_⟩
  · rw [zone_setZone_same, zState_zoneWord]
  · rw [zone_setZone_same, zSet_zoneWord]

theorem wfld_byte_lt (w : Word) (lo : Nat) : wfld w lo 8 < 256 := Nat.mod_lt _ (by decide)

theorem exec_zoneWordWrite (hs : s.sysstate ≠ 4) (hn : n < 120) (hwet : zState (s.zone n) = 0) (hle : wfld v 0 8 ≤ wfld v 8 8)
    (hown : s.reg (zoneOff n - 8) = 0) : ∃ t, exec (.zoneWordWrite n v) s = .next t ∧ zFloor (t.zone n) = wfld v 0 8 ∧ zCeil (t.zone n) = wfld v 8 8
      ∧ zState (t.zone n) = 0 ∧ zSet (t.zone n) = min (max (wfld v 16 8) (wfld v 0 8)) (wfld v 8 8) := by
  have hput : s.ctlPut (zoneOff n) v = s.setReg (zoneOff n)
      (zoneWord (zStep (s.zone n)) 0 (min (max (wfld v 16 8) (wfld v 0 8)) (wfld v 8 8)) (wfld v 8 8) (wfld v 0 8)) := by
    have hzone : (zoneOff n - 0x610000) / 16 = n := by unfold zoneOff; omega
    have hword : ¬ zoneOff n % 16 = 0 := by unfold zoneOff; omega
    rw [ctlPut_zone hs v hn]
    unfold State.zoneWrite State.clampSet
    simp only [hzone, hwet, if_neg hword, if_pos hle, hown, if_true, ne_eq, not_true_eq_false, if_false]
  have hceil := wfld_byte_lt v 8
  have hreg : (s.ctlPut (zoneOff n) v).zone n = zoneWord (zStep (s.zone n)) 0 (min (max (wfld v 16 8) (wfld v 0 8)) (wfld v 8 8)) (wfld v 8 8) (wfld v 0 8) := by
    rw [hput]
    exact reg_setReg_same s _ _
  refine ⟨_, congrArg Host.Outcome.next (if_pos hn), ?_, ?_, ?_, ?_⟩
  · rw [hreg, zFloor_zoneWord, Nat.mod_eq_of_lt (wfld_byte_lt v 0)]
  · rw [hreg, zCeil_zoneWord, Nat.mod_eq_of_lt hceil]
  · rw [hreg, zState_zoneWord]
  · rw [hreg, zSet_zoneWord, Nat.mod_eq_of_lt (by omega)]

theorem exec_scan (hs : s.sysstate ≠ 4) (hn : n < 384) (hf : s.coreFenced n = false) :
    ∃ t, exec (.scan n) s = .next t ∧ (t.reg (0x230000 + 8 * n)).getLsbD 2 = true := by
  have hbit : (s.reg (atOff n) ||| 4).getLsbD 2 = true := by rw [BitVec.getLsbD_or, Bool.or_eq_true]; exact .inr (by decide)
  have hput : s.ctlPut (atOff n) (s.reg (atOff n) ||| 4)
      = (s.setBit (0x230000 + 8 * n) 1 ((s.reg (atOff n) ||| 4).getLsbD 1)).setBit (0x230000 + 8 * n) 2 true := by
    refine (ctlPut_atctl hs _ hn).trans ?_
    unfold State.atctlWrite
    rw [hf, if_neg (by decide)]
    exact if_pos hbit
  refine ⟨_, (congrArg Host.Outcome.next (if_pos hn)).trans (congrArg Host.Outcome.next hput), ?_⟩
  exact (getLsbD_setBit _ (0x230000 + 8 * n) 2 2 true (by decide)).trans (if_pos rfl)

end

end Sys2Proof.Machine

namespace Sys2Proof.Machine

/-! ### Invalidations (R311) -/

theorem exec_tlbInvalidate {s : State} {v : Word} (hs : s.sysstate ≠ 4) (h0 : wfld v 0 2 ≠ 3) (h2 : wfld v 2 14 = 0) (h48 : wfld v 48 16 = 0) :
    exec (.tlbInvalidate v) s = .next { s with tlbn := s.tlbn + 1, tlbq := s.tlbq ++ [(s.tlbn + 1, s.reg 0x3000, wfld v 0 2, v)] } :=
  congrArg Host.Outcome.next (ctlPut_tlbiv hs h0 h2 h48)

section
variable {s : State} {k sc : Nat} {root w : Word} {r : List (Nat × Word × Nat × Word)} (hq : s.tlbq = (k, root, sc, w) :: r)
include hq

/-- An invalidation waits for the walks begun before it. -/
theorem exec_tlbInvComplete_waits (h : ∃ x ∈ s.walks, x.inv < k) : exec .tlbInvComplete s = .next s := by
  show execTlbInvComplete s = _
  unfold execTlbInvComplete
  rw [hq]
  exact congrArg Host.Outcome.next (if_pos (by simpa using h))

/-- Then every TLB loses what it names. -/
theorem exec_tlbInvComplete (h : ∀ x ∈ s.walks, k ≤ x.inv) : ∃ t, exec .tlbInvComplete s = .next t ∧ t.tlbq = r ∧ t.reg 0x3010 = BitVec.ofNat 64 k
    ∧ ∀ e, e ∈ t.tlb ↔ e ∈ s.tlb ∧ ¬ (sc = 2 ∨ (e.root = root ∧ (sc = 1 ∨ wfld w 16 32 * 65536 / 2 ^ e.sh = e.page))) := by
  have hexec : exec .tlbInvComplete s
      = .next (({ s with tlbq := r, tlb := s.tlb.filter (fun e => !e.struck root sc w) } : State).setReg 0x3010 (BitVec.ofNat 64 k)) := by
    show execTlbInvComplete s = _
    unfold execTlbInvComplete
    rw [hq]
    exact congrArg Host.Outcome.next (if_neg (by simpa using h))
  refine ⟨_, hexec, rfl, reg_setReg_same _ _ _, fun e => ?_⟩
  show e ∈ s.tlb.filter (fun e => !e.struck root sc w) ↔ _
  rw [List.mem_filter, TlbEnt.struck]
  simp only [Bool.not_eq_true', ← Bool.not_eq_true, Bool.or_eq_true, Bool.and_eq_true, beq_iff_eq]

end

/-! ### Numbers that stand in memory -/

theorem memNat_congr {m n : Memory} {a k : Nat} (h : ∀ j, a ≤ j → j < a + k → memByte m j = memByte n j) : memNat m a k = memNat n a k := by
  have hread : memRead m a k = memRead n a k := List.map_congr_left fun i hi => h _ (by omega) (by have := List.mem_range.mp hi; omega)
  rw [memNat_eq_leNat, memNat_eq_leNat, hread]

/-- A write elsewhere leaves a number as it is. -/
theorem memNat_devPut_other (s : State) (pa : Nat) (bs : List Byte) (a k : Nat) (h : a + k ≤ pa ∨ pa + bs.length ≤ a) :
    memNat (s.devPut pa bs).mem a k = memNat s.mem a k :=
  memNat_congr fun j hlo hhi => memByte_devPut_out s pa bs j (by omega)

theorem memNat_devNat_other (s : State) (pa n v a k : Nat) (h : a + k ≤ pa ∨ pa + n ≤ a) : memNat (s.devNat pa n v).mem a k = memNat s.mem a k :=
  memNat_devPut_other s pa _ a k (by rw [length_leBytes]; exact h)

/-- No stack has been lost since the last cold start (R26). -/
def State.whole (s : State) : Prop := (s.reg 0x60).toNat = s.stackMap

theorem Frame.whole {L : List Nat} {s t : State} (h : Frame L s t) (hL : 0x60 ∉ L) (hs : s.whole) : t.whole := by
  unfold State.whole
  rw [h.reg _ hL, h.stackMap]
  exact hs

/-- A piece of what is written stands where it belongs. -/
theorem memRead_devPut_piece (s : State) (pa : Nat) (xs ys zs : List Byte) (h : s.whole) :
    memRead (s.devPut pa (xs ++ (ys ++ zs))).mem (pa + xs.length) ys.length = ys := by
  refine List.ext_getElem (by simp [memRead]) (fun i h1 h2 => ?_)
  simp only [memRead, List.getElem_map, List.getElem_range]
  rw [memByte_devPut s pa _ _ h, if_pos (by simp only [List.length_append]; omega), List.getD_eq_getElem?_getD,
    List.getElem?_append_right (by omega), show pa + xs.length + i - pa - xs.length = i by omega, List.getElem?_append_left h2,
    List.getElem?_eq_getElem h2, Option.getD_some]

theorem memNat_devPut_piece (s : State) (pa n v : Nat) (xs zs : List Byte) (h : s.whole) :
    memNat (s.devPut pa (xs ++ (leBytes n v ++ zs))).mem (pa + xs.length) n = v % 2 ^ (8 * n) := by
  have hread := memRead_devPut_piece s pa xs (leBytes n v) zs h
  rw [length_leBytes] at hread
  rw [memNat_eq_leNat, hread, leNat_leBytes]

/-! ### The loader's oldest request (R368, R371) -/

section
variable {s : State} {a : Nat} {r : List Nat}

/-- What a load or an unload leaves: its request is gone, and its descriptor shows a status. -/
structure Served (s t : State) (r : List Nat) (a stat : Nat) (objs : List CodeObj) : Prop where
  loadq : t.loadq = r
  registry : t.registry = objs
  stat : memNat t.mem (a + 0x20) 4 = stat % 2 ^ 32

/-- The status is written last. -/
theorem Served.of_devNat {L : List Nat} {u v : State} {stat : Nat} (hs : s.whole) (hu : Frame L { s with loadq := r } u) (hL : 0x60 ∉ L)
    (hv : v.whole ↔ u.whole) (hq : v.loadq = u.loadq) : Served s (v.devNat (a + 0x20) 4 stat) r a stat v.registry := by
  have hwhole : v.whole := hv.mpr (hu.whole hL hs)
  have hput := frame_devNat v (a + 0x20) 4 stat
  exact ⟨((congrArg State.loadq hput.rest : _) : _).trans (hq.trans (congrArg State.loadq hu.rest : _)), (congrArg State.registry hput.rest : _),
    memNat_devNat v _ 4 stat hwhole⟩

variable (hq : s.loadq = a :: r)
include hq

theorem loadHead_poisoned (h : s.poisoned a = true ∨ s.poisoned (a + 64) = true) : s.loadHead = some (a, []) := by
  unfold State.loadHead
  rw [hq]
  simp only
  rw [if_pos (by simpa using h)]

theorem loadHead_readable (ha : s.poisoned a = false) (hb : s.poisoned (a + 64) = false) : s.loadHead = some (a, memRead s.mem a 128) := by
  unfold State.loadHead
  rw [hq]
  simp only [ha, hb, Bool.or_self, Bool.false_eq_true, if_false]

theorem drop_loadq : ({ s with loadq := s.loadq.drop 1 } : State) = { s with loadq := r } := by rw [hq]; rfl

theorem served_doLoad_error {d : List Byte} {e : Nat} (hs : s.whole) (h : s.loadObj d = .error e) : Served s (s.doLoad a d) r a e s.registry := by
  unfold State.doLoad
  simp only [h, drop_loadq hq]
  exact Served.of_devNat (L := []) hs (Frame.refl _ _) (List.not_mem_nil) Iff.rfl rfl

theorem served_doLoad_ok {d : List Byte} {k : CodeObj} {e : Nat} (hs : s.whole) (h : s.loadObj d = .ok (k, e)) :
    Served s (s.doLoad a d) r a e (s.registry ++ [k]) ∧ memNat (s.doLoad a d).mem (a + 0x28) 8 = k.text.toNat := by
  unfold State.doLoad
  simp only [h, drop_loadq hq]
  have htext := frame_devNat { s with loadq := r } (a + 0x28) 8 k.text.toNat
  have hframe := htext.trans (frame_devPut _ (a + 0x40) (hashBytes k.idig))
  have hserved := Served.of_devNat (a := a) (stat := e) (v := { ((({ s with loadq := r } : State).devNat (a + 0x28) 8 k.text.toNat).devPut (a + 0x40)
    (hashBytes k.idig)) with
    registry := ((({ s with loadq := r } : State).devNat (a + 0x28) 8 k.text.toNat).devPut (a + 0x40) (hashBytes k.idig)).registry ++ [k] }) hs hframe List.not_mem_nil Iff.rfl rfl
  refine ⟨⟨hserved.loadq, hserved.registry.trans (congrArg (· ++ [k]) (congrArg State.registry hframe.rest : _)), hserved.stat⟩, ?_⟩
  rw [memNat_devNat_other _ _ _ _ _ _ (by omega)]
  refine (memNat_devPut_other _ _ _ _ _ (by omega)).trans ((memNat_devNat { s with loadq := r } _ 8 _ hs).trans ?_)
  exact Nat.mod_eq_of_lt k.text.isLt

theorem served_doUnload_bad {d : List Byte} (hs : s.whole) (h : descOk d = false) : Served s (s.doUnload a d) r a 3 s.registry := by
  unfold State.doUnload
  simp only [h, Bool.not_false, if_true, drop_loadq hq]
  exact Served.of_devNat (L := []) hs (Frame.refl _ _) (List.not_mem_nil) Iff.rfl rfl

/-- Whether a registered object is the one of a root and an address. -/
def CodeObj.isAt (k : CodeObj) (root text : Word) : Bool := k.ptroot == root && k.text == text

theorem served_doUnload_ok {d : List Byte} (hs : s.whole) (h : descOk d = true) :
    let here (k : CodeObj) : Bool := k.isAt (BitVec.ofNat 64 (numAt d 0x18 8)) (BitVec.ofNat 64 (numAt d 0x28 8))
    Served s (s.doUnload a d) r a (if s.registry.any here then 9 else 10) (s.registry.filter (fun k => !here k)) := by
  intro here
  have hframe := frame_devPut { s with loadq := r } (a + 0x40) (List.replicate 32 0)
  have hregistry : (({ s with loadq := r } : State).devPut (a + 0x40) (List.replicate 32 0)).registry = s.registry := (congrArg State.registry hframe.rest : _)
  have hcode : (s.codeAt (BitVec.ofNat 64 (numAt d 0x18 8)) (BitVec.ofNat 64 (numAt d 0x28 8))).isSome = s.registry.any here := List.isSome_find?
  unfold State.doUnload
  simp only [h, Bool.not_true, Bool.false_eq_true, if_false, drop_loadq hq, hcode]
  cases hany : s.registry.any here with
  | true =>
    rw [if_pos rfl, if_pos rfl]
    have hserved := Served.of_devNat (a := a) (stat := 9) (v := { (({ s with loadq := r } : State).devPut (a + 0x40) (List.replicate 32 0)) with
      registry := (({ s with loadq := r } : State).devPut (a + 0x40) (List.replicate 32 0)).registry.filter (fun k => !here k) })
      hs hframe List.not_mem_nil Iff.rfl rfl
    exact ⟨hserved.loadq, hserved.registry.trans (congrArg (List.filter _) hregistry), hserved.stat⟩
  | false =>
    rw [if_neg (by decide), if_neg (by decide)]
    have hserved := Served.of_devNat (a := a) (stat := 10) hs hframe List.not_mem_nil Iff.rfl rfl
    refine ⟨hserved.loadq, hserved.registry.trans (hregistry.trans (List.filter_eq_self.mpr fun k hk => ?_).symm), hserved.stat⟩
    rw [List.any_eq_false.mp hany k hk |> Bool.eq_false_iff.mpr]
    rfl

end

theorem exec_load {s : State} {a : Nat} {d : List Byte} (h : s.loadHead = some (a, d)) :
    exec .load s = .next (if numAt d 0 8 = 2 then s else s.doLoad a d) := by
  show execLoad s = _
  unfold execLoad
  rw [h]

theorem exec_unload {s : State} {a : Nat} {d : List Byte} (h : s.loadHead = some (a, d)) :
    exec .unload s = .next (if numAt d 0 8 = 2 then s.doUnload a d else s) := by
  show execUnload s = _
  unfold execUnload
  rw [h]

theorem loadHead_empty {s : State} (h : s.loadq = []) : s.loadHead = none := by
  unfold State.loadHead
  rw [h]

/-- A descriptor without a byte is a bad request. -/
theorem loadObj_nil (s : State) : s.loadObj [] = .error 3 := rfl

/-! ### The granules of a dump (R366) -/

/-- The head of a granule of an image. -/
def dumpHead (va pa : Nat) : List Byte := leBytes 8 va ++ leBytes 8 pa ++ leBytes 8 65536 ++ List.replicate 40 0

theorem length_dumpHead (va pa : Nat) : (dumpHead va pa).length = 64 := by simp [dumpHead]

/-- The bytes of a granule as the task's launch sees them. -/
def State.dumpBytes (s : State) (arr pa : Nat) : List Byte := (List.range 65536).map (fun i => s.devByte arr (pa + i))

theorem length_dumpBytes (s : State) (arr pa : Nat) : (s.dumpBytes arr pa).length = 65536 := by rw [State.dumpBytes, List.length_map, List.length_range]

theorem length_granule (s : State) (va pa arr : Nat) : (dumpHead va pa ++ s.dumpBytes arr pa).length = 65600 := by
  rw [List.length_append, length_dumpHead, length_dumpBytes]

theorem put_none {s : State} {d : Dump} {b : List Byte} (h : d.size < d.out + b.length) : d.put s b = none := if_pos h

theorem put_some {s : State} {d : Dump} {b : List Byte} (h : d.out + b.length ≤ d.size) :
    d.put s b = some (s.devPut (d.dest + d.out) b, { d with out := d.out + b.length }) := if_neg (Nat.not_lt.mpr h)

section
variable {s : State} {d : Dump} (hd : s.dump = some d)
include hd

theorem exec_dumpGranule (hw : d.wait = false) : exec .dumpGranule s = .next s.dumpCopy.unblock := by
  have hstep : s.dumpStep = s.dumpCopy := by
    unfold State.dumpStep
    rw [hd]
    simp only [hw, Bool.false_eq_true, if_false]
  exact congrArg (fun t : State => Host.Outcome.next t.unblock) hstep

theorem dumpCopy_done (h : d.todo = []) : s.dumpCopy = s.endDump d 2 := by
  unfold State.dumpCopy
  rw [hd]
  simp only [h]

variable {va pa : Nat} {r : List (Nat × Nat)} (h : d.todo = (va, pa) :: r)
include h

theorem dumpCopy_put_none (hput : d.put s (dumpHead va pa ++ s.dumpBytes d.arr pa) = none) : s.dumpCopy = s.endDump d 3 := by
  unfold dumpHead State.dumpBytes at hput
  unfold State.dumpCopy
  rw [hd]
  simp only [h]
  rw [hput]

theorem dumpCopy_put_some {t : State} {e : Dump} (hput : d.put s (dumpHead va pa ++ s.dumpBytes d.arr pa) = some (t, e)) :
    s.dumpCopy = { t.dumpMarks d pa (d.dest + d.out + 64) with dump := some { e with todo := r, pages := e.pages + 1 } } := by
  unfold dumpHead State.dumpBytes at hput
  unfold State.dumpCopy
  rw [hd]
  simp only [h]
  rw [hput]

theorem dumpCopy_short (hsize : d.size < d.out + 65600) : s.dumpCopy = s.endDump d 3 :=
  dumpCopy_put_none hd h (put_none (by rw [length_granule]; exact hsize))

theorem dumpCopy_next (hsize : d.out + 65600 ≤ d.size) : s.dumpCopy
    = { (s.devPut (d.dest + d.out) (dumpHead va pa ++ s.dumpBytes d.arr pa)).dumpMarks d pa (d.dest + d.out + 64) with
        dump := some { d with out := d.out + 65600, todo := r, pages := d.pages + 1 } } := by
  have hput := put_some (s := s) (d := d) (b := dumpHead va pa ++ s.dumpBytes d.arr pa) (by rw [length_granule]; exact hsize)
  rw [length_granule] at hput
  exact dumpCopy_put_some hd h hput

end

/-- Marks are beside memory. -/
theorem mem_dumpMarks (s : State) (d : Dump) (pa dst : Nat) : (s.dumpMarks d pa dst).mem = s.mem :=
  foldl_keeps State.mem _ (fun t i => by split <;> rfl) _ s

/-- The end of a dump leaves its status and its pages in its descriptor. -/
theorem endDump_status (s : State) (d : Dump) (stat : Nat) (hs : s.whole) :
    (s.endDump d stat).dump = none ∧ memNat (s.endDump d stat).mem (d.desc + 0x20) 8 = stat % 2 ^ 64
      ∧ memNat (s.endDump d stat).mem (d.desc + 0x30) 8 = d.pages % 2 ^ 64 := by
  have hstat := frame_devNat s (d.desc + 0x20) 8 stat
  refine ⟨rfl, ?_, memNat_devNat _ _ 8 _ (hstat.whole List.not_mem_nil hs)⟩
  exact (memNat_devNat_other _ _ _ _ _ _ (by omega)).trans (memNat_devNat s _ 8 stat hs)

/-- A granule stands in the image behind its head. -/
theorem granule_written (s : State) (dst va pa arr : Nat) (hs : s.whole) :
    let m := (s.devPut dst (dumpHead va pa ++ s.dumpBytes arr pa)).mem
    memNat m dst 8 = va % 2 ^ 64 ∧ memNat m (dst + 8) 8 = pa % 2 ^ 64 ∧ memNat m (dst + 16) 8 = 65536
      ∧ ∀ i, i < 65536 → memByte m (dst + 64 + i) = s.devByte arr (pa + i) := by
  intro m
  have hva := memNat_devPut_piece s dst 8 va [] (leBytes 8 pa ++ leBytes 8 65536 ++ List.replicate 40 0 ++ s.dumpBytes arr pa) hs
  have hpa := memNat_devPut_piece s dst 8 pa (leBytes 8 va) (leBytes 8 65536 ++ List.replicate 40 0 ++ s.dumpBytes arr pa) hs
  have hlen := memNat_devPut_piece s dst 8 65536 (leBytes 8 va ++ leBytes 8 pa) (List.replicate 40 0 ++ s.dumpBytes arr pa) hs
  simp only [List.nil_append, List.length_nil, List.length_append, length_leBytes, ← List.append_assoc] at hva hpa hlen
  refine ⟨hva, hpa, hlen, fun i hi => ?_⟩
  have hbytes := length_dumpBytes s arr pa
  refine (memByte_devPut s dst _ _ hs).trans ?_
  rw [List.length_append, length_dumpHead, hbytes, if_pos (by omega), List.getD_eq_getElem?_getD,
    List.getElem?_append_right (by rw [length_dumpHead]; omega), length_dumpHead, show dst + 64 + i - dst - 64 = i by omega, State.dumpBytes,
    List.getElem?_map, List.getElem?_range hi]
  rfl

end Sys2Proof.Machine

section
open Sys2Proof Sys2Proof.Machine

/-- Settles O54: a store is the write of its register, and what stores begin goes on request by request and granule by granule. -/
theorem controlStores : Obligations.ControlStores := by
  unfold Obligations.ControlStores
  intro s v n hs
  refine ⟨?wake, exec_qdescWrite hs, fun o u => exec_ctlWrite, exec_chainBind hs, exec_logrd hs, exec_linkh hs, exec_tlbInvalidate hs, ?loadreq,
    exec_debugStop hs, exec_debugResume hs, congrArg Host.Outcome.next (ctlPut_dumpreq hs v), exec_featlock hs, exec_evac hs, exec_refill hs,
    exec_zoneWordWrite hs, exec_scan hs, fun k root sc w r hq => ⟨exec_tlbInvComplete_waits hq, exec_tlbInvComplete hq⟩, ?poisoned, ?readable, ?empty,
    ?dump⟩
  case wake =>
    intro vf hn w has
    exact ⟨fun h => exec_wakeWrite vf ((bar2Has_iff hs vf hn).mpr h), fun h => exec_wakeWrite_none vf (mt (bar2Has_iff hs vf hn).mp h)⟩
  case loadreq => exact fun h40 h0 hq => congrArg Host.Outcome.next (ctlPut_loadreq hs h40 h0 hq)
  case poisoned =>
    intro a r hq hwhole hp
    have hserved := served_doLoad_error hq hwhole (loadObj_nil s)
    exact ⟨_, exec_load (loadHead_poisoned hq hp), hserved.loadq, hserved.registry, hserved.stat⟩
  case readable =>
    intro a r hq hwhole ha hb d
    have hload := exec_load (loadHead_readable hq ha hb)
    have hunload := exec_unload (loadHead_readable hq ha hb)
    refine ⟨fun e hd he => ?_, fun k e hd he => ?_, fun hd => hload.trans (by rw [if_pos hd]), fun hd => hunload.trans (by rw [if_neg hd]),
      fun hd hok => ?_, fun hd hok => ?_⟩
    · have hserved := served_doLoad_error hq hwhole he
      exact ⟨_, hload.trans (by rw [if_neg hd]), hserved.loadq, hserved.registry, hserved.stat⟩
    · obtain ⟨hserved, htext⟩ := served_doLoad_ok hq hwhole he
      exact ⟨_, hload.trans (by rw [if_neg hd]), hserved.loadq, hserved.registry, hserved.stat, htext⟩
    · have hserved := served_doUnload_bad hq hwhole hok
      exact ⟨_, hunload.trans (by rw [if_pos hd]), hserved.loadq, hserved.registry, hserved.stat⟩
    · have hserved := served_doUnload_ok hq hwhole hok
      refine ⟨_, hunload.trans (by rw [if_pos hd]), hserved.loadq, hserved.registry, hserved.stat.trans (Nat.mod_eq_of_lt ?_)⟩
      split <;> decide
  case empty =>
    intro hq
    have hhead := loadHead_empty hq
    constructor
    · show execLoad s = _
      unfold execLoad
      rw [hhead]
    · show execUnload s = _
      unfold execUnload
      rw [hhead]
  case dump =>
    intro d hd hw hwhole
    have hexec := exec_dumpGranule hd hw
    refine ⟨fun h => ?_, fun va pa r h hsize => ?_, fun va pa r h hsize => ?_⟩
    · obtain ⟨hnone, hstat, hpages⟩ := endDump_status s d 2 hwhole
      rw [dumpCopy_done hd h] at hexec
      exact ⟨_, hexec, hnone, hstat, hpages⟩
    · obtain ⟨hnone, hstat, -⟩ := endDump_status s d 3 hwhole
      rw [dumpCopy_short hd h hsize] at hexec
      exact ⟨_, hexec, hnone, hstat⟩
    · rw [dumpCopy_next hd h hsize] at hexec
      refine ⟨_, hexec, rfl, ?_⟩
      simp only [unblock_mem, mem_dumpMarks]
      exact granule_written s (d.dest + d.out) va pa d.arr hwhole

end

/-! ## Memories in their canonical form (R166, R177)

A memory changes by writes and by clearing alone, and both leave it in its canonical form; so a state's memories keep theirs where its parts do. -/

namespace Sys2Proof.Machine

open Sys2Proof (MemForms)

/-! ### Results whose states keep the form -/

/-- Every value of an optional result has the property. -/
def OptAll {α : Type} (P : α → Prop) (o : Option α) : Prop := ∀ x, o = some x → P x

/-- Every value that a computation ends in has the property. -/
def Ends {ε α : Type} (P : α → Prop) (r : Except ε α) : Prop := ∀ x, r = .ok x → P x

/-- The next state has the property. -/
def NextAll (P : State → Prop) (r : Res) : Prop := ∀ t, r = .next t → P t

section
variable {ε α β : Type} {P : α → Prop} {Q : β → Prop}

theorem opt_none : OptAll P none := nofun

theorem opt_some {x : α} (h : P x) : OptAll P (some x) := fun _ he => Option.some.inj he ▸ h

theorem opt_map {o : Option β} {f : β → α} (ho : OptAll Q o) (h : ∀ x, Q x → P (f x)) : OptAll P (o.map f) := by
  cases o with
  | none => exact opt_none
  | some x => exact opt_some (h x (ho x rfl))

theorem opt_bind {o : Option β} {f : β → Option α} (ho : OptAll Q o) (h : ∀ x, Q x → OptAll P (f x)) : OptAll P (o.bind f) := by
  cases o with
  | none => exact opt_none
  | some x => exact h x (ho x rfl)

/-- A lookup that carries no state says nothing of the states behind it. -/
theorem opt_bind_of {o : Option β} {f : β → Option α} (h : ∀ x, OptAll P (f x)) : OptAll P (o.bind f) :=
  opt_bind (Q := fun _ => True) (fun _ _ => trivial) fun x _ => h x

theorem opt_foldl {f : α → β → Option α} (hf : ∀ x y, P x → OptAll P (f x y)) {ys : List β} {o : Option α} (ho : OptAll P o) :
    OptAll P (ys.foldl (fun o y => o.bind (fun x => f x y)) o) :=
  List.foldlRecOn (motive := OptAll P) _ _ ho (fun _ hb y _ => opt_bind hb fun x hx => hf x y hx)

theorem ends_error (e : ε) : Ends P (.error e : Except ε α) := nofun

theorem ends_ok {x : α} (h : P x) : Ends P (.ok x : Except ε α) := fun _ he => Except.ok.inj he ▸ h

theorem ends_pure {x : α} (h : P x) : Ends P (pure x : Except ε α) := ends_ok h

theorem ends_bind {q : Except ε β} {f : β → Except ε α} (hq : Ends Q q) (h : ∀ x, Q x → Ends P (f x)) : Ends P (q >>= f) := by
  cases q with
  | error e => exact ends_error e
  | ok x => exact h x (hq x rfl)

/-- A check that carries no state says nothing of the states behind it. -/
theorem ends_then {q : Except ε β} {f : β → Except ε α} (h : ∀ x, Ends P (f x)) : Ends P (q >>= f) :=
  ends_bind (Q := fun _ => True) (fun _ _ => trivial) fun x _ => h x

theorem opt_ite {c : Prop} [Decidable c] {a b : Option α} (ha : OptAll P a) (hb : OptAll P b) : OptAll P (if c then a else b) := by
  split
  · exact ha
  · exact hb

theorem ends_ite {c : Prop} [Decidable c] {a b : Except ε α} (ha : Ends P a) (hb : Ends P b) : Ends P (if c then a else b) := by
  split
  · exact ha
  · exact hb

/-- The state of a pair that is named by its parts. -/
theorem fst_of {p : State × α} {t : State} {x : α} (h : MemForms p.1) (he : p = (t, x)) : MemForms t := by
  subst he
  exact h

theorem fst_ite {c : Prop} [Decidable c] {a b : State × α} (ha : MemForms a.1) (hb : MemForms b.1) : MemForms (if c then a else b).1 := by
  split
  · exact ha
  · exact hb

end

section
variable {α : Type} {s t : State} {P : State → Prop}

theorem next_next (h : P s) : NextAll P (.next s) := fun _ he => Host.Outcome.next.inj he ▸ h

theorem next_ite {c : Prop} [Decidable c] {a b : Res} (ha : NextAll P a) (hb : NextAll P b) : NextAll P (if c then a else b) := by
  split
  · exact ha
  · exact hb

/-- A slot that holds or traps leaves every memory as it was. -/
theorem next_finish {r : SlotR State} (h : MemForms s) (hr : Ends MemForms r) : NextAll MemForms (finish s r) :=
  fun _ he => of_finish hr (fun _ _ _ => h) he

theorem forms_ite {c : Prop} [Decidable c] (ha : MemForms s) (hb : MemForms t) : MemForms (if c then s else t) := by
  split
  · exact ha
  · exact hb

theorem forms_foldl {f : State → α → State} (hf : ∀ t x, MemForms t → MemForms (f t x)) {xs : List α} (h : MemForms s) :
    MemForms (xs.foldl f s) := by
  induction xs generalizing s with
  | nil => exact h
  | cons x xs ih => exact ih (hf s x h)

theorem forms_getD {o : Option State} (ho : OptAll MemForms o) (h : MemForms s) : MemForms (o.getD s) := by
  cases o with
  | none => exact h
  | some t => exact ho t rfl

end

/-! ### The writes -/

section
variable {s : State}

/-- The memories of a state keep their form whatever else of it changes. -/
theorem forms_with {ctx parked saved iss rows pline pbuf wake ctl stackMap tb xq loads engs leaves trees logq gangs nextGang launches
    nextArr registry loadq shadows spills millis deadq reserved resvFor clock trips testEnd scans locks conflicts confOvf
    snaps tlb walks tlbn tlbq dump signedAt lastSign spdm measure lused collSeq charged pools depSeen noSplice vfOn plog txq
    retries collRx wasReady recov linkLo inputs free since turn}
    (h : MemForms s) : MemForms { s with
      ctx := ctx, parked := parked, saved := saved, iss := iss, rows := rows, pline := pline, pbuf := pbuf, wake := wake, ctl := ctl,
      stackMap := stackMap, tb := tb, xq := xq, loads := loads, engs := engs, leaves := leaves, trees := trees, logq := logq, gangs := gangs,
      nextGang := nextGang, launches := launches, nextArr := nextArr, registry := registry, loadq := loadq, shadows := shadows, spills := spills,
      millis := millis, deadq := deadq, reserved := reserved, resvFor := resvFor, clock := clock, trips := trips, testEnd := testEnd,
      scans := scans, locks := locks, conflicts := conflicts, confOvf := confOvf, snaps := snaps, tlb := tlb, walks := walks, tlbn := tlbn,
      tlbq := tlbq, dump := dump, signedAt := signedAt, lastSign := lastSign, spdm := spdm, measure := measure, lused := lused, collSeq := collSeq,
      charged := charged, pools := pools, depSeen := depSeen, noSplice := noSplice, vfOn := vfOn, plog := plog, txq := txq, retries := retries,
      collRx := collRx, wasReady := wasReady, recov := recov, linkLo := linkLo, inputs := inputs, free := free, since := since, turn := turn } := h

theorem forms_setMem {m : Memory} (h : MemForms s) (hm : memWf m = true) : MemForms { s with mem := m } := ⟨hm, h.2⟩

theorem forms_setHost {m : Memory} (h : MemForms s) (hm : memWf m = true) : MemForms { s with host := m } := ⟨h.1, hm, h.2.2⟩

theorem forms_setPeer {m : Memory} (h : MemForms s) (hm : memWf m = true) : MemForms { s with peer := m } := ⟨h.1, h.2.1, hm, h.2.2.2⟩

theorem forms_bufMem {b : Nat} (h : MemForms s) : memWf (s.bufMem b) = true := by
  obtain ⟨-, -, -, hw, ha, hs⟩ := h
  unfold State.bufMem
  split
  · exact hw
  · split
    · exact ha
    · exact hs

theorem forms_setBuf {b : Nat} {m : Memory} (h : MemForms s) (hm : memWf m = true) : MemForms (s.setBuf b m) := by
  obtain ⟨hmem, hhost, hpeer, hw, ha, hs⟩ := h
  unfold State.setBuf
  split
  · exact ⟨hmem, hhost, hpeer, hm, ha, hs⟩
  · split
    · exact ⟨hmem, hhost, hpeer, hw, hm, hs⟩
    · exact ⟨hmem, hhost, hpeer, hw, ha, hm⟩

theorem forms_devPut {pa : Nat} {bs : List Byte} (h : MemForms s) : MemForms (s.devPut pa bs) := by
  have hrest := devPut_frame s pa bs
  have hkept : ∀ g : State → Memory, (∀ u m p, g { u with mem := m, pline := p } = g u) → g (s.devPut pa bs) = g s :=
    fun g hg => (hg _ _ _).symm.trans (congrArg g hrest)
  obtain ⟨hmem, hhost, hpeer, hw, ha, hs⟩ := h
  unfold MemForms
  rw [hkept State.host fun _ _ _ => rfl, hkept State.peer fun _ _ _ => rfl, hkept State.wbuf fun _ _ _ => rfl, hkept State.abuf fun _ _ _ => rfl,
    hkept State.sbuf fun _ _ _ => rfl]
  exact ⟨devPut_wf s pa bs hmem, hhost, hpeer, hw, ha, hs⟩

theorem forms_touch {ea : Nat} {wr : Bool} (h : MemForms s) : MemForms (s.touch ea wr) := by
  unfold State.touch
  split
  · exact h
  · exact forms_setMem h (memWrite_wf _ _ _ h.1)

theorem forms_putBuf {b k : Nat} {bs : List Byte} (h : MemForms s) : MemForms (s.putBuf b k bs) :=
  forms_setBuf h (memWrite_wf _ _ _ (forms_bufMem h))

theorem forms_moveBuf {b src dst n : Nat} (h : MemForms s) : MemForms (s.moveBuf b src dst n) :=
  forms_setBuf h (memWrite_wf _ _ _ (memClear_wf _ _ _ (forms_bufMem h)))

theorem forms_wipeCore {n : Nat} (h : MemForms s) : MemForms (s.wipeCore n) := by
  obtain ⟨hmem, hhost, hpeer, hw, ha, hs⟩ := h
  exact ⟨hmem, hhost, hpeer, memClear_wf _ _ _ hw, memClear_wf _ _ _ ha, memClear_wf _ _ _ hs⟩

theorem forms_putPeer {k : Nat} {bs : List Byte} (h : MemForms s) : MemForms { s with peer := memWrite s.peer k bs } :=
  forms_setPeer h (memWrite_wf _ _ _ h.2.2.1)

theorem forms_putHost {k : Nat} {bs : List Byte} (h : MemForms s) : MemForms { s with host := memWrite s.host k bs } :=
  forms_setHost h (memWrite_wf _ _ _ h.2.1)

theorem forms_devWrite {arr pa : Nat} {bs : List Byte} (h : MemForms s) : MemForms (s.devWrite arr pa bs) := by
  unfold State.devWrite
  split
  · exact h
  · exact forms_ite (forms_devPut h) (forms_putPeer h)

end

end Sys2Proof.Machine

/-! ### The parts of the state, in the order of the model -/

namespace Sys2Proof.Machine

open Sys2Proof (MemForms)

section
variable {s : State}

theorem forms_setRow {core r z} (h : MemForms s) : MemForms (s.setRow core r z) := h

theorem forms_keepRow {r} (h : MemForms s) : MemForms (s.keepRow r) := forms_ite h h

theorem forms_post {p} (h : MemForms s) : MemForms (s.post p) := h

theorem forms_postS {n lat v} (h : MemForms s) : MemForms (s.postS n lat v) := forms_post h

theorem forms_postP {n lat v} (h : MemForms s) : MemForms (s.postP n lat v) := forms_post h

theorem forms_postRow {r lat val msk flags} (h : MemForms s) : MemForms (s.postRow r lat val msk flags) := forms_post h

theorem forms_postV {n lat val msk flags} (h : MemForms s) : MemForms (s.postV n lat val msk flags) := forms_postRow h

theorem forms_postF {flags} (h : MemForms s) : MemForms (s.postF flags) := forms_post h

theorem forms_setLaunch {l} (h : MemForms s) : MemForms (s.setLaunch l) := h

theorem forms_count (h : MemForms s) : MemForms s.count := forms_ite h h

theorem forms_takeLeaf (h : MemForms s) : MemForms s.takeLeaf := h

theorem forms_setReg {o v} (h : MemForms s) : MemForms (s.setReg o v) := h

theorem forms_setBit {o b v} (h : MemForms s) : MemForms (s.setBit o b v) := forms_setReg h

theorem forms_bump {o} (h : MemForms s) : MemForms (s.bump o) := forms_setReg h

theorem forms_takeMeasure {i v} (h : MemForms s) : MemForms (s.takeMeasure i v) := h

theorem forms_markLine {pa b} (h : MemForms s) : MemForms (s.markLine pa b) := h

theorem forms_clearLines {pa n} (h : MemForms s) : MemForms (s.clearLines pa n) := h

theorem forms_devNat {pa n v} (h : MemForms s) : MemForms (s.devNat pa n v) := forms_devPut h

theorem forms_baseUpd {u b a} (h : MemForms s) : MemForms (s.baseUpd u b a) := forms_ite (forms_postS h) h

theorem forms_addAll {o d} (rs : List Rcb) : ∀ {s : State}, MemForms s → MemForms (s.addAll o d rs) := by
  induction rs with
  | nil => exact id
  | cons r rs ih => exact fun h => ih (forms_devNat h)

theorem forms_chargeMem {rcb n} (h : MemForms s) : OptAll MemForms (s.chargeMem rcb n) := by
  unfold State.chargeMem
  split
  · exact opt_none
  · exact opt_ite (opt_some (forms_addAll _ h)) opt_none

theorem forms_freeMem {rcb n} (h : MemForms s) : MemForms (s.freeMem rcb n) := by
  unfold State.freeMem
  split
  · exact h
  · exact forms_addAll _ h

theorem forms_addOwn {o d} (gs : List Grant) : ∀ {s : State}, MemForms s → MemForms (s.addOwn o d gs) := by
  induction gs with
  | nil => exact id
  | cons g gs ih => exact fun h => ih (forms_ite h (forms_devNat h))

theorem forms_chargeOwn {l n} (h : MemForms s) : OptAll MemForms (s.chargeOwn l n) :=
  opt_ite (opt_some h) (opt_ite (opt_some (forms_addOwn _ h)) opt_none)

theorem forms_freeOwn {l n} (h : MemForms s) : MemForms (s.freeOwn l n) := forms_ite h (forms_addOwn _ h)

theorem forms_addCused {l d} (h : MemForms s) : MemForms (s.addCused l d) := forms_ite h (forms_addOwn _ h)

theorem forms_cache {e} (h : MemForms s) : MemForms (s.cache e) := by
  unfold State.cache
  dsimp only
  split
  · exact forms_ite h h
  · exact h

theorem forms_beginWalk {c va} (h : MemForms s) : MemForms (s.beginWalk c va) := by
  unfold State.beginWalk
  split <;> exact h

theorem forms_touchLeaf {c e wr} (h : MemForms s) : MemForms (s.touchLeaf c e wr) := by
  unfold State.touchLeaf
  split
  · split
    · exact forms_ite (forms_touch h) h
    · exact h
  · exact h

theorem forms_touched {c e wr} (h : MemForms s) : MemForms (s.touched c e wr) := by
  unfold State.touched
  split
  · exact forms_cache (forms_touchLeaf h)
  · exact h

theorem forms_takeShadow {arr pa} (h : MemForms s) : OptAll MemForms (s.takeShadow arr pa) := by
  unfold State.takeShadow
  split
  · exact opt_some h
  · dsimp only
    split
    · exact opt_none
    · exact opt_map (forms_chargeOwn h) fun _ hx => hx

theorem forms_putSegs {b} (xs : List (Nat × Nat)) : ∀ {s : State} {bs : List Byte}, MemForms s → MemForms (s.putSegs b xs bs) := by
  induction xs with
  | nil => exact id
  | cons x xs ih => exact fun h => ih (forms_putBuf h)

theorem forms_wakePut {q v} (h : MemForms s) : MemForms (s.wakePut q v) := h

theorem forms_writePlace {arr p bs} (h : MemForms s) : MemForms (s.writePlace arr p bs) := by
  unfold State.writePlace
  split
  · exact forms_devWrite h
  · exact forms_putHost h
  · exact forms_devWrite h
  · exact forms_putBuf h
  · exact forms_putSegs _ h
  · exact forms_setRow h
  · exact forms_wakePut h
  · exact h

theorem forms_put {d bs} (h : MemForms s) : OptAll (fun p => MemForms p.1) (Dump.put d s bs) := opt_ite opt_none (opt_some (forms_devPut h))

theorem forms_endDump {d stat} (h : MemForms s) : MemForms (s.endDump d stat) := forms_with (forms_devNat (forms_devNat h))

theorem forms_dumpMarks {d pa dst} (h : MemForms s) : MemForms (s.dumpMarks d pa dst) :=
  forms_foldl (fun _ _ ht => forms_ite (forms_markLine ht) ht) h

theorem forms_dumpCopy (h : MemForms s) : MemForms s.dumpCopy := by
  cases hd : s.dump with
  | none =>
    unfold State.dumpCopy
    rw [hd]
    exact h
  | some d =>
    cases htodo : d.todo with
    | nil =>
      rw [dumpCopy_done hd htodo]
      exact forms_endDump h
    | cons x r =>
      cases hput : d.put s (dumpHead x.1 x.2 ++ s.dumpBytes d.arr x.2) with
      | none =>
        rw [dumpCopy_put_none hd htodo hput]
        exact forms_endDump h
      | some p =>
        rw [dumpCopy_put_some hd htodo hput]
        exact forms_with (forms_dumpMarks (forms_put h _ hput))

theorem forms_dumpPast {held} (n : Nat) : ∀ {s : State}, MemForms s → MemForms (State.dumpPast held n s) := by
  induction n with
  | zero => exact id
  | succ n ih => exact fun h => forms_ite (ih (forms_dumpCopy h)) h

theorem forms_dumpFirst {held} (h : MemForms s) : MemForms (s.dumpFirst held) := by
  unfold State.dumpFirst
  split
  · exact h
  · exact forms_dumpPast _ h

theorem forms_dumpVa {root va n} (h : MemForms s) : MemForms (s.dumpVa root va n) := forms_dumpFirst h

theorem forms_sendTo {q rec64} (h : MemForms s) : OptAll MemForms (s.sendTo q rec64) := by
  unfold State.sendTo
  split
  · exact opt_none
  · split
    · exact opt_none
    · split
      · exact opt_none
      · dsimp only
        split
        · exact opt_some (forms_wakePut (forms_devNat (forms_devPut (forms_touch (forms_dumpVa h)))))
        · exact opt_none

theorem forms_sendMgt {b} (h : MemForms s) : MemForms (s.sendMgt b) := by
  unfold State.sendMgt
  split
  · next he => exact forms_sendTo h _ he
  · exact forms_bump h

theorem forms_sendRec {r route} (h : MemForms s) : MemForms (s.sendRec r route) := by
  unfold State.sendRec
  dsimp only
  split
  · exact forms_sendMgt h
  · split
    · refine forms_sendMgt ?_
      split
      · next he => exact forms_sendTo h _ he
      · exact forms_sendMgt h
    · split
      · next he => exact forms_sendTo h _ he
      · exact forms_sendMgt h

theorem forms_ctxRec {c r} (h : MemForms s) : MemForms (s.ctxRec c r) := forms_sendRec h

theorem forms_note {arr task rank idx da db dc} (h : MemForms s) : MemForms (s.note arr task rank idx da db dc) := by
  unfold State.note
  split
  · exact h
  · split
    · exact h
    · exact forms_ite (forms_setLaunch h) h

theorem forms_noteLeaf {arr task rank idx rec128} (h : MemForms s) : MemForms (s.noteLeaf arr task rank idx rec128) := by
  unfold State.noteLeaf
  split
  · exact h
  · split
    · exact h
    · exact forms_ite (forms_setLaunch h) h

theorem forms_retire {arr task rank idx rec128} (h : MemForms s) : MemForms (s.retire arr task rank idx rec128) := forms_with (forms_noteLeaf h)

theorem forms_logPut {n low e} (h : MemForms s) : OptAll MemForms (s.logPut n low e) :=
  opt_ite opt_none (opt_ite opt_none (opt_some (forms_setReg (forms_devPut (forms_ite h (forms_devPut h))))))

theorem forms_chargeLog {rcbs n} (h : MemForms s) : MemForms (s.chargeLog rcbs n) := h

theorem forms_logGo (es : List LogWait) : ∀ {s : State} {stuck : List (Nat × Nat)}, MemForms s → MemForms (s.logGo stuck es).1 := by
  induction es with
  | nil => exact id
  | cons e es ih =>
    intro s stuck h
    rw [State.logGo]
    split
    · next he => exact ih (forms_chargeLog ((opt_ite opt_none (forms_logPut h)) _ he))
    · exact ih h

theorem forms_logFlush (h : MemForms s) : MemForms s.logFlush := forms_with (forms_logGo _ h)

theorem forms_logEntry {l low e} (h : MemForms s) : MemForms (s.logEntry l low e) := forms_ite h (forms_logFlush h)

theorem forms_logLow {arr e} (h : MemForms s) : MemForms (s.logLow arr e) := by
  unfold State.logLow
  split
  · exact h
  · exact forms_logEntry h

theorem forms_putLevels {l i rec128 hs} (vs : List Nat) :
    ∀ {s : State} {t : RankTree}, MemForms s → MemForms (s.putLevels l t i rec128 hs vs).1 := by
  induction vs with
  | nil => exact id
  | cons v vs ih =>
    intro s t h
    rw [State.putLevels]
    split
    · exact h
    · next he => exact ih (forms_chargeLog (forms_logPut h _ he))

theorem forms_logLeaf {i rec128 hs} (n : Nat) :
    ∀ {s : State} {l : Launch} {t : RankTree}, MemForms s → MemForms (s.logLeaf l t i rec128 hs n).1 := by
  induction n with
  | zero => exact id
  | succ n ih =>
    intro s l t h
    rw [State.logLeaf]
    split
    · exact h
    · split
      · next he => exact fst_of (forms_putLevels _ h) he
      · next he =>
          have ht := fst_of (forms_putLevels _ h) he
          exact fst_ite (ih (forms_logEntry (forms_setLaunch ht))) ht

theorem forms_setTree {t} (h : MemForms s) : MemForms (s.setTree t) := h

theorem forms_hashLeaf {e rec128} (h : MemForms s) : MemForms (s.hashLeaf e rec128) := by
  unfold State.hashLeaf
  split
  · dsimp only
    split
    · exact forms_setTree h
    · split
      · next he =>
          have ht := fst_of (forms_logLeaf _ h) he
          exact forms_setTree ht
      · next he => exact forms_setTree (fst_of (forms_logLeaf _ h) he)
  · exact h

end

end Sys2Proof.Machine

/-! ### Starts, fences, zones and the frames of contexts -/

namespace Sys2Proof.Machine

open Sys2Proof (MemForms)

section
variable {s : State}

theorem forms_rescind {arr task rank n b} (h : MemForms s) : MemForms (s.rescind arr task rank n b) := by
  unfold State.rescind
  dsimp only
  split
  · exact forms_logLow (forms_setTree h)
  · exact h

theorem forms_closeTree {arr task rank} (h : MemForms s) : MemForms (s.closeTree arr task rank) := by
  unfold State.closeTree
  split
  · exact h
  · exact forms_logLow (forms_setTree h)

theorem forms_setHead {n hd} (h : MemForms s) : MemForms (s.setHead n hd) := forms_foldl (fun _ _ ht => forms_setReg ht) h

theorem forms_chainAppend {n root desc} (h : MemForms s) : MemForms (s.chainAppend n root desc) := forms_setReg (forms_setReg (forms_setHead h))

theorem forms_mapCtx {f} (h : MemForms s) : MemForms (s.mapCtx f) := h

theorem forms_mapGang {g f} (h : MemForms s) : MemForms (s.mapGang g f) := h

theorem forms_updCtx {core cid f} (h : MemForms s) : MemForms (s.updCtx core cid f) := forms_mapCtx h

theorem forms_setGang {g} (h : MemForms s) : MemForms (s.setGang g) := h

theorem forms_setZone {n st step set} (h : MemForms s) : MemForms (s.setZone n st step set) := forms_setReg h

theorem forms_zoneWrite {o v} (h : MemForms s) : MemForms (s.zoneWrite o v) := forms_ite h (forms_ite (forms_setReg h) (forms_setReg h))

theorem forms_fenceRec {uclass inst die} (h : MemForms s) : MemForms (s.fenceRec uclass inst die) := forms_sendRec h

theorem forms_fenceCoreFor {n r} (h : MemForms s) : MemForms (s.fenceCoreFor n r) := forms_ite h (forms_sendRec (forms_setBit h))

theorem forms_fenceCore {n} (h : MemForms s) : MemForms (s.fenceCore n) := forms_fenceCoreFor h

theorem forms_fenceStack {k} (h : MemForms s) : MemForms (s.fenceStack k) := forms_ite h (forms_fenceRec (forms_setBit (forms_setBit h)))

theorem forms_portDown {p} (h : MemForms s) : MemForms (s.portDown p) := forms_ite h (forms_fenceRec (forms_setBit (forms_setBit h)))

theorem forms_fenceReferee {i} (h : MemForms s) : MemForms (s.fenceReferee i) := forms_ite h (forms_fenceRec (forms_setBit h))

theorem forms_fenceTree {d e} (h : MemForms s) : MemForms (s.fenceTree d e) := forms_ite h (forms_fenceRec (forms_setBit h))

theorem forms_fenceMilliner {m} (h : MemForms s) : MemForms (s.fenceMilliner m) := forms_ite h (forms_fenceRec (forms_setBit h))

theorem forms_updMilli {m f} (h : MemForms s) : MemForms (s.updMilli m f) := h

theorem forms_fenceZone {n} (h : MemForms s) : MemForms (s.fenceZone n) := by
  unfold State.fenceZone
  split
  · exact forms_foldl (fun _ _ ht => forms_fenceCore ht) h
  · split
    · exact forms_fenceStack h
    · dsimp only
      split
      · exact forms_foldl (fun _ _ ht => forms_updMilli (forms_fenceMilliner ht)) h
      · exact forms_foldl (fun _ _ ht => forms_portDown ht) h
      · exact forms_fenceReferee h
      · exact h

theorem forms_evacStart {v} (h : MemForms s) : MemForms (s.evacStart v) := forms_ite h (forms_setZone h)

theorem forms_evacDrained {n} (h : MemForms s) : MemForms (s.evacDrained n) := by
  unfold State.evacDrained
  split
  · exact h
  · split
    · exact forms_setZone h
    · exact forms_ite h (forms_setZone h)
    · exact forms_setZone h
    · exact forms_setZone h
    · exact h

theorem forms_evacClosed {n} (h : MemForms s) : MemForms (s.evacClosed n) := forms_ite (forms_setZone h) h

theorem forms_evacDry {n} (h : MemForms s) : MemForms (s.evacDry n) := forms_ite (forms_fenceZone (forms_setZone h)) h

theorem forms_zoneRec {n kind} (h : MemForms s) : MemForms (s.zoneRec n kind) := forms_sendRec h

theorem forms_evacLate {n} (h : MemForms s) : MemForms (s.evacLate n) := forms_ite (forms_zoneRec (forms_setZone h)) h

theorem forms_refillStart {v} (h : MemForms s) : MemForms (s.refillStart v) := forms_ite h (forms_setZone h)

theorem forms_refillDone {n} (h : MemForms s) : MemForms (s.refillDone n) := forms_ite (forms_setZone h) h

theorem forms_refillLate {n} (h : MemForms s) : MemForms (s.refillLate n) := forms_ite (forms_setZone h) h

theorem forms_featLock {v} (h : MemForms s) : MemForms (s.featLock v) := forms_ite (forms_takeMeasure (forms_setReg (forms_setReg h))) h

theorem forms_warmRequest (h : MemForms s) : MemForms s.warmRequest :=
  forms_ite (forms_setReg (forms_setReg (forms_setReg (forms_setReg h)))) (forms_setReg h)

theorem forms_publishBinding (h : MemForms s) : MemForms s.publishBinding := forms_ite h (forms_devPut h)

theorem forms_reverified {x} (h : MemForms s) : MemForms (s.reverified x) := by
  unfold State.reverified
  split
  · exact forms_takeMeasure h
  · split
    · exact forms_foldl (fun _ _ ht => forms_fenceMilliner ht) h
    · exact forms_foldl (fun _ _ ht => forms_fenceReferee ht) h
    · exact forms_foldl (fun _ _ ht => forms_portDown ht) h
    · exact h

theorem forms_warmFinish {images} (h : MemForms s) : MemForms (s.warmFinish images) := by
  unfold State.warmFinish
  generalize List.range 8 = millis
  generalize List.range 4 = words
  dsimp only
  have hverified : MemForms ((images.filter s.differs).foldl State.reverified
      { (words.foldl (fun t i => t.setReg (0x600120 + 8 * i) 0) (s.setReg 0x600140 0)) with vfOn := false }) :=
    forms_foldl (fun _ _ ht => forms_reverified ht) (forms_with (forms_foldl (fun _ _ ht => forms_setReg ht) (forms_setReg h)))
  generalize (images.filter s.differs).foldl State.reverified
    { (words.foldl (fun t i => t.setReg (0x600120 + 8 * i) 0) (s.setReg 0x600140 0)) with vfOn := false } = t at hverified ⊢
  have hloaded : MemForms (millis.foldl (fun u m => u.updMilli m (fun x => { x with loaded := !(t.reg 0x50).getLsbD (48 + m) })) t) :=
    forms_foldl (fun _ _ hu => forms_updMilli hu) hverified
  generalize millis.foldl (fun u m => u.updMilli m (fun x => { x with loaded := !(t.reg 0x50).getLsbD (48 + m) })) t = u at hloaded ⊢
  split
  · exact forms_setReg hverified
  · exact forms_setReg (forms_takeMeasure
      (forms_ite (forms_publishBinding (forms_setReg (forms_setReg hloaded))) (forms_setReg (forms_setReg hloaded))))

theorem forms_coldZone {n} (h : MemForms s) : MemForms (s.coldZone n) := by
  unfold State.coldZone
  split
  · exact h
  · exact forms_zoneRec (forms_fenceZone (forms_setZone h))
  · exact forms_fenceZone (forms_setZone h)

/-- A cold start empties the device's memories and leaves the host's and the peers' as they are. -/
theorem forms_coldStart (h : MemForms s) : MemForms s.coldStart := by
  have hreset : MemForms { State.reset with host := s.host, peer := s.peer, inputs := s.inputs, free := s.free + 1,
                                            measure := s.measure.filter (fun x => x.1 < 6) } :=
    ⟨memWf_nil, h.2.1, h.2.2.1, memWf_nil, memWf_nil, memWf_nil⟩
  unfold State.coldStart
  generalize List.range 120 = zones
  generalize List.range 2 = referees
  dsimp only
  generalize { State.reset with host := s.host, peer := s.peer, inputs := s.inputs, free := s.free + 1,
                                measure := s.measure.filter (fun x => x.1 < 6) } = s0 at hreset ⊢
  have hstarted : MemForms (referees.foldl (fun t i => if Config.refereePasses s.free i then t else t.fenceReferee i)
      (zones.foldl (fun t n => t.coldZone n) s0)) :=
    forms_foldl (fun _ _ ht => forms_ite ht (forms_fenceReferee ht)) (forms_foldl (fun _ _ ht => forms_coldZone ht) hreset)
  generalize referees.foldl (fun t i => if Config.refereePasses s.free i then t else t.fenceReferee i)
    (zones.foldl (fun t n => t.coldZone n) s0) = t at hstarted ⊢
  refine forms_ite ?_ (forms_setReg (forms_setReg ?_)) <;>
    exact forms_takeMeasure (forms_ite hstarted (forms_takeMeasure hstarted))

theorem forms_publishMem (h : MemForms s) : MemForms s.publishMem := forms_ite (forms_publishBinding h) h

theorem forms_writeArea {c} (n : Nat) :
    ∀ {s : State} {o : Nat} {bs : List Byte}, MemForms s → OptAll MemForms (s.writeArea c o n bs) := by
  induction n with
  | zero => exact opt_some
  | succ n ih =>
    intro s o bs h
    rw [State.writeArea]
    split
    · exact opt_none
    · split
      · exact opt_none
      · dsimp only
        split
        · exact opt_none
        · next he =>
            exact ih (forms_devWrite ((opt_ite (forms_takeShadow (forms_touch (forms_dumpVa h))) (opt_some (forms_touch (forms_dumpVa h)))) _ he))

theorem forms_writeFrame {c image t origm} (h : MemForms s) : OptAll MemForms (s.writeFrame c image t origm) := forms_writeArea _ h

theorem forms_imageBit {c o n v} (h : MemForms s) : MemForms (s.imageBit c o n v) := by
  unfold State.imageBit
  split
  · exact h
  · exact forms_devWrite h

theorem forms_imageReply {c n r} (h : MemForms s) : MemForms (s.imageReply c n r) := by
  unfold State.imageReply
  dsimp only
  refine forms_imageBit ?_
  refine forms_imageBit ?_
  refine forms_imageBit ?_
  split
  · exact forms_dumpVa h
  · exact forms_devWrite (forms_dumpVa h)

theorem forms_imageOr {c o flags} (h : MemForms s) : MemForms (s.imageOr c o flags) := by
  unfold State.imageOr
  split
  · exact h
  · exact forms_devWrite h

theorem forms_readArea {c o} (n : Nat) :
    ∀ {s : State} {k : Nat}, MemForms s → Ends (fun p => MemForms p.1) (s.readArea c o k n) := by
  induction n with
  | zero => exact fun h => ends_ok h
  | succ n ih =>
    intro s k h
    rw [State.readArea]
    split
    · exact ends_error _
    · split
      · exact ends_error _
      · dsimp only
        split
        · exact ends_error _
        · split
          · exact ends_error _
          · next he =>
              have ht := ih (forms_touch h) _ he
              exact ends_ok ht

theorem forms_portIssue {i d} (h : MemForms s) : Ends MemForms (s.portIssue i d) := by
  unfold State.portIssue
  split
  · split
    · exact ends_ok h
    · exact ends_ite (ends_ok (forms_updCtx h)) (ends_error _)
  · exact ends_ok h

theorem forms_fixRegions (h : MemForms s) : MemForms s.fixRegions := h

end

end Sys2Proof.Machine

/-! ### Traps, dumps and control space -/

namespace Sys2Proof.Machine

open Sys2Proof (MemForms)

section
variable {s : State}

theorem forms_imageFlags {c flags} (h : MemForms s) : MemForms (s.imageFlags c flags) :=
  forms_foldl (fun _ _ ht => forms_ite (forms_imageOr ht) ht) (forms_imageOr (forms_dumpVa h))

theorem forms_writeFused {x image t origm} (h : MemForms s) : OptAll MemForms (s.writeFused x image t origm) := by
  unfold State.writeFused
  split
  · exact forms_writeArea _ h
  · exact opt_none

theorem forms_dropLeaves {c} (h : MemForms s) : MemForms (s.dropLeaves c) := h

theorem forms_discardGang {g} (h : MemForms s) : MemForms (s.discardGang g) :=
  forms_mapGang (forms_with (forms_foldl (fun _ _ ht => forms_dropLeaves ht) h))

theorem forms_countFault {arr} (h : MemForms s) : MemForms (s.countFault arr) := by
  unfold State.countFault
  split
  · exact forms_setLaunch h
  · exact h

theorem forms_endTask {g cause o} (h : MemForms s) : MemForms (s.endTask g cause o) := forms_ctxRec (forms_countFault (forms_discardGang h))

theorem forms_uncontainedErr {arr core} (h : MemForms s) : MemForms (s.uncontainedErr arr core) := by
  unfold State.uncontainedErr
  split
  · exact h
  · exact forms_ite h (forms_sendRec (forms_setLaunch (forms_freeOwn (forms_with (forms_foldl (fun _ _ ht => forms_discardGang ht) h)))))

theorem forms_deliverAll {origm seq} (xs : List (Ctx × Trap)) : ∀ {s : State}, MemForms s → OptAll MemForms (s.deliverAll origm seq xs) := by
  induction xs with
  | nil => exact opt_some
  | cons x xs ih =>
    intro s h
    rw [State.deliverAll]
    split
    · exact opt_none
    · split
      · exact opt_none
      · next he => exact ih (forms_updCtx (forms_writeFrame h _ he))

theorem forms_endTaskAll {o cause} (h : MemForms s) : MemForms (s.endTaskAll o cause) := by
  unfold State.endTaskAll
  dsimp only
  split
  · exact forms_endTask h
  · exact forms_countFault (forms_discardGang (forms_endTask h))

theorem forms_fusedTrap {o ts cause origm} (h : MemForms s) : MemForms (s.fusedTrap o ts cause origm) :=
  forms_endTaskAll (forms_foldl (fun _ _ ht => forms_getD (forms_writeFused ht) ht) h)

theorem forms_kind5 {ts} (h : MemForms s) : MemForms (s.kind5 ts) := forms_ite (forms_foldl (fun _ _ ht => forms_ctxRec ht) h) h

theorem forms_gangStopped {g} (h : MemForms s) : MemForms (s.gangStopped g) := by
  unfold State.gangStopped
  split
  · exact forms_setGang h
  · exact h

theorem forms_deliverGang {g} (h : MemForms s) : MemForms (s.deliverGang g) := by
  unfold State.deliverGang
  dsimp only
  split
  · exact forms_mapGang (forms_gangStopped h)
  · split
    · exact forms_fusedTrap (forms_kind5 (forms_gangStopped h))
    · split
      · exact forms_ite (forms_uncontainedErr (forms_kind5 (forms_gangStopped h))) (forms_ite (forms_endTask (forms_kind5 (forms_gangStopped h)))
          (forms_getD (forms_deliverAll _ (forms_kind5 (forms_gangStopped h))) (forms_endTask (forms_kind5 (forms_gangStopped h)))))
      · exact forms_getD (forms_deliverAll _ (forms_kind5 (forms_gangStopped h))) (forms_endTask (forms_kind5 (forms_gangStopped h)))

theorem forms_debugBack {c} (h : MemForms s) : MemForms (s.debugBack c) := by
  have hread (p : Ctx) : Ends (fun p => MemForms p.1) (s.readArea p 40960 0 10) := forms_readArea _ h
  unfold State.debugBack
  extract_lets run
  split
  · split
    · exact forms_endTaskAll h
    · next he =>
      have hu := hread _ _ he
      split
      · exact forms_endTaskAll hu
      · exact forms_updCtx (forms_updCtx hu)
  · split
    · exact forms_endTaskAll h
    · next he =>
      have hu := hread _ _ he
      split
      · exact forms_endTaskAll hu
      · exact forms_updCtx hu

theorem forms_debugResume {g} (h : MemForms s) : MemForms (s.debugResume g) := forms_foldl (fun _ _ ht => forms_ite (forms_debugBack ht) ht) h

theorem forms_killRow {core r} (h : MemForms s) : MemForms (s.killRow core r) := forms_setRow h

theorem forms_killRows {α : Type} {xs : List α} {core} {f : α → Nat} (h : MemForms s) :
    MemForms (xs.foldl (fun t x => t.killRow core (f x)) s) :=
  forms_foldl (fun _ _ ht => forms_killRow ht) h

theorem forms_unwindRank {c handler code seq} (h : MemForms s) : MemForms (s.unwindRank c handler code seq) := by
  unfold State.unwindRank
  dsimp only
  split
  · exact forms_updCtx (forms_with (forms_foldl (fun _ _ ht => forms_foldl (fun _ _ hu => forms_killRows hu) (forms_killRows ht))
      (forms_foldl (fun _ _ ht => forms_ite (forms_killRow ht) ht) (forms_killRows h))))
  · exact forms_rescind (forms_updCtx (forms_killRows (forms_with
      (forms_foldl (fun _ _ ht => forms_foldl (fun _ _ hu => forms_killRows hu) (forms_killRows ht))
        (forms_foldl (fun _ _ ht => forms_ite (forms_killRow ht) ht) (forms_killRows h))))))

theorem forms_unwindGang {g o hit} (h : MemForms s) : MemForms (s.unwindGang g o hit) := by
  unfold State.unwindGang
  dsimp only
  refine forms_foldl (fun _ _ ht => ?_) (forms_mapGang (forms_foldl (fun _ _ ht => forms_unwindRank ht) (forms_gangStopped h)))
  split
  · exact forms_ctxRec ht
  · exact ht

theorem forms_dumpTake {d} (h : MemForms s) : MemForms (s.dumpTake d) := by
  unfold State.dumpTake
  dsimp only
  split
  · exact forms_endDump h
  · split
    · exact forms_endDump (forms_devNat h)
    · next he => exact forms_with (opt_foldl (fun _ b hx => forms_put hx) (opt_some (forms_devNat h)) _ he)

theorem forms_dumpStopped {g} (h : MemForms s) : MemForms (s.dumpStopped g) := by
  unfold State.dumpStopped
  split
  · exact h
  · exact forms_ite (forms_dumpTake h) (forms_debugResume (forms_dumpTake h))

theorem forms_dumpStart {desc} (h : MemForms s) : MemForms (s.dumpStart desc) := by
  unfold State.dumpStart
  split
  · exact h
  · split
    · exact forms_devNat h
    · split
      · exact forms_devNat h
      · dsimp only
        split
        · exact forms_devNat h
        · split
          · split
            · exact forms_ite (forms_dumpTake (forms_devNat h)) (forms_debugResume (forms_dumpTake (forms_devNat h)))
            · exact forms_dumpTake (forms_devNat h)
          · exact forms_updCtx (forms_with (forms_devNat h))

theorem forms_dumpWait {d} (h : MemForms s) : MemForms (s.dumpWait d) := forms_ite (forms_endDump h) (forms_ite h (forms_dumpTake h))

theorem forms_dumpStep (h : MemForms s) : MemForms s.dumpStep := by
  unfold State.dumpStep
  split
  · exact h
  · exact forms_ite (forms_dumpWait h) (forms_dumpCopy h)

theorem forms_syncCount {core c} (h : MemForms s) : MemForms (s.syncCount core c) := h

theorem forms_ctlSync {o} (h : MemForms s) : MemForms (s.ctlSync o) :=
  forms_ite (forms_ite (forms_syncCount (forms_syncCount h)) (forms_ite (forms_foldl (fun _ _ ht => forms_syncCount ht) h) h)) h

theorem forms_chainWrite {o v} (h : MemForms s) : MemForms (s.chainWrite o v) := by
  unfold State.chainWrite
  dsimp only
  split
  · exact forms_ite (forms_setReg h) h
  · exact forms_ite (forms_logFlush (forms_setReg h)) h
  · exact forms_ite (forms_logFlush (forms_setReg h)) h
  · exact forms_ite (forms_logFlush (forms_setReg h)) h
  · exact forms_setReg h
  · exact h

theorem forms_linkWrite {o v} (h : MemForms s) : MemForms (s.linkWrite o v) :=
  forms_ite h (forms_ite (forms_foldl (fun _ _ ht => forms_setReg ht) (forms_setReg (forms_setReg h))) h)

theorem forms_atctlWrite {n v} (h : MemForms s) : MemForms (s.atctlWrite n v) :=
  forms_ite h (forms_ite (forms_setBit (forms_setBit h)) (forms_setBit h))

theorem forms_countWrite {o v} (h : MemForms s) : MemForms (s.countWrite o v) := forms_ite h (forms_setReg h)

theorem forms_debugRequest {n v} (h : MemForms s) : MemForms (s.debugRequest n v) := forms_mapCtx h

theorem forms_debugResumeReq {n v} (h : MemForms s) : MemForms (s.debugResumeReq n v) := forms_foldl (fun _ _ ht => forms_debugResume ht) h

theorem forms_tlbStart {v} (h : MemForms s) : MemForms (s.tlbStart v) := h

theorem forms_bankPut {n c v} (h : MemForms s) : MemForms (s.bankPut n c v) := ⟨h.1, h.2⟩

theorem forms_bankWrite {n i v} (h : MemForms s) : MemForms (s.bankWrite n i v) := by
  have hsync : MemForms (s.ctlSync (0x800000 + 0x2000 * n + i)) := forms_ctlSync h
  unfold State.bankWrite
  generalize s.ctlSync (0x800000 + 0x2000 * n + i) = t at hsync ⊢
  exact forms_ite (forms_bankPut (forms_bankPut h)) (forms_ite (forms_with hsync)
    (forms_ite (forms_setReg h) (forms_ite (forms_setReg h) h)))

theorem forms_hostWrite {o v} (h : MemForms s) : MemForms (s.hostWrite o v) :=
  forms_ite (forms_ite (forms_warmRequest h) (forms_ite (forms_coldStart h) h)) (forms_ite (forms_setReg h)
    (forms_ite (forms_setReg h) (forms_ite (forms_ite (forms_setReg h) h) (forms_ite (forms_featLock h)
    (forms_ite (forms_setReg h) (forms_ite (forms_setReg h) (forms_ite (forms_setReg h) h)))))))

theorem forms_recoveryWrite {o v} (h : MemForms s) : MemForms (s.recoveryWrite o v) := forms_ite (forms_hostWrite h) (forms_ite h h)

theorem forms_ctlWrite {o v} (h : MemForms s) : Ends MemForms (s.ctlWrite o v) := by
  unfold State.ctlWrite
  dsimp only
  repeat' refine ends_ite ?_ ?_
  exacts [ends_ok (forms_recoveryWrite h), ends_ok (forms_setReg h), ends_ok (forms_setReg h), ends_error _, ends_ok (forms_tlbStart h), ends_ok h,
    ends_ok (forms_chainWrite h), ends_ok (forms_linkWrite h), ends_ok (forms_setReg h), ends_error _, ends_ok (forms_setReg h), ends_error _,
    ends_ok (forms_setReg h), ends_ok (forms_atctlWrite h), ends_ok (forms_setReg h), ends_ok (forms_setReg h), ends_ok
      (forms_countWrite h), ends_ok h,
    ends_error _, ends_ok (forms_debugRequest h), ends_ok (forms_debugResumeReq h), ends_ok (forms_setReg h),
    ends_ok (forms_ite (forms_dumpStart h) h), ends_error _, ends_ok (forms_bump h), ends_ok h, ends_ok (forms_zoneWrite h), ends_ok (forms_setReg h),
    ends_ok (forms_evacStart h), ends_ok (forms_refillStart h), ends_ok (forms_hostWrite h), ends_ok (forms_bankWrite h), ends_ok h]

theorem forms_ctlPut {o v} (h : MemForms s) : MemForms (s.ctlPut o v) := by
  unfold State.ctlPut
  split
  · next he => exact forms_ctlWrite h _ he
  · exact h

theorem forms_complTrap {t} (h : MemForms s) : MemForms (s.complTrap t) := h

theorem forms_watchTrap {a mask} (h : MemForms s) : MemForms (s.watchTrap a mask) := forms_ite h (forms_complTrap h)

theorem forms_loadWalk {a} (h : MemForms s) : MemForms (s.loadWalk a) := forms_ite (forms_beginWalk h) h

theorem forms_loadTouch {a e} (h : MemForms s) : MemForms (s.loadTouch a e) := forms_ite (forms_touchLeaf h) (forms_touched h)

theorem forms_loadElem {a n} (h : MemForms s) : MemForms (s.loadElem a n).1 := by
  unfold State.loadElem
  dsimp only
  split
  · exact forms_loadWalk h
  · split
    · exact forms_ctlSync (forms_loadTouch (forms_loadWalk h))
    · exact forms_loadTouch (forms_loadWalk h)

theorem forms_pendLoad {d pol a as val msk flags f reqs} (h : MemForms s) : MemForms (s.pendLoad d pol a as val msk flags f reqs) := h

end

end Sys2Proof.Machine

/-! ### Loads, stores and atomics -/

namespace Sys2Proof.Machine

open Sys2Proof (MemForms)

section
variable {s : State}

theorem forms_shadowFor {arr p} (h : MemForms s) : OptAll MemForms (s.shadowFor arr p) := by
  unfold State.shadowFor
  split
  · exact opt_some h
  · split
    · exact forms_takeShadow h
    · exact forms_takeShadow h
    · exact opt_some h

theorem forms_storePlace {a} (h : MemForms s) : Ends (fun p => MemForms p.1) (s.storePlace a) := by
  unfold State.storePlace
  split
  · exact ends_error _
  · dsimp only
    split
    · next he => exact ends_ok (forms_shadowFor (forms_touched h) _ he)
    · exact ends_error _

theorem forms_farUse {p} (h : MemForms s) : MemForms (s.farUse p) := by
  unfold State.farUse
  split <;> exact h

theorem forms_storeElem {a p bs scalar} (h : MemForms s) : Ends MemForms (s.storeElem a p bs scalar) := by
  unfold State.storeElem
  dsimp only
  split
  · exact ends_ok (forms_watchTrap (forms_complTrap (forms_farUse h)))
  · split
    · split
      · next he => exact ends_ok (forms_watchTrap (forms_ctlWrite h _ he))
      · exact ends_error _
    · exact ends_ok (forms_watchTrap (forms_with (forms_writePlace (forms_keepRow h))))
    · exact ends_ok (forms_watchTrap (forms_writePlace (forms_farUse h)))

theorem forms_postLocal {d val msk flags f late} (h : MemForms s) : MemForms (s.postLocal d val msk flags f late) := forms_post h

theorem forms_loadS {d b x n sg} (h : MemForms s) : NextAll MemForms (loadS s d b x n sg) := by
  unfold loadS
  refine next_finish h <| ends_then fun _ => ?_
  dsimp only
  exact ends_then fun _ => ends_then fun _ => ends_then fun _ => ends_then fun _ => ends_pure (forms_ite
    (forms_pendLoad (forms_baseUpd (forms_loadElem h))) (forms_postLocal (forms_baseUpd (forms_loadElem h))))

theorem forms_storeS {v b x n} (h : MemForms s) : NextAll MemForms (storeS s v b x n) := by
  unfold storeS
  refine next_finish h <| ends_then fun r => ?_
  dsimp only
  refine ends_then fun _ => ends_then fun _ => ends_then fun _ => ?_
  split
  · exact ends_error _
  · next he => exact ends_bind (forms_storeElem (forms_storePlace h _ he)) fun _ hx => ends_pure (forms_baseUpd hx)

theorem forms_readLanes {n as} (h : MemForms s) : MemForms (readLanes n as s).s := by
  unfold readLanes
  refine List.foldlRecOn (motive := fun l : LaneLd => MemForms l.s) _ _ h (fun l hl x _ => ?_)
  have hx : MemForms (l.s.loadElem x.2 n).1 := forms_loadElem hl
  dsimp only
  split <;> exact hx

theorem forms_loadLanes {d pol long base f as} (h : MemForms s) : Ends MemForms (s.loadLanes d pol long base f as) :=
  ends_then fun _ => ends_then fun _ => ends_pure (forms_ite (forms_pendLoad (forms_readLanes h)) (forms_postLocal (forms_readLanes h)))

theorem forms_loadV {d b x f} (h : MemForms s) : NextAll MemForms (loadV s d b x f) :=
  next_finish h (ends_then fun _ => ends_then fun _ => ends_then fun _ => ends_bind (forms_loadLanes h) fun _ hx => ends_pure (forms_baseUpd hx))

theorem forms_execVld {d b x} (h : MemForms s) : NextAll MemForms (execVld d b x s) := by
  unfold execVld
  refine next_finish h <| ends_then fun _ => ends_then fun _ => ends_bind (Q := MemForms) ?_ fun _ hx => ?_
  dsimp only
  · split
    · split
      · exact ends_then fun _ => ends_pure (forms_postLocal h)
      · exact ends_pure h
    · exact ends_then fun _ => ends_then fun _ => ends_pure (forms_ite (forms_pendLoad (forms_readLanes h)) (forms_postLocal (forms_readLanes h)))
  · exact ends_pure (forms_baseUpd hx)

theorem forms_placeLanes (xs : List (Nat × Word)) :
    ∀ {s : State}, MemForms s → Ends (fun p => MemForms p.1) (s.placeLanes xs) := by
  induction xs with
  | nil => exact fun h => ends_ok h
  | cons x xs ih =>
    intro s h
    rw [State.placeLanes]
    split
    · exact ends_error _
    · next he => exact ends_bind (ih (forms_storePlace h _ he)) fun _ hx => ends_pure hx

theorem forms_clearCovered {n ps} (h : MemForms s) : MemForms (s.clearCovered n ps) := by
  unfold State.clearCovered
  dsimp only
  refine forms_foldl (fun t u ht => ?_) (forms_foldl (fun t l ht => ?_) h)
  · split <;> exact ht
  · split
    · split <;> exact ht
    · exact ht

theorem forms_putLanes {k vs} (xs : List (Nat × Word × Place)) :
    ∀ {s : State}, MemForms s → Ends MemForms (s.putLanes k vs xs) := by
  induction xs with
  | nil => exact fun h => ends_ok h
  | cons x xs ih =>
    intro s h
    rw [State.putLanes]
    exact ends_bind (forms_storeElem h) fun _ hx => ih hx

theorem forms_storeLanes {f row as whole} (h : MemForms s) : Ends MemForms (s.storeLanes f row as whole) :=
  ends_then fun _ => ends_then fun _ => ends_bind (forms_placeLanes _ h) fun _ hx => ends_bind (forms_putLanes _ hx) fun _ hx1 => ends_pure
    (forms_ite (forms_count (forms_postF (forms_ite (forms_clearCovered hx1) hx1))) (forms_postF (forms_ite (forms_clearCovered hx1) hx1)))

theorem forms_storeV {v b x f} (h : MemForms s) : NextAll MemForms (storeV s v b x f) :=
  next_finish h (ends_then fun _ => ends_then fun _ => ends_then fun _ => ends_bind (forms_storeLanes h) fun _ hx => ends_pure (forms_baseUpd hx))

theorem forms_execVst {v b x} (h : MemForms s) : NextAll MemForms (execVst v b x s) :=
  next_finish h (ends_then fun _ => ends_then fun _ => ends_then fun _ => ends_then fun _ => ends_bind (forms_placeLanes _ h) fun _ hx => ends_bind
    (forms_putLanes _ hx) fun _ hx1 => ends_pure (forms_baseUpd (forms_clearCovered hx1)))

theorem forms_execVlds {d b o x} (h : MemForms s) : NextAll MemForms (execVlds d b o x s) :=
  next_finish h (ends_then fun _ => ends_then fun _ => ends_bind (forms_loadLanes h) fun _ hx => ends_pure (forms_baseUpd hx))

theorem forms_execVgath {d b o x} (h : MemForms s) : NextAll MemForms (execVgath d b o x s) :=
  next_finish h (ends_then fun _ => ends_then fun _ => ends_bind (forms_loadLanes h) fun _ hx => ends_pure (forms_baseUpd hx))

theorem forms_execVscat {v b o x} (h : MemForms s) : NextAll MemForms (execVscat v b o x s) :=
  next_finish h (ends_then fun _ => ends_then fun _ => ends_bind (forms_storeLanes h) fun _ hx => ends_pure (forms_baseUpd hx))

theorem forms_atomRead {a n} (h : MemForms s) : Ends (fun p => MemForms p.1) (s.atomRead a n) := by
  unfold State.atomRead
  split
  · exact ends_error _
  · next he => split <;> exact ends_ok (forms_storePlace h _ he)

theorem forms_postAtom {d v f} (h : MemForms s) : MemForms (s.postAtom d v f) := forms_post h

theorem forms_execAmo {d b o x} (h : MemForms s) : NextAll MemForms (execAmo d b o x s) := by
  unfold execAmo
  refine next_finish h <| ends_then fun _ => ends_then fun _ => ends_then fun _ => ends_then fun _ => ends_bind (forms_atomRead h) fun _ hx => ?_
  dsimp only
  split
  · exact ends_pure (forms_complTrap (forms_farUse hx))
  · split
    · exact ends_pure (forms_postAtom (forms_farUse hx))
    · exact ends_pure (forms_watchTrap (forms_postAtom (forms_writePlace (forms_farUse hx))))

theorem forms_execCas {d b o x} (h : MemForms s) : NextAll MemForms (execCas d b o x s) := by
  unfold execCas
  refine next_finish h <| ends_then fun _ => ends_then fun _ => ends_then fun _ => ends_then fun _ => ends_bind (forms_atomRead h) fun _ hx => ?_
  dsimp only
  split
  · exact ends_pure (forms_complTrap (forms_farUse hx))
  · split
    · exact ends_pure (forms_postP (forms_postAtom (forms_farUse hx)))
    · exact ends_pure (forms_watchTrap (forms_postP (forms_postAtom (forms_ite (forms_writePlace (forms_farUse hx)) (forms_farUse hx)))))

theorem forms_poolPush {p e} (h : MemForms s) : MemForms (s.poolPush p e) := forms_devNat (forms_devPut h)

theorem forms_poolAdd {p e} (h : MemForms s) : MemForms (s.poolAdd p e) := forms_with (forms_poolPush h)

theorem forms_moveEntries {pool spill cap} (n : Nat) : ∀ {s : State}, MemForms s → MemForms (s.moveEntries pool spill cap n) := by
  induction n with
  | zero => exact id
  | succ n ih =>
    intro s h
    rw [State.moveEntries]
    exact forms_ite (ih (forms_with (forms_devNat (forms_ite (forms_foldl (fun _ _ ht => forms_markLine ht) (forms_poolPush h))
      (forms_poolPush h))))) h

theorem forms_spillPool {rcb} (h : MemForms s) : MemForms (s.spillPool rcb) :=
  forms_ite (forms_with (forms_moveEntries _ (forms_getD (forms_chargeMem h) h))) h

theorem forms_placeRec {c rec128 t} (h : MemForms s) (he : s.placeRec c rec128 = .accepted t) : MemForms t := by
  unfold State.placeRec at he
  dsimp only at he
  split at he
  · cases he
  · split at he
    · cases he
    · split at he
      · cases he
        exact forms_poolAdd h
      · split at he <;> cases he

theorem forms_joinRec {j a synd} (h : MemForms s) : MemForms (s.joinRec j a synd) := forms_sendRec h

theorem forms_joinAt {j a pa} (h : MemForms s) : MemForms (s.joinAt j a pa) :=
  forms_ite (forms_joinRec h) (forms_ite (forms_joinRec h) (forms_devNat h))

end

end Sys2Proof.Machine

/-! ### Transfers, launches and control of a context -/

namespace Sys2Proof.Machine

open Sys2Proof (MemForms)

section
variable {s : State}

theorem forms_endReserve (h : MemForms s) : MemForms s.endReserve := forms_ite h h

theorem forms_gangGate {hd} (h : MemForms s) : Ends MemForms (s.gangGate hd) := ends_then fun _ => ends_pure h

theorem forms_share {k w} (h : MemForms s) : MemForms (s.share k w) := by
  unfold State.share
  split
  · exact forms_setGang h
  · exact h

theorem forms_readS {c a n} (h : MemForms s) : Ends (fun p => MemForms p.1) (s.readS c a n) := by
  unfold State.readS
  refine List.foldlRecOn (motive := Ends (fun p : State × List Byte => MemForms p.1)) _ _ (ends_ok h) (fun acc hacc i _ => ?_)
  split
  · exact ends_error _
  · have ht := hacc _ rfl
    split
    · exact ends_error _
    · split
      · exact ends_error _
      · exact ends_ok (forms_touched ht)

theorem forms_readDesc {c a n} (h : MemForms s) : Ends (fun p => MemForms p.1) (s.readDesc c a n) := by
  unfold State.readDesc
  refine ends_then fun _ => ends_then fun _ => ends_then fun _ => ?_
  dsimp only
  split
  · refine ends_then fun _ => ?_
    split
    · next he => exact ends_pure (forms_readS h _ he)
    · exact ends_error _
  · split
    · next he => exact ends_pure (forms_readS h _ he)
    · exact ends_error _

theorem forms_enqueue {tl words desc blk dst} (h : MemForms s) : MemForms (s.enqueue tl words desc blk dst) := h

theorem forms_asPort {d} (h : MemForms s) : Ends MemForms (s.asPort d) := by
  unfold State.asPort
  split
  · exact ends_ok h
  · split
    · exact ends_error _
    · next he =>
        have ht := forms_portIssue h _ he
        exact ends_ok ht

theorem forms_execCopy {d a ch} (h : MemForms s) : NextAll MemForms (execCopy d a ch s) := by
  unfold execCopy
  refine next_finish h <| ends_then fun _ => ends_then fun _ => ends_bind (forms_readDesc h) fun _ hx => ?_
  dsimp only
  split
  · exact ends_error _
  · exact ends_then fun _ => ends_then fun _ => ends_bind (forms_asPort (forms_enqueue hx)) fun _ hx1 => ends_pure (forms_postS hx1)

theorem forms_execColl {d a} (h : MemForms s) : NextAll MemForms (execColl d a s) := by
  unfold execColl
  refine next_finish h <| ends_then fun _ => ends_then fun _ => ends_bind (forms_readDesc h) fun _ hx => ?_
  dsimp only
  split
  · exact ends_error _
  · exact ends_then fun _ => ends_then fun _ => ends_pure (forms_postS (forms_enqueue hx))

theorem forms_doLaunch {a wait} (h : MemForms s) : Ends (fun p => MemForms p.1) (s.doLaunch a wait) := by
  unfold State.doLaunch
  refine ends_bind (forms_readDesc h) fun _ hx => ?_
  dsimp only
  split
  · split
    · exact ends_pure (forms_setLaunch hx)
    · exact ends_pure hx
  · split
    · next he => exact ends_pure (forms_placeRec hx he)
    · exact ends_ite (ends_error _) (ends_pure hx)
    · exact ends_pure hx
    · exact ends_pure hx
    · exact ends_ite (ends_error _) (ends_pure hx)

theorem forms_execLaunch {d a} (h : MemForms s) : NextAll MemForms (execLaunch d a s) :=
  next_finish h (ends_then fun _ => ends_then fun _ => ends_then fun _ => ends_bind (forms_gangGate h) fun _ hx => ends_bind (ends_ite
    (ends_bind (forms_doLaunch hx) fun _ hx1 => ends_pure (forms_share hx1)) (ends_pure hx)) fun _ hx1 => ends_pure (forms_post hx1))

theorem forms_execLauncht {a} (h : MemForms s) : NextAll MemForms (execLauncht a s) :=
  next_finish h (ends_then fun _ => ends_then fun _ => ends_then fun _ => ends_bind (forms_gangGate h) fun _ hx => ends_bind (ends_ite
    (ends_bind (forms_doLaunch hx) fun _ hx1 => ends_pure (forms_share hx1)) (ends_pure hx)) fun _ hx1 => ends_pure (forms_ite
    (forms_complTrap hx1) hx1))

theorem forms_execJoin {a} (h : MemForms s) : NextAll MemForms (execJoin a s) := by
  unfold execJoin
  refine next_finish h <| ends_then fun _ => ends_then fun _ => ends_then fun _ => ends_bind (forms_gangGate h) fun _ hx => ?_
  split
  · refine ends_then fun _ => ends_then fun _ => ?_
    split
    · split
      · exact ends_pure (forms_setLaunch hx)
      · exact ends_pure hx
    · refine ends_then fun _ => ?_
      split
      · exact ends_error _
      · next he => exact ends_pure (forms_joinAt (forms_storePlace hx _ he))
      · next he => exact ends_pure (forms_storePlace hx _ he)
  · exact ends_pure hx

theorem forms_execBar {_cl} (h : MemForms s) : NextAll MemForms (execBar _cl s) := next_finish h (ends_then fun _ => forms_gangGate h)

theorem forms_execSignal {a b} (h : MemForms s) : NextAll MemForms (execSignal a b s) := by
  unfold execSignal
  refine next_finish h <| ends_then fun _ => ends_then fun _ => ends_then fun _ => ends_then fun _ => ends_then fun _ => ?_
  split
  · exact ends_error _
  · next he =>
      have ht := forms_storePlace h _ he
      exact ends_ite (ends_pure (forms_complTrap (forms_farUse ht))) (ends_pure (forms_writePlace (forms_farUse ht)))

theorem forms_execCropen {o} (h : MemForms s) : NextAll MemForms (execCropen o s) :=
  next_finish h (ends_then fun _ => ends_then fun _ => ends_then fun _ => ends_then fun _ => ends_pure h)

theorem forms_execCrclose (h : MemForms s) : NextAll MemForms (execCrclose s) :=
  next_finish h (ends_then fun _ => ends_then fun _ => ends_then fun _ => ends_pure h)

theorem forms_lockGo {top} (n : Nat) : ∀ {s : State} {va : Nat}, MemForms s → MemForms (s.lockGo top n va) := by
  induction n with
  | zero => exact id
  | succ n ih =>
    intro s va h
    rw [State.lockGo]
    split
    · exact h
    · split
      · exact h
      · exact forms_ite (ih (forms_touch (forms_ite h h))) h

theorem forms_execIlock {d a b} (h : MemForms s) : NextAll MemForms (execIlock d a b s) :=
  next_finish h (ends_then fun _ => ends_then fun _ => ends_pure (forms_postS (fst_ite (forms_share (forms_ite h (forms_lockGo _ h))) h)))

theorem forms_execIunlk {a b} (h : MemForms s) : NextAll MemForms (execIunlk a b s) := next_finish h (ends_then fun _ => ends_pure (forms_ite h h))

theorem forms_execWpset {w a} (h : MemForms s) : NextAll MemForms (execWpset w a s) := by
  unfold execWpset
  refine next_finish h <| ends_then fun _ => ends_bind (forms_readDesc h) fun _ hx => ?_
  split
  · exact ends_error _
  · exact ends_pure hx

end

end Sys2Proof.Machine

/-! ### Matrix and exchange instructions -/

namespace Sys2Proof.Machine

open Sys2Proof (MemForms)

section
variable {s : State}

theorem forms_startX {j} (h : MemForms s) : MemForms (s.startX j) := forms_with (forms_takeLeaf (forms_note h))

theorem forms_faultRow {core r pol f} (h : MemForms s) : MemForms (s.faultRow core r pol f) := h

theorem forms_xrows {x} (h : MemForms s) : MemForms (s.xrows x) := by
  unfold State.xrows
  refine forms_foldl (fun _ x ht => ?_) h
  split
  · exact forms_faultRow ht
  · exact forms_setRow ht

theorem forms_completeX {x} (h : MemForms s) : MemForms (s.completeX x) :=
  forms_ite (forms_ite h (forms_retire h)) (forms_ite (forms_updCtx (forms_foldl (fun _ _ ht => forms_putBuf ht) (forms_xrows h))) (forms_retire
    (forms_updCtx (forms_foldl (fun _ _ ht => forms_putBuf ht) (forms_xrows h)))))

theorem forms_xDone {core} (h : MemForms s) : MemForms (s.xDone core) := by
  unfold State.xDone
  split
  · exact h
  · exact forms_completeX h

theorem forms_mcastSettle {b par} (h : MemForms s) : MemForms (s.mcastSettle b par) := forms_ite h h

theorem forms_xMma {p acc t fa fb k r} (h : MemForms s) : NextAll MemForms (xMma p acc t fa fb k r s) := by
  unfold xMma
  refine next_finish h <| ends_then fun _ => ends_then fun _ => ?_
  dsimp only
  exact ends_then fun _ => ends_then fun _ => ends_then fun _ => ends_then fun _ => ends_then fun _ => ends_then fun _ => ends_ite (ends_then
    fun _ => ends_then fun _ => ends_then fun _ => ends_bind (ends_ite (forms_gangGate h) (ends_pure h)) fun _ hx => ends_pure (forms_ite
    (forms_mcastSettle (forms_startX hx)) (forms_startX hx))) (ends_then fun _ => ends_then fun _ => ends_then fun _ => ends_bind
    (ends_ite (forms_gangGate h) (ends_pure h)) fun _ hx => ends_pure (forms_ite (forms_mcastSettle (forms_startX hx)) (forms_startX hx)))

theorem forms_runM64 {j tile zs live} (h : MemForms s) : MemForms (s.runM64 j tile zs live) := by
  unfold State.runM64
  dsimp only
  exact forms_with (forms_note h)

theorem forms_execMma64 {t fa fb k r} (h : MemForms s) : NextAll MemForms (execMma64 t fa fb k r s) := by
  unfold execMma64
  refine next_finish h <| ends_then fun _ => ends_then fun _ => ?_
  dsimp only
  exact ends_then fun _ => ends_then fun _ => ends_then fun _ => ends_then fun _ => ends_then fun _ => ends_then fun _ => ends_ite (ends_then
    fun _ => ends_then fun _ => ends_bind (ends_ite (forms_gangGate h) (ends_pure h)) fun _ hx => ends_pure (forms_ite
    (forms_mcastSettle (forms_runM64 (forms_takeLeaf (forms_note hx)))) (forms_runM64 (forms_takeLeaf (forms_note hx))))) (ends_then
    fun _ => ends_then fun _ => ends_bind (ends_ite (forms_gangGate h) (ends_pure h)) fun _ hx => ends_pure (forms_ite
    (forms_mcastSettle (forms_runM64 (forms_takeLeaf (forms_note hx)))) (forms_runM64 (forms_takeLeaf (forms_note hx)))))

theorem forms_resumeM64 {mstep} (h : MemForms s) : MemForms (s.resumeM64 mstep) := by
  unfold State.resumeM64
  split
  · exact h
  · exact forms_ite h (forms_runM64 h)

theorem forms_execRft (h : MemForms s) : NextAll MemForms (execRft s) := by
  unfold execRft
  refine next_finish h <| ends_then fun _ => ?_
  split
  · exact ends_error _
  · next he =>
      split
      · exact ends_error _
      · exact ends_pure (forms_resumeM64 (forms_readArea _ h _ he))

theorem forms_execSacc {t ts i fa k} (h : MemForms s) : NextAll MemForms (execSacc t ts i fa k s) :=
  next_finish h (ends_then fun _ => ends_then fun _ => ends_then fun _ => ends_then fun _ => ends_then fun _ => ends_then fun _ => ends_then
    fun _ => ends_then fun _ => ends_then fun _ => ends_then fun _ => ends_ite (ends_then fun _ => ends_ite
    (ends_then fun _ => ends_then fun _ => ends_pure (forms_startX h)) (ends_then fun _ => ends_then fun _ => ends_pure (forms_startX h)))
    (ends_then fun _ => ends_ite (ends_then fun _ => ends_then fun _ => ends_pure (forms_startX h)) (ends_then fun _ => ends_then fun _ => ends_pure
    (forms_startX h))))

theorem forms_execTclr {t k} (h : MemForms s) : NextAll MemForms (execTclr t k s) :=
  next_finish h (ends_then fun _ => ends_then fun _ => ends_then fun _ => ends_then fun _ => ends_then fun _ => ends_then fun _ => ends_then
    fun _ => ends_pure (forms_startX h))

theorem forms_execTcopy {t ts k} (h : MemForms s) : NextAll MemForms (execTcopy t ts k s) :=
  next_finish h (ends_then fun _ => ends_then fun _ => ends_then fun _ => ends_then fun _ => ends_then fun _ => ends_then fun _ => ends_then
    fun _ => ends_then fun _ => ends_then fun _ => ends_pure (forms_startX h))

theorem forms_execTld {t f fa k} (h : MemForms s) : NextAll MemForms (execTld t f fa k s) :=
  next_finish h (ends_then fun _ => ends_then fun _ => ends_then fun _ => ends_then fun _ => ends_then fun _ => ends_then fun _ => ends_then
    fun _ => ends_then fun _ => ends_then fun _ => ends_pure (forms_startX h))

theorem forms_execTcvt {t f fa i k} (h : MemForms s) : NextAll MemForms (execTcvt t f fa i k s) :=
  next_finish h (ends_then fun _ => ends_then fun _ => ends_then fun _ => ends_then fun _ => ends_then fun _ => ends_then fun _ => ends_then
    fun _ => ends_ite (ends_then fun _ => ends_then fun _ => ends_then fun _ => ends_pure (forms_startX h)) (ends_then fun _ => ends_then
    fun _ => ends_then fun _ => ends_pure (forms_startX h)))

theorem forms_execTred {t o d k} (h : MemForms s) : NextAll MemForms (execTred t o d k s) :=
  next_finish h (ends_then fun _ => ends_then fun _ => ends_then fun _ => ends_then fun _ => ends_then fun _ => ends_ite (ends_then
    fun _ => ends_then fun _ => ends_then fun _ => ends_pure (forms_startX h)) (ends_then fun _ => ends_then fun _ => ends_then fun _ => ends_pure
    (forms_startX h)))

theorem forms_execTdig {t w d k} (h : MemForms s) : NextAll MemForms (execTdig t w d k s) :=
  next_finish h (ends_then fun _ => ends_then fun _ => ends_then fun _ => ends_then fun _ => ends_then fun _ => ends_ite (ends_then
    fun _ => ends_then fun _ => ends_then fun _ => ends_pure (forms_startX h)) (ends_then fun _ => ends_then fun _ => ends_then fun _ => ends_pure
    (forms_startX h)))

theorem forms_execSscan {t va k} (h : MemForms s) : NextAll MemForms (execSscan t va k s) := by
  unfold execSscan
  refine next_finish h <| ends_then fun _ => ends_then fun _ => ends_then fun _ => ends_then fun _ => ends_then fun _ => ends_then fun _ => ?_
  dsimp only
  exact ends_then fun _ => ends_then fun _ => ends_then fun _ => ends_then fun _ => ends_then fun _ => ends_then fun _ => ends_ite (ends_then
    fun _ => ends_then fun _ => ends_pure (forms_startX h)) (ends_then fun _ => ends_then fun _ => ends_pure (forms_startX h))

theorem forms_xpush {w l a} (h : MemForms s) : NextAll MemForms (xpush w l a s) :=
  next_finish h (ends_then fun _ => ends_then fun _ => ends_pure (forms_ite h h))

theorem forms_execXpop {v} (h : MemForms s) : NextAll MemForms (execXpop v s) :=
  next_finish h (ends_then fun _ => ends_then fun _ => ends_pure (forms_postV h))

theorem forms_execXplane {d a tr} (h : MemForms s) : NextAll MemForms (execXplane d a tr s) :=
  next_finish h (ends_then fun _ => ends_then fun _ => ends_then fun _ => ends_then fun _ => ends_then fun _ => ends_then fun _ => ends_then
    fun _ => ends_then fun _ => ends_pure (forms_postS h))

theorem forms_execXrst (h : MemForms s) : NextAll MemForms (execXrst s) := next_finish h (ends_ok h)

end

end Sys2Proof.Machine

/-! ### The parts of a step and the events of contexts -/

namespace Sys2Proof.Machine

open Sys2Proof (MemForms)

section
variable {s : State}

theorem forms_writeDest {p} (h : MemForms s) : MemForms (s.writeDest p) := by
  unfold State.writeDest
  dsimp only
  split
  · split <;> exact h
  · exact h
  · exact h
  · split
    · exact h
    · exact forms_setRow h
  · exact h
  · exact h
  · exact h

theorem forms_visible {p} (h : MemForms s) : MemForms (s.visible p) := by
  unfold State.visible
  split
  · exact h
  · exact forms_ite (forms_writeDest h) (forms_with (forms_writeDest h))

theorem forms_windowsMoved {ps} (h : MemForms s) : MemForms (s.windowsMoved ps) := forms_ite (forms_fixRegions h) h

theorem forms_settle (h : MemForms s) : MemForms s.settle := forms_ite (forms_windowsMoved (forms_foldl (fun _ _ ht => forms_visible ht) h)) h

theorem forms_markEmpty {x} (h : MemForms s) : MemForms (s.markEmpty x) := by
  unfold State.markEmpty
  split
  · exact h
  · exact forms_setRow h
  · exact h

theorem forms_record (h : MemForms s) : MemForms s.record := by
  unfold State.record
  split
  · exact h
  · exact forms_setGang h

theorem forms_dissent {d} (h : MemForms s) : MemForms (s.dissent d) := by
  unfold State.dissent
  dsimp only
  split
  · exact forms_with (forms_ite (forms_setGang (forms_mapGang h)) (forms_mapGang h))
  · exact h

theorem forms_agree (h : MemForms s) : MemForms s.agree := by
  unfold State.agree
  split
  · exact forms_ite h h
  · exact h

theorem forms_clearGate {g} (h : MemForms s) : MemForms (s.clearGate g) := by
  unfold State.clearGate
  split
  · exact forms_setGang h
  · exact h

theorem forms_bring {addr par} (h : MemForms s) : MemForms (s.bring addr par) := by
  unfold State.bring
  split
  · exact forms_setGang h
  · exact h

theorem forms_atGate (h : MemForms s) : MemForms s.atGate := by
  unfold State.atGate
  split
  · exact h
  · exact forms_ite (forms_setGang h) (forms_setGang h)

theorem forms_passGate (h : MemForms s) : MemForms s.passGate := by
  unfold State.passGate
  split
  · exact forms_setGang h
  · exact h

theorem forms_latch {c} (h : MemForms s) : MemForms (s.latch c) := forms_ite (forms_bump h) h

theorem forms_snapshots {cs} (h : MemForms s) : MemForms (s.snapshots cs) :=
  forms_ite h (forms_foldl (fun _ _ ht => forms_latch ht) (forms_ite (forms_foldl (fun _ _ ht => forms_syncCount ht) h) h))

theorem forms_writeSnap (h : MemForms s) : OptAll MemForms s.writeSnap := by
  unfold State.writeSnap
  split
  · exact opt_none
  · exact opt_some (forms_setReg (forms_ite h (forms_devPut h)))

theorem forms_firstBundle (h : MemForms s) : MemForms s.firstBundle := by
  unfold State.firstBundle
  split
  · split
    · exact h
    · dsimp only
      split
      · exact forms_ite (forms_setGang h) (forms_setLaunch (forms_setGang h))
      · exact forms_setGang h
  · exact h

theorem forms_mateFollows (h : MemForms s) : MemForms s.mateFollows := by
  unfold State.mateFollows
  split
  · exact forms_mapGang h
  · exact h

theorem forms_endBundleWith {falls} (h : MemForms s) : MemForms (s.endBundleWith falls) :=
  forms_ite (forms_with (forms_settle (forms_firstBundle h))) (forms_with
    (forms_mateFollows (forms_settle (forms_foldl (fun _ _ ht => forms_markEmpty ht) (forms_with
    (forms_ite (forms_passGate (forms_snapshots (forms_ite (forms_record (forms_firstBundle h)) (forms_firstBundle h)))) (forms_snapshots
    (forms_ite (forms_record (forms_firstBundle h)) (forms_firstBundle h)))))))))

theorem forms_endBundle (h : MemForms s) : MemForms s.endBundle := forms_endBundleWith h

theorem forms_fetchWord {a} (h : MemForms s) : Ends (fun p => MemForms p.1) (s.fetchWord a) := by
  unfold State.fetchWord
  split
  · exact ends_error _
  · split
    · exact ends_error _
    · split
      · exact ends_error _
      · exact ends_ite (ends_error _) (ends_ok (forms_touched h))

theorem forms_fetchGo (n : Nat) :
    ∀ {s : State} {k : Nat} {a : Word}, MemForms s → Ends (fun p => MemForms p.1) (s.fetchGo k a n) := by
  induction n with
  | zero => exact fun h => ends_ok h
  | succ n ih =>
    intro s k a h
    rw [State.fetchGo]
    split
    · exact ends_error _
    · next he =>
        have ht := forms_fetchWord h _ he
        split
        · exact ends_ok ht
        · split
          · exact ends_error _
          · next he2 =>
              have hu := ih ht _ he2
              exact ends_ok hu

theorem forms_show {ws} (h : MemForms s) : MemForms (s.show ws) := by
  unfold State.show
  split
  · exact forms_ite h (forms_setGang h)
  · exact h

theorem forms_fetch (h : MemForms s) : Ends (fun p => MemForms p.1) s.fetch := by
  unfold State.fetch
  split
  · split
    · exact ends_error _
    · exact ends_ok h
  · split
    · exact ends_error _
    · exact ends_error _
    · next he =>
        split
        · exact ends_error _
        · exact ends_ok (forms_show (forms_fetchGo _ h _ he))

theorem forms_focus {core cid} (h : MemForms s) : OptAll MemForms (s.focus core cid) := by
  unfold State.focus
  split
  · exact opt_some h
  · split
    · exact opt_none
    · exact opt_some h

theorem forms_updRank {g rank f} (h : MemForms s) : MemForms (s.updRank g rank f) := forms_mapGang h

theorem forms_unblock (h : MemForms s) : MemForms s.unblock := forms_mapCtx h

theorem forms_settleAt {core cid} (h : MemForms s) : MemForms (s.settleAt core cid) :=
  forms_getD (opt_map (forms_focus h) fun _ hx => forms_settle hx) h

theorem forms_drainX {g core} (n : Nat) : ∀ {s : State}, MemForms s → MemForms (s.drainX g core n) := by
  induction n with
  | zero => exact id
  | succ n ih => exact fun h => forms_ite (ih (forms_xDone h)) h

theorem forms_endM64 {c} (n : Nat) : ∀ {s : State}, MemForms s → MemForms (s.endM64 c n) := by
  induction n with
  | zero => exact id
  | succ n ih => exact fun h => forms_ite (ih (forms_xDone h)) h

theorem forms_endM64s {g} (h : MemForms s) : MemForms (s.endM64s g) := forms_foldl (fun _ _ ht => forms_endM64 _ ht) h

theorem forms_quiet {g} (h : MemForms s) : MemForms (s.quiet g) :=
  forms_foldl (fun _ _ ht => forms_settleAt ht) (forms_mapGang (forms_foldl (fun _ _ ht => forms_drainX _ ht) h))

theorem forms_images {g} (h : MemForms s) : OptAll MemForms (s.images g) :=
  opt_foldl (P := MemForms) (fun _ _ hx => opt_ite (forms_writeFused hx) (forms_writeFrame hx)) (opt_some h)

theorem forms_debugStop {g o t} (h : MemForms s) : MemForms (s.debugStop g o t) := by
  unfold State.debugStop
  split
  · exact h
  · dsimp only
    split
    · exact forms_endTaskAll (forms_foldl (fun _ _ ht => forms_quiet (forms_gangStopped ht)) h)
    · next he =>
        have ht := forms_images (forms_foldl (fun _ _ ht => forms_quiet (forms_gangStopped ht)) h) _ he
        split
        · refine forms_dumpStopped ?_
          split
          · next he2 => exact forms_sendTo (forms_foldl (fun _ _ ht => forms_mapGang ht) ht) _ he2
          · exact forms_sendMgt (forms_foldl (fun _ _ ht => forms_mapGang ht) ht)
        · split
          · next he2 => exact forms_sendTo (forms_foldl (fun _ _ ht => forms_mapGang ht) ht) _ he2
          · exact forms_sendMgt (forms_foldl (fun _ _ ht => forms_mapGang ht) ht)

theorem forms_takeTrap {t} (h : MemForms s) : MemForms (s.takeTrap t) :=
  forms_ite (forms_unwindGang (forms_endM64s h)) (forms_ite (forms_debugStop (forms_endM64s h)) (forms_deliverGang
    (forms_mapGang (forms_with (forms_endM64s h)))))

theorem forms_boundaryTrap (h : MemForms s) : MemForms s.boundaryTrap := by
  unfold State.boundaryTrap
  dsimp only
  split
  · exact forms_unwindGang h
  · exact forms_takeTrap h
  · split
    · exact forms_takeTrap h
    · exact h

theorem forms_takeBoundary (h : MemForms s) : MemForms s.takeBoundary := forms_ite (forms_unblock (forms_boundaryTrap (forms_clearGate h))) h

theorem forms_execResultArrival {c i} (h : MemForms s) : NextAll MemForms (execResultArrival c i s) :=
  next_next (forms_settleAt (forms_unblock (forms_updCtx h)))

theorem forms_walkDone {w} (h : MemForms s) : MemForms (s.walkDone w) := by
  unfold State.walkDone
  dsimp only
  split
  · exact forms_foldl (fun _ _ ht => forms_cache ht) h
  · exact h

theorem forms_execPageWalk {c i} (h : MemForms s) : NextAll MemForms (execPageWalk c i s) := by
  unfold execPageWalk
  split
  · exact next_next h
  · split
    · exact next_next (forms_walkDone h)
    · exact next_next h

theorem forms_fillRow {l fault} (h : MemForms s) : MemForms (s.fillRow l fault) := by
  unfold State.fillRow
  dsimp only
  split
  · exact forms_ite (forms_updRank h) (forms_setRow h)
  · exact forms_setRow h

theorem forms_landFlags {g core flags} (h : MemForms s) : MemForms (s.landFlags g core flags) := by
  unfold State.landFlags
  split
  · exact h
  · split
    · exact forms_imageFlags h
    · exact h

theorem forms_reply {l err} (h : MemForms s) : MemForms (s.reply l err) := by
  unfold State.reply
  dsimp only
  split
  · exact h
  · split
    · split
      · exact forms_imageReply (forms_updRank (forms_mapGang h))
      · exact forms_mapGang h
    · exact forms_mapGang (forms_ite (forms_fillRow h) (forms_landFlags (forms_fillRow h)))

theorem forms_execLoadReply {c i err} (h : MemForms s) : NextAll MemForms (execLoadReply c i err s) := by
  unfold execLoadReply
  split
  · exact next_next h
  · exact next_next (forms_ite (forms_unblock (forms_reply h)) h)

theorem forms_execXComplete {core} (h : MemForms s) : NextAll MemForms (execXComplete core s) := next_next (forms_unblock (forms_xDone h))

end

end Sys2Proof.Machine

/-! ### Engines, collectives and the ends of tasks -/

namespace Sys2Proof.Machine

open Sys2Proof (MemForms)

section
variable {s : State}

theorem forms_endEng {e bad flags da record} (h : MemForms s) : MemForms (s.endEng e bad flags da record) :=
  forms_ite (forms_updRank (forms_landFlags h)) (forms_retire (forms_note (forms_updRank (forms_landFlags h))))

theorem forms_engByte {c a} (h : MemForms s) : MemForms (s.engByte c a).1 := by
  unfold State.engByte
  split
  · exact h
  · split
    · exact h
    · dsimp only
      split
      · exact forms_farUse (forms_touched h)
      · split
        · exact forms_farUse (forms_touched h)
        · exact forms_farUse (forms_touched h)

theorem forms_engBytes {c} (n : Nat) : ∀ {s : State} {a : Word}, MemForms s → MemForms (s.engBytes c n a).1 := by
  induction n with
  | zero => exact id
  | succ n ih =>
    intro s a h
    rw [State.engBytes]
    split
    · next he => exact fst_of (forms_engByte h) he
    · next he => exact ih (fst_of (forms_engByte h) he)

theorem forms_engPlace {c a} (h : MemForms s) : OptAll (fun p => MemForms p.1) (s.engPlace c a) := by
  unfold State.engPlace
  split
  · exact opt_none
  · split
    · exact opt_none
    · exact opt_map (forms_shadowFor (forms_touched h)) fun _ hx => hx

theorem forms_engWrite {c a bs} (h : MemForms s) : OptAll MemForms (s.engWrite c a bs) := by
  unfold State.engWrite
  split
  · exact opt_none
  · next he =>
      exact opt_ite opt_none (opt_ite opt_none (opt_some (forms_writePlace (forms_farUse (forms_engPlace h _ he)))))

theorem forms_copyGo {c} (n : Nat) :
    ∀ {s : State} {k : Nat} {e : EngOp}, MemForms s → MemForms (s.copyGo c n k e).1 := by
  induction n with
  | zero => exact id
  | succ n ih =>
    intro s k e h
    rw [State.copyGo]
    split
    · exact h
    · dsimp only
      split
      · split
        · next he => exact (opt_ite opt_none (forms_engWrite (forms_engBytes _ h))) _ he
        · exact forms_with (forms_engBytes _ h)
      · next he =>
          have ht := (opt_ite (opt_some (forms_engBytes _ h)) (forms_engWrite (forms_engBytes _ h))) _ he
          exact fst_ite (ih ht) ht

theorem forms_copyNote {e} (h : MemForms s) : MemForms (s.copyNote e) := forms_ite (forms_updRank h) h

theorem forms_runCopy {c e n close} (h : MemForms s) : MemForms (s.runCopy c e n close) := by
  unfold State.runCopy
  dsimp only
  split
  · exact h
  · split
    · next he => exact forms_endEng (forms_copyNote (fst_of (fst_ite (forms_copyGo _ h) h) he))
    · next he =>
        have ht := fst_of (fst_ite (forms_copyGo _ h) h) he
        exact forms_ite (forms_endEng ht) (forms_copyNote ht)

theorem forms_portDone {e} (h : MemForms s) : MemForms (s.portDone e) := by
  unfold State.portDone
  split
  · exact forms_updRank h
  · exact h

theorem forms_runElided {c e} (h : MemForms s) : MemForms (s.runElided c e) := forms_portDone (forms_ite (forms_endEng h) (forms_endEng h))

theorem forms_execWpAdvance {c ch n} (h : MemForms s) : NextAll MemForms (execWpAdvance c ch n s) := by
  unfold execWpAdvance
  split
  · exact next_next h
  · split
    · exact next_next h
    · exact next_next (forms_ite (forms_unblock (forms_runCopy h)) h)

theorem forms_flitsUsed {g k} (h : MemForms s) : MemForms (s.flitsUsed g k) := h

theorem forms_collRead (es : List EngOp) :
    ∀ {s : State}, MemForms s → MemForms (s.collRead es).1 := by
  induction es with
  | nil => exact id
  | cons e es ih =>
    intro s h
    rw [State.collRead]
    split
    · exact ih h
    · exact ih (forms_engBytes _ h)

theorem forms_engWrites {c} (n : Nat) :
    ∀ {s : State} {a : Word} {bs : List Byte}, MemForms s → OptAll MemForms (s.engWrites c n a bs) := by
  induction n with
  | zero => exact fun h => opt_some h
  | succ n ih =>
    intro s a bs h
    rw [State.engWrites]
    split
    · exact opt_some h
    · dsimp only
      split
      · exact opt_none
      · next he => exact ih (forms_engWrite h _ he)

theorem forms_sendUp {cs far g k} (h : MemForms s) : MemForms (s.sendUp cs far g k) := by
  unfold State.sendUp
  dsimp only
  split
  · exact forms_ite h h
  · exact h

theorem forms_flitIn {p f} (h : MemForms s) : MemForms (s.flitIn p f) := by
  unfold State.flitIn
  dsimp only
  split
  · exact h
  · split
    · exact h
    · split <;> exact h

theorem forms_collFail {cs} (h : MemForms s) : MemForms (s.collFail cs) := forms_foldl (fun _ _ ht => forms_with (forms_endEng ht)) h

theorem forms_collPut {cs far} (xs : List Contrib) :
    ∀ {s : State}, MemForms s → OptAll MemForms (s.collPut cs far xs) := by
  induction xs with
  | nil => exact opt_some
  | cons x xs ih =>
    intro s h
    rw [State.collPut]
    split
    · exact ih h
    · split
      · exact opt_none
      · next he => exact ih (forms_engWrites _ h _ he)

theorem forms_runColl {e} (h : MemForms s) : MemForms (s.runColl e) := by
  have hread (es : List EngOp) : MemForms (s.collRead es).1 := forms_collRead es h
  unfold State.runColl
  extract_lets g all fs nm k wide here whole clash mine inOrder far came finished
  have hdone (es : List EngOp) : MemForms (finished (s.collRead es).1) := forms_with (forms_flitsUsed (hread es))
  clear_value finished
  split
  · exact forms_collFail (hread _)
  · split
    · exact h
    · split
      · exact h
      · split
        · exact forms_collFail (forms_with (hdone _))
        · split
          · exact h
          · split
            · exact forms_collFail (hdone _)
            · next he => exact forms_sendUp (forms_with (forms_foldl (fun _ _ ht => forms_endEng ht) (forms_collPut _ (hdone _) _ he)))

theorem forms_runXplane {c e} (h : MemForms s) : MemForms (s.runXplane c e) := by
  unfold State.runXplane
  split
  · exact h
  · exact forms_endEng (forms_writePlace h)

theorem forms_execEngineFinish {c tl} (h : MemForms s) : NextAll MemForms (execEngineFinish c tl s) := by
  unfold execEngineFinish
  split
  · exact next_next h
  · split
    · exact next_next h
    · exact next_ite (next_next h) (next_ite (next_next (forms_unblock (forms_runXplane h))) (next_ite (next_next (forms_unblock (forms_runColl h)))
        (next_ite (next_next (forms_unblock (forms_runElided h))) (next_next (forms_unblock (forms_portDone (forms_runCopy h)))))))

theorem forms_execTrapDelivery {c} (h : MemForms s) : NextAll MemForms (execTrapDelivery c s) := by
  unfold execTrapDelivery
  split
  · exact next_next h
  · next he => exact next_next (forms_ite (forms_takeBoundary (forms_focus h _ he)) h)

theorem forms_execGangStop {c} (h : MemForms s) : NextAll MemForms (execGangStop c s) := by
  unfold execGangStop
  split
  · exact next_next h
  · next he => exact next_next (forms_ite (forms_takeBoundary (forms_focus h _ he)) h)

theorem forms_execUnwind {c} (h : MemForms s) : NextAll MemForms (execUnwind c s) := by
  unfold execUnwind
  split
  · exact next_next h
  · next he => exact next_next (forms_ite (forms_takeBoundary (forms_focus h _ he)) h)

theorem forms_execLeafHash {c} (h : MemForms s) : NextAll MemForms (execLeafHash c s) := by
  unfold execLeafHash
  split
  · exact next_next (forms_ite (forms_unblock (forms_hashLeaf h)) h)
  · exact next_next h

theorem forms_endRank {c} (h : MemForms s) : MemForms (s.endRank c) := by
  unfold State.endRank
  dsimp only
  refine forms_updRank ?_
  split
  · refine forms_setGang ?_
    refine forms_closeTree ?_
    split
    · exact forms_setLaunch h
    · exact h
  · refine forms_closeTree ?_
    split
    · exact forms_setLaunch h
    · exact h

theorem forms_endTaskOf {g} (h : MemForms s) : MemForms (s.endTaskOf g) := by
  unfold State.endTaskOf
  split
  · exact h
  · exact forms_with (forms_setGang (forms_addCused (forms_logLow (forms_setLaunch h))))

theorem forms_execRankEnd {c} (h : MemForms s) : NextAll MemForms (execRankEnd c s) := by
  unfold execRankEnd
  split
  · exact next_next h
  · dsimp only
    split
    · exact next_next (forms_ite (forms_endTaskOf (forms_endRank h)) (forms_endRank h))
    · exact next_next (forms_endRank h)

theorem forms_execCtlWrite {off v} (h : MemForms s) : NextAll MemForms (execCtlWrite off v s) :=
  next_next (forms_ite (forms_unblock (forms_ctlPut h)) h)

theorem forms_execQdescWrite {q v} (h : MemForms s) : NextAll MemForms (execQdescWrite q v s) := next_next (forms_ite (forms_ctlPut h) h)

theorem forms_execChainBind {n v} (h : MemForms s) : NextAll MemForms (execChainBind n v s) := next_next (forms_ite (forms_ctlPut h) h)

theorem forms_execLogrd {n v} (h : MemForms s) : NextAll MemForms (execLogrd n v s) := next_next (forms_ite (forms_unblock (forms_ctlPut h)) h)

theorem forms_execLinkh {p v} (h : MemForms s) : NextAll MemForms (execLinkh p v s) := next_next (forms_ite (forms_ctlPut h) h)

theorem forms_execTlbInvalidate {v} (h : MemForms s) : NextAll MemForms (execTlbInvalidate v s) := next_next (forms_ctlPut h)

theorem forms_execTlbInvComplete (h : MemForms s) : NextAll MemForms (execTlbInvComplete s) := by
  unfold execTlbInvComplete
  split
  · exact next_next h
  · exact next_next (forms_ite h (forms_setReg h))

theorem forms_execLoadreq {v} (h : MemForms s) : NextAll MemForms (execLoadreq v s) := next_next (forms_ctlPut h)

theorem forms_execDebugStop {n v} (h : MemForms s) : NextAll MemForms (execDebugStop n v s) := next_next (forms_ite (forms_ctlPut h) h)

theorem forms_execDebugResume {n v} (h : MemForms s) : NextAll MemForms (execDebugResume n v s) :=
  next_next (forms_ite (forms_unblock (forms_ctlPut h)) h)

theorem forms_execDumpreq {v} (h : MemForms s) : NextAll MemForms (execDumpreq v s) := next_next (forms_ctlPut h)

theorem forms_execDumpGranule (h : MemForms s) : NextAll MemForms (execDumpGranule s) := next_next (forms_unblock (forms_dumpStep h))

theorem forms_execFeatlock {v} (h : MemForms s) : NextAll MemForms (execFeatlock v s) := next_next (forms_ctlPut h)

theorem forms_execWakeWrite {w v} (h : MemForms s) : NextAll MemForms (execWakeWrite w v s) := next_next (forms_ite (forms_wakePut h) h)

theorem forms_execColdStart (h : MemForms s) : NextAll MemForms (execColdStart s) := next_next (forms_coldStart h)

theorem forms_execPowerOn (h : MemForms s) : NextAll MemForms (execPowerOn s) := next_next (forms_coldStart h)

theorem forms_execFundReset (h : MemForms s) : NextAll MemForms (execFundReset s) := next_next (forms_coldStart h)

theorem forms_execWarmStart {changed} (h : MemForms s) : NextAll MemForms (execWarmStart changed s) :=
  next_next (forms_ite (forms_warmFinish (forms_ite h (forms_warmRequest h))) (forms_ite h (forms_warmRequest h)))

theorem forms_execStackTrained {k ok} (h : MemForms s) : NextAll MemForms (execStackTrained k ok s) :=
  next_next (forms_ite (forms_publishMem (forms_ite (forms_setBit h) (forms_fenceStack h))) h)

theorem forms_execClusterReady {cl bad} (h : MemForms s) : NextAll MemForms (execClusterReady cl bad s) :=
  next_next (forms_ite (forms_setBit (forms_foldl (fun _ _ ht => forms_fenceCore ht) h)) h)

theorem forms_execMillinerLoaded {m ok} (h : MemForms s) : NextAll MemForms (execMillinerLoaded m ok s) :=
  next_next (forms_ite (forms_ite (forms_setBit (forms_updMilli h)) (forms_fenceMilliner h)) h)

theorem forms_trainEyes {p} (h : MemForms s) : MemForms (s.trainEyes p) := by
  unfold State.trainEyes
  generalize List.range 8 = lanes
  exact forms_with (forms_foldl (fun _ _ ht => forms_setReg ht) h)

theorem forms_execBrimTrained {p ok} (h : MemForms s) : NextAll MemForms (execBrimTrained p ok s) :=
  next_next (forms_ite (forms_ite (forms_trainEyes (forms_foldl (fun _ _ ht => forms_setReg ht) (forms_setBit h))) (forms_portDown h)) h)

theorem forms_execVfEnable {on} (h : MemForms s) : NextAll MemForms (execVfEnable on s) := next_next h

theorem forms_flrLaunch {l} (h : MemForms s) : MemForms (s.flrLaunch l) := by
  unfold State.flrLaunch
  dsimp only
  split
  · exact forms_setLaunch (forms_foldl (fun _ _ ht => forms_discardGang ht) h)
  · exact forms_foldl (fun _ _ ht => forms_discardGang ht) h

theorem forms_execVfFlr {v} (h : MemForms s) : NextAll MemForms (execVfFlr v s) :=
  next_ite (next_next (forms_unblock (forms_foldl (fun _ _ ht => forms_ctlPut ht) (forms_ite h
    (forms_foldl (fun _ _ ht => forms_flrLaunch ht) h))))) (next_next h)

end

end Sys2Proof.Machine

/-! ### Power, links, repairs and tests -/

namespace Sys2Proof.Machine

open Sys2Proof (MemForms)

section
variable {s : State}

theorem forms_aperturePlace {vf off wr} (h : MemForms s) : OptAll (fun p => MemForms p.1) (s.aperturePlace vf off wr) := by
  unfold State.aperturePlace
  split
  · exact opt_none
  · split
    · exact opt_ite (opt_some h) opt_none
    · split
      · split
        · exact opt_none
        · split
          · exact opt_none
          · exact opt_some (forms_touch h)
      · exact opt_none

theorem forms_apertureGo {vf} (bs : List Byte) :
    ∀ {s : State} {off : Nat}, MemForms s → MemForms (s.apertureGo vf off bs) := by
  induction bs with
  | nil => exact id
  | cons b bs ih =>
    intro s off h
    rw [State.apertureGo]
    refine ih ?_
    split
    · next he => exact forms_devPut (forms_aperturePlace h _ he)
    · exact h

theorem forms_execAperture {vf off w} (h : MemForms s) : NextAll MemForms (execAperture vf off w s) := by
  unfold execAperture
  split
  · dsimp only
    refine next_next ?_
    refine forms_foldl (fun _ _ ht => ?_) (forms_apertureGo _ h)
    split
    · next he =>
        have hu := forms_aperturePlace ht _ he
        exact forms_ite hu (forms_clearLines hu)
    · exact ht
  · refine next_next ?_
    split
    · next he => exact forms_aperturePlace h _ he
    · exact h

theorem forms_setClock {cl v} (h : MemForms s) : MemForms (s.setClock cl v) := h

theorem forms_execClockChange {cl set} (h : MemForms s) : NextAll MemForms (execClockChange cl set s) := next_next (forms_ite (forms_setClock h) h)

theorem forms_slower {cl} (h : MemForms s) : MemForms (s.slower cl) := forms_setClock h

theorem forms_execPowerThrottle {cl} (h : MemForms s) : NextAll MemForms (execPowerThrottle cl s) := next_next (forms_ite (forms_slower h) h)

theorem forms_execClockRestore {cl} (h : MemForms s) : NextAll MemForms (execClockRestore cl s) := next_next (forms_ite (forms_setClock h) h)

theorem forms_thermal {n kind} (h : MemForms s) : MemForms (s.thermal n kind) := forms_mapCtx h

theorem forms_execZoneTrip {n kind} (h : MemForms s) : NextAll MemForms (execZoneTrip n kind s) :=
  next_ite (next_next h) (next_ite (next_next (forms_zoneRec h)) (next_next
    (forms_unblock (forms_thermal (forms_ite (forms_slower (forms_with (forms_zoneRec h))) (forms_with (forms_zoneRec h)))))))

theorem forms_execZoneTripClear {n} (h : MemForms s) : NextAll MemForms (execZoneTripClear n s) := next_next h

theorem forms_execZoneWordWrite {n v} (h : MemForms s) : NextAll MemForms (execZoneWordWrite n v s) := next_next (forms_ite (forms_ctlPut h) h)

theorem forms_execEvac {v} (h : MemForms s) : NextAll MemForms (execEvac v s) := next_next (forms_ctlPut h)

theorem forms_execEvacDrainDone {n} (h : MemForms s) : NextAll MemForms (execEvacDrainDone n s) := next_next (forms_ite (forms_evacDrained h) h)

theorem forms_execEvacValveClosed {n} (h : MemForms s) : NextAll MemForms (execEvacValveClosed n s) := next_next (forms_ite (forms_evacClosed h) h)

theorem forms_execEvacDry {n} (h : MemForms s) : NextAll MemForms (execEvacDry n s) :=
  next_next (forms_ite (forms_ite (forms_evacDry h) (forms_publishMem (forms_evacDry h))) h)

theorem forms_execEvacTimeout {n} (h : MemForms s) : NextAll MemForms (execEvacTimeout n s) := next_next (forms_ite (forms_evacLate h) h)

theorem forms_execRefill {v} (h : MemForms s) : NextAll MemForms (execRefill v s) := next_next (forms_ctlPut h)

theorem forms_execRefillComplete {n} (h : MemForms s) : NextAll MemForms (execRefillComplete n s) := next_next (forms_ite (forms_refillDone h) h)

theorem forms_execRefillTimeout {n} (h : MemForms s) : NextAll MemForms (execRefillTimeout n s) := next_next (forms_ite (forms_refillLate h) h)

theorem forms_coreError {n} (h : MemForms s) : MemForms (s.coreError n) := forms_foldl (fun _ _ ht => forms_uncontainedErr ht) h

theorem forms_coreRec {n uclass inst synd} (h : MemForms s) : MemForms (s.coreRec n uclass inst synd) := forms_coreError (forms_sendRec h)

theorem forms_takeover {m} (h : MemForms s) : MemForms (s.takeover m) :=
  forms_ite h (forms_sendRec (forms_ite (forms_updMilli (forms_updMilli (forms_fenceMilliner h))) (forms_updMilli (forms_fenceMilliner h))))

theorem forms_execUncorrectable {e} (h : MemForms s) : NextAll MemForms (execUncorrectable e s) := by
  unfold execUncorrectable
  refine next_next ?_
  refine forms_unblock ?_
  split
  · exact forms_ite h (forms_sendRec (forms_markLine h))
  · exact forms_ite h (forms_coreRec h)
  · exact forms_ite h (forms_coreRec (forms_setRow h))
  · split
    · exact h
    · exact forms_ite h (forms_coreError (forms_ctxRec (forms_updCtx h)))
  · exact h
  · exact forms_ite h (forms_ite (forms_coreRec h) (forms_ite (forms_fenceTree (forms_sendRec h))
      (forms_ite (forms_takeover (forms_sendRec h)) (forms_ite (forms_fenceReferee (forms_sendRec h)) (forms_sendRec h)))))

theorem forms_execStackFence {k} (h : MemForms s) : NextAll MemForms (execStackFence k s) := next_next (forms_ite (forms_fenceStack h) h)

theorem forms_execTreeFence {d e} (h : MemForms s) : NextAll MemForms (execTreeFence d e s) := next_next (forms_ite (forms_fenceTree h) h)

theorem forms_countUp {o thr r} (h : MemForms s) : MemForms (s.countUp o thr r) := forms_ite (forms_sendRec (forms_setReg h)) (forms_setReg h)

theorem forms_execCorrected {k bg} (h : MemForms s) : NextAll MemForms (execCorrected k bg s) := next_next (forms_ite (forms_countUp h) h)

theorem forms_execEyeMargin {p l w hd} (h : MemForms s) : NextAll MemForms (execEyeMargin p l w hd s) := next_next (forms_ite (forms_setReg h) h)

theorem forms_execFlitReplay {p l flit} (h : MemForms s) : NextAll MemForms (execFlitReplay p l flit s) :=
  next_next (forms_ite (forms_ite (forms_portDown (forms_with (forms_countUp h))) (forms_with (forms_countUp h))) h)

theorem forms_setBlock {o v} (h : MemForms s) : MemForms (s.setBlock o v) := forms_setReg (forms_setReg h)

theorem forms_flitActs {p flit} (h : MemForms s) : MemForms (s.flitActs p flit) := by
  unfold State.flitActs
  dsimp only
  split
  · exact forms_flitIn h
  · split
    · exact h
    · split
      · exact forms_ite (forms_devPut h) h
      · exact forms_wakePut h
      · exact h

theorem forms_flitOut {p flit} (h : MemForms s) : MemForms (s.flitOut p flit).1 := by
  unfold State.flitOut
  split <;> exact h

theorem forms_execFlitReceive {p tx flit} (h : MemForms s) : NextAll MemForms (execFlitReceive p tx flit s) :=
  next_next (forms_ite (forms_ite (forms_setReg (forms_setBlock (fst_ite (forms_flitOut h) h))) (forms_unblock
    (forms_flitActs (forms_with (forms_setReg (forms_setBlock (fst_ite (forms_flitOut h) h))))))) h)

theorem forms_serve (xs : List (Nat × Nat)) : ∀ {s : State} {bs : List Byte}, MemForms s → MemForms (s.serve xs bs) := by
  induction xs with
  | nil => exact id
  | cons x xs ih => exact fun h => ih (forms_devPut h)

theorem forms_execPeerEntry {copy data} (h : MemForms s) : NextAll MemForms (execPeerEntry copy data s) := by
  unfold execPeerEntry
  dsimp only
  refine next_next ?_
  split
  · refine forms_unblock ?_
    split
    · exact forms_serve _ h
    · exact h
  · refine forms_unblock ?_
    split
    · exact forms_with (forms_devPut (forms_serve _ h))
    · exact forms_with (forms_devPut h)

theorem forms_testOver {n res ran} (h : MemForms s) : MemForms (s.testOver n res ran) := forms_setReg h

theorem forms_testEnds {n res ran} (h : MemForms s) : MemForms (s.testEnds n res ran) := forms_with (forms_testOver h)

theorem forms_scanEnds {n res} (h : MemForms s) : MemForms (s.scanEnds n res) := forms_with (forms_setBit (forms_testOver h))

theorem forms_execSelfTestStart {n} (h : MemForms s) : NextAll MemForms (execSelfTestStart n s) := next_next (forms_ite (forms_setBit h) h)

theorem forms_failCore {n kind uclass inst synd} (h : MemForms s) : MemForms (s.failCore n kind uclass inst synd) :=
  forms_fenceCoreFor (forms_sendRec h)

theorem forms_unban {n} (h : MemForms s) : MemForms (s.unban n) := h

theorem forms_execSelfTestComplete {n ok uclass inst synd} (h : MemForms s) : NextAll MemForms (execSelfTestComplete n ok uclass inst synd s) :=
  next_next (forms_ite (forms_ite (forms_unban (forms_testEnds h)) (forms_ite (forms_failCore (forms_testEnds h)) h)) h)

theorem forms_execSelfTestAbandon {n} (h : MemForms s) : NextAll MemForms (execSelfTestAbandon n s) := next_next (forms_ite (forms_testEnds h) h)

theorem forms_execScan {n} (h : MemForms s) : NextAll MemForms (execScan n s) := next_next (forms_ite (forms_ctlPut h) h)

theorem forms_beginScan {n} (h : MemForms s) : MemForms (s.beginScan n) := forms_ite (forms_with (forms_setBit h)) h

theorem forms_execScanComplete {n ok uclass inst synd} (h : MemForms s) : NextAll MemForms (execScanComplete n ok uclass inst synd s) :=
  next_next (forms_ite (forms_ite (forms_scanEnds (forms_wipeCore (forms_beginScan h))) (forms_ite
    (forms_failCore (forms_scanEnds (forms_wipeCore (forms_beginScan h)))) (forms_beginScan h))) h)

theorem forms_execUncontained {arr} (h : MemForms s) : NextAll MemForms (execUncontained arr s) := by
  unfold execUncontained
  refine next_next ?_
  split
  · exact forms_ite (forms_unblock (forms_uncontainedErr h)) h
  · exact h

end

end Sys2Proof.Machine

/-! ### Launches, their checks and their ends -/

namespace Sys2Proof.Machine

open Sys2Proof (MemForms)

section
variable {s : State}

theorem forms_useRead {root} (n : Nat) :
    ∀ {s : State} {a : Word} {k : Nat}, MemForms s → OptAll (fun p => MemForms p.1) (s.useRead root n a k) := by
  induction n with
  | zero => exact fun h => opt_some h
  | succ n ih =>
    intro s a k h
    rw [State.useRead]
    split
    · exact opt_some h
    · dsimp only
      split
      · exact opt_none
      · split
        · exact opt_none
        · split
          · exact opt_none
          · next he =>
              have ht := ih (forms_touch h) _ he
              exact opt_some ht

theorem forms_dumpUse {root a n} (h : MemForms s) : MemForms (s.dumpUse root a n) := forms_ite (forms_dumpVa h) h

theorem forms_useWrite {root} (n : Nat) :
    ∀ {s : State} {a : Word} {bs : List Byte}, MemForms s → OptAll MemForms (s.useWrite root n a bs) := by
  induction n with
  | zero => exact fun h => opt_some h
  | succ n ih =>
    intro s a bs h
    rw [State.useWrite]
    split
    · exact opt_some h
    · dsimp only
      split
      · exact opt_none
      · exact opt_ite opt_none (ih (forms_writePlace (forms_farUse (forms_touch (forms_dumpUse h)))))

theorem forms_depsOf {root p} (h : MemForms s) : OptAll (fun p => MemForms p.1) (s.depsOf root p) :=
  opt_ite (opt_some h) (opt_map (forms_useRead _ h) fun _ hx => hx)

theorem forms_depTest {src root} (ds : List (List Byte)) :
    ∀ {s : State} {i : Nat}, MemForms s → MemForms (s.depTest src root i ds).1 := by
  induction ds with
  | nil => exact id
  | cons d ds ih =>
    intro s i h
    rw [State.depTest]
    exact fst_ite (ih h) (fst_ite (forms_with (ih h)) (ih h))

theorem forms_check4 {src root p} (h : MemForms s) : MemForms (s.check4 src root p).1 := by
  unfold State.check4
  split
  · exact h
  · next he => exact forms_depTest _ (forms_depsOf h _ he)

theorem forms_depDone {src} (h : MemForms s) : MemForms (s.depDone src) := h

theorem forms_rec12 {a arr rcb route} (h : MemForms s) : MemForms (s.rec12 a arr rcb route) := forms_sendRec h

theorem forms_putCrec {root p bs} (h : MemForms s) : OptAll MemForms (s.putCrec root p bs) :=
  opt_ite (opt_bind_of fun _ => forms_useWrite _ h) opt_none

theorem forms_putSignal {root p} (h : MemForms s) : OptAll MemForms (s.putSignal root p) := by
  unfold State.putSignal
  dsimp only
  split
  · exact opt_some h
  · split
    · exact opt_none
    · split
      · exact opt_ite (opt_some (forms_wakePut h)) opt_none
      · split
        · exact opt_none
        · exact opt_ite opt_none (opt_bind_of fun _ => forms_useWrite _ h)
        · exact opt_bind_of fun _ => forms_useWrite _ h

theorem forms_putJoin {root j a} (h : MemForms s) : OptAll MemForms (s.putJoin root j a) := by
  unfold State.putJoin
  split
  · exact opt_some h
  · split
    · exact opt_none
    · split
      · exact opt_some (forms_joinAt (forms_touch (forms_dumpUse h)))
      · exact opt_none

theorem forms_tellEnd {root arr p bs route ran} (h : MemForms s) : MemForms (s.tellEnd root arr p bs route ran) := by
  unfold State.tellEnd
  dsimp only
  split
  · next he =>
      have ht := forms_putCrec h _ he
      exact forms_getD (forms_putJoin (forms_getD (forms_putSignal ht) (forms_rec12 ht))) (forms_rec12
        (forms_getD (forms_putSignal ht) (forms_rec12 ht)))
  · exact forms_ite (forms_getD (forms_putJoin (forms_getD (forms_putSignal (forms_rec12 h)) (forms_rec12 (forms_rec12 h)))) (forms_rec12
      (forms_getD (forms_putSignal (forms_rec12 h)) (forms_rec12 (forms_rec12 h))))) (forms_rec12 h)

theorem forms_commitLines {g} (ks : List Nat) :
    ∀ {s : State}, MemForms s → MemForms (s.commitLines g ks) := by
  induction ks with
  | nil => exact id
  | cons k ks ih =>
    intro s h
    rw [State.commitLines]
    exact forms_ite (ih (forms_putPeer h)) (ih (forms_ite (forms_markLine (forms_devPut h)) (forms_devPut h)))

theorem forms_releaseShadows {l} (h : MemForms s) : MemForms (s.releaseShadows l) := forms_freeOwn h

theorem forms_pushHeld {e} (h : MemForms s) : OptAll MemForms (s.pushHeld e) :=
  opt_ite (opt_some (forms_poolAdd h)) (opt_ite (opt_ite (opt_some (forms_poolAdd (forms_spillPool h))) opt_none) opt_none)

theorem forms_performHeld {l} (xs : List (Nat × List Byte × Word)) :
    ∀ {s : State}, MemForms s → OptAll MemForms (s.performHeld l xs) := by
  induction xs with
  | nil => exact opt_some
  | cons x xs ih =>
    intro s h
    rw [State.performHeld]
    split
    · exact ih (forms_getD (forms_putJoin h) (forms_rec12 h))
    · split
      · next he => exact ih (forms_pushHeld h _ he)
      · exact opt_none

theorem forms_commit {l} (h : MemForms s) : OptAll MemForms (s.commit l) :=
  forms_performHeld _ (forms_releaseShadows (forms_foldl (fun _ _ ht => forms_commitLines _ (forms_dumpFirst ht)) h))

theorem forms_forget {l} (h : MemForms s) : MemForms (s.forget l) := forms_freeOwn h

theorem forms_chainLaunch {l root} (h : MemForms s) : MemForms (s.chainLaunch l root) := forms_chainAppend (forms_logEntry h)

theorem forms_endLaunch {l} (h : MemForms s) : OptAll MemForms (s.endLaunch l) :=
  opt_map (opt_ite (opt_some h) (opt_ite (opt_map (forms_commit h) fun _ hx => hx) (opt_some
    (forms_ite (forms_releaseShadows h) (forms_sendRec (forms_releaseShadows h)))))) fun _ hx => forms_forget (forms_chainLaunch (forms_tellEnd hx))

theorem forms_endWaiting (ls : List Launch) :
    ∀ {s : State}, MemForms s → MemForms (s.endWaiting ls) := by
  induction ls with
  | nil => exact id
  | cons l ls ih =>
    intro s h
    rw [State.endWaiting]
    split
    · next he => exact ih (forms_endLaunch h _ he)
    · exact h

theorem forms_refuse {src p status} (h : MemForms s) : MemForms (s.refuse src p status) := forms_depDone (forms_tellEnd h)

theorem forms_refuseLogged {src p ch chain k status} (h : MemForms s) : OptAll MemForms (s.refuseLogged src p ch chain k status) :=
  opt_ite opt_none (opt_some (forms_depDone (forms_chainLaunch (forms_tellEnd (forms_logEntry (forms_endWaiting _ h))))))

theorem forms_setDepths (rs : List Rcb) : ∀ {s : State}, MemForms s → MemForms (s.setDepths rs) := by
  induction rs with
  | nil => exact id
  | cons r rs ih => exact fun h => ih (forms_devNat h)

theorem forms_takeIn {src p ch chain k demoted} (h : MemForms s) : MemForms (s.takeIn src p ch chain k demoted) :=
  forms_endReserve (forms_depDone (forms_logEntry (forms_with (forms_addAll _ (forms_addAll _ (forms_setDepths _ h))))))

theorem forms_checks567 {src p ch chain k} (h : MemForms s) : OptAll MemForms (s.checks567 src p ch chain k) :=
  opt_ite opt_none (opt_ite (forms_refuseLogged h) (opt_ite (opt_some (forms_takeIn h)) (opt_ite (opt_some (forms_takeIn h)) (forms_refuseLogged h))))

theorem forms_orBlocked {o} (h : MemForms s) (ho : OptAll MemForms o) : MemForms (orBlocked s o).1 := by
  unfold orBlocked
  cases o with
  | none => exact h
  | some t => exact ho t rfl

theorem forms_handleLaunch {src p} (h : MemForms s) : MemForms (s.handleLaunch src p).1 := by
  unfold State.handleLaunch
  split
  · exact forms_refuse h
  · split
    · exact forms_refuse h
    · dsimp only
      split
      · exact forms_orBlocked h (forms_refuseLogged h)
      · exact fst_ite (forms_orBlocked h (forms_refuseLogged h)) (fst_ite (forms_check4 h)
          (forms_orBlocked (forms_check4 h) (forms_checks567 (forms_check4 h))))

theorem forms_clearTiles {n ts} (h : MemForms s) : MemForms (s.clearTiles n ts) := h

end

end Sys2Proof.Machine

/-! ### Placing, preempting and resuming gangs -/

namespace Sys2Proof.Machine

open Sys2Proof (MemForms)

section
variable {s : State}

theorem forms_updSaved {c f} (h : MemForms s) : MemForms (s.updSaved c f) := h

theorem forms_putAway {c ts bs} (h : MemForms s) : OptAll MemForms (s.putAway c ts bs) := by
  unfold State.putAway
  dsimp only
  split
  · exact opt_some h
  · split
    · exact opt_some (forms_updSaved (forms_foldl (fun _ _ ht => forms_moveBuf ht) h))
    · exact opt_map (forms_chargeOwn h) fun _ hx => forms_updSaved (forms_foldl (fun _ _ ht => forms_moveBuf ht) hx)

theorem forms_makeWay {n ts ws} (h : MemForms s) : OptAll MemForms (s.makeWay n ts ws) :=
  opt_foldl (P := MemForms) (fun _ _ hx => forms_putAway hx) (opt_some h)

theorem forms_seatGang {l xs as mate} (h : MemForms s) : OptAll MemForms (s.seatGang l xs as mate) :=
  opt_map (opt_foldl (P := MemForms) (fun _ _ hx => opt_map (forms_makeWay hx) fun _ hx1 => forms_clearTiles hx1) (opt_some h))
    fun _ hx => forms_setLaunch (forms_ite hx hx)

theorem forms_seat {l rows} (h : MemForms s) : OptAll MemForms (s.seat l rows) := by
  unfold State.seat
  dsimp only
  split
  · exact opt_none
  · refine opt_bind (forms_chargeOwn h) fun _ hx => ?_
    split
    · exact opt_map (forms_seatGang hx) fun _ hx1 => forms_fixRegions hx1
    · exact opt_map (opt_bind (forms_seatGang hx) fun _ hx1 => forms_seatGang hx1) fun _ hx1 => forms_fixRegions hx1

theorem forms_placeGo {l held} (cls : List Nat) :
    ∀ {s : State}, MemForms s → OptAll MemForms (s.placeGo l held cls) := by
  induction cls with
  | nil => exact fun _ => opt_none
  | cons cl cls ih =>
    intro s h
    rw [State.placeGo]
    split
    · next he => exact opt_some ((opt_ite (forms_seat h) opt_none) _ he)
    · exact ih h

theorem forms_placeRest {held} (ls : List Launch) : ∀ {s : State}, MemForms s → MemForms (s.placeRest held ls) := by
  induction ls with
  | nil => exact id
  | cons l ls ih => exact fun h => ih (forms_getD (forms_placeGo _ h) h)

theorem forms_parkOut {p} (h : MemForms s) : MemForms (s.parkOut p) := by
  unfold State.parkOut
  dsimp only
  split
  · split <;> exact h
  · exact h

theorem forms_storeParty {g} (h : MemForms s) : OptAll MemForms (s.storeParty g) :=
  opt_map (opt_foldl (P := MemForms) (fun _ _ hx => forms_putAway hx) (opt_some h)) fun _ hx => forms_fixRegions hx

theorem forms_leaveCores {g} (h : MemForms s) : MemForms (s.leaveCores g) := by
  unfold State.leaveCores
  split
  · exact h
  · exact forms_parkOut h

theorem forms_setDrained {g} (h : MemForms s) : MemForms (s.setDrained g) := h

theorem forms_preemptGang {g drain} (h : MemForms s) : OptAll MemForms (s.preemptGang g drain) := by
  unfold State.preemptGang
  dsimp only
  split
  · split
    · exact opt_some (forms_endTaskAll (forms_ite h (forms_foldl (fun _ _ ht => forms_quiet (forms_gangStopped ht)) h)))
    · exact opt_some (forms_ite h (forms_foldl (fun _ _ ht => forms_quiet (forms_gangStopped ht)) h))
  · next he =>
      have ht := (opt_ite (opt_some (forms_ite h (forms_foldl (fun _ _ ht => forms_quiet (forms_gangStopped ht)) h))) (forms_images
        (forms_ite h (forms_foldl (fun _ _ ht => forms_quiet (forms_gangStopped ht)) h)))) _ he
      exact opt_ite (opt_map (forms_storeParty (forms_foldl (fun _ _ ht => forms_leaveCores ht) ht)) fun _ hx => forms_setDrained hx) (opt_some
        (forms_foldl (fun _ _ ht => forms_leaveCores ht) ht))

theorem forms_dispatch (h : MemForms s) : MemForms s.dispatch := by
  unfold State.dispatch
  split
  · exact h
  · split
    · exact h
    · split
      · next he => exact forms_with (forms_placeGo _ h _ he)
      · dsimp only
        refine forms_placeRest _ ?_
        split
        · exact forms_getD (forms_preemptGang (forms_with h)) h
        · exact h

theorem forms_execDispatch (h : MemForms s) : NextAll MemForms (execDispatch s) := next_next (forms_unblock (forms_dispatch h))

theorem forms_execPreempt {g drain} (h : MemForms s) : NextAll MemForms (execPreempt g drain s) := by
  unfold execPreempt
  refine next_next ?_
  split
  · exact forms_ite h (forms_ite (forms_unblock (forms_getD (opt_map (forms_storeParty h) fun _ hx => forms_setDrained hx) h)) (forms_unblock
      (forms_getD (forms_preemptGang h) h)))
  · exact h

theorem forms_dropStore {c} (h : MemForms s) : MemForms (s.dropStore c) := by
  unfold State.dropStore
  refine forms_foldl (fun t b ht => ?_) h
  exact forms_with (forms_setBuf ht (memClear_wf _ _ _ (forms_bufMem ht)))

theorem forms_dissolve {g} (h : MemForms s) : MemForms (s.dissolve g) := by
  unfold State.dissolve
  dsimp only
  split
  · exact forms_freeOwn (forms_with (forms_parkOut (forms_foldl (fun _ _ ht => forms_dropStore (forms_clearTiles ht)) h)))
  · exact forms_with (forms_parkOut (forms_foldl (fun _ _ ht => forms_dropStore (forms_clearTiles ht)) h))

theorem forms_popGang {g} (h : MemForms s) : MemForms (s.popGang g) := by
  unfold State.popGang
  split
  · exact h
  · exact forms_setLaunch (forms_with (forms_setGang (forms_mapGang (forms_foldl (fun _ _ ht => forms_clearTiles ht) h))))

theorem forms_popTask {g} (h : MemForms s) : MemForms (s.popTask g) :=
  forms_ite (forms_fixRegions (forms_foldl (fun _ _ ht => forms_popGang ht) h)) (forms_foldl (fun _ _ ht => forms_dissolve ht) h)

theorem forms_execGangPop {g} (h : MemForms s) : NextAll MemForms (execGangPop g s) := by
  unfold execGangPop
  refine next_next ?_
  split
  · exact forms_ite (forms_unblock (forms_popTask h)) h
  · exact h

theorem forms_fillWins {c x} (h : MemForms s) : MemForms (s.fillWins c x) := forms_dropStore (forms_foldl (fun _ _ ht => forms_moveBuf ht) h)

theorem forms_fillTiles {c x} (h : MemForms s) : MemForms (s.fillTiles c x) :=
  forms_foldl (fun _ _ ht => forms_foldl (fun _ _ ht => forms_setRow ht) ht) h

theorem forms_imageRows {c r} (h : MemForms s) : MemForms (s.imageRows c r) := by
  unfold State.imageRows
  dsimp only
  refine forms_foldl (fun _ _ ht => ?_) ?_
  · split
    · exact ht
    · exact forms_devWrite ht
  · split
    · exact forms_dumpVa h
    · exact forms_devWrite (forms_dumpVa h)

theorem forms_comeBack {c x} (h : MemForms s) : OptAll MemForms (s.comeBack c x) := by
  unfold State.comeBack
  dsimp only
  refine opt_map (forms_makeWay h) fun x hx => ?_
  split
  · exact forms_freeOwn (forms_ite (forms_with (forms_fillWins (forms_fillTiles (forms_ite (forms_imageRows hx) hx)))) (forms_with
      (forms_fillWins (forms_fillTiles (forms_ite (forms_imageRows hx) hx)))))
  · exact forms_ite (forms_with (forms_fillWins (forms_fillTiles (forms_ite (forms_imageRows hx) hx)))) (forms_with
      (forms_fillWins (forms_fillTiles (forms_ite (forms_imageRows hx) hx))))

theorem forms_bringBack (xs : List (Ctx × Nat)) :
    ∀ {s : State}, MemForms s → OptAll MemForms (s.bringBack xs) := by
  induction xs with
  | nil => exact opt_some
  | cons x xs ih =>
    intro s h
    rw [State.bringBack]
    exact opt_bind_of fun _ => opt_bind (forms_comeBack h) fun _ hx => ih hx

theorem forms_lockAgain {cl} (ks : List ILock) : ∀ {s : State}, MemForms s → MemForms (s.lockAgain cl ks) := by
  induction ks with
  | nil => exact id
  | cons k ks ih => exact fun h => ih (forms_ite h h)

theorem forms_backGang {cores g} (h : MemForms s) : MemForms (s.backGang cores g) := by
  unfold State.backGang
  split
  · exact forms_setGang (forms_lockAgain _ h)
  · exact h

theorem forms_resumeGang {g0} (h : MemForms s) : OptAll MemForms (s.resumeGang g0) := by
  unfold State.resumeGang
  dsimp only
  split
  · exact opt_none
  · split
    · exact opt_none
    · split
      · exact opt_none
      · exact opt_map (forms_bringBack _ h) fun _ hx => forms_fixRegions (forms_foldl (fun _ _ ht => forms_backGang ht) hx)

theorem forms_execGangResume {g} (h : MemForms s) : NextAll MemForms (execGangResume g s) := by
  unfold execGangResume
  refine next_next ?_
  split
  · exact forms_unblock (forms_getD (forms_resumeGang h) h)
  · exact h

end

end Sys2Proof.Machine

/-! ### The Milliners: disputes, queues and loads -/

namespace Sys2Proof.Machine

open Sys2Proof (MemForms)

section
variable {s : State}

theorem forms_opBisect {root x y res} (h : MemForms s) : OptAll MemForms (s.opBisect root x y res) :=
  opt_ite opt_none (opt_bind_of fun _ => forms_useWrite _ h)

theorem forms_opSign {root n res} (h : MemForms s) : OptAll MemForms (s.opSign root n res) := opt_ite opt_none (forms_useWrite _ h)

theorem forms_opReferee {root x y cap res which} (h : MemForms s) : OptAll MemForms (s.opReferee root x y cap res which) := by
  unfold State.opReferee
  split
  · exact opt_none
  · split
    · dsimp only
      split
      · exact opt_none
      · exact forms_useWrite _ h
    · exact opt_none

theorem forms_opCapture {pkt k} (h : MemForms s) : OptAll MemForms (s.opCapture pkt k) := by
  unfold State.opCapture
  split
  · exact opt_none
  · split
    · exact opt_none
    · next he =>
        split
        · exact opt_none
        · dsimp only
          split
          · exact opt_none
          · exact opt_ite opt_none (opt_some (forms_endReserve (forms_useRead _ h _ he)))

theorem forms_tellMgmt {p status owner} (h : MemForms s) : MemForms (s.tellMgmt p status owner) := forms_ite h (forms_tellEnd h)

theorem forms_endCapture {l k} (h : MemForms s) : MemForms (s.endCapture l k) :=
  forms_forget (forms_tellMgmt (forms_getD (forms_useWrite _ (forms_releaseShadows h)) (forms_releaseShadows h)))

theorem forms_mgmtOp {q owner p} (h : MemForms s) : OptAll (fun p => MemForms p.1) (s.mgmtOp q owner p) := by
  unfold State.mgmtOp
  dsimp only
  split
  · exact opt_none
  · split
    · exact opt_none
    · split
      · exact opt_map (forms_opBisect h) fun _ hx => hx
      · exact opt_map (forms_opSign h) fun _ hx => hx
      · exact opt_map (forms_opCapture h) fun _ hx => hx
      · exact opt_map (forms_opReferee h) fun _ hx => hx
      · exact opt_none

theorem forms_handleMgmt {q owner p} (h : MemForms s) : MemForms (s.handleMgmt q owner p) := by
  unfold State.handleMgmt
  split
  · exact forms_tellMgmt h
  · split
    · exact forms_tellMgmt h
    · next he => exact forms_tellMgmt (forms_mgmtOp h _ he)
    · next he => exact forms_mgmtOp h _ he

theorem forms_execBisect {logx logy res rcb} (h : MemForms s) : NextAll MemForms (execBisect logx logy res rcb s) :=
  next_next (forms_getD (opt_bind_of fun _ => forms_opBisect h) h)

theorem forms_execSign {n res rcb} (h : MemForms s) : NextAll MemForms (execSign n res rcb s) :=
  next_next (forms_getD (opt_bind_of fun _ => forms_opSign h) h)

theorem forms_execCapture {rcb pkt task rank leaf cap capsz} (h : MemForms s) : NextAll MemForms (execCapture rcb pkt task rank leaf cap capsz s) :=
  next_next (forms_getD (opt_bind_of fun _ => forms_opCapture h) h)

theorem forms_execReferee {recx recy cap res which rcb} (h : MemForms s) : NextAll MemForms (execReferee recx recy cap res which rcb s) :=
  next_next (forms_getD (opt_bind_of fun _ => forms_opReferee h) h)

theorem forms_deadQueue {q a} (h : MemForms s) : MemForms (s.deadQueue q a) := forms_with (forms_sendRec h)

theorem forms_takePackets {q d root} (n : Nat) :
    ∀ {s : State} {i : Nat}, MemForms s → MemForms (s.takePackets q d root n i).1 := by
  induction n with
  | zero => exact id
  | succ n ih =>
    intro s i h
    rw [State.takePackets]
    split
    · exact h
    · split
      · exact forms_deadQueue h
      · next he =>
          have ht := forms_useRead _ h _ he
          exact fst_ite (fst_ite ht (ih (forms_handleMgmt ht))) (fst_ite (ih (forms_handleLaunch ht)) (forms_handleLaunch ht))

theorem forms_poolPop {rcb hd} (h : MemForms s) : MemForms (s.poolPop rcb hd) := forms_ite (forms_freeMem (forms_devNat h)) (forms_devNat h)

theorem forms_drainPool {q rcb} (n : Nat) : ∀ {s : State}, MemForms s → MemForms (s.drainPool q rcb n) := by
  induction n with
  | zero => exact id
  | succ n ih =>
    intro s h
    rw [State.drainPool.eq_def]
    dsimp only
    split
    · exact h
    · next hd _ =>
      have hr : MemForms (if hd.lost then (s.sendRec { kind := 12, addr := hd.pool.slot hd.pool.head } none, true)
          else s.handleLaunch hd.src (hd.entry.take 128)).1 := fst_ite (forms_sendRec h) (forms_handleLaunch h)
      exact forms_ite (ih (forms_poolPop hr)) hr

theorem forms_drainOne {q owner} (h : MemForms s) : MemForms (s.drainOne q owner) := by
  unfold State.drainOne
  split
  · exact h
  · exact forms_with (forms_drainPool _ h)

theorem forms_slotOf {q} (h : MemForms s) : MemForms (s.slotOf q) := by
  unfold State.slotOf
  split
  · split
    · exact forms_deadQueue h
    · exact h
  · split
    · exact h
    · split
      · exact forms_deadQueue h
      · exact forms_ite h (forms_ite (forms_ite (forms_takePackets _ h) (forms_devNat (forms_takePackets _ h))) (forms_drainOne
          (forms_ite (forms_takePackets _ h) (forms_devNat (forms_takePackets _ h)))))

theorem forms_execMillinerSlot {m q} (h : MemForms s) : NextAll MemForms (execMillinerSlot m q s) :=
  next_next (forms_ite (forms_unblock (forms_slotOf h)) h)

theorem forms_execPoolSpill {rcb} (h : MemForms s) : NextAll MemForms (execPoolSpill rcb s) :=
  next_next (forms_ite (forms_unblock (forms_spillPool h)) h)

theorem forms_execMillinerHeartbeat {m} (h : MemForms s) : NextAll MemForms (execMillinerHeartbeat m s) := next_next (forms_ite (forms_updMilli h) h)

theorem forms_frameOver (h : MemForms s) : MemForms s.frameOver := h

theorem forms_execMillinerTakeover {m} (h : MemForms s) : NextAll MemForms (execMillinerTakeover m s) := next_next (forms_ite (forms_takeover h) h)

theorem forms_execStandbyBegin (h : MemForms s) : NextAll MemForms (execStandbyBegin s) := next_next (forms_ite (forms_updMilli h) h)

theorem forms_newPeriod {a} (h : MemForms s) : MemForms (s.newPeriod a) := forms_with (forms_devNat h)

theorem forms_execBudgetReset {a} (h : MemForms s) : NextAll MemForms (execBudgetReset a s) := next_next (forms_ite (forms_newPeriod h) h)

theorem forms_execLaunchComplete {arr} (h : MemForms s) : NextAll MemForms (execLaunchComplete arr s) := by
  unfold execLaunchComplete
  refine next_next ?_
  split
  · exact h
  · split
    · exact forms_ite (forms_unblock (forms_endCapture h)) h
    · exact forms_ite (forms_unblock (forms_getD (forms_endLaunch h) h)) h

theorem forms_replayLaunch {l} (h : MemForms s) : MemForms (s.replayLaunch l) :=
  forms_endReserve (forms_logEntry (forms_addCused (forms_setLaunch (forms_ite (forms_with (forms_releaseShadows h)) (forms_releaseShadows h)))))

theorem forms_execShadowReplay {arr} (h : MemForms s) : NextAll MemForms (execShadowReplay arr s) := by
  unfold execShadowReplay
  refine next_next ?_
  split
  · exact forms_ite (forms_replayLaunch h) h
  · exact h

theorem forms_signChain {n} (h : MemForms s) : MemForms (s.signChain n) := by
  unfold State.signChain
  dsimp only
  split
  · exact h
  · split
    · next he => exact forms_with (forms_logPut (forms_with h) _ he)
    · exact forms_bump h

theorem forms_execIntervalSigning {n} (h : MemForms s) : NextAll MemForms (execIntervalSigning n s) := next_next (forms_ite (forms_signChain h) h)

theorem forms_onTick (h : MemForms s) : MemForms s.onTick :=
  forms_getD (forms_writeSnap (forms_foldl (fun _ _ ht => forms_beginScan ht) (forms_ite
    (forms_frameOver (forms_foldl (fun _ _ ht => forms_ite (forms_newPeriod ht) ht) h)) (forms_foldl
    (fun _ _ ht => forms_ite (forms_newPeriod ht) ht) h)))) (forms_foldl (fun _ _ ht => forms_beginScan ht)
    (forms_ite (forms_frameOver (forms_foldl (fun _ _ ht => forms_ite (forms_newPeriod ht) ht) h)) (forms_foldl
    (fun _ _ ht => forms_ite (forms_newPeriod ht) ht) h)))

theorem forms_execTick (h : MemForms s) : NextAll MemForms (execTick s) := next_next (forms_unblock (forms_onTick h))

theorem forms_execAgeProm {c} (h : MemForms s) : NextAll MemForms (execAgeProm c s) := by
  unfold execAgeProm
  refine next_next ?_
  split
  · exact h
  · next he => exact forms_ite (forms_focus h _ he) h

theorem forms_doLoad {a d} (h : MemForms s) : MemForms (s.doLoad a d) := by
  unfold State.doLoad
  dsimp only
  split
  · exact forms_devNat h
  · exact forms_devNat (forms_with (forms_devPut (forms_devNat h)))

theorem forms_doUnload {a d} (h : MemForms s) : MemForms (s.doUnload a d) :=
  forms_ite (forms_devNat h) (forms_ite (forms_devNat (forms_with (forms_devPut h))) (forms_devNat (forms_devPut h)))

theorem forms_execLoad (h : MemForms s) : NextAll MemForms (execLoad s) := by
  unfold execLoad
  refine next_next ?_
  split
  · exact forms_ite h (forms_doLoad h)
  · exact h

theorem forms_execUnload (h : MemForms s) : NextAll MemForms (execUnload s) := by
  unfold execUnload
  refine next_next ?_
  split
  · exact forms_ite (forms_doUnload h) h
  · exact h

end

end Sys2Proof.Machine

/-! ### Measurements and exits -/

namespace Sys2Proof.Machine

open Sys2Proof (MemForms)

section
variable {s : State}

theorem forms_respond {req code payload} (h : MemForms s) : MemForms (s.respond req code payload) := h

theorem forms_spdmError {code} (h : MemForms s) : MemForms (s.spdmError code) := h

theorem forms_respondSigned {req code payload} (h : MemForms s) : MemForms (s.respondSigned req code payload) := h

theorem forms_execGetVersion (h : MemForms s) : NextAll MemForms (execGetVersion s) := next_next (forms_respond h)

theorem forms_execGetCapabilities (h : MemForms s) : NextAll MemForms (execGetCapabilities s) := next_next (forms_respond h)

theorem forms_execNegotiateAlgorithms (h : MemForms s) : NextAll MemForms (execNegotiateAlgorithms s) := next_next (forms_respond h)

theorem forms_execGetDigests (h : MemForms s) : NextAll MemForms (execGetDigests s) := next_next (forms_respond h)

theorem forms_execGetCertificate {slot off len} (h : MemForms s) : NextAll MemForms (execGetCertificate slot off len s) :=
  next_next (forms_ite (forms_spdmError h) (forms_respond h))

theorem forms_execChallenge {nonce} (h : MemForms s) : NextAll MemForms (execChallenge nonce s) := next_next (forms_respondSigned h)

theorem forms_execGetMeasurements {index nonce} (h : MemForms s) : NextAll MemForms (execGetMeasurements index nonce s) := by
  unfold execGetMeasurements
  dsimp only
  refine next_next ?_
  split
  · exact forms_respondSigned h
  · exact forms_spdmError h

theorem forms_execVendorSlhSig (h : MemForms s) : NextAll MemForms (execVendorSlhSig s) := next_next (forms_ite (forms_spdmError h) (forms_respond h))

theorem forms_execVendorSlhCert (h : MemForms s) : NextAll MemForms (execVendorSlhCert s) := next_next (forms_respond h)

theorem forms_execSpdmUnsupported {code} (h : MemForms s) : NextAll MemForms (execSpdmUnsupported code s) := next_next (forms_spdmError h)

theorem forms_fuse {p c} (h : MemForms s) : MemForms (s.fuse p c) := by
  unfold State.fuse
  split
  · dsimp only
    exact forms_setLaunch (forms_setLaunch (forms_with (forms_devPut h)))
  · exact h

end

end Sys2Proof.Machine

/-! ### Splices -/

namespace Sys2Proof.Machine

open Sys2Proof (MemForms)

section
variable {s : State}

/-- A blocked packet whose walked state has the form, and whose taking keeps it. -/
structure Blocked.Keeps (b : Blocked) : Prop where
  walked : MemForms b.at_
  take : ∀ u, MemForms u → MemForms (b.take u)

theorem forms_passed3 {src p take} (h : MemForms s) (htake : ∀ u, MemForms u → MemForms (take u)) :
    OptAll Blocked.Keeps (s.passed3 src p take) := by
  unfold State.passed3
  refine opt_ite opt_none ?_
  split
  · exact opt_none
  · dsimp only
    split
    · exact opt_none
    · exact opt_ite (opt_some ⟨h, htake⟩) opt_none

theorem forms_blockedAt {q} (h : MemForms s) : OptAll Blocked.Keeps (s.blockedAt q) := by
  unfold State.blockedAt
  split
  · exact opt_none
  · refine opt_ite opt_none ?_
    split
    · exact opt_none
    · split
      · exact opt_none
      · next he => exact forms_passed3 (forms_useRead _ h _ he) fun u hu => forms_devNat hu

theorem forms_blockedPools {q} (h : MemForms s) : ∀ b ∈ s.blockedPools q, b.Keeps := by
  intro b hb
  unfold State.blockedPools at hb
  split at hb
  · cases hb
  · split at hb
    · cases hb
    · obtain ⟨rcb, -, hrcb⟩ := List.mem_filterMap.mp hb
      split at hrcb
      · exact opt_ite opt_none (forms_passed3 h fun u hu => forms_poolPop hu) b hrcb
      · cases hrcb

theorem forms_offer {p b} (hb : b.Keeps) : OptAll MemForms (s.offer p b) := by
  unfold State.offer
  split
  · exact opt_none
  · next u ds he =>
    have htest : MemForms (u.depTest b.src b.space 0 ds).1 := forms_depTest _ (forms_depsOf hb.walked _ he)
    generalize u.depTest b.src b.space 0 ds = r at htest ⊢
    dsimp only
    split
    · refine opt_ite opt_none ?_
      split
      · refine opt_some ?_
        split
        · exact htest
        · next hw =>
          have hx := hb.take _ (forms_checks567 htest _ hw)
          split
          · exact forms_endReserve (forms_fuse hx)
          · exact hx
      · exact opt_some (forms_setLaunch htest)
    · exact opt_none

theorem forms_offers {p q} (h : MemForms s) : MemForms (s.offers p q) := by
  refine forms_getD (fun t ht => ?_) h
  obtain ⟨b, hb, hoffer⟩ := List.exists_of_findSome?_eq_some ht
  refine forms_offer ?_ t hoffer
  rcases List.mem_append.mp hb with hq | hp
  · exact forms_blockedAt h b (Option.mem_toList.mp hq)
  · exact forms_blockedPools h b hp

theorem forms_execSplicePair {parr q} (h : MemForms s) : NextAll MemForms (execSplicePair parr q s) := by
  unfold execSplicePair
  refine next_next ?_
  split
  · exact forms_ite (forms_unblock (forms_offers h)) h
  · exact h

end

end Sys2Proof.Machine

/-! ### Every instruction and event -/

namespace Sys2Proof.Machine

open Sys2Proof (MemForms)

section
variable {s : State}

/-- An instruction that acts on registers alone leaves every memory as it was. -/
theorem forms_of_leaves {ds t} (h : MemForms s) (hl : Leaves ds s t) : MemForms t := by
  have ht : MemForms { t with iss := s.iss } := hl.rest.symm ▸ h
  exact ht

theorem forms_exec {i} (h : MemForms s) : NextAll MemForms (exec i s) := by
  by_cases hd : ∃ ds, i.dests s = some ds
  · obtain ⟨ds, hds⟩ := hd
    exact fun t ht => forms_of_leaves h (leaves_of_dests hds ht)
  · cases i with
    | ldB | ldBu | ldH | ldHu | ldW | ldWu | ldD => exact forms_loadS h
    | stB | stH | stW | stD => exact forms_storeS h
    | vldF32 | vldF16 | vldBf16 | vldI8 | vldI8n | vldB18 => exact forms_loadV h
    | vld => exact forms_execVld h
    | vstF32 | vstF16 | vstBf16 | vstI8 | vstI8n | vstB18 => exact forms_storeV h
    | vst => exact forms_execVst h
    | vlds => exact forms_execVlds h
    | vgath => exact forms_execVgath h
    | vscat => exact forms_execVscat h
    | amo => exact forms_execAmo h
    | cas => exact forms_execCas h
    | mmaI8 | mmaI8p | mmaBf16 | mmaF16 | mmaBf16p | mmazI8 | mmazI8p | mmazBf16 | mmazF16 | mmazBf16p => exact forms_xMma h
    | sacc => exact forms_execSacc h
    | tclr => exact forms_execTclr h
    | tcvt => exact forms_execTcvt h
    | tld => exact forms_execTld h
    | tred => exact forms_execTred h
    | sscan => exact forms_execSscan h
    | tdig => exact forms_execTdig h
    | tcopy => exact forms_execTcopy h
    | mma64 => exact forms_execMma64 h
    | xpush36 | xpush18 | xpush9 => exact forms_xpush h
    | xpop => exact forms_execXpop h
    | xplane => exact forms_execXplane h
    | xrst => exact forms_execXrst h
    | copy => exact forms_execCopy h
    | coll => exact forms_execColl h
    | launch => exact forms_execLaunch h
    | launcht => exact forms_execLauncht h
    | join => exact forms_execJoin h
    | bar c => exact forms_execBar (_cl := c) h
    | signal => exact forms_execSignal h
    | rft => exact forms_execRft h
    | cropen => exact forms_execCropen h
    | crclose => exact forms_execCrclose h
    | ilock => exact forms_execIlock h
    | iunlk => exact forms_execIunlk h
    | wpset => exact forms_execWpset h
    | resultArrival => exact forms_execResultArrival h
    | pageWalk => exact forms_execPageWalk h
    | loadReply => exact forms_execLoadReply h
    | trapDelivery => exact forms_execTrapDelivery h
    | rankEnd => exact forms_execRankEnd h
    | xComplete => exact forms_execXComplete h
    | engineFinish => exact forms_execEngineFinish h
    | leafHash => exact forms_execLeafHash h
    | millinerSlot => exact forms_execMillinerSlot h
    | launchComplete => exact forms_execLaunchComplete h
    | shadowReplay => exact forms_execShadowReplay h
    | splicePair => exact forms_execSplicePair h
    | poolSpill => exact forms_execPoolSpill h
    | gangPop => exact forms_execGangPop h
    | preempt => exact forms_execPreempt h
    | gangResume => exact forms_execGangResume h
    | intervalSigning => exact forms_execIntervalSigning h
    | evacDrainDone => exact forms_execEvacDrainDone h
    | selfTestAbandon => exact forms_execSelfTestAbandon h
    | ageProm => exact forms_execAgeProm h
    | unwind => exact forms_execUnwind h
    | gangStop => exact forms_execGangStop h
    | millinerHeartbeat => exact forms_execMillinerHeartbeat h
    | millinerTakeover => exact forms_execMillinerTakeover h
    | standbyBegin => exact forms_execStandbyBegin h
    | dispatch => exact forms_execDispatch h
    | budgetReset => exact forms_execBudgetReset h
    | uncontained => exact forms_execUncontained h
    | bisect => exact forms_execBisect h
    | sign => exact forms_execSign h
    | capture => exact forms_execCapture h
    | referee => exact forms_execReferee h
    | wakeWrite => exact forms_execWakeWrite h
    | tick => exact forms_execTick h
    | clockChange => exact forms_execClockChange h
    | powerThrottle => exact forms_execPowerThrottle h
    | uncorrectable => exact forms_execUncorrectable h
    | corrected => exact forms_execCorrected h
    | stackFence => exact forms_execStackFence h
    | treeFence => exact forms_execTreeFence h
    | selfTestStart => exact forms_execSelfTestStart h
    | selfTestComplete => exact forms_execSelfTestComplete h
    | scan => exact forms_execScan h
    | scanComplete => exact forms_execScanComplete h
    | eyeMargin => exact forms_execEyeMargin h
    | flitReceive => exact forms_execFlitReceive h
    | flitReplay => exact forms_execFlitReplay h
    | peerEntry => exact forms_execPeerEntry h
    | linkh => exact forms_execLinkh h
    | tlbInvalidate => exact forms_execTlbInvalidate h
    | tlbInvComplete => exact forms_execTlbInvComplete h
    | chainBind => exact forms_execChainBind h
    | logrd => exact forms_execLogrd h
    | loadreq => exact forms_execLoadreq h
    | load => exact forms_execLoad h
    | unload => exact forms_execUnload h
    | debugStop => exact forms_execDebugStop h
    | debugResume => exact forms_execDebugResume h
    | dumpreq => exact forms_execDumpreq h
    | featlock => exact forms_execFeatlock h
    | warmStart => exact forms_execWarmStart h
    | coldStart => exact forms_execColdStart h
    | powerOn => exact forms_execPowerOn h
    | fundReset => exact forms_execFundReset h
    | stackTrained => exact forms_execStackTrained h
    | clusterReady => exact forms_execClusterReady h
    | millinerLoaded => exact forms_execMillinerLoaded h
    | brimTrained => exact forms_execBrimTrained h
    | vfFlr => exact forms_execVfFlr h
    | zoneWordWrite => exact forms_execZoneWordWrite h
    | zoneTrip => exact forms_execZoneTrip h
    | zoneTripClear => exact forms_execZoneTripClear h
    | clockRestore => exact forms_execClockRestore h
    | evac => exact forms_execEvac h
    | evacValveClosed => exact forms_execEvacValveClosed h
    | evacDry => exact forms_execEvacDry h
    | evacTimeout => exact forms_execEvacTimeout h
    | refill => exact forms_execRefill h
    | refillComplete => exact forms_execRefillComplete h
    | refillTimeout => exact forms_execRefillTimeout h
    | getVersion => exact forms_execGetVersion h
    | getCapabilities => exact forms_execGetCapabilities h
    | negotiateAlgorithms => exact forms_execNegotiateAlgorithms h
    | getDigests => exact forms_execGetDigests h
    | getCertificate => exact forms_execGetCertificate h
    | challenge => exact forms_execChallenge h
    | getMeasurements => exact forms_execGetMeasurements h
    | vendorSlhSig => exact forms_execVendorSlhSig h
    | vendorSlhCert => exact forms_execVendorSlhCert h
    | spdmUnsupported => exact forms_execSpdmUnsupported h
    | ctlWrite => exact forms_execCtlWrite h
    | wpAdvance => exact forms_execWpAdvance h
    | dumpGranule => exact forms_execDumpGranule h
    | aperture => exact forms_execAperture h
    | vfEnable => exact forms_execVfEnable h
    | qdescWrite => exact forms_execQdescWrite h
    | _ => exact absurd ⟨_, rfl⟩ hd

end

end Sys2Proof.Machine

/-! ### The step -/

namespace Sys2Proof.Machine

open Sys2Proof (MemForms)

section
variable {s : State}

theorem forms_atSlot {x} (h : MemForms s) : MemForms (s.atSlot x) := h

theorem forms_runSlots (xs : List Slot) : ∀ {s : State}, MemForms s → NextAll MemForms (runSlots xs s) := by
  induction xs with
  | nil => exact fun h => next_next h
  | cons x xs ih =>
    intro s h
    obtain ⟨t, ht⟩ := answers_exec x.instr (s.atSlot x)
    rw [runSlots_cons xs ht]
    exact ih (forms_exec (forms_atSlot h) t ht)

theorem forms_steer {exits} (h : MemForms s) : MemForms (s.steer exits) := by
  unfold State.steer
  split
  · exact h
  · split
    · exact h
    · split
      · exact h
      · split
        · exact h
        · exact forms_ite (forms_agree h) (forms_dissent h)

theorem forms_runBundle {b} (h : MemForms s) : NextAll MemForms (s.runBundle b) := by
  have hs : MemForms { s with iss := { npc := s.ctx.pc + BitVec.ofNat 64 (4 * b.len) } } := h
  unfold State.runBundle
  generalize ({ s with iss := { npc := s.ctx.pc + BitVec.ofNat 64 (4 * b.len) } } : State) = s0 at hs ⊢
  dsimp only
  split
  · next he =>
      have ht := forms_runSlots _ hs _ he
      split
      · exact next_next ht
      · split
        · exact next_ite (next_next (forms_steer ht)) (forms_runSlots _ (forms_steer ht))
        · split
          · exact next_next ht
          · split <;> exact forms_runSlots _ ht
  · exact forms_runSlots _ hs

theorem forms_heldBy {hd t} (h : MemForms s) : MemForms (s.heldBy hd t) := by
  unfold State.heldBy
  dsimp only
  split
  · exact forms_with (forms_atGate (forms_ite (forms_record h) h))
  · exact forms_with (forms_atGate (forms_bring (forms_ite (forms_record h) h)))
  · exact h
  · exact h

theorem forms_trapOwner {x} (h : MemForms s) : MemForms (s.trapOwner x).1 := by
  unfold State.trapOwner
  split
  · exact h
  · split
    · exact h
    · exact forms_with (forms_getD (forms_focus h) h)

theorem forms_issueTrap {b t} (h : MemForms s) (ht : MemForms t) : MemForms (s.issueTrap b t) := by
  unfold State.issueTrap
  dsimp only
  split
  · exact forms_unblock (forms_takeTrap (forms_with (forms_clearGate h)))
  · split
    · exact forms_unblock (forms_takeTrap (forms_trapOwner (forms_with (forms_clearGate h))))
    · split
      · exact forms_unblock (forms_takeTrap (forms_getD (forms_focus (forms_with (forms_clearGate h))) (forms_with (forms_clearGate h))))
      · exact forms_unblock (forms_endBundle ht)

theorem forms_conclude {b t} (h : MemForms s) (ht : MemForms t) : MemForms (s.conclude b t) := by
  unfold State.conclude
  dsimp only
  split
  · exact forms_ite (forms_issueTrap h ht) (forms_heldBy h)
  · exact forms_issueTrap h ht

theorem forms_fetchTrap {t} (h : MemForms s) : MemForms (s.fetchTrap t) :=
  forms_unblock (forms_takeTrap (forms_mapGang (forms_with (forms_clearGate h))))

theorem forms_concludeJoined {m b bc t w y} (h : MemForms s) (hy : MemForms y) : MemForms (s.concludeJoined m b bc t w y) := by
  unfold State.concludeJoined
  dsimp only
  split
  · exact forms_heldBy h
  · exact forms_heldBy (forms_mapCtx (forms_getD (forms_focus h) h))
  · split
    · exact forms_unblock (forms_takeTrap (forms_with (forms_clearGate h)))
    · split
      · exact forms_unblock (forms_takeTrap (forms_trapOwner (forms_with (forms_clearGate h))))
      · exact forms_unblock (forms_takeTrap (forms_with (forms_clearGate (forms_getD (forms_focus h) h))))
      · exact forms_ite (forms_unblock (forms_takeTrap (forms_with (forms_clearGate (forms_getD (forms_focus h) h))))) (forms_unblock
          (forms_endBundleWith hy))

theorem forms_issueJoined {m} (h : MemForms s) : NextAll MemForms (s.issueJoined m) := by
  unfold State.issueJoined
  dsimp only
  split
  · exact next_next (forms_heldBy h)
  · split
    · exact next_next (forms_fetchTrap h)
    · next he =>
        have ht := forms_fetch h _ he
        split
        · exact next_next (forms_fetchTrap (forms_getD (forms_focus h) h))
        · next he2 =>
            have hu := forms_fetch (forms_getD (forms_focus ht) ht) _ he2
            split
            · next he3 =>
                have hv := forms_runBundle (forms_getD (forms_focus hu) ht) _ he3
                split
                · exact next_next (forms_conclude (forms_getD (forms_focus hu) ht) hv)
                · next he4 =>
                    have hw := forms_focus (forms_ite (forms_endBundleWith hv) (forms_getD (forms_focus hu) ht)) _ he4
                    split
                    · next he5 => exact next_next (forms_concludeJoined (forms_getD (forms_focus hu) ht) (forms_runBundle hw _ he5))
                    · exact forms_runBundle hw
            · exact forms_runBundle (forms_getD (forms_focus hu) ht)

theorem forms_issue (h : MemForms s) : NextAll MemForms s.issue := by
  unfold State.issue
  split
  · exact next_next (forms_heldBy h)
  · split
    · exact next_next (forms_fetchTrap h)
    · next he =>
        have ht := forms_fetch h _ he
        split
        · next he2 => exact next_next (forms_conclude ht (forms_runBundle ht _ he2))
        · exact forms_runBundle ht

theorem forms_select (h : MemForms s) : OptAll MemForms s.select := by
  unfold State.select
  split
  · exact opt_none
  · exact opt_bind_of fun _ => forms_focus h

theorem forms_grow {core done} (h : MemForms s) : MemForms (s.grow core done) := forms_mapCtx h

theorem forms_goOn (h : MemForms s) : NextAll MemForms s.goOn := by
  unfold State.goOn
  split
  · exact next_next (forms_takeBoundary h)
  · split
    · split
      · next he => exact next_next (forms_unblock ((opt_bind_of fun _ => forms_preemptGang h) _ he))
      · exact forms_issue h
    · split
      · exact next_ite (next_next (forms_getD (opt_map (forms_focus h) fun _ hx => forms_takeBoundary hx) h)) (forms_issueJoined h)
      · exact forms_issue h

theorem forms_secondary {us} (n : Nat) :
    ∀ {cs : List Ctx} {s : State}, MemForms s → NextAll MemForms (State.secondary us n cs s) := by
  induction n with
  | zero => exact next_next
  | succ n ih =>
    intro cs s h
    rw [State.secondary]
    split
    · exact next_next h
    · next he =>
        have ht := (opt_bind_of fun _ => forms_focus h) _ he
        split
        · exact next_next h
        · split
          · exact next_next h
          · split
            · next he2 =>
                have hu := forms_goOn ht _ he2
                exact next_ite (ih hu) (next_next hu)
            · exact forms_goOn ht

theorem forms_issueNow (h : MemForms s) : NextAll MemForms s.issueNow := by
  have hgo := forms_goOn h
  unfold State.issueNow
  dsimp only
  split
  · next t ht =>
    have hgrown {core done} : MemForms (t.grow core done) := forms_grow (hgo t ht)
    have hbeside (o : Option (List Slot)) (issued : Bool) (cs : List Ctx) (core : Nat) (done : List Nat) : NextAll MemForms (match o with
        | some b => if issued then State.secondary (unitsOf b) 4 cs (t.grow core done) else .next (t.grow core done)
        | none => .next (t.grow core done)) := by
      cases o with
      | some b => exact next_ite (forms_secondary _ hgrown) (next_next hgrown)
      | none => exact next_next hgrown
    split
    · next u hu => exact next_next (forms_with (hbeside _ _ _ _ _ u hu))
    · exact hbeside _ _ _ _ _
  · exact hgo

theorem forms_internal (h : MemForms s) : NextAll MemForms s.internal := forms_exec h

theorem forms_step (h : MemForms s) : NextAll MemForms (step s) := by
  unfold step
  split
  · exact forms_exec (forms_with h)
  · refine next_ite (forms_internal h) ?_
    split
    · next he => exact forms_issueNow (forms_select h _ he)
    · exact forms_internal h

end

end Sys2Proof.Machine

section
open Sys2Proof Sys2Proof.Machine

/-- Settles O9: every part of a step, from the writes up to the next event or bundle, keeps each memory in its canonical form. -/
theorem stepKeepsMemForms : Obligations.StepKeepsMemForms := by
  unfold Obligations.StepKeepsMemForms
  exact fun s t h ht => forms_step h t ht

end

/-! ## Atomics, joins, barriers and signals -/

namespace Sys2Proof.Machine

/-! ### amo and cas (R204 to R206, Table 13.4) -/

theorem atomRead_value {s s1 : State} {a : Word} {n : Nat} {p : Place} {bs : List Byte} (hplace : s.storePlace a = .ok (s1, p))
    (hread : s1.readPlace s.ctx.arr p n = .ok bs) : s.atomRead a n = .ok (s1, p, .ok (leNat bs)) := by
  unfold State.atomRead
  simp only [hplace, hread]

section
variable {s s1 : State} {d : BitVec 5} {b o : BitVec 6} {x : AmoX} {a y : Word} {n : Nat} {p : Place} {bs : List Byte}
  (hb : s.rdS b = .ok a) (ho : s.rdS o = .ok y) (hn : (if x.size.toNat = 0 then 4 else 8) = n) (hroom : s.room 1 = true)
  (hhold : s.storeHold a n = .ok ()) (hplace : s.storePlace a = .ok (s1, p)) (hread : s1.readPlace s.ctx.arr p n = .ok bs)
  (hfar : s1.farFails s.ctx.arr p true = false)
include hb ho hn hroom hhold hplace hread hfar

theorem execAmo_value (hd : s.dstS d.toNat = .ok ()) (hcheck : s.issueCheck (.amo (x.aop.toNat ≤ 1)) a n = .ok ()) :
    ∃ w, execAmo d b o x s
      = .next ((((s1.farUse p).writePlace s.ctx.arr p (leBytes n (amoNew x.aop.toNat (8 * n) (leNat bs) (y.toNat % 2 ^ (8 * n))))).postAtom
          d (leNat bs) none).watchTrap a w) := by
  unfold execAmo
  simp only [hb, ho, hd, hn, both_ok, ok_bind, hcheck, hroom, await_true, hhold, atomRead_value hplace hread, hfar, Bool.false_eq_true, if_false,
    finish_pure]
  exact ⟨_, rfl⟩

theorem execCas_value {z : Word} (hz : s.rdSn d.toNat false = .ok z) (hcheck : s.issueCheck (.amo true) a n = .ok ()) :
    let ok : Bool := leNat bs == z.toNat % 2 ^ (8 * n)
    let u := if ok then (s1.farUse p).writePlace s.ctx.arr p (leBytes n (y.toNat % 2 ^ (8 * n))) else s1.farUse p
    ∃ w, execCas d b o x s = .next (((u.postAtom d (leNat bs) none).postP x.ps.toNat (s.ctx.latOf 18) ok).watchTrap a w) := by
  unfold execCas
  simp only [hb, ho, hz, hn, both_ok, ok_bind, hcheck, hroom, await_true, hhold, atomRead_value hplace hread, hfar, Bool.false_eq_true, if_false,
    finish_pure]
  exact ⟨_, rfl⟩

end

/-! ### bar, join and signal (R212, R223 to R225) -/

/-- A join on a counter above 0 takes 1 from it (R223). -/
theorem joinAt_positive {s : State} {j : Joiner} {a : Word} {pa : Nat} (hp : s.poisoned pa = false) (h : memNat s.mem pa 8 ≠ 0) :
    s.joinAt j a pa = s.devNat pa 8 (memNat s.mem pa 8 - 1) := by
  unfold State.joinAt
  simp only [hp, Bool.false_eq_true, if_false, if_neg h]

theorem joinAt_zero {s : State} {j : Joiner} {a : Word} {pa : Nat} (hp : s.poisoned pa = false) (h : memNat s.mem pa 8 = 0) :
    s.joinAt j a pa = s.joinRec j a 0 := by
  unfold State.joinAt
  simp only [hp, Bool.false_eq_true, if_false, if_pos h]

section
variable {s g : State} {a b : BitVec 6} {x : Word} (hx : s.rdS a = .ok x) (htcvt : s.tcvtOut = false)
include htcvt

theorem execBar_gate (cl : Bool) (hg : s.gangGate = .ok g) : execBar cl s = .next g := by
  unfold execBar
  simp only [htcvt, Bool.not_false, await_true, ok_bind, hg, finish_ok]

include hx

theorem execJoin_follower (hg : s.gangGate = .ok g) (hinh : s.ctx.inh = false) (hlead : s.isLead = false) : execJoin a s = .next g := by
  unfold execJoin
  simp only [hinh, hx, htcvt, hg, hlead, Bool.not_false, need_true, await_true, ok_bind, Bool.false_eq_true, if_false, finish_pure]

theorem execJoin_lead (hg : s.gangGate = .ok g) (hinh : s.ctx.inh = false) (hlead : s.isLead = true) (hcheck : s.issueCheck .join x 8 = .ok ())
    (hroom : s.room 1 = true) (hsh : s.shadowed s.ctx.arr = false) (hhold : s.storeHold x 8 = .ok ()) {t : State} {pa : Nat}
    (hplace : g.storePlace x = .ok (t, .dev pa)) : execJoin a s = .next (t.joinAt (t.joiner s.ctx.arr) x pa) := by
  unfold execJoin
  simp only [hinh, hx, htcvt, hg, hlead, hcheck, hroom, hsh, hhold, hplace, Bool.not_false, need_true, await_true, ok_bind, Bool.false_eq_true,
    if_false, if_true, finish_pure]

theorem execSignal_stores {y : Word} (hy : s.rdS b = .ok y) (hcheck : s.issueCheck .sig x 8 = .ok ()) (hroom : s.room 1 = true)
    (hhold : s.storeHold x 8 = .ok ()) {t : State} {p : Place} (hplace : s.storePlace x = .ok (t, p)) (hfar : t.farFails s.ctx.arr p false = false) :
    execSignal a b s = .next ((t.farUse p).writePlace s.ctx.arr p (leBytes 8 y.toNat)) := by
  unfold execSignal
  simp only [hx, hy, htcvt, hcheck, hroom, hhold, hplace, hfar, both_ok, Bool.not_false, await_true, ok_bind, Bool.false_eq_true, if_false, finish_pure]

end

end Sys2Proof.Machine

section
open Sys2Proof Sys2Proof.Machine

/-- Settles O40: the new value of an amo is Table 13.4's by its AOP, and cas writes by its comparison. -/
theorem atomicsComplete : Obligations.AtomicsComplete := by
  unfold Obligations.AtomicsComplete
  intro s s1 d b o x a y p bs hb ho _ n old opd hroom hhold hplace hread hfar
  have hn : (if x.size.toNat = 0 then 4 else 8) = n := if_congr (BitVec.toNat_eq (y := 0)).symm rfl rfl
  refine ⟨fun hd hcheck => ?amo, fun z hz hcheck => execCas_value hb ho hn hroom hhold hplace hread hfar hz hcheck⟩
  have hamo := execAmo_value hb ho hn hroom hhold hplace hread hfar hd hcheck
  have hrow (op new : Nat) (hnew : amoNew op (8 * n) old opd = new) (hop : x.aop.toNat = op) : ∃ w, exec (.amo d b o x) s
      = .next ((((s1.farUse p).writePlace s.ctx.arr p (leBytes n new)).postAtom d old none).watchTrap a w) := by
    rw [← hnew, ← hop]
    exact hamo
  exact List.forall_iff_forall_mem.mp ⟨hrow 0 _ rfl, hrow 1 _ rfl, hrow 2 _ rfl, hrow 3 _ rfl, hrow 4 _ rfl, hrow 5 _ rfl, hrow 6 _ rfl,
    hrow 7 _ rfl, hrow 8 _ rfl⟩

/-- Settles O46: join by its counter, bar by its gate, and signal by the write of its place. -/
theorem joinsBarsSignals : Obligations.JoinsBarsSignals := by
  unfold Obligations.JoinsBarsSignals
  intro s a b x hx htcvt
  refine ⟨fun g hg => ⟨fun cl => execBar_gate htcvt cl hg, execJoin_follower hx htcvt hg, ?join⟩,
    fun y t p hy hcheck hroom hhold hplace hfar => execSignal_stores hx htcvt hy hcheck hroom hhold hplace hfar⟩
  intro hinh hlead hcheck hroom hsh hhold t pa hplace hp
  have hjoin := execJoin_lead hx htcvt hg hinh hlead hcheck hroom hsh hhold hplace
  exact ⟨fun h => hjoin.trans (congrArg _ (joinAt_positive hp h)), fun h => hjoin.trans (congrArg _ (joinAt_zero hp h))⟩

end

/-! ## Vector loads -/

namespace Sys2Proof.Machine

/-! ### Lanes and their elements -/

/-- The addresses of active lanes come in lane order, one for each lane. -/
theorem laneAddrs_lanes (act : List Bool) (f : Nat → Word) :
    (laneAddrs act f).map Prod.fst = (List.range act.length).filter (fun i => act.getD i false) := by
  unfold laneAddrs
  rw [List.map_filterMap, ← List.filterMap_eq_filter]
  refine List.filterMap_congr fun i _ => ?_
  cases h : act.getD i false
  · rw [Option.guard_eq_none_iff (p := (act.getD · false)).mpr (by simpa using h)]
    rfl
  · exact (Option.guard_eq_some_iff (p := (act.getD · false)).mpr ⟨rfl, h⟩).symm

theorem nodup_laneAddrs (act : List Bool) (f : Nat → Word) : ((laneAddrs act f).map Prod.fst).Nodup := by
  rw [laneAddrs_lanes]
  exact List.nodup_range.filter _

/-- Where no two entries have the same lane, a lane's entry is the one that is found. -/
theorem find?_lane {α : Type} {xs : List (Nat × α)} (h : (xs.map Prod.fst).Nodup) {x : Nat × α} (hx : x ∈ xs) :
    xs.find? (fun y => y.1 == x.1) = some x := by
  induction xs with
  | nil => cases hx
  | cons y ys ih =>
    rw [List.map_cons, List.nodup_cons] at h
    rcases List.mem_cons.mp hx with rfl | hmem
    · simp
    · have hne : y.1 ≠ x.1 := fun he => h.1 (he ▸ List.mem_map_of_mem hmem)
      rw [List.find?_cons_of_neg (by simpa using hne), ih h.2 hmem]

/-- Lane i of a mask of lanes. -/
theorem laneAt_laneMask {w : Nat} {bs : List Bool} (h : w * bs.length ≤ 4608) (i : Nat) :
    laneAt w (laneMask w bs) i = if bs.getD i false then 2 ^ w - 1 else 0 := by
  have hpos : 0 < 2 ^ w := Nat.two_pow_pos w
  rw [laneMask, laneAt_packRow _ _ _ (by simpa using h), List.getD_eq_getElem?_getD, List.getElem?_map, List.getD_eq_getElem?_getD]
  rcases bs[i]? with _ | _ | _
  · simp
  · simp
  · simp [Nat.mod_eq_of_lt (Nat.sub_lt hpos one_pos)]

/-! ### Reading lane by lane (R199, R203) -/

section
variable {n : Nat} {s : State} {as : List (Nat × Word)} {x : Nat × Word} {t : State}

theorem readLanes_snoc_ok {bs : List Byte} (h : (readLanes n as s).s.loadElem x.2 n = (t, .ok bs)) :
    readLanes n (as ++ [x]) s = ⟨t, (readLanes n as s).vals ++ [(x.1, leNat bs)], (readLanes n as s).fault⟩ := by
  unfold readLanes at h ⊢
  rw [List.foldl_append, List.foldl_cons, List.foldl_nil]
  simp only [h]

theorem readLanes_snoc_error {f : Flt} (h : (readLanes n as s).s.loadElem x.2 n = (t, .error f)) :
    readLanes n (as ++ [x]) s = ⟨t, (readLanes n as s).vals, (readLanes n as s).fault.or (some (s.dfault f x.2))⟩ := by
  unfold readLanes at h ⊢
  rw [List.foldl_append, List.foldl_cons, List.foldl_nil]
  simp only [h]

end

/-- The fault of a row is that of the first element that cannot be read. -/
theorem readLanes_fault {n : Nat} {s : State} {as : List (Nat × Word)} {g : DFault} (h : (readLanes n as s).fault = some g) :
    ∃ pre x post t f, as = pre ++ x :: post ∧ (readLanes n pre s).fault = none ∧ (readLanes n pre s).s.loadElem x.2 n = (t, .error f)
      ∧ g = s.dfault f x.2 := by
  induction as using List.reverseRecOn with
  | nil => cases h
  | append_singleton as y ih =>
    have hlater (hg : (readLanes n as s).fault = some g) : ∃ pre x post t f, as ++ [y] = pre ++ x :: post ∧ (readLanes n pre s).fault = none
        ∧ (readLanes n pre s).s.loadElem x.2 n = (t, .error f) ∧ g = s.dfault f x.2 := by
      obtain ⟨pre, x, post, t, f, rfl, hrest⟩ := ih hg
      exact ⟨pre, x, post ++ [y], t, f, by simp, hrest⟩
    rcases hread : (readLanes n as s).s.loadElem y.2 n with ⟨t, f | bs⟩
    · rw [readLanes_snoc_error hread] at h
      cases hg : (readLanes n as s).fault with
      | some k =>
        rw [hg] at h
        exact hlater (hg.trans h)
      | none =>
        rw [hg] at h
        exact ⟨as, y, [], t, f, rfl, hg, hread, (Option.some.inj h).symm⟩
    · rw [readLanes_snoc_ok hread] at h
      exact hlater h

/-- The elements read are those of lanes that were asked for, in their order. -/
theorem readLanes_lanes (n : Nat) (s : State) (as : List (Nat × Word)) :
    ((readLanes n as s).vals.map Prod.fst).Sublist (as.map Prod.fst) := by
  induction as using List.reverseRecOn with
  | nil => exact List.Sublist.refl _
  | append_singleton as y ih =>
    rw [List.map_append]
    rcases hread : (readLanes n as s).s.loadElem y.2 n with ⟨t, f | bs⟩
    · rw [readLanes_snoc_error hread]
      exact ih.trans (List.sublist_append_left _ _)
    · rw [readLanes_snoc_ok hread, List.map_append]
      exact ih.append_right _

/-- Without a fault every lane has its element. -/
theorem readLanes_all {n : Nat} {s : State} {as : List (Nat × Word)} (h : (readLanes n as s).fault = none) :
    (readLanes n as s).vals.map Prod.fst = as.map Prod.fst := by
  induction as using List.reverseRecOn with
  | nil => rfl
  | append_singleton as y ih =>
    rcases hread : (readLanes n as s).s.loadElem y.2 n with ⟨t, f | bs⟩
    · rw [readLanes_snoc_error hread] at h
      cases hf : (readLanes n as s).fault <;> simp [hf] at h
    · rw [readLanes_snoc_ok hread] at h ⊢
      rw [List.map_append, List.map_append, ih h]
      rfl

/-! ### The result of a vector load (R193, R199 to R203) -/

/-- The lane results of the elements read. -/
def VFmt.laneResults (f : VFmt) (vals : List (Nat × Nat)) : List (Option FR) :=
  (List.range (4608 / f.view)).map (fun i => (vals.find? (fun x => x.1 == i)).map (fun x => f.toLane x.2))

/-- The written bits of a load of the lanes given. -/
def VFmt.loadMask (f : VFmt) (as : List (Nat × Word)) : Row :=
  laneMask f.view ((List.range (4608 / f.view)).map (fun i => as.any (fun x => x.1 == i)))

theorem laneAt_loadMask (f : VFmt) (as : List (Nat × Word)) {i : Nat} (hi : i < 4608 / f.view) :
    laneAt f.view (f.loadMask as) i = if as.any (fun x => x.1 == i) then 2 ^ f.view - 1 else 0 := by
  unfold VFmt.loadMask
  rw [laneAt_laneMask (by simpa using Nat.mul_div_le 4608 f.view), List.getD_eq_getElem?_getD, List.getElem?_map, List.getElem?_range hi]
  rfl

theorem laneVals_laneResults (f : VFmt) (vals : List (Nat × Nat)) :
    LaneVals f.view (fun i => (vals.find? (fun x => x.1 == i)).isSome)
      (fun i => f.toLane (((vals.find? (fun x => x.1 == i)).map Prod.snd).getD 0))
      (laneRow f.view (f.laneResults vals)) (laneMsk f.view (f.laneResults vals)) (laneFlags (f.laneResults vals)) := by
  refine laneVals_of _ _ _ _ (by simp [VFmt.laneResults]) fun i hi => ?_
  rw [VFmt.laneResults, List.getElem?_map, List.getElem?_range hi]
  cases h : vals.find? (fun x => x.1 == i) <;> simp [h]

section
variable {f : VFmt} {vals : List (Nat × Nat)} (hvals : (vals.map Prod.fst).Nodup)
include hvals

/-- An element read stands in its lane, converted. -/
theorem laneAt_laneResults {x : Nat × Nat} (hx : x ∈ vals) (hlt : x.1 < 4608 / f.view) :
    laneAt f.view (laneRow f.view (f.laneResults vals)) x.1 = (f.toLane x.2).bits % 2 ^ f.view := by
  have hfind := find?_lane hvals hx
  simpa [hfind] using ((laneVals_laneResults f vals).1 x.1 hlt (by simp [hfind])).2

/-- The flags are those of the elements read. -/
theorem laneFlags_laneResults {k : Nat} (hk : k < 6) : (laneFlags (f.laneResults vals)).testBit k = true
    ↔ ∃ x ∈ vals, x.1 < 4608 / f.view ∧ (f.toLane x.2).flags.testBit k = true := by
  rw [(laneVals_laneResults f vals).2.2 k hk]
  constructor
  · rintro ⟨i, hi, hact, hflag⟩
    obtain ⟨x, hx⟩ := Option.isSome_iff_exists.mp hact
    obtain rfl : x.1 = i := by simpa using List.find?_some hx
    exact ⟨x, List.mem_of_find?_eq_some hx, hi, by simpa [hx] using hflag⟩
  · rintro ⟨x, hx, hlt, hflag⟩
    have hfind := find?_lane hvals hx
    exact ⟨x.1, hlt, by simp [hfind], by simpa [hfind] using hflag⟩

end

/-- What a load of lanes leaves where nothing holds it and no watchpoint matches. -/
theorem loadLanes_ok {s : State} {d : BitVec 6} {pol long : Bool} {a : Word} {f : VFmt} {as : List (Nat × Word)}
    (hhold : s.holdLanes f.size false as = .ok ()) (hroom : s.room (if long then granuleCount as else 0) = true)
    (hwatch : s.watchLanes true f.size as = none) :
    let r := readLanes f.size as s
    let val := laneRow f.view (f.laneResults r.vals)
    let fl := laneFlags (f.laneResults r.vals)
    s.loadLanes d pol long a f as
      = .ok (if long then r.s.pendLoad ⟨3, physV s.ctx d.toNat⟩ pol a (as.map Prod.snd) val (f.loadMask as) fl r.fault (granuleCount as)
        else r.s.postLocal ⟨3, physV s.ctx d.toNat⟩ val (f.loadMask as) fl r.fault false) := by
  unfold State.loadLanes
  simp only [hhold, hroom, hwatch, await_true, ok_bind, Option.map_none, Option.or_none]
  rfl

/-- An instruction that loads its lanes and updates its base is the vector load of their elements. -/
theorem loadedLanes_of {s : State} {i : Instr} {d b : BitVec 6} {u long : Bool} {a : Word} {f : VFmt} {as : List (Nat × Word)}
    (hlanes : (as.map Prod.fst).Nodup) (hhold : s.holdLanes f.size false as = .ok ())
    (hroom : s.room (if long then granuleCount as else 0) = true) (hwatch : s.watchLanes true f.size as = none)
    (hexec : exec i s = finish s (s.loadLanes d (32 ≤ b.toNat) long a f as >>= fun t => pure (t.baseUpd u b a))) :
    LoadedLanes s i d b u long a f as := by
  have hvals : ((readLanes f.size as s).vals.map Prod.fst).Nodup := hlanes.sublist (readLanes_lanes f.size s as)
  rw [loadLanes_ok hhold hroom hwatch, ok_bind, finish_pure] at hexec
  refine ⟨_, _, _, hexec, fun g hg => readLanes_fault hg, fun x hx hlt => ⟨?mask, laneAt_laneResults hvals hx hlt⟩, fun k hk hno => ?unwritten,
    fun k hk => laneFlags_laneResults hvals hk⟩
  case mask =>
    obtain ⟨y, hy, hyx⟩ := List.mem_map.mp ((readLanes_lanes f.size s as).subset (List.mem_map_of_mem hx))
    have hany : as.any (fun z => z.1 == x.1) = true := List.any_eq_true.mpr ⟨y, hy, by simp [hyx]⟩
    rw [laneAt_loadMask f as hlt, if_pos hany]
  case unwritten =>
    have hany : as.any (fun z => z.1 == k) = false := List.any_eq_false.mpr fun x hx => by simpa using hno x hx
    rw [laneAt_loadMask f as hk, hany]
    rfl

section
variable {s : State} {d b o : BitVec 6} {base : Word} {m : Mask} (hb : s.rdS b = .ok base) (hm : s.rdMask = .ok m) (hd : s.dstV d = .ok ())
include hb hm hd

theorem loadedLanes_loadV {x : MIdx} {off : Word} (hx : s.mdisp x = .ok off) {i : Instr} {f : VFmt} (hi : exec i s = loadV s d b x f) :
    let a := base + off
    let as := laneAddrs (actives f.view m) (fun i => a + BitVec.ofNat 64 (i * f.size))
    s.issueCheck .vld a f.size = .ok () → s.checkLanes .vld f.size as = .ok () ∧ s.holdLanes f.size false as = .ok ()
        ∧ s.room (if longPath a then granuleCount as else 0) = true ∧ s.watchLanes true f.size as = none →
      LoadedLanes s i d b (midxExt x).u (longPath a) a f as := by
  rintro a as hcheck ⟨hlanes, hhold, hroom, hwatch⟩
  refine loadedLanes_of (nodup_laneAddrs _ _) hhold hroom hwatch (hi.trans ?_)
  unfold loadV
  simp only [hb, hm, hd, hx, both_ok, ok_bind, a, as, hcheck, hlanes]

theorem loadedLanes_vlds {x : VIdx} {st : Word} (ho : s.rdS o = .ok st) :
    let a := base + vidxDisp x
    let f := vfmtOf x.x.fmt
    let as := laneAddrs (actives f.view m) (fun i => a + BitVec.ofNat 64 i * st)
    let long := longPath a || as.any (fun y => longPath y.2)
    s.checkLanes .vld f.size as = .ok () ∧ s.holdLanes f.size false as = .ok () ∧ s.room (if long then granuleCount as else 0) = true
        ∧ s.watchLanes true f.size as = none → LoadedLanes s (.vlds d b o x) d b x.x.u long a f as := by
  rintro a f as long ⟨hlanes, hhold, hroom, hwatch⟩
  refine loadedLanes_of (nodup_laneAddrs _ _) hhold hroom hwatch ?_
  show execVlds d b o x s = _
  unfold execVlds
  simp only [hb, ho, hm, hd, both_ok, ok_bind, long, a, f, as, hlanes]

theorem loadedLanes_vgath {x : VIdx} {ro : Row} (ho : s.rdV o = .ok ro) :
    let a := base + vidxDisp x
    let f := vfmtOf x.x.fmt
    let as := laneAddrs (actives 36 m) (fun i => a + BitVec.ofInt 64 (decI 36 (laneAt 36 ro i)))
    let long := longPath a || as.any (fun y => longPath y.2)
    s.checkLanes .vld f.size as = .ok () ∧ s.holdLanes f.size false as = .ok () ∧ s.room (if long then granuleCount as else 0) = true
        ∧ s.watchLanes true f.size as = none → LoadedLanes s (.vgath d b o x) d b x.x.u long a f as := by
  rintro a f as long ⟨hlanes, hhold, hroom, hwatch⟩
  refine loadedLanes_of (nodup_laneAddrs _ _) hhold hroom hwatch ?_
  show execVgath d b o x s = _
  unfold execVgath
  have hoff (i : Nat) : laneOff ro i = BitVec.ofInt 64 (decI 36 (laneAt 36 ro i)) := rfl
  simp only [hb, ho, hm, hd, both_ok, ok_bind, hoff, long, a, f, as, hlanes]

end

/-! ### The raw load (R199) -/

theorem rawUnits_lanes (a : Word) : (rawUnits a).map Prod.fst = List.range 72 := by
  unfold rawUnits
  rw [List.map_map]
  exact List.map_id _

/-- Unit i of a row of 72 units. -/
theorem laneAt_units {xs : List Nat} (h : xs.length = 72) (i : Nat) : laneAt 64 (BitVec.ofNat 4608 (packW 64 xs)) i = xs.getD i 0 % 2 ^ 64 :=
  laneAt_packRow 64 xs i (by omega)

/-- Numbered entries stand at their numbers. -/
theorem getD_of_numbered {n : Nat} {xs : List (Nat × Nat)} (h : xs.map Prod.fst = List.range n) {x : Nat × Nat} (hx : x ∈ xs) :
    (xs.map Prod.snd).getD x.1 0 = x.2 := by
  obtain ⟨i, hi⟩ := List.mem_iff_getElem?.mp hx
  have hfst : (xs.map Prod.fst)[i]? = some x.1 := by rw [List.getElem?_map, hi]; rfl
  have hlt : i < n := by
    have := (List.getElem?_eq_some_iff.mp hfst).1
    simpa [h] using this
  rw [h, List.getElem?_range hlt, Option.some_inj] at hfst
  rw [List.getD_eq_getElem?_getD, ← hfst, List.getElem?_map, hi]
  rfl

section
variable {s : State} {d b : BitVec 6} {x : MIdx} {base off : Word} (hb : s.rdS b = .ok base) (hx : s.mdisp x = .ok off) (hd : s.dstV d = .ok ())
  (hcheck : s.rawCheck .rawLd (base + off) = .ok ()) (hwatch : s.watchLanes true 576 [(0, base + off)] = none)
include hb hx hd hcheck hwatch

theorem execVld_units (hsel : selOf (base + off) ≠ 0x12) (hhold : s.holdLanes 8 false (rawUnits (base + off)) = .ok ())
    (hroom : s.room (if longPath (base + off) then granuleCount (rawUnits (base + off)) else 0) = true) :
    let a := base + off
    let us := rawUnits a
    let r := readLanes 8 us s
    let val : Row := BitVec.ofNat 4608 (packW 64 (r.vals.map Prod.snd))
    execVld d b x s = .next ((if longPath a then
        r.s.pendLoad ⟨3, physV s.ctx d.toNat⟩ (32 ≤ b.toNat) a (us.map Prod.snd) val allRow 0 r.fault (granuleCount us)
      else r.s.postLocal ⟨3, physV s.ctx d.toNat⟩ val allRow 0 r.fault false).baseUpd (midxExt x).u b a) := by
  unfold execVld
  simp only [hb, hx, hd, both_ok, ok_bind, hcheck, hwatch, Option.map_none, Option.or_none, if_neg hsel, hhold, hroom, await_true]
  rfl

theorem execVld_row (hsel : selOf (base + off) = 0x12) {row : Row}
    (hrow : s.rdRow (128 * tileOf s.ctx (lowOf (base + off) / 73728) + lowOf (base + off) / 576 % 128) = .ok row) :
    execVld d b x s = .next ((s.postLocal ⟨3, physV s.ctx d.toNat⟩ row allRow 0 none false).baseUpd (midxExt x).u b (base + off)) := by
  unfold execVld
  simp only [hb, hx, hd, both_ok, ok_bind, hcheck, hwatch, Option.map_none, if_pos hsel, tilePlace, hrow]
  rfl

end

end Sys2Proof.Machine

section
open Sys2Proof Sys2Proof.Machine

/-- Settles O38: the converting loads, vlds and vgath are one load of lanes, and the raw load is its 72 units or its row. -/
theorem vectorLoadsComplete : Obligations.VectorLoadsComplete := by
  unfold Obligations.VectorLoadsComplete
  refine ⟨fun s d b base m hb hm hd => ?lanes, fun s d b x base off hb hx hd => ?raw⟩
  case lanes =>
    intro ready
    refine ⟨fun x off hx => ?_, fun o x => ⟨fun st ho => loadedLanes_vlds hb hm hd ho, fun ro ho _ _ => loadedLanes_vgath hb hm hd ho⟩⟩
    exact List.forall_iff_forall_mem.mp ⟨loadedLanes_loadV hb hm hd hx rfl, loadedLanes_loadV hb hm hd hx rfl, loadedLanes_loadV hb hm hd hx rfl,
      loadedLanes_loadV hb hm hd hx rfl, loadedLanes_loadV hb hm hd hx rfl, loadedLanes_loadV hb hm hd hx rfl⟩
  case raw =>
    intro a us hcheck hwatch
    refine ⟨fun hsel hhold hroom => ⟨_, execVld_units hb hx hd hcheck hwatch hsel hhold hroom, fun hfault y hy => ?_⟩,
      fun hsel row hrow => execVld_row hb hx hd hcheck hwatch hsel hrow⟩
    have hlanes := (readLanes_all hfault).trans (rawUnits_lanes a)
    have hlen : ((readLanes 8 us s).vals.map Prod.snd).length = 72 := by
      simpa using congrArg List.length hlanes
    rw [laneAt_units hlen, getD_of_numbered hlanes hy]

end

/-! ## Vector stores -/

namespace Sys2Proof.Machine

/-! ### What the store of an element leaves of device memory (R177, R312) -/

theorem mem_devWrite_shadowed {s : State} {arr pa : Nat} (bs : List Byte) (h : (s.shadow? arr pa).isNone = false) : (s.devWrite arr pa bs).mem = s.mem := by
  obtain ⟨hs, heq⟩ := devWrite_shadow bs h
  rw [heq]

/-- A launch's write within a granule changes no byte of device memory outside it. -/
theorem memByte_devWrite_out (s : State) (arr pa : Nat) (bs : List Byte) (j : Nat) (h : ¬ (pa ≤ j ∧ j < pa + bs.length)) :
    memByte (s.devWrite arr pa bs).mem j = memByte s.mem j := by
  cases hsh : (s.shadow? arr pa).isNone with
  | false => rw [mem_devWrite_shadowed bs hsh]
  | true =>
    by_cases hpa : pa < peerBase
    · rw [devWrite_dev bs hpa hsh, memByte_devPut_out s pa bs j h]
    · obtain ⟨k, rfl⟩ := Nat.exists_eq_add_of_le (Nat.le_of_not_lt hpa)
      rw [devWrite_peer bs hsh]

theorem mem_devWrite_peer (s : State) (arr k : Nat) (bs : List Byte) : (s.devWrite arr (peerBase + k) bs).mem = s.mem := by
  cases hsh : (s.shadow? arr (peerBase + k)).isNone with
  | false => exact mem_devWrite_shadowed bs hsh
  | true => rw [devWrite_peer bs hsh]

theorem memByte_writePlace_out (s : State) (arr : Nat) (p : Place) (bs : List Byte) (j : Nat) (h : ¬ placeCovers p bs.length j) :
    memByte (s.writePlace arr p bs).mem j = memByte s.mem j := by
  cases p with
  | dev pa => exact memByte_devWrite_out s arr pa bs j h
  | peer k => exact congrArg (memByte · j) (mem_devWrite_peer s arr k bs)
  | buf b k => exact (congrArg (fun t : State => memByte t.mem j) (bufOnly_putBuf s b k bs) :)
  | span b k lo len base => exact (congrArg (fun t : State => memByte t.mem j) (bufOnly_putSegs s b (spanSegs k bs.length lo len base) bs) :)
  | host | row | wake | ctl => rfl

theorem mem_watchTrap (s : State) (a : Word) (w : Nat) : (s.watchTrap a w).mem = s.mem := by
  unfold State.watchTrap
  split <;> rfl

theorem mem_farUse (s : State) (p : Place) : (s.farUse p).mem = s.mem := by
  cases p <;> rfl

theorem mem_keepRow (s : State) (r : Nat) : (s.keepRow r).mem = s.mem := by
  obtain ⟨i, hi⟩ := keepRow_iss s r
  rw [hi]

/-- Outside control space the store of an element changes the bytes of its place alone. -/
theorem memByte_storeElem_out {s t : State} {a : Word} {p : Place} {bs : List Byte} {sc : Bool} (hp : ∀ o, p ≠ .ctl o)
    (h : s.storeElem a p bs sc = .ok t) {j : Nat} (hj : ¬ placeCovers p bs.length j) : memByte t.mem j = memByte s.mem j := by
  unfold State.storeElem at h
  simp only at h
  split at h
  · cases h
    rw [mem_watchTrap, complTrap_mem, mem_farUse]
  · split at h
    · exact absurd rfl (hp _)
    · cases h
      rw [mem_watchTrap]
      exact congrArg (memByte · j) (mem_keepRow s _)
    · cases h
      rw [mem_watchTrap, memByte_writePlace_out _ _ _ _ _ hj, mem_farUse]

/-! ### The lanes of a store (R202, R203) -/

/-- Each lane's place is that of its address. -/
theorem placeLanes_places {as : List (Nat × Word)} {s : State} {q : State × List (Nat × Word × Place)} (h : s.placeLanes as = .ok q) :
    ∀ x ∈ q.2, ∃ e, (x.1, x.2.1) ∈ as ∧ PlaceOf x.2.1 x.2.2 e := by
  induction as generalizing s q with
  | nil =>
    cases h
    exact fun x hx => nomatch hx
  | cons y ys ih =>
    obtain ⟨i, a⟩ := y
    unfold State.placeLanes at h
    split at h
    · cases h
    · next t p hplace =>
      obtain ⟨r, hr, hq⟩ := bind_ok _ _ _ h
      cases hq
      intro x hx
      rcases List.mem_cons.mp hx with rfl | hmem
      · obtain ⟨e, he⟩ := placeOf_storePlace hplace
        exact ⟨e, List.mem_cons_self, he⟩
      · obtain ⟨e, hin, he⟩ := ih hr x hmem
        exact ⟨e, List.mem_cons_of_mem _ hin, he⟩

/-- Lanes whose addresses name no control register have no place there. -/
theorem placeLanes_noCtl {as : List (Nat × Word)} {s : State} {q : State × List (Nat × Word × Place)} (h : s.placeLanes as = .ok q)
    (hsel : ∀ x ∈ as, selOf x.2 ≤ 0x17) : ∀ x ∈ q.2, ∀ o, x.2.2 ≠ .ctl o := by
  intro x hx o ho
  obtain ⟨e, hin, hof⟩ := placeLanes_places h x hx
  rw [ho] at hof
  have hlow : selOf x.2.1 ≤ 0x17 := hsel _ hin
  cases hof with
  | ctl _ h17 _ => omega

/-- Stores of elements outside control space change the bytes of their places alone. -/
theorem memByte_putLanes_out {n : Nat} {vs : Nat → Nat} {xs : List (Nat × Word × Place)} {s t : State} (h : s.putLanes n vs xs = .ok t)
    (hp : ∀ x ∈ xs, ∀ o, x.2.2 ≠ .ctl o) {j : Nat} (hj : ∀ x ∈ xs, ¬ placeCovers x.2.2 n j) : memByte t.mem j = memByte s.mem j := by
  induction xs generalizing s with
  | nil =>
    cases h
    rfl
  | cons x xs ih =>
    obtain ⟨i, a, p⟩ := x
    unfold State.putLanes at h
    obtain ⟨u, hu, ht⟩ := bind_ok _ _ _ h
    have hhead : memByte u.mem j = memByte s.mem j :=
      memByte_storeElem_out (hp _ List.mem_cons_self) hu (by rw [length_leBytes]; exact hj _ List.mem_cons_self)
    exact (ih ht (fun x hx => hp x (List.mem_cons_of_mem _ hx)) (fun x hx => hj x (List.mem_cons_of_mem _ hx))).trans hhead

/-! ### The paths of vector stores (Table 11.4) -/

theorem selOf_of_issueCheck {s : State} {k : Acc} {a : Word} {n : Nat} (hk : k = .vst ∨ k = .rawSt) (h : s.issueCheck k a n = .ok ()) :
    selOf a ≤ 0x12 := by
  obtain ⟨_, hneed, _⟩ := bind_ok _ _ _ h
  have hpass := need_ok hneed
  unfold State.pathPass pathOk at hpass
  rcases hk with rfl | rfl <;>
  · simp only [Bool.and_eq_true, Bool.or_eq_true, beq_iff_eq] at hpass
    omega

theorem selOf_of_checkLanes {s : State} {k : Acc} {n : Nat} {as : List (Nat × Word)} (hk : k = .vst ∨ k = .rawSt)
    (h : s.checkLanes k n as = .ok ()) : ∀ x ∈ as, selOf x.2 ≤ 0x17 := by
  induction as with
  | nil => exact fun x hx => nomatch hx
  | cons y ys ih =>
    unfold State.checkLanes at h
    obtain ⟨_, hy, hys⟩ := bind_ok _ _ _ h
    intro x hx
    rcases List.mem_cons.mp hx with rfl | hmem
    · exact (selOf_of_issueCheck hk hy).trans (by decide)
    · exact ih hys x hmem

/-- An offset below 2⁵⁶ takes an address into the next path at most. -/
theorem selOf_add_le (a : Word) {o : Nat} (ho : o < 2 ^ 56) (ha : selOf a ≤ 0x16) : selOf (a + BitVec.ofNat 64 o) ≤ 0x17 := by
  have hlt := a.isLt
  unfold selOf wfld at ha ⊢
  rw [BitVec.toNat_add, BitVec.toNat_ofNat]
  omega

theorem selOf_rawUnits {s : State} {a : Word} (h : s.rawCheck .rawSt a = .ok ()) : ∀ x ∈ rawUnits a, selOf x.2 ≤ 0x17 := by
  obtain ⟨_, hcheck, _⟩ := bind_ok _ _ _ h
  have hsel := selOf_of_issueCheck (.inr rfl) hcheck
  intro x hx
  obtain ⟨i, hi, rfl⟩ := List.mem_map.mp hx
  have hi := List.mem_range.mp hi
  exact selOf_add_le a (by omega) (by omega)

/-! ### vst, vscat and the raw store (R199 to R203) -/

/-- The elements of a store's lanes in its format. -/
def State.laneElems (s : State) (f : VFmt) (row : Row) (as : List (Nat × Word)) : List (Nat × FR) :=
  as.map (fun x => (x.1, f.ofLane s.renv x.1 ((lanes f.view row).getD x.1 0)))

/-- The bits that a lane stores. -/
def laneBits (rs : List (Nat × FR)) (i : Nat) : Nat := ((rs.find? (fun x => x.1 == i)).map (fun x => x.2.bits)).getD 0

theorem storeLanes_ok {s t : State} {f : VFmt} {row : Row} {as : List (Nat × Word)} {whole : Bool} {q : State × List (Nat × Word × Place)}
    (hroom : s.room (granuleCount (as.filter (fun x => longPath x.2))) = true) (hhold : s.holdLanes f.size true as = .ok ())
    (hplaces : s.placeLanes as = .ok q) (hput : q.1.putLanes f.size (laneBits (s.laneElems f row as)) q.2 = .ok t) :
    let w := (if whole then t.clearCovered f.size (q.2.map (fun x => x.2.2)) else t).postF (orFlags ((s.laneElems f row as).map (fun x => x.2.flags)))
    s.storeLanes f row as whole = .ok (if f.counts then w.count else w) := by
  unfold State.storeLanes
  simp only [hroom, hhold, hplaces, await_true, ok_bind]
  exact congrArg (· >>= _) hput

section
variable {s t : State} {v b o : BitVec 6} {row : Row} {m : Mask} {base : Word} {q : State × List (Nat × Word × Place)}
  (hv : s.rdV v = .ok row) (hm : s.rdMask = .ok m) (hb : s.rdS b = .ok base)
include hv hm hb

theorem storeV_stores {x : MIdx} {off : Word} (hx : s.mdisp x = .ok off) (f : VFmt) :
    let a := base + off
    let as := laneAddrs (actives f.view m) (fun i => a + BitVec.ofNat 64 (i * f.size))
    s.issueCheck .vst a f.size = .ok () → s.checkLanes .vst f.size as = .ok () →
      storeV s v b x f = finish s (s.storeLanes f row as true >>= fun t => pure (t.baseUpd (midxExt x).u b a)) := by
  intro a as hcheck hlanes
  unfold storeV
  simp only [hv, hm, hb, hx, both_ok, ok_bind, a, as, hcheck, hlanes]

theorem execVscat_stores {x : VIdx} {ro : Row} (ho : s.rdV o = .ok ro) :
    let a := base + vidxDisp x
    let f := vfmtOf x.x.fmt
    let as := laneAddrs (actives 36 m) (fun i => a + BitVec.ofInt 64 (decI 36 (laneAt 36 ro i)))
    s.checkLanes .vst f.size as = .ok () →
      execVscat v b o x s = finish s (s.storeLanes f row as false >>= fun t => pure (t.baseUpd x.x.u b a)) := by
  intro a f as hlanes
  unfold execVscat
  have hoff (i : Nat) : laneOff ro i = BitVec.ofInt 64 (decI 36 (laneAt 36 ro i)) := rfl
  simp only [hv, hm, hb, ho, both_ok, ok_bind, hoff, a, f, as, hlanes]

end

theorem execVst_stores {s t : State} {v b : BitVec 6} {x : MIdx} {row : Row} {base off : Word} {q : State × List (Nat × Word × Place)}
    (hv : s.rdV v = .ok row) (hb : s.rdS b = .ok base) (hx : s.mdisp x = .ok off) (hcheck : s.rawCheck .rawSt (base + off) = .ok ())
    (hroom : s.room (if longPath (base + off) then granuleCount (rawUnits (base + off)) else 0) = true)
    (hhold : s.holdLanes 8 true (rawUnits (base + off)) = .ok ()) (hplaces : s.placeLanes (rawUnits (base + off)) = .ok q)
    (hput : q.1.putLanes 8 (fun i => laneAt 64 row i) q.2 = .ok t) :
    execVst v b x s = .next ((t.clearCovered 8 (q.2.map (fun x => x.2.2))).baseUpd (midxExt x).u b (base + off)) := by
  unfold execVst
  simp only [hv, hb, hx, both_ok, ok_bind, hcheck, hroom, hhold, hplaces, await_true]
  rw [show q.1.putLanes 8 (fun i => row.toNat / 2 ^ (64 * i) % 2 ^ 64) q.2 = .ok t from hput, ok_bind, finish_pure]

end Sys2Proof.Machine

section
open Sys2Proof Sys2Proof.Machine

/-- Settles O39: a store of lanes places, converts and writes them, and no path of a vector store leads to control space. -/
theorem vectorStoresWriteTheirLanes : Obligations.VectorStoresWriteTheirLanes := by
  unfold Obligations.VectorStoresWriteTheirLanes
  refine ⟨fun s t v b row m base q hv hm hb => ?lanes, fun s t v b x row base off q hv hb hx => ?raw⟩
  case lanes =>
    intro rs flags ready done
    have hdone {i : Instr} {f : VFmt} {as : List (Nat × Word)} {u whole : Bool} {a : Word}
        (hexec : s.checkLanes .vst f.size as = .ok () → exec i s = finish s (s.storeLanes f row as whole >>= fun t => pure (t.baseUpd u b a)))
        (hready : ready f as) : done i f as u whole a := by
      obtain ⟨hlanes, hroom, hhold, hplaces, hput⟩ := hready
      refine ⟨?_, fun j hj => memByte_putLanes_out hput (placeLanes_noCtl hplaces (selOf_of_checkLanes (.inl rfl) hlanes)) hj⟩
      rw [hexec hlanes, storeLanes_ok hroom hhold hplaces hput, ok_bind, finish_pure]
      rfl
    have hvst {x : MIdx} {off : Word} (hx : s.mdisp x = .ok off) (f : VFmt) {i : Instr} (hi : exec i s = storeV s v b x f)
        (hcheck : s.issueCheck .vst (base + off) f.size = .ok ()) :=
      hdone (i := i) (fun hlanes => hi.trans (storeV_stores hv hm hb hx f hcheck hlanes))
    refine ⟨fun x off hx => ?_, fun o x ro ho _ _ => hdone (execVscat_stores hv hm hb ho)⟩
    exact List.forall_iff_forall_mem.mp ⟨hvst hx .f32 rfl, hvst hx .f16 rfl, hvst hx .bf16 rfl, hvst hx .i8 rfl, hvst hx .i8n rfl, hvst hx .b18 rfl⟩
  case raw =>
    intro a hcheck hroom hhold hplaces hput
    exact ⟨execVst_stores hv hb hx hcheck hroom hhold hplaces hput,
      fun j hj => memByte_putLanes_out hput (placeLanes_noCtl hplaces (selOf_rawUnits hcheck)) hj⟩

end

/-! ## Child launches -/

namespace Sys2Proof.Machine

/-! ### What notes of the issue leave as it is: the reading of descriptors and of chains -/

/-- A descriptor that passes its checks is what stands at its address (R211). -/
theorem readS_of_readDesc {s u : State} {c : Ctx} {a : Word} {n : Nat} {bs : List Byte} (h : s.readDesc c a n = .ok (u, bs)) :
    s.readS c a n = .ok (u, bs) := by
  unfold State.readDesc at h
  obtain ⟨_, -, h⟩ := bind_ok _ _ _ h
  obtain ⟨_, -, h⟩ := bind_ok _ _ _ h
  obtain ⟨_, -, h⟩ := bind_ok _ _ _ h
  cases hread : s.readS c a n with
  | error f =>
    simp only [hread] at h
    split at h
    · obtain ⟨_, -, h⟩ := bind_ok _ _ _ h
      cases h
    · cases h
  | ok x =>
    simp only [hread] at h
    split at h
    · obtain ⟨_, -, h⟩ := bind_ok _ _ _ h
      cases h
      rfl
    · cases h
      rfl

section
variable (s : State) (i : Iss)

theorem segBytes_noted (b : Nat) (segs : List (Nat × Nat)) : ({ s with iss := i } : State).segBytes b segs = s.segBytes b segs := by
  induction segs with
  | nil => rfl
  | cons x xs ih =>
    unfold State.segBytes
    rw [ih]
    rfl

theorem place_noted (c : Ctx) (a : Word) (wr : Bool) : ({ s with iss := i } : State).place c a wr = s.place c a wr := rfl

theorem readPlace_noted (arr n : Nat) (p : Place) : ({ s with iss := i } : State).readPlace arr p n = s.readPlace arr p n := by
  cases p with
  | span b k lo len base => exact segBytes_noted s i b _
  | _ => rfl

theorem touch_noted (ea : Nat) (wr : Bool) : ({ s with iss := i } : State).touch ea wr = { s.touch ea wr with iss := i } := by
  have hdead : ({ s with iss := i } : State).dead ea = s.dead ea := rfl
  unfold State.touch
  rw [hdead]
  split <;> rfl

theorem touchLeaf_noted (c : Ctx) (e : Option TlbEnt) (wr : Bool) :
    ({ s with iss := i } : State).touchLeaf c e wr = { s.touchLeaf c e wr with iss := i } := by
  cases e with
  | none => rfl
  | some k =>
    have hleaf : ({ s with iss := i } : State).freshLeaf k.cluster c.ptroot (k.page * 2 ^ k.sh)
        = s.freshLeaf k.cluster c.ptroot (k.page * 2 ^ k.sh) := rfl
    unfold State.touchLeaf
    simp only [hleaf, touch_noted]
    split
    · split <;> rfl
    · rfl

theorem cache_noted (e : TlbEnt) : ({ s with iss := i } : State).cache e = { s.cache e with iss := i } := by
  have hcached : ({ s with iss := i } : State).cached e.cluster e.root (e.page * 2 ^ e.sh) = s.cached e.cluster e.root (e.page * 2 ^ e.sh) := rfl
  unfold State.cache
  simp only [hcached]
  split
  · split <;> rfl
  · rfl

theorem touched_noted (c : Ctx) (e : Option TlbEnt) (wr : Bool) :
    ({ s with iss := i } : State).touched c e wr = { s.touched c e wr with iss := i } := by
  cases e with
  | none => rfl
  | some k =>
    unfold State.touched
    simp only [touchLeaf_noted, cache_noted]

theorem readS_noted {u : State} {c : Ctx} {a : Word} {n : Nat} {bs : List Byte} (h : s.readS c a n = .ok (u, bs)) :
    ({ s with iss := i } : State).readS c a n = .ok ({ u with iss := i }, bs) := by
  unfold State.readS at h ⊢
  refine List.foldl_rel (r := fun acc acc' : Except Flt (State × List Byte) => ∀ t b, acc = .ok (t, b) → acc' = .ok ({ t with iss := i }, b))
    (fun t b ht => ?_) (fun k _ acc acc' hacc t b ht => ?_) u bs h
  · cases ht
    rfl
  · split at ht
    · cases ht
    · next v _ =>
      rw [hacc v _ rfl]
      simp only [place_noted, readPlace_noted, touched_noted]
      split at ht
      · cases ht
      · split at ht
        · cases ht
        · next w _ =>
          cases ht
          rfl

theorem readDesc_noted {u : State} {c : Ctx} {a : Word} {n : Nat} {bs : List Byte} (h : s.readDesc c a n = .ok (u, bs)) :
    ({ s with iss := i } : State).readDesc c a n = .ok ({ u with iss := i }, bs) := by
  have hread := readS_of_readDesc h
  unfold State.readDesc at h ⊢
  obtain ⟨_, hpath, h⟩ := bind_ok _ _ _ h
  obtain ⟨_, halign, h⟩ := bind_ok _ _ _ h
  obtain ⟨_, hbounds, h⟩ := bind_ok _ _ _ h
  simp only [hpath, halign, hbounds, ok_bind, place_noted, readS_noted s i hread]
  rcases hplace : s.place c a false with f | ⟨p, e⟩
  · rfl
  · rw [hplace] at h
    obtain ⟨_, hwait, _⟩ := bind_ok _ _ _ h
    exact congrArg (· >>= _) hwait

theorem chainGo_noted (n a : Nat) : ({ s with iss := i } : State).chainGo n a = s.chainGo n a := by
  induction n generalizing a with
  | zero => rfl
  | succ n ih =>
    unfold State.chainGo
    simp only [ih]
    rfl

theorem chain_noted (a : Nat) : ({ s with iss := i } : State).chain a = s.chain a := chainGo_noted s i 8 a

theorem canSpill_noted (a : Nat) : ({ s with iss := i } : State).canSpill a = s.canSpill a := by
  unfold State.canSpill
  rw [chain_noted]
  rfl

end

/-! A slot whose gang has come to it reads as it did before. -/

section
variable {s u : State}

theorem readDesc_gated {x : Word} {n : Nat} {bs : List Byte} (h : s.readDesc s.ctx x n = .ok (u, bs)) :
    (s.gated true).readDesc (s.gated true).ctx x n = .ok (u.gated true, bs) := by
  have hgated : u.gated true = { u with iss := { s.iss with gangOp := true } } := by
    rw [← (walked_readDesc s u s.ctx x n bs h).iss]
    rfl
  rw [hgated]
  exact readDesc_noted s _ h

theorem canSpill_gated (a : Nat) : (s.gated true).canSpill a = s.canSpill a := canSpill_noted s _ a

theorem chain_gated (a : Nat) : (s.gated true).chain a = s.chain a := chain_noted s _ a

end

/-! ### The bytes of a record (R211) -/

theorem length_readS {s u : State} {c : Ctx} {a : Word} {n : Nat} {bs : List Byte} (h : s.readS c a n = .ok (u, bs)) : bs.length = 8 * (n / 8) := by
  unfold State.readS at h
  generalize n / 8 = k at h ⊢
  induction k generalizing u bs with
  | zero =>
    cases h
    rfl
  | succ k ih =>
    rw [List.range_succ, List.foldl_append, List.foldl_cons, List.foldl_nil] at h
    split at h
    · cases h
    · next v hv =>
      split at h
      · cases h
      · split at h
        · cases h
        · next w hread =>
          cases h
          rw [List.length_append, ih hv, length_readPlace _ _ 8 _ _ (Nat.le_refl 8) hread, Nat.mul_succ]

theorem length_readDesc {s u : State} {c : Ctx} {a : Word} {n : Nat} {bs : List Byte} (h : s.readDesc c a n = .ok (u, bs)) :
    bs.length = 8 * (n / 8) := length_readS (readS_of_readDesc h)

/-! ### Budgets and room (R30, R221, R295) -/

/-- Every budget of a record's chain admits it: its cost estimate and its run queue's 32 bytes. -/
def State.withinBudgets (s : State) (rcb cost : Nat) : Prop :=
  ∀ c, s.chain rcb = some c → ∀ k ∈ c, (k.ovr.testBit 1 = true → k.cused + cost ≤ k.cbudget) ∧ (k.ovr.testBit 2 = true → k.mused + 32 ≤ k.mbudget)

theorem withinBudgets_gated {s : State} {rcb cost : Nat} : (s.gated true).withinBudgets rcb cost ↔ s.withinBudgets rcb cost := by
  unfold State.withinBudgets
  rw [chain_gated]

theorem canCharge_iff {b n : Nat} {used budget : Rcb → Nat} {ch : List Rcb} :
    canCharge b used budget n ch = true ↔ ∀ k ∈ ch, k.ovr.testBit b = true → used k + n ≤ budget k := by
  simp only [canCharge, List.all_eq_true, Bool.or_eq_true, Bool.not_eq_true', decide_eq_true_eq, ← Bool.not_eq_true, ← imp_iff_not_or]

theorem budgetOk_iff {s : State} {bs : List Byte} : s.budgetOk bs = true ↔ s.withinBudgets (numAt bs 8 8) (numAt bs 0x28 4) := by
  unfold State.budgetOk State.withinBudgets
  cases hc : s.chain (numAt bs 8 8) with
  | none => simp
  | some ch => simp [canCharge_iff, forall_and]

/-- A pool has room where its header can be read and fewer entries wait than it can hold. -/
theorem fits_poolAt {s : State} {a : Nat} : (s.poolAt a).fits 1 = true
    ↔ s.poolLost a = false ∧ memNat s.mem (a + 0x10) 8 - memNat s.mem (a + 8) 8 < memNat s.mem a 4 := by
  unfold State.poolAt PoolHead.fits
  cases s.poolLost a
  · exact decide_eq_true_iff.trans ⟨fun h => ⟨rfl, h⟩, And.right⟩
  · exact ⟨fun h => absurd (of_decide_eq_true h) (Nat.not_succ_le_zero _), fun h => nomatch h.1⟩

theorem poolLost_iff {s : State} {a : Nat} : s.poolLost a = true ↔ a = 0 ∨ s.poisoned a = true ∨ s.devSize < a + 64 := by
  unfold State.poolLost
  simp only [Bool.or_eq_true, beq_iff_eq, decide_eq_true_eq]
  tauto

theorem poolAt_readable {s : State} {a : Nat} (h : s.poolLost a = false) :
    s.poolAt a = ⟨a, memNat s.mem a 4, memNat s.mem (a + 8) 8, memNat s.mem (a + 0x10) 8, memNat s.mem (a + 0x18) 8⟩ := by
  unfold State.poolAt
  rw [h]
  rfl

/-! ### An entry behind the last one (R295) -/

theorem dead_of_frame {L : List Nat} {s t : State} (h : Frame L s t) (hL : 0x60 ∉ L) (pa : Nat) : t.dead pa = s.dead pa := by
  unfold State.dead State.stackOf
  rw [h.reg _ hL, h.stackMap]

theorem memRead_congr {m n : Memory} {a k : Nat} (h : ∀ j, a ≤ j → j < a + k → memByte m j = memByte n j) : memRead m a k = memRead n a k :=
  List.map_congr_left fun i hi => h _ (by omega) (by have := List.mem_range.mp hi; omega)

/-- Bytes written to lines of stacks that are not lost stand there. -/
theorem memRead_devPut_live (s : State) (pa : Nat) (bs : List Byte) (h : ∀ k, pa ≤ k → k < pa + bs.length → s.dead k = false) :
    memRead (s.devPut pa bs).mem pa bs.length = bs := by
  refine List.ext_getElem (by simp [memRead]) (fun i h1 h2 => ?_)
  simp only [memRead, List.getElem_map, List.getElem_range]
  rw [memByte_devPut_live s pa bs _ h, if_pos (by omega), Nat.add_sub_cancel_left, List.getD_eq_getElem _ _ h2]

theorem memNat_devNat_live (s : State) (pa n v : Nat) (h : ∀ k, pa ≤ k → k < pa + n → s.dead k = false) :
    memNat (s.devNat pa n v).mem pa n = v % 2 ^ (8 * n) := by
  have hread := memRead_devPut_live s pa (leBytes n v) (by rwa [length_leBytes])
  rw [length_leBytes] at hread
  rw [memNat_eq_leNat, State.devNat, hread, leNat_leBytes]

/-- The pool at `a` after entry `e` of 192 bytes has come behind its last one: no other byte of memory has changed. -/
structure Appended (s t : State) (a : Nat) (e : List Byte) : Prop where
  entry : memRead t.mem (a + 64 + 192 * (memNat s.mem (a + 0x10) 8 % memNat s.mem a 4)) 192 = e
  tail : memNat t.mem (a + 0x10) 8 = (memNat s.mem (a + 0x10) 8 + 1) % 2 ^ 64
  other : ∀ j, (j < a + 64 + 192 * (memNat s.mem (a + 0x10) 8 % memNat s.mem a 4)
      ∨ a + 64 + 192 * (memNat s.mem (a + 0x10) 8 % memNat s.mem a 4) + 192 ≤ j) → (j < a + 0x10 ∨ a + 0x18 ≤ j) →
    memByte t.mem j = memByte s.mem j

theorem appended_poolAdd {s : State} {a : Nat} {e : List Byte} (hlost : s.poolLost a = false) (he : e.length = 192) (hcap : 0 < memNat s.mem a 4)
    (hlive : ∀ j, a ≤ j → j < a + 64 + 192 * memNat s.mem a 4 → s.dead j = false) : Appended s (s.poolAdd (s.poolAt a) e) a e := by
  have hmod := Nat.mod_lt (memNat s.mem (a + 0x10) 8) hcap
  have hmem : (s.poolAdd (s.poolAt a) e).mem = ((s.devPut (a + 64 + 192 * (memNat s.mem (a + 0x10) 8 % memNat s.mem a 4)) e).devNat (a + 0x10) 8
      (memNat s.mem (a + 0x10) 8 + 1)).mem := by
    rw [poolAt_readable hlost]
    rfl
  generalize hslot : a + 64 + 192 * (memNat s.mem (a + 0x10) 8 % memNat s.mem a 4) = slot at hmem
  have hput : memRead (s.devPut slot e).mem slot 192 = e := he ▸ memRead_devPut_live s slot e fun k hlo hhi => hlive k (by omega) (by omega)
  refine ⟨?_, ?_, fun j hj htail => ?_⟩ <;> rw [hmem]
  · rw [hslot, ← hput]
    refine memRead_congr fun j hlo _ => ?_
    rw [State.devNat, memByte_devPut_out _ _ _ _ (by rw [length_leBytes]; omega), hput]
  · refine memNat_devNat_live _ _ _ _ fun k hlo hhi => ?_
    rw [dead_of_frame (frame_devPut s slot e) (by simp)]
    exact hlive k (by omega) (by omega)
  · rw [hslot] at hj
    rw [State.devNat, memByte_devPut_out _ _ _ _ (by rw [length_leBytes]; omega), memByte_devPut_out _ _ _ _ (by rw [he]; omega)]

theorem poolEntry_eq {c : Ctx} {rcb : Nat} {bs : List Byte} (h : bs.length = 128) : poolEntry c rcb bs
    = bs ++ leBytes 5 rcb ++ leBytes 6 c.arr ++ leBytes 4 c.task ++ leBytes 1 c.rank ++ (List.range 6).flatMap (fun i => leBytes 8 (c.tl i).done) := by
  unfold poolEntry
  rw [List.take_of_length_le h.le]
  rfl

theorem length_poolEntry {c : Ctx} {rcb : Nat} {bs : List Byte} (h : bs.length = 128) : (poolEntry c rcb bs).length = 192 := by
  simp [poolEntry, h, List.length_flatMap]

theorem take_poolEntry {c : Ctx} {rcb : Nat} {bs : List Byte} (h : bs.length = 128) : (poolEntry c rcb bs).take 128 = bs := by
  simp [poolEntry, h]

/-- The pool of an entry is that of its record's RCB. -/
theorem rcb_poolEntry {c : Ctx} {rcb : Nat} {bs : List Byte} (h : bs.length = 128) : leNat (((poolEntry c rcb bs).drop 8).take 8) = numAt bs 8 8 := by
  have htake : ((poolEntry c rcb bs).drop 8).take 8 = (((poolEntry c rcb bs).take 128).drop 8).take 8 := by
    rw [List.drop_take, List.take_take]
    rfl
  rw [htake, take_poolEntry h]
  rfl

theorem mem_pools_poolAdd (s : State) (p : PoolHead) (e : List Byte) : leNat ((e.drop 8).take 8) ∈ (s.poolAdd p e).pools := by
  unfold State.poolAdd
  simp only
  split
  · next h => exact List.contains_iff_mem.mp h
  · exact List.mem_append_right _ (List.mem_singleton_self _)

end Sys2Proof.Machine
namespace Sys2Proof.Machine

/-! ### What a record comes to (R221, R222, R312) -/

/-- Whether an RCB is none that a launch record may name (R221). -/
def badRcb (rcb : Nat) : Prop := rcb = 0 ∨ rcb / 2 ^ 56 ≠ 0

theorem badRcb_iff {rcb : Nat} : badRcb rcb ↔ rcb = 0 ∨ 2 ^ 56 ≤ rcb := by
  unfold badRcb
  omega

theorem launch?_of_shadowed {s : State} {arr : Nat} (h : s.shadowed arr = true) : ∃ l, s.launch? arr = some l := by
  unfold State.shadowed at h
  split at h
  · next l hl => exact ⟨l, hl⟩
  · cases h

/-- The launch that keeps a record is found with it. -/
theorem launch?_held {s : State} {arr : Nat} {l : Launch} (hl : s.launch? arr = some l) (hs : List (Nat × List Byte × Word)) :
    (s.setLaunch { l with held := hs }).launch? arr = some { l with held := hs } := by
  obtain rfl := arr_of_launch? hl
  exact launch?_setLaunch_same s { l with held := hs } (by rw [hl]; rfl)

section
variable {s u : State} {x : Word} {bs : List Byte} (hdesc : s.readDesc s.ctx x 128 = .ok (u, bs))
include hdesc

theorem doLaunch_badRec (hbad : badRcb (numAt bs 8 8)) : s.doLaunch x false = .ok (u, 2)
    ∧ s.doLaunch x true = .error (.trap { cause := 0x0B, info1 := BitVec.ofNat 64 (numAt bs 8 8) }) := by
  have hplace : u.placeRec s.ctx bs = .badRec := if_pos hbad
  have hheld : ¬ (s.shadowed s.ctx.arr = true ∧ ¬ (numAt bs 8 8 = 0 ∨ numAt bs 8 8 / 2 ^ 56 ≠ 0)) := fun h => h.2 hbad
  unfold State.doLaunch
  simp only [hdesc, ok_bind, if_neg hheld, hplace]
  exact ⟨rfl, rfl⟩

/-- A shadowed launch keeps its record, and launch still counts it as accepted (R312). -/
theorem doLaunch_shadowed (hgood : ¬ badRcb (numAt bs 8 8)) (hsh : s.shadowed s.ctx.arr = true) {l : Launch} (hl : u.launch? s.ctx.arr = some l)
    (wait : Bool) : s.doLaunch x wait
      = .ok (u.setLaunch { l with held := l.held ++ [(if wait then 1 else 0, poolEntry s.ctx l.rcb bs, x)] }, 0) := by
  have hheld : s.shadowed s.ctx.arr = true ∧ ¬ (numAt bs 8 8 = 0 ∨ numAt bs 8 8 / 2 ^ 56 ≠ 0) := ⟨hsh, hgood⟩
  unfold State.doLaunch
  simp only [hdesc, ok_bind, if_pos hheld, hl]
  rfl

variable (hgood : ¬ badRcb (numAt bs 8 8)) (hsh : s.shadowed s.ctx.arr = false)
include hgood hsh

theorem doLaunch_overBudget (h : ¬ u.withinBudgets (numAt bs 8 8) (numAt bs 0x28 4)) (wait : Bool) : s.doLaunch x wait = .ok (u, 3) := by
  have hplace : u.placeRec s.ctx bs = .budget := by
    unfold State.placeRec
    rw [← budgetOk_iff, Bool.not_eq_true] at h
    simp only [h]
    exact if_neg hgood
  unfold State.doLaunch
  simp only [hdesc, ok_bind, hsh, Bool.false_eq_true, false_and, if_false, hplace]
  rfl

variable (hwithin : u.withinBudgets (numAt bs 8 8) (numAt bs 0x28 4))
include hwithin

theorem doLaunch_accepted (hfits : (u.poolAt (u.rcb (numAt bs 8 8)).pool).fits 1 = true) (wait : Bool) :
    s.doLaunch x wait = .ok (u.poolAdd (u.poolAt (u.rcb (numAt bs 8 8)).pool) (poolEntry s.ctx (u.leafOf s.ctx.arr) bs), 0) := by
  have hplace : u.placeRec s.ctx bs = .accepted (u.poolAdd (u.poolAt (u.rcb (numAt bs 8 8)).pool) (poolEntry s.ctx (u.leafOf s.ctx.arr) bs)) := by
    unfold State.placeRec
    simp only [budgetOk_iff.mpr hwithin, hfits, if_true, Bool.not_true, Bool.false_eq_true, if_false]
    exact if_neg hgood
  unfold State.doLaunch
  simp only [hdesc, ok_bind, hsh, Bool.false_eq_true, false_and, if_false, hplace]
  rfl

/-- A full pool: launch's status says so; launcht waits for the spill where there can be one (R222). -/
theorem doLaunch_full (hfull : (u.poolAt (u.rcb (numAt bs 8 8)).pool).fits 1 = false) : s.doLaunch x false = .ok (u, 1)
    ∧ (u.canSpill (numAt bs 8 8) = true → s.doLaunch x true = .error (.hold (.poolSpill (numAt bs 8 8))))
    ∧ (u.canSpill (numAt bs 8 8) = false → s.doLaunch x true = .ok (u, 3)) := by
  have hplace : u.placeRec s.ctx bs = if u.canSpill (numAt bs 8 8) then .full else .overflow := by
    unfold State.placeRec
    simp only [budgetOk_iff.mpr hwithin, hfull, Bool.not_true, Bool.false_eq_true, if_false]
    exact if_neg hgood
  unfold State.doLaunch
  simp only [hdesc, ok_bind, hsh, Bool.false_eq_true, false_and, if_false, hplace]
  cases u.canSpill (numAt bs 8 8)
  · exact ⟨rfl, fun h => absurd h Bool.false_ne_true, fun _ => rfl⟩
  · exact ⟨rfl, fun _ => rfl, fun h => absurd h Bool.false_ne_true.symm⟩

end

/-! ### The results of launch and launcht (R212, R221, R222) -/

/-- What launch and launcht leave as it is, but for what the gang shares and notes of the issue. -/
structure LaunchKeeps (s t : State) : Prop where
  ctx : t.ctx = s.ctx
  parked : t.parked = s.parked
  rows : t.rows = s.rows
  host : t.host = s.host
  peer : t.peer = s.peer
  wbuf : t.wbuf = s.wbuf
  abuf : t.abuf = s.abuf
  sbuf : t.sbuf = s.sbuf
  iss : t.iss = { s.iss with gangOp := true }

theorem Walked.launchKeeps {s u : State} (h : Walked s u) : LaunchKeeps s (u.gated true) :=
  ⟨h.ctx, h.parked, h.rows, h.host, h.peer, h.wbuf, h.abuf, h.sbuf, congrArg (fun i : Iss => { i with gangOp := true }) h.iss⟩

namespace LaunchKeeps
variable {s t : State}

theorem setLaunch (h : LaunchKeeps s t) (l : Launch) : LaunchKeeps s (t.setLaunch l) :=
  ⟨h.ctx, h.parked, h.rows, h.host, h.peer, h.wbuf, h.abuf, h.sbuf, h.iss⟩

theorem share (h : LaunchKeeps s t) (k : Nat) (w : Word) : LaunchKeeps s (t.share k w) := by
  unfold State.share
  split
  · exact ⟨h.ctx, h.parked, h.rows, h.host, h.peer, h.wbuf, h.abuf, h.sbuf, h.iss⟩
  · exact h

theorem poolAdd (h : LaunchKeeps s t) (p : PoolHead) (e : List Byte) : LaunchKeeps s (t.poolAdd p e) := by
  have hpush : Frame [] t (t.poolPush p e) := (frame_devPut _ _ _).trans (frame_devNat _ _ _ _)
  have hb := hpush.begun
  exact ⟨hb.ctx.trans h.ctx, hpush.parked.trans h.parked, hb.rows.trans h.rows, hb.host.trans h.host, hb.peer.trans h.peer, hb.wbuf.trans h.wbuf,
    hb.abuf.trans h.abuf, hb.sbuf.trans h.sbuf, hb.iss.trans h.iss⟩

end LaunchKeeps

theorem mem_share (s : State) (k : Nat) (w : Word) : (s.share k w).mem = s.mem := by
  unfold State.share
  split <;> rfl

theorem pools_share (s : State) (k : Nat) (w : Word) : (s.share k w).pools = s.pools := by
  unfold State.share
  split <;> rfl

theorem launch?_share (s : State) (k : Nat) (w : Word) (arr : Nat) : (s.share k w).launch? arr = s.launch? arr := by
  unfold State.share
  split <;> rfl

/-- The state in which launch has left its status w for d, with a pool trap at its step where w is 3. -/
def State.statusLeft (t : State) (d : BitVec 5) (x w : Word) : State :=
  let p := t.pend ⟨0, d.toNat⟩ (t.ctx.latOf 17) (w.zeroExtend 4608) allRow 0
  t.post (if w = 3 then { p with pool := some x } else p)

/-- The state after launcht, with its pool trap where w is 3. -/
def State.launchtLeft (t : State) (x w : Word) : State := if w = 3 then t.complTrap { cause := 0x14, addr := x } else t

/-- What launch and launcht leave of a state where they end: the context and its mates, the Z rows, every memory but the device's, and no trap and no
hold of the slot's own. -/
def LaunchLeaves (s t : State) : Prop :=
  t.ctx = s.ctx ∧ t.parked = s.parked ∧ t.rows = s.rows ∧ t.host = s.host ∧ t.peer = s.peer ∧ t.wbuf = s.wbuf ∧ t.abuf = s.abuf ∧ t.sbuf = s.sbuf
    ∧ t.iss.traps = s.iss.traps ∧ t.iss.hold = s.iss.hold

/-- A status w for d. -/
def StatusGiven (s : State) (d : BitVec 5) (w : Word) (t : State) : Prop := t.iss.out = (s.postS d.toNat (s.ctx.latOf 17) w).iss.out

/-- A pool trap at the step at which d would have its status (R221). -/
def PoolTrapLate (s : State) (d : BitVec 5) (x : Word) (t : State) : Prop :=
  ∃ p, t.iss.out = s.iss.out ++ [(s.iss.ord, p)] ∧ p.dest = ⟨0, d.toNat⟩ ∧ p.rem = s.ctx.latOf 17 ∧ p.pool = some x

/-- A pool trap at the boundary after the bundle (R222). -/
def PoolTrapNext (s : State) (x : Word) (t : State) : Prop :=
  t.iss.out = s.iss.out
    ∧ t.iss.compl = s.iss.compl ++ [{ cause := 0x14, addr := x, ordn := s.iss.ord, inRegion := !s.ctx.regions.isEmpty }]

section
variable {s t : State} (h : LaunchKeeps s t)
include h

theorem LaunchKeeps.noted (i : Iss) (htraps : i.traps = s.iss.traps) (hhold : i.hold = s.iss.hold) : LaunchLeaves s { t with iss := i } :=
  ⟨h.ctx, h.parked, h.rows, h.host, h.peer, h.wbuf, h.abuf, h.sbuf, htraps, hhold⟩

theorem LaunchKeeps.statusLeft (d : BitVec 5) (x w : Word) : LaunchLeaves s (t.statusLeft d x w) :=
  h.noted _ (congrArg Iss.traps h.iss :) (congrArg Iss.hold h.iss :)

theorem LaunchKeeps.launchtLeft (x w : Word) : LaunchLeaves s (t.launchtLeft x w) := by
  unfold State.launchtLeft
  split
  · exact h.noted _ (congrArg Iss.traps h.iss :) (congrArg Iss.hold h.iss :)
  · exact h.noted t.iss (congrArg Iss.traps h.iss :) (congrArg Iss.hold h.iss :)

theorem statusGiven_statusLeft (d : BitVec 5) (x : Word) {w : Word} (hw : w ≠ 3) : StatusGiven s d w (t.statusLeft d x w) := by
  unfold StatusGiven State.statusLeft State.postS
  simp only [if_neg hw, post_out, State.pend, h.ctx, h.iss]

theorem poolTrapLate_statusLeft (d : BitVec 5) (x : Word) : PoolTrapLate s d x (t.statusLeft d x 3) := by
  unfold PoolTrapLate State.statusLeft
  simp only [if_true, post_out, State.pend, h.ctx, h.iss]
  exact ⟨_, rfl, rfl, rfl, rfl⟩

theorem out_launchtLeft (x w : Word) : (t.launchtLeft x w).iss.out = s.iss.out := by
  unfold State.launchtLeft
  split <;> exact (congrArg Iss.out h.iss :)

theorem poolTrapNext_launchtLeft (x : Word) : PoolTrapNext s x (t.launchtLeft x 3) := by
  refine ⟨out_launchtLeft h x 3, ?_⟩
  unfold State.launchtLeft
  simp only [if_true, State.complTrap, h.ctx, h.iss]

end

theorem mem_launchtLeft (t : State) (x w : Word) : (t.launchtLeft x w).mem = t.mem := by
  unfold State.launchtLeft
  split <;> rfl

theorem pools_launchtLeft (t : State) (x w : Word) : (t.launchtLeft x w).pools = t.pools := by
  unfold State.launchtLeft
  split <;> rfl

theorem launch?_launchtLeft (t : State) (x w : Word) (arr : Nat) : (t.launchtLeft x w).launch? arr = t.launch? arr := by
  unfold State.launchtLeft
  split <;> rfl

/-- How a slot of the lead ends whose record has come to state v: beside notes of the issue and what the gang shares, in v. -/
structure LaunchEnds (s v t : State) : Prop where
  leaves : LaunchLeaves s t
  mem : t.mem = v.mem
  pools : t.pools = v.pools
  launch : ∀ arr, t.launch? arr = v.launch? arr

section
variable {s v : State} (h : LaunchKeeps s v)
include h

theorem LaunchKeeps.ends_launch (d : BitVec 5) (x w : Word) : LaunchEnds s v ((v.share 0 w).statusLeft d x w) :=
  ⟨(h.share 0 w).statusLeft d x w, mem_share v 0 w, pools_share v 0 w, launch?_share v 0 w⟩

theorem LaunchKeeps.ends_launcht (x w : Word) : LaunchEnds s v ((v.share 0 w).launchtLeft x w) :=
  ⟨(h.share 0 w).launchtLeft x w, (mem_launchtLeft _ x w).trans (mem_share v 0 w), (pools_launchtLeft _ x w).trans (pools_share v 0 w),
    fun arr => (launch?_launchtLeft _ x w arr).trans (launch?_share v 0 w arr)⟩

end

/-! ### The slots -/

section
variable {s v g : State} {d : BitVec 5} {a : BitVec 6} {x w : Word} (hinh : s.ctx.inh = false) (hx : s.rdS a = .ok x) (htcvt : s.tcvtOut = false)
  (hg : s.gangGate = .ok g)
include hinh hx htcvt hg

section
variable (hlead : s.isLead = false)
include hlead

/-- The other ranks of a gang receive the lead's status (R212). -/
theorem launch_follower (hd : s.dstS d.toNat = .ok ()) (h3 : s.sharedWord 0 ≠ 3) :
    ∃ t, exec (.launch d a) s = .next t ∧ StatusGiven s d (s.sharedWord 0) t ∧ LaunchLeaves s t ∧ t.mem = s.mem := by
  have hkeeps := (Walked.refl s).launchKeeps
  have hgate := gangGate_ok hg .gate
  refine ⟨(s.gated true).statusLeft d x (s.sharedWord 0), ?_, statusGiven_statusLeft hkeeps d x h3, hkeeps.statusLeft d x _, rfl⟩
  show execLaunch d a s = _
  unfold execLaunch
  simp only [hinh, hx, hd, htcvt, hgate, hlead, both_ok, Bool.not_false, need_true, await_true, ok_bind, Bool.false_eq_true, if_false]
  rfl

theorem launcht_follower : ∃ t, exec (.launcht a) s = .next t ∧ t.iss.out = s.iss.out ∧ LaunchLeaves s t ∧ t.mem = s.mem := by
  have hkeeps := (Walked.refl s).launchKeeps
  have hgate := gangGate_ok hg .gate
  refine ⟨(s.gated true).launchtLeft x (s.sharedWord 0), ?_, out_launchtLeft hkeeps x _, hkeeps.launchtLeft x _, mem_launchtLeft _ x _⟩
  show execLauncht a s = _
  unfold execLauncht
  simp only [hinh, hx, htcvt, hgate, hlead, Bool.not_false, need_true, await_true, ok_bind, Bool.false_eq_true, if_false]
  rfl

end

variable (hlead : s.isLead = true)
include hlead

/-- launcht of the lead is what its record comes to. -/
theorem exec_launcht_lead : exec (.launcht a) s
    = finish s ((s.gated true).doLaunch x true >>= fun q => pure ((q.1.share 0 q.2).launchtLeft x q.2)) := by
  have hgate := gangGate_ok hg .gate
  show execLauncht a s = _
  unfold execLauncht
  simp only [hinh, hx, htcvt, hgate, hlead, Bool.not_false, need_true, await_true, ok_bind, if_true]
  rcases (s.gated true).doLaunch x true with e | q <;> rfl

theorem launcht_stops {e : Stop} (hdo : (s.gated true).doLaunch x true = .error e) : exec (.launcht a) s = finish s (.error e) := by
  rw [exec_launcht_lead hinh hx htcvt hg hlead, hdo]
  rfl

theorem launcht_ends (hdo : (s.gated true).doLaunch x true = .ok (v, w)) :
    exec (.launcht a) s = .next ((v.share 0 w).launchtLeft x w) := by
  rw [exec_launcht_lead hinh hx htcvt hg hlead, hdo]
  rfl

theorem launcht_goesOn (hv : LaunchKeeps s v) (hdo : (s.gated true).doLaunch x true = .ok (v, w)) :
    ∃ t, exec (.launcht a) s = .next t ∧ t.iss.out = s.iss.out ∧ LaunchEnds s v t :=
  ⟨_, launcht_ends hinh hx htcvt hg hlead hdo, out_launchtLeft (hv.share 0 w) x w, hv.ends_launcht x w⟩

theorem launcht_traps (hv : LaunchKeeps s v) (hdo : (s.gated true).doLaunch x true = .ok (v, 3)) :
    ∃ t, exec (.launcht a) s = .next t ∧ PoolTrapNext s x t ∧ LaunchEnds s v t :=
  ⟨_, launcht_ends hinh hx htcvt hg hlead hdo, poolTrapNext_launchtLeft (hv.share 0 3) x, hv.ends_launcht x 3⟩

variable (hd : s.dstS d.toNat = .ok ()) (hv : LaunchKeeps s v)
include hd hv

theorem launch_ends (hdo : (s.gated true).doLaunch x false = .ok (v, w)) :
    exec (.launch d a) s = .next ((v.share 0 w).statusLeft d x w) := by
  have hgate := gangGate_ok hg .gate
  have hlat : (v.share 0 w).ctx.latOf 17 = s.ctx.latOf 17 := by rw [(hv.share 0 w).ctx]
  show execLaunch d a s = _
  unfold execLaunch
  simp only [hinh, hx, hd, htcvt, hgate, hlead, hdo, both_ok, Bool.not_false, need_true, await_true, ok_bind, if_true, ← hlat]
  rfl

theorem launch_gives (hw : w ≠ 3) (hdo : (s.gated true).doLaunch x false = .ok (v, w)) :
    ∃ t, exec (.launch d a) s = .next t ∧ StatusGiven s d w t ∧ LaunchEnds s v t :=
  ⟨_, launch_ends hinh hx htcvt hg hlead hd hv hdo, statusGiven_statusLeft (hv.share 0 w) d x hw, hv.ends_launch d x w⟩

theorem launch_traps (hdo : (s.gated true).doLaunch x false = .ok (v, 3)) :
    ∃ t, exec (.launch d a) s = .next t ∧ PoolTrapLate s d x t ∧ LaunchEnds s v t :=
  ⟨_, launch_ends hinh hx htcvt hg hlead hd hv hdo, poolTrapLate_statusLeft (hv.share 0 3) d x, hv.ends_launch d x 3⟩

end

/-! ### The lead's record, case by case -/

section
variable {s u g : State} {d : BitVec 5} {a : BitVec 6} {x : Word} {bs : List Byte} (hinh : s.ctx.inh = false) (hx : s.rdS a = .ok x)
  (htcvt : s.tcvtOut = false) (hg : s.gangGate = .ok g) (hlead : s.isLead = true) (hd : s.dstS d.toNat = .ok ())
  (hdesc : s.readDesc s.ctx x 128 = .ok (u, bs))
include hinh hx htcvt hg hlead hd hdesc

theorem launch_badRec (hbad : badRcb (numAt bs 8 8)) :
    (∃ t, exec (.launch d a) s = .next t ∧ StatusGiven s d 2 t ∧ LaunchLeaves s t ∧ t.mem = u.mem)
      ∧ exec (.launcht a) s = .next (trapped s { cause := 0x0B, info1 := BitVec.ofNat 64 (numAt bs 8 8) }) := by
  have hv := (walked_readDesc s u s.ctx x 128 bs hdesc).launchKeeps
  obtain ⟨hfree, hwait⟩ := doLaunch_badRec (s := s.gated true) (readDesc_gated hdesc) hbad
  obtain ⟨t, hexec, hgives, hends⟩ := launch_gives hinh hx htcvt hg hlead hd hv (by decide) hfree
  exact ⟨⟨t, hexec, hgives, hends.leaves, hends.mem⟩, launcht_stops hinh hx htcvt hg hlead hwait⟩

variable (hgood : ¬ badRcb (numAt bs 8 8))
include hgood

theorem launch_shadowed (hsh : s.shadowed s.ctx.arr = true) :
    let keeps (k : Nat) (t : State) : Prop :=
      ∀ l, s.launch? s.ctx.arr = some l → ∃ e, t.launch? s.ctx.arr = some { l with held := l.held ++ [(k, e, x)] } ∧ e.take 128 = bs
    (∃ t, exec (.launch d a) s = .next t ∧ StatusGiven s d 0 t ∧ LaunchLeaves s t ∧ t.mem = u.mem ∧ keeps 0 t)
      ∧ ∃ t, exec (.launcht a) s = .next t ∧ t.iss.out = s.iss.out ∧ LaunchLeaves s t ∧ t.mem = u.mem ∧ keeps 1 t := by
  intro keeps
  have hwalked := walked_readDesc s u s.ctx x 128 bs hdesc
  obtain ⟨l, hl⟩ := launch?_of_shadowed hsh
  have hlu : (u.gated true).launch? s.ctx.arr = some l := (launch?_of_launches (congrArg State.launches hwalked.rest :) _).trans hl
  have hdo := doLaunch_shadowed (s := s.gated true) (readDesc_gated hdesc) hgood hsh hlu
  have hv (k : Nat) := hwalked.launchKeeps.setLaunch { l with held := l.held ++ [(k, poolEntry s.ctx l.rcb bs, x)] }
  have hkept {k : Nat} {t : State} (hends : LaunchEnds s ((u.gated true).setLaunch { l with held := l.held ++ [(k, poolEntry s.ctx l.rcb bs, x)] }) t) :
      keeps k t := by
    intro m hm
    cases hl.symm.trans hm
    exact ⟨_, (hends.launch _).trans (launch?_held hlu _), take_poolEntry (length_readDesc hdesc)⟩
  obtain ⟨t, hexec, hgives, hends⟩ := launch_gives hinh hx htcvt hg hlead hd (hv 0) (by decide) (hdo false)
  obtain ⟨t', hexec', hout, hends'⟩ := launcht_goesOn hinh hx htcvt hg hlead (hv 1) (hdo true)
  exact ⟨⟨t, hexec, hgives, hends.leaves, hends.mem, hkept hends⟩, t', hexec', hout, hends'.leaves, hends'.mem, hkept hends'⟩

variable (hsh : s.shadowed s.ctx.arr = false)
include hsh

theorem launch_overBudget (hover : ¬ u.withinBudgets (numAt bs 8 8) (numAt bs 0x28 4)) :
    (∃ t, exec (.launch d a) s = .next t ∧ PoolTrapLate s d x t ∧ LaunchLeaves s t ∧ t.mem = u.mem)
      ∧ ∃ t, exec (.launcht a) s = .next t ∧ PoolTrapNext s x t ∧ LaunchLeaves s t ∧ t.mem = u.mem := by
  have hv := (walked_readDesc s u s.ctx x 128 bs hdesc).launchKeeps
  have hdo := doLaunch_overBudget (s := s.gated true) (readDesc_gated hdesc) hgood hsh (mt withinBudgets_gated.mp hover)
  obtain ⟨t, hexec, hlate, hends⟩ := launch_traps hinh hx htcvt hg hlead hd hv (hdo false)
  obtain ⟨t', hexec', htrap, hends'⟩ := launcht_traps hinh hx htcvt hg hlead hv (hdo true)
  exact ⟨⟨t, hexec, hlate, hends.leaves, hends.mem⟩, t', hexec', htrap, hends'.leaves, hends'.mem⟩

variable (hwithin : u.withinBudgets (numAt bs 8 8) (numAt bs 0x28 4))
include hwithin

theorem launch_accepted {pool : Nat} (hpool : pool = (u.rcb (numAt bs 8 8)).pool) (hlost : u.poolLost pool = false)
    (hroom : memNat u.mem (pool + 0x10) 8 - memNat u.mem (pool + 8) 8 < memNat u.mem pool 4)
    (hlive : ∀ j, pool ≤ j → j < pool + 64 + 192 * memNat u.mem pool 4 → u.dead j = false) :
    let placed (t : State) : Prop := LaunchLeaves s t ∧ numAt bs 8 8 ∈ t.pools ∧ Appended u t pool (poolEntry s.ctx (u.leafOf s.ctx.arr) bs)
    (∃ t, exec (.launch d a) s = .next t ∧ StatusGiven s d 0 t ∧ placed t)
      ∧ ∃ t, exec (.launcht a) s = .next t ∧ t.iss.out = s.iss.out ∧ placed t := by
  intro placed
  subst hpool
  have hlen : bs.length = 128 := length_readDesc hdesc
  have hv := ((walked_readDesc s u s.ctx x 128 bs hdesc).launchKeeps).poolAdd ((u.gated true).poolAt (u.rcb (numAt bs 8 8)).pool)
    (poolEntry s.ctx (u.leafOf s.ctx.arr) bs)
  have hdo := doLaunch_accepted (s := s.gated true) (readDesc_gated hdesc) hgood hsh (withinBudgets_gated.mpr hwithin) (fits_poolAt.mpr ⟨hlost, hroom⟩)
  have happ := appended_poolAdd (s := u.gated true) hlost (length_poolEntry (c := s.ctx) (rcb := u.leafOf s.ctx.arr) hlen) (Nat.zero_lt_of_lt hroom) hlive
  have hplaced {t : State} (hends : LaunchEnds s ((u.gated true).poolAdd ((u.gated true).poolAt (u.rcb (numAt bs 8 8)).pool)
      (poolEntry s.ctx (u.leafOf s.ctx.arr) bs)) t) : placed t := by
    refine ⟨hends.leaves, ?_, hends.mem ▸ happ.entry, hends.mem ▸ happ.tail, hends.mem ▸ happ.other⟩
    rw [hends.pools, ← rcb_poolEntry hlen]
    exact mem_pools_poolAdd _ _ _
  obtain ⟨t, hexec, hgives, hends⟩ := launch_gives hinh hx htcvt hg hlead hd hv (by decide) (hdo false)
  obtain ⟨t', hexec', hout, hends'⟩ := launcht_goesOn hinh hx htcvt hg hlead hv (hdo true)
  exact ⟨⟨t, hexec, hgives, hplaced hends⟩, t', hexec', hout, hplaced hends'⟩

theorem launch_full (hfull : (u.poolAt (u.rcb (numAt bs 8 8)).pool).fits 1 = false) :
    (∃ t, exec (.launch d a) s = .next t ∧ StatusGiven s d 1 t ∧ LaunchLeaves s t ∧ t.mem = u.mem)
      ∧ (u.canSpill (numAt bs 8 8) = true → exec (.launcht a) s = .next (held s (.poolSpill (numAt bs 8 8))))
      ∧ (u.canSpill (numAt bs 8 8) = false → ∃ t, exec (.launcht a) s = .next t ∧ PoolTrapNext s x t ∧ LaunchLeaves s t ∧ t.mem = u.mem) := by
  have hv := (walked_readDesc s u s.ctx x 128 bs hdesc).launchKeeps
  have hspill := canSpill_gated (s := u) (numAt bs 8 8)
  obtain ⟨hstatus, hwait, hnone⟩ := doLaunch_full (s := s.gated true) (readDesc_gated hdesc) hgood hsh (withinBudgets_gated.mpr hwithin) hfull
  obtain ⟨t, hexec, hgives, hends⟩ := launch_gives hinh hx htcvt hg hlead hd hv (by decide) hstatus
  refine ⟨⟨t, hexec, hgives, hends.leaves, hends.mem⟩, fun hcan => launcht_stops hinh hx htcvt hg hlead (hwait (hspill.trans hcan)), fun hcan => ?_⟩
  obtain ⟨t', hexec', htrap, hends'⟩ := launcht_traps hinh hx htcvt hg hlead hv (hnone (hspill.trans hcan))
  exact ⟨t', hexec', htrap, hends'.leaves, hends'.mem⟩

end

end Sys2Proof.Machine
section
open Sys2Proof Sys2Proof.Machine

/-- Settles O45: the record read, its RCB, its chain's budgets and its pool's room decide in this order what it comes to. -/
theorem launchInstructions : Obligations.LaunchInstructions := by
  unfold Obligations.LaunchInstructions
  intro s u d a x bs hinh hx hd htcvt hgate rcb gives others poolTrap poolLate
  obtain ⟨g, hg⟩ := hgate
  refine ⟨fun hlead h3 => ⟨launch_follower hinh hx htcvt hg hlead hd h3, launcht_follower hinh hx htcvt hg hlead⟩, fun hlead hdesc => ?_⟩
  have hgood (h0 : rcb ≠ 0) (h56 : rcb < 2 ^ 56) : ¬ badRcb rcb := mt badRcb_iff.mp (by omega)
  refine ⟨(walked_readDesc s u s.ctx x 128 bs hdesc).mem, fun hbad => launch_badRec hinh hx htcvt hg hlead hd hdesc (badRcb_iff.mpr hbad),
    fun h0 h56 hsh => launch_shadowed hinh hx htcvt hg hlead hd hdesc (hgood h0 h56) hsh, fun h0 h56 hsh => ?_⟩
  intro r within cap tail waiting slot entry placed
  refine ⟨fun hwithin h0pool hpoison hsize hroom hlive => ?accepted,
    fun hover => launch_overBudget hinh hx htcvt hg hlead hd hdesc (hgood h0 h56) hsh hover, fun hwithin hfull => ?full⟩
  case accepted =>
    have hlost : u.poolLost r.pool = false := by
      rw [← Bool.not_eq_true, poolLost_iff, hpoison]
      simp only [h0pool, Bool.false_eq_true, false_or]
      omega
    have hplaced {t : State} (h : LaunchLeaves s t ∧ rcb ∈ t.pools ∧ Appended u t r.pool (poolEntry s.ctx (u.leafOf s.ctx.arr) bs)) : placed t := by
      obtain ⟨hleaves, hpools, hentry, htail, hother⟩ := h
      rw [poolEntry_eq (length_readDesc hdesc)] at hentry
      exact ⟨hleaves, hpools, hentry, htail, hother⟩
    obtain ⟨⟨t, hexec, hgives, ht⟩, t', hexec', hout, ht'⟩ :=
      launch_accepted hinh hx htcvt hg hlead hd hdesc (hgood h0 h56) hsh hwithin rfl hlost hroom hlive
    exact ⟨⟨t, hexec, hgives, hplaced ht⟩, t', hexec', hout, hplaced ht'⟩
  case full =>
    refine launch_full hinh hx htcvt hg hlead hd hdesc (hgood h0 h56) hsh hwithin ?_
    rw [← Bool.not_eq_true, fits_poolAt, ← Bool.not_eq_true, poolLost_iff, not_and_or, Decidable.not_not, Nat.not_lt, or_assoc, or_assoc]
    exact hfull

end
